-- ==== Sys2Proof/Word.lean ====
section
/-! DEFINITION. The word types of the module (00, Conventions) and the identifiers of its units
(00, table "Identifiers used throughout"): plain data, one name for each kind of thing. -/

namespace Sys2Proof

/-- A byte. -/
abbrev Byte := BitVec 8

/-- A 32-bit register of the setup window (16, R356). -/
abbrev W32 := BitVec 32

/-- A 64-bit word of a command, a descriptor or a record. -/
abbrev Word := BitVec 64

/-- A partition PT0 to PT31. -/
abbrev Pt := Fin 32

/-- A Fretur port F0 to F15. -/
abbrev Port := Fin 16

/-- An HBM stack S0 to S11. -/
abbrev Stk := Fin 12

/-- A compute die C0 to C5. -/
abbrev Die := Fin 6

/-- A clock domain, numbered as in 07, table "Clock domains". -/
abbrev Dom := Fin 18

/-- A cluster of the module: 11 × die + logical cluster. -/
abbrev Clu := Fin 66

/-- A ring number 0 to 255. -/
abbrev RingNo := Fin 256

/-- A timebase count: 64 bits (01, R13), kept as a natural number below 2^64. -/
abbrev Count := Nat

/-- A core: compute die, logical cluster, core (00, "Identifiers"). -/
structure CoreId where
  die : Die
  clu : Fin 11
  core : Fin 8
  deriving DecidableEq, Repr

/-- Number of a core in logical order: 88 × d + 8 × c + k (16, the core counter blocks). -/
def CoreId.ix (c : CoreId) : Nat := 88 * c.die.val + 8 * c.clu.val + c.core.val

/-- Number of the core's cluster in the module: 11 × d + c (06, R147, CLUSTER_MASK). -/
def CoreId.cluIx (c : CoreId) : Nat := 11 * c.die.val + c.clu.val

/-- The five queues of a core, coded as QUEUE (04, R105, R107; 13, R293). -/
inductive Queue where
  | m0 | m1 | v | x | seq
  deriving DecidableEq, Repr

/-- The units that run engine commands: each matrix engine has a compute and a load unit (02, R49). -/
inductive EngUnit where
  | m0c | m0l | m1c | m1l | v | x
  deriving DecidableEq, Repr

/-- The four host links (12, R262). -/
inductive Link where
  | h0a | h0b | h1a | h1b
  deriving DecidableEq, Repr

/-- A PCIe function: link and number, 0 the physical function (12, R263, R267). -/
structure Func where
  link : Link
  fn : Fin 17
  deriving DecidableEq, Repr

/-- Who makes an access to the setup or doorbell window (16, R353): the management tree or a host function. -/
inductive Caller where
  | tree
  | host (f : Func)
  deriving DecidableEq, Repr

/-- A management path (13, "The management interface"; 14, R320): MA, MB, or PCIe VDM of a physical function. -/
inductive MgmtPath where
  | ma | mb | vdm (l : Link) | doe (l : Link)
  deriving DecidableEq, Repr

/-- What an error-correcting code reports of one read (05, R117, R130). -/
inductive Ecc where
  | clean | corrected | uncorrectable
  deriving DecidableEq, Repr

/-- A store of the module: a core store or a cluster store (05). -/
inductive StoreId where
  | core (c : CoreId)
  | cluster (k : Clu)
  deriving DecidableEq, Repr

/-- What became of a read of host memory: its bytes, or a host-link error (12, R272, R277; 05, R141). -/
inductive HostRead where
  | data (bytes : List Byte)
  | error
  deriving DecidableEq, Repr

/-- How the input of the converter left its range (15, R332; R333 for the fuse; R349 beyond the ratings). -/
inductive InputEvent where
  /-- below 300 V, a drop to 0 V longer than the capacitance carries, or a blown fuse -/
  | below300
  /-- the ride-through from 300 V to 360 V is past -/
  | lowRideThrough
  /-- the ride-through from 420 V to 440 V is past -/
  | highRideThrough
  /-- above 440 V for 100 µs -/
  | above440
  /-- above 450 V: beyond the absolute maximum ratings -/
  | aboveAbsoluteMax
  deriving DecidableEq, Repr

/-- The store word that an engine's read found in error, when it found one (05, R117). -/
structure EccAt where
  ecc : Ecc
  addr : Nat
  deriving DecidableEq, Repr

end Sys2Proof
end

