-- ==== Sys2Proof/Syntax.lean ====
section
/-! DEFINITION. The commands of the module: one constructor of `Instr` for each row of spec/opcode_table.json, with the
row's operands. An operand is what the outside gives the step: an address, a value, bytes read from a host or a peer, a
measured quantity, the count at which a count-driven event happens. -/

namespace Sys2Proof

/-- Fields of an ordered set that name its sender (08, R187). -/
structure OsSender where
  domain : BitVec 2
  devid : BitVec 13
  port : BitVec 4
  deriving DecidableEq, Repr

/-- Body of an ACK (08, R188). `nack` lists the sequences whose NACK bit is set. -/
structure AckBody where
  cumAck : Nat
  nackBase : Nat
  rxUnits : Nat
  cret : List Nat
  nack : List Nat
  deriving DecidableEq, Repr

/-- Body of a RESET_REQ or RESET_ACK (08, R187). -/
structure ResetBody where
  allowNarrow : Bool
  laneBase : BitVec 3
  reqNo : BitVec 8
  full : Bool
  width : BitVec 2
  rate : BitVec 2
  deriving DecidableEq, Repr

/-- Body of a RESUME (08, R187, R203). -/
structure ResumeBody where
  cumAck : Nat
  seqOldest : Nat
  seqTx : Nat
  cret : List Nat
  deriving DecidableEq, Repr

/-- Body of an AUDIT (08, R187, R206). -/
structure AuditBody where
  seqOldest : Nat
  seqTx : Nat
  seqNext : Nat
  cspent : List Nat
  deriving DecidableEq, Repr

/-- Body of a JOB_STOP (08, R187). -/
structure JobStopBody where
  key : BitVec 20
  domain : BitVec 2
  origin : BitVec 13
  reason : BitVec 8
  stopTime : Nat
  deriving DecidableEq, Repr

/-- Type of a loose packet (09, loose packet header). -/
inductive LooseType where
  | data | set | delivered | credit
  deriving DecidableEq, Repr

/-- A loose packet: its header (09, table "Loose packet header"), the key, role tag and congestion mark of its flit, and its data. -/
structure LoosePkt where
  key : BitVec 20
  role : BitVec 16
  cm : Bool
  dstDomain : BitVec 2
  dstDevid : BitVec 13
  srcDomain : BitVec 2
  srcDevid : BitVec 13
  dst : CoreId
  src : CoreId
  typ : LooseType
  last : Bool
  echo : Bool
  msgId : Nat
  pktIndex : Nat
  pktCount : Nat
  slot : Fin 64
  flag : Fin 64
  dfen : Bool
  len : Nat
  bytes : List Byte
  deriving DecidableEq, Repr

/-- A hardware error in the logic that keeps a ledger (13, R298): the ledger of R296, with the port, partition or die whose count it keeps. -/
structure LedgerErr where
  ledger : Fin 11
  port : Port
  part : Pt
  die : Fin 6
  deriving DecidableEq, Repr

/-- One 256-byte unit as it arrives (08, R184, R185). -/
structure RawUnit where
  /-- symbols received in error in each codeword that it spans -/
  symbolErrors : List Nat
  controlBits : BitVec 8
  bytes : List Byte
  deriving DecidableEq, Repr

/-- A datagram on an Ethernet-mode port (09, table "Datagram on an Ethernet-mode port"). -/
structure EthDatagram where
  frameOk : Bool
  dstMac : BitVec 48
  srcMac : BitVec 48
  dstIp : BitVec 128
  srcIp : BitVec 128
  udpPort : BitVec 16
  magic : BitVec 16
  version : BitVec 4
  units : Nat
  srcDomain : BitVec 2
  srcDevid : BitVec 13
  unitCnt : Nat
  ce : Bool
  payload : List RawUnit
  deriving DecidableEq, Repr

/-- What a reset phase found (08, R202): the lanes that trained entirely at both ends. -/
structure PhaseReport where
  trainedLanes : BitVec 8
  deriving DecidableEq, Repr

/-- Cycles of a region at one operating point for which its droop detector saw one rail voltage, in microvolts (07, R173). -/
structure Sag where
  point : Fin 5
  railUv : Nat
  cycles : Nat
  deriving DecidableEq, Repr

/-- What the droop detector of a region saw in a trim window (07, R173-R175; 01, R25). -/
structure StretchReport where
  sags : List Sag
  deriving DecidableEq, Repr

/-- A message's way through one crossing between compute regions (07, R176-R178): the crossing, the cycles for which a re-centring holds its first
write, and by how many thousandths of an entry the pointer distance moves up to each of its valid writes. -/
structure Passage where
  crossing : Fin 26
  recentring : Nat
  drift : List Int
  deriving DecidableEq, Repr

/-- A write into an asynchronous crossing (07, R179): the entries that the consumer has read since the write before, and, for a full one, the
picoseconds until its next read. -/
structure FifoWrite where
  reads : Nat
  gap : Nat
  deriving DecidableEq, Repr

/-- A message's way through one asynchronous crossing, by a number of the model's own (07, R179). -/
structure FifoPassage where
  fifo : Fin 256
  writes : List FifoWrite
  deriving DecidableEq, Repr

/-- A queue in which traffic has waited (05, R142): a mesh router's on a compute die, a die-to-die edge's, a stack's channel's, the gallery limiter's by
direction. -/
inductive QueueWait where
  | router (die : Fin 6)
  | dieQueue (edge : Fin 13)
  | channel (s : Stk)
  | limiter (toHost : Bool)
  deriving DecidableEq, Repr

/-- The way of something that passes from one core or memory to another: its crossings between compute regions, its asynchronous crossings, the
link-layer retries on the die-to-die edges of its way, and the queues in which it waited (05, R142; 07, R177-R179; 13, R299, R300). -/
structure Way where
  crossings : List Passage
  fifos : List FifoPassage
  retries : List (Fin 13 × Nat)
  waits : List QueueWait
  deriving DecidableEq, Repr

/-- The next command of a core's stream as its sequencer reads it: `ecc` is what the code finds in its 32 bytes, `hbm` what it finds in the region where the
command reads there (04, R87, R113; 05, R117, R130). -/
structure IssueRead where
  core : CoreId
  ecc : List EccAt
  hbm : List EccAt := []
  deriving DecidableEq, Repr

/-- Headframe controller E1 when it is tried: whether it boots, and the straps that it then reads (14, R312; 15, R345). -/
structure E1Boot where
  boots : Bool
  geo : BitVec 3
  deriving DecidableEq, Repr

/-- A lamp audit: its count, and the hardware errors that the ledgers' own logic shows by then (07, R171; 13, R298). -/
structure AuditCount where
  t : Count
  errs : List LedgerErr
  deriving DecidableEq, Repr

/-- A request of a core's decoupling queue that ends, by its place, with what the code finds in the sectors it reads, and its way (05, R130; 07, R177). -/
structure RequestEnd where
  ix : Nat
  ecc : List EccAt
  way : Way
  deriving DecidableEq, Repr

/-- A descriptor that reads a region, by its tag, with what the code finds there (05, R130; 12, R276). -/
structure DescRead where
  tag : BitVec 16
  ecc : List EccAt
  deriving DecidableEq, Repr

/-- Bytes of a write through the CXL.mem window, with what the code finds in the sectors that it covers in part (05, R129, R130; 12, R265). -/
structure SpanWrite where
  bytes : List Byte
  ecc : List EccAt
  deriving DecidableEq, Repr

/-- JOB_TOPO of a canvas that the tree arms, with what the code finds in its image (05, R130; 13, R309). -/
structure TopoRead where
  topo : W32
  ecc : List EccAt
  deriving DecidableEq, Repr

/-- A half-batch whose boundary comes, with what the code finds in the output records that are read at it (05, R130; 11, R250). -/
structure HalfRead where
  half : Fin 2
  ecc : List EccAt
  deriving DecidableEq, Repr

/-- A sequence slot whose pages have been copied, with what the code finds in them (05, R130; 11, R256). -/
structure SlotRead where
  slot : Nat
  ecc : List EccAt
  deriving DecidableEq, Repr

/-- A host's access to a doorbell page: the offset in the page, the width in bytes, and the value written (12, R270; 16, R356). -/
structure Doorbell where
  off : Nat
  bytes : Nat
  value : Word
  deriving DecidableEq, Repr

/-- A die's hottest sensor (15, R351). -/
structure DieReading where
  die : Fin 8
  celsius : Nat
  deriving DecidableEq, Repr

/-- Length of a read through the CXL.mem window, with what the code finds there (05, R130; 12, R265). -/
structure SpanRead where
  len : Nat
  ecc : List EccAt
  deriving DecidableEq, Repr

/-- What a host sets in a link's configuration (12, R262, R263): virtual functions, the largest payload as 128 × 2^`payload` bytes and the largest read request
as 128 × 2^`readReq`. -/
structure HostConfig where
  vfs : Nat
  payload : Fin 3
  readReq : Fin 6
  deriving DecidableEq, Repr

/-- A message, SET or credit that reaches its core: its place on the mesh, and its way (04, R104; 07, R177). -/
structure MeshArrival where
  ix : Nat
  way : Way
  deriving DecidableEq, Repr

/-- The module's commands, one constructor for each row of the table. -/
inductive Instr where
  -- Power, start-up, resets (14, 15)
  | coldReset
  | standbyLoss
  | mainBusReturn (vbus : BitVec 10)
  | mainBusLoss
  | converterStop (e : InputEvent) (vbus : BitVec 10)
  | hvilOpen
  | prechargeBypassClose (vbus : BitVec 10)
  | dieTrip (r : DieReading)
  | startupStepComplete (geo : BitVec 3)
  | startupStepLimit (part : BitVec 7) (selfTest : Bool) (e1 : E1Boot)
  | moduleReset (seq : W32)
  | perstAssert (l : Link)
  | perstRelease (l : Link)
  | flr (f : Func)
  | vfEnableClear (f : Func)
  | hostLinkDown (l : Link)
  | headframeTakeover
  | platformEventRepeat (acked : List Nat)
  | accumulatorSave
  -- Timebase (01, 08, 15)
  | tbRefLoss
  | tbSyncEdge (heldNs : Nat)
  | tbSyncPulse (t : Count)
  | tbSyncArm (v : W32)
  | tbMasterSet (v : W32)
  | timeMarkSend (t : Count)
  | timeMark (p : Port) (txTime16 : Nat) (arrival16 : BitVec 4) (locked : Bool) (stratum : BitVec 8) (master : BitVec 13)
  | timebaseUnlock
  | timingPortFailover
  -- Beats, audits, operating points, holds and starts (01, 07, 10)
  | beatEdge (pt : Pt) (t : Count)
  | lampAudit (a : AuditCount)
  | opAnnounce (seq : W32) (target : BitVec 3) (count : Count)
  | railRaiseStart (t : Count)
  | opChangeCount (t : Count)
  | railSlewDone (t : Count)
  | hold (seq : W32) (pt : Pt) (count : Count)
  | holdEntry (pt : Pt)
  | release (seq : W32) (pt : Pt) (count : Count)
  | releaseCount (pt : Pt) (t : Count)
  | gateOpen (seq : W32) (pt : Pt) (count : Count)
  | startCount (pt : Pt) (t : Count)
  | startAbort (seq : W32) (pt : Pt)
  | gateTimeout (pt : Pt) (t : Count)
  | headStart (c : CoreId)
  | portTableSwitch (p : Port) (pt : Pt)
  -- Commands of a core's stream, issued by its sequencer (04)
  | mpass (r : IssueRead)
  | wload (r : IssueRead)
  | add (r : IssueRead)
  | sub (r : IssueRead)
  | mul (r : IssueRead)
  | fma (r : IssueRead)
  | div (r : IssueRead)
  | sqrt (r : IssueRead)
  | min (r : IssueRead)
  | max (r : IssueRead)
  | neg (r : IssueRead)
  | abs (r : IssueRead)
  | conv (r : IssueRead)
  | rsum (r : IssueRead)
  | rmax (r : IssueRead)
  | exp2 (r : IssueRead)
  | vcomb (r : IssueRead)
  | move (r : IssueRead)
  | split (r : IssueRead)
  | gather (r : IssueRead)
  | scatter (r : IssueRead)
  | fetch (r : IssueRead)
  | store (r : IssueRead)
  | send (r : IssueRead)
  | recvAcquire (r : IssueRead)
  | recvRelease (r : IssueRead)
  | set (r : IssueRead)
  | wait (r : IssueRead)
  | loop (r : IssueRead)
  | endloop (r : IssueRead)
  | pset (r : IssueRead)
  | sset (r : IssueRead)
  | beat (r : IssueRead)
  | pace (r : IssueRead)
  | handover (r : IssueRead)
  -- Engines (02, 03, 04, 07)
  | engineCommandStart (c : CoreId) (q : Queue) (ecc : List EccAt)
  | engineCommandComplete (c : CoreId) (u : EngUnit)
  | waitTimeout (c : CoreId) (q : Queue)
  -- Mesh and memory arrivals (04, 05)
  | meshMessage (a : MeshArrival)
  | meshSetDelivery (a : MeshArrival)
  | slotCreditReturn (a : MeshArrival)
  | fetchLanded (c : CoreId) (a : MeshArrival) (hostBytes : List Byte) (ecc : List EccAt)
  | storeWritten (c : CoreId) (w : RequestEnd)
  | scrubRead (store : StoreId) (word : Nat) (ecc : Ecc)
  -- HBM refresh and the gallery (05)
  | refreshWindowOpen (s : Stk) (t : Count) (scrub : List EccAt)
  | refreshWindowClose (s : Stk) (t : Count)
  | stackThermalRead (s : Stk) (celsius : Nat)
  | emergencyRefreshEnd (s : Stk) (t : Count)
  | galleryExpiry (pt : Pt) (ix : Fin 4096) (t : Count)
  | galleryReclaimNotice (pt : Pt) (ix : Fin 4096)
  | galleryHostError (c : CoreId) (i : Nat)
  -- Fretur link (08)
  | unitReceived (p : Port) (u : RawUnit)
  | unitBoundary (p : Port)
  | tailingsReadDone (p : Port) (ecc : Ecc)
  | ack (p : Port) (b : AckBody)
  | delayReq (p : Port) (t1 : Nat) (came : Count) (came16 : BitVec 4)
  | delayRsp (p : Port) (t1 t2 t3 t4 : Nat)
  | resetReq (p : Port) (from_ : OsSender) (b : ResetBody)
  | resetAck (p : Port) (from_ : OsSender) (b : ResetBody)
  | train (p : Port) (from_ : OsSender) (phase : BitVec 3)
  | resume (p : Port) (b : ResumeBody)
  | audit (p : Port) (b : AuditBody)
  | auditSend (t : Count)
  | jobStop (p : Port) (b : JobStopBody)
  | ackTimeout (p : Port)
  | resetReqRepeat (p : Port)
  | resetAckTimeout (p : Port)
  | resetPhaseDone (p : Port) (r : PhaseReport)
  | portFailure (p : Port)
  | portEnable (p : Port) (v : W32)
  | portDisable (p : Port) (v : W32)
  | resetGo (p : Port) (v : W32)
  | ethDatagram (p : Port) (d : EthDatagram)
  | ethLinkLoss (p : Port)
  -- Fabric and loose class (09)
  | looseData (p : Port) (k : LoosePkt)
  | looseSet (p : Port) (k : LoosePkt)
  | delivered (p : Port) (k : LoosePkt)
  | credit (p : Port) (k : LoosePkt)
  | looseTimeout (i : Nat)
  | limiterIntervalEdge (t : Count)
  | limiterTokenGain (t : Count)
  | transitSwitch (p : Port)
  -- Weights (10)
  | wtTable (pt : Pt) (r : DescRead)
  | wtLoad (pt : Pt) (tag : BitVec 16)
  | wtLoadGallery (pt : Pt) (tag : BitVec 16) (r : HostRead)
  | wtDrift (pt : Pt) (tag : BitVec 16)
  | wtDriftStart (pt : Pt) (tag : BitVec 16)
  | repaint (pt : Pt) (tag : BitVec 16)
  | repaintBarrierClear (pt : Pt)
  | barrierTimeout (pt : Pt)
  -- Steward (11)
  | halfStepBoundary (pt : Pt) (h : HalfRead)
  | pauseTtlExpiry (pt : Pt) (slot : Nat)
  | galleryMoveDone (pt : Pt) (r : SlotRead)
  | slotGalExpiry (pt : Pt) (slot : Nat)
  | galleryReturnDone (pt : Pt) (slot : Nat) (r : HostRead)
  | srvAdmit (pt : Pt) (tag : BitVec 16)
  | srvAppendPrompt (pt : Pt) (tag : BitVec 16)
  | srvAppendDraft (pt : Pt) (tag : BitVec 16)
  | srvDeadline (pt : Pt) (tag : BitVec 16)
  | srvPause (pt : Pt) (tag : BitVec 16)
  | srvResume (pt : Pt) (tag : BitVec 16)
  | srvCancel (pt : Pt) (tag : BitVec 16)
  | srvQuery (pt : Pt) (tag : BitVec 16)
  -- Rings (12)
  | sqTail (f : Caller) (q : RingNo) (d : Doorbell)
  | cqHead (f : Caller) (q : RingNo) (d : Doorbell)
  | descriptorFetch (pt : Pt) (r : HostRead)
  | completionRecordWrite (q : RingNo)
  | msixInterrupt (q : RingNo)
  | hbmWrite (pt : Pt) (r : DescRead)
  | hbmRead (pt : Pt) (r : DescRead)
  | canvasLoad (pt : Pt) (tag : BitVec 16)
  | canvasHeaderReadDone (pt : Pt) (r : HostRead)
  | partitionZeroingDone (pt : Pt)
  | canvasImageReadDone (pt : Pt) (r : HostRead)
  | canvasStage (pt : Pt) (r : DescRead)
  | canvasArm (pt : Pt) (r : DescRead)
  | partCtlStart (pt : Pt) (tag : BitVec 16)
  | partCtlHold (pt : Pt) (tag : BitVec 16)
  | partCtlRelease (pt : Pt) (tag : BitVec 16)
  | partCtlReset (pt : Pt) (tag : BitVec 16)
  | galReg (pt : Pt) (tag : BitVec 16)
  | galRenew (pt : Pt) (tag : BitVec 16)
  | galDereg (pt : Pt) (tag : BitVec 16)
  | nop (pt : Pt) (tag : BitVec 16)
  | cxlMemWrite (l : Link) (pt : Pt) (addr : Nat) (w : SpanWrite)
  | cxlMemRead (l : Link) (pt : Pt) (addr : Nat) (span : SpanRead)
  | ringEnable (f : Caller) (q : RingNo) (submission : Bool) (v : W32)
  | ringDisable (f : Caller) (q : RingNo) (submission : Bool) (v : W32)
  -- Faults, canary scores, counters, management (13)
  | faultRecordClear (f : Caller) (pt : Pt)
  | jobStopCommand (seq : W32) (key : BitVec 20) (reason : BitVec 8)
  | canaryDecay (t : Count)
  | canaryScoreUpdate (t : Count)
  | canaryAck (seq : W32) (n : Fin 67)
  | eventSelectWrite (off : Nat) (v : W32)
  | snapArm (v : W32)
  | snapshotCount (t : Count)
  | snapshot (seq : W32) (count : Count)
  | catalogue (seq : W32) (first : BitVec 12) (n : Nat)
  | regWrite (seq : W32) (off : Nat) (bytes : Nat) (v : Word)
  | regRead (seq : W32) (off : Nat) (bytes : Nat)
  | treeCanvasArm (seq : W32) (pt : Pt) (addr : Nat) (jobModules : BitVec 16) (topo : TopoRead)
  -- Clocks (07)
  | clockLoss (d : Dom) (die : Fin 8)
  | jitterWindow (d : Dom) (periods : List (Fin 32 × Nat))
  | dutyWindow (d : Dom) (duty : BitVec 8)
  | histClr (d : Dom) (v : W32)
  | regionUndervoltage (die : Die) (regionB : Bool)
  | oscTrimWindow (die : Die) (regionB : Bool) (r : StretchReport)
  | crossingRecentre (x : Nat)
  -- Firmware and attestation (14)
  | queryDeviceIdentifiers (m : MgmtPath)
  | getFirmwareParameters (m : MgmtPath)
  | requestUpdate (m : MgmtPath) (maxTransfer : Nat)
  | passComponentTable (m : MgmtPath) (comps : List Nat)
  | updateComponent (m : MgmtPath) (comp : Nat) (imageSize : Nat)
  | firmwareHeaderBlock (bytes : List Byte)
  | firmwareBlock (bytes : List Byte)
  | activateFirmware (m : MgmtPath)
  | getStatus (m : MgmtPath)
  | cancelUpdateComponent (m : MgmtPath)
  | cancelUpdate (m : MgmtPath)
  | fwConfirm (m : MgmtPath) (mask : BitVec 5)
  | fwRevert (m : MgmtPath) (mask : BitVec 5)
  | bootGoodMiss (comp : Nat)
  | getVersion (m : MgmtPath)
  | getCapabilities (m : MgmtPath)
  | negotiateAlgorithms (m : MgmtPath)
  | getDigests (m : MgmtPath)
  | getCertificate (m : MgmtPath) (offset length : Nat)
  | challenge (m : MgmtPath) (nonce : List Byte)
  | getMeasurements (m : MgmtPath) (index : Nat) (nonce : List Byte)
  -- Register writes with their own rows (16), and the rows added last
  | idDevWrite (v : W32)
  | ptSlackClr (f : Caller) (pt : Pt)
  | setupErrClr (f : Caller) (pt : Option Pt)
  | loStageWrite (off : Nat) (v : W32)
  | registerWrite (f : Caller) (off : Nat) (bytes : Nat) (v : Word)
  | unitLockLoss (p : Port)
  | tbRefReturn
  | hvilClose
  | hostLinkTrained (l : Link) (rate : Fin 6) (width : Fin 5) (cxl : Bool) (cfg : HostConfig)
  | clusterStart (k : Clu)
  deriving DecidableEq, Repr

end Sys2Proof
end

