-- ==== Sys2Proof/Decode.lean ====
section
/-! DEFINITION. The commands that words spell. The opcode table gives no row any bits (each row's list of fields is empty),
so no word spells a command. The words of a core's stream are decoded in Machine/Operands.lean (04, R89, R90), the bytes of
units, descriptors and canvases where they are taken. -/

namespace Sys2Proof

/-- The command that a word spells by the table's bits: none, since the table gives no row any bits. -/
def decodeTableWord (_nbits _w : Nat) : Option Instr := none

end Sys2Proof
end

