-- ==== Sys2Proof/Config.lean ====
section
/-! DEFINITION. What an implementation of the module fixes and the manual does not state: free values. Each is an opaque
constant without a body, so no proof can see a value of it. -/

namespace Sys2Proof.Config

/-- Which of its two neighbours EXP2 gives when 2^A is no number of the format: false the lower one, true the upper one.
The manual says only "faithfully rounded, with the same bits for the same input on every module" (04, R95). Argument: the bits of A. DESIGN CHOICE
(log 7), safe: a free value. -/
opaque exp2Up : BitVec 64 → Bool

/-- Whether tininess is judged before rounding: IEEE 754-2019 leaves it to the implementation and the manual does not say (03, R73,
R363). DESIGN CHOICE (log 7), safe: a free value. -/
opaque tinyBeforeRounding : Bool

/-- Result of an INT32 vector operation (VOPC, operands) whose exact result is no number of the INT32 range, or does not exist: the manual
states none (04, R95). DESIGN CHOICE (log 7), safe: a free value. -/
opaque int32Result : Nat → Int → Int → Int → BitVec 32

/-- Contents of a weight bank set that nothing has loaded since a reset, a handover or a re-arm (02, R50; 13, R295): byte
`i` of the bank set under the mark `n`, where a fresh mark is taken at each of those moments. Free value (log 7). -/
opaque bankByte : Nat → Nat → BitVec 8

/-- Contents of an accumulator set after a re-arm (13, R295): word `i` of the set under the mark `n`. Free value (log 7). -/
opaque accWord : Nat → Nat → BitVec 32

/-- Low byte of the catalogue code of the counted event numbered `n` in its group (13, R306): the catalogue itself is not
printed in the manual. Free value (log 7). -/
opaque eventLow : Nat → BitVec 8

/-- Whether a signature of the kind (0 ECDSA P-384, 1 ML-DSA-87) over the header bytes verifies under Broar's key pair `k`
(14, R324): the keys are not in the manual. Free value (log 7). -/
opaque verifies : Nat → Nat → List (BitVec 8) → List (BitVec 8) → Bool

/-- Payload of an SPDM answer whose contents SPDM 1.3 and the device's own keys fix (14, R330): request code and request
parameters give the bytes. Free value (log 7). -/
opaque spdmBytes : Nat → List Nat → List (BitVec 8)

/-- Catalogue entry of an event code (13, R306): name, block and unit as bytes. Free value (log 7). -/
opaque catalogueEntry : BitVec 12 → List (BitVec 8)

/-- Payload of a PLDM answer that names the device's fixed identity (14, R320). Free value (log 7). -/
opaque pldmBytes : Nat → List (BitVec 8)

/-- How many commands the sequencer has read ahead into its local queue at a moment (mark): the manual bounds it by 32 and by the commands
left of the stream (04, R87, R88), and no rule says when a command is read. Free value (log 7). -/
opaque localDepth : Nat → Nat

/-- A command that a store changed while the sequencer could have read it ahead (by mark) was read after the change: the manual bounds the reading
ahead by 32 commands, and no rule says when a command is read (04, R87). Free value (log 7). -/
opaque readsLate : Nat → Bool

/-- What a pass reads from a bank set that was loaded in another layout than the pass declares (02, R50; 03, R76): entry `i` for the loaded
format and shape, the declared format and the tile; the manual gives the layout of a bank's 16-bit entries for matching formats only.
Free value (log 7). -/
opaque bankEntry : Nat → Bool → Nat → List (BitVec 8) → Nat → BitVec 16

/-- EXP of the exponent entry of a block that holds a NaN or an infinity: the manual states none (03, R77, R78). Free value (log 7). -/
opaque nonfiniteExp : BitVec 12

/-- Byte `i` of the test pattern of a TRAIN ordered set (08, R187): the manual does not give it. Free value (log 7). -/
opaque trainPattern : Nat → BitVec 8

/-- Retry allowance of a shaft in ns, a figure of the canvas for which its image has no field (01, "What slack absorbs"; 06, R146): port, ingress entry, job key, generation.
Free value (log 78). -/
opaque retryAllowance : Nat → Nat → Nat → Nat → Nat

/-- What a host's read returns for byte `i` of a partition's region when it lies in a poisoned sector: the manual states no data for it
(05, R130; 12, R265, R276). Free value (log 7). -/
opaque poisonByte : Nat → BitVec 8

/-- The settings area that a headframe image of settings format `n` makes from the stored settings (14, R326): the manual gives no format. Free
value (log 7). -/
opaque convertSettings : Nat → List (BitVec 8) → List (BitVec 8)

/-- Whether an edge of the die grid joins a compute die at its region B: the manual names the edges by dies only (07, R176; 13, R299, R300). Arguments: the die,
the edge. Free value (log 7). -/
opaque edgeRegion : Nat → Nat → Bool

/-- RECORDED or COUNTED of a ledger whose own logic failed (13, R298): no rule states it. Free value (log 85). -/
opaque ledgerWord : Nat → BitVec 64

/-- Input voltage in units of 0.5 V, taken modulo 720, after the main bus has failed: below the operating range, and the command that reports the loss brings
no figure (00, R7; 15, R332). Free value (log 87). -/
opaque lostBus : Nat → Nat

/-- PWR_STAT.PIN while the converter runs: a measured value that no command brings (15, R337). Free value (log 87). -/
opaque inputPower : Nat → BitVec 16

end Sys2Proof.Config
end

