-- ==== Sys2Proof/Machine/Table.lean ====
section
/-! DEFINITION. Sparse tables: a list of (key, value) pairs with strictly rising keys. `Tab.get` gives a default for an
unlisted key. `Tab.put` lists the value; `Tab.write` keeps the form in which no listed value equals the default, so that
equal contents are equal lists (the form of every byte memory). -/

namespace Sys2Proof.Machine

/-- A sparse table from natural numbers. -/
abbrev Tab (α : Type) := List (Nat × α)

/-- The value listed at a key, if any. -/
def Tab.find {α : Type} : Tab α → Nat → Option α
  | [], _ => none
  | (k, v) :: m, a => if a = k then some v else Tab.find m a

/-- The value at a key, `d` where none is listed. -/
def Tab.get {α : Type} (d : α) (m : Tab α) (a : Nat) : α := (Tab.find m a).getD d

/-- Take a key out. -/
def Tab.erase {α : Type} : Tab α → Nat → Tab α
  | [], _ => []
  | (k, v) :: m, a => if a = k then m else (k, v) :: Tab.erase m a

/-- List a value at a key, in key order. -/
def Tab.put {α : Type} : Tab α → Nat → α → Tab α
  | [], a, x => [(a, x)]
  | (k, v) :: m, a, x =>
    if a < k then (a, x) :: (k, v) :: m else if a = k then (a, x) :: m else (k, v) :: Tab.put m a x

/-- Write a value, listing it only when it differs from the default. -/
def Tab.write {α : Type} [DecidableEq α] (d : α) (m : Tab α) (a : Nat) (x : α) : Tab α :=
  if x = d then Tab.erase m a else Tab.put m a x

/-- The keys rise strictly from above `lo`. -/
def Tab.rising {α : Type} : Option Nat → Tab α → Bool
  | _, [] => true
  | none, (k, _) :: m => Tab.rising (some k) m
  | some l, (k, _) :: m => decide (l < k) && Tab.rising (some k) m

/-- The canonical form: rising keys, no listed default. -/
def Tab.wf {α : Type} [DecidableEq α] (d : α) (m : Tab α) : Bool :=
  Tab.rising none m && m.all (fun e => decide (e.2 ≠ d))

/-- Take out every key that `p` names. -/
def Tab.clear {α : Type} (m : Tab α) (p : Nat → Bool) : Tab α := m.filter (fun e => !p e.1)

end Sys2Proof.Machine
end

