-- ==== Sys2Proof/Machine/State.lean ====
section
/-! DEFINITION. The module's state as plain data: every register, queue, buffer, counter, mode and pin the manual gives it,
and the queue of waiting commands. Registers whose fields software writes are kept in `State.regs` under their setup-window
offset (16); fields that report live state are kept in the structures below. -/

namespace Sys2Proof.Machine

/-! ### Commands, queues and engines (02, 03, 04) -/

/-- A 32-byte command of a stream (04, R89). -/
structure Cmd where
  w0 : Word
  w1 : Word
  w2 : Word
  w3 : Word
  deriving DecidableEq, Repr

/-- A command in an engine queue: its stream index, its generation, its words, and the addresses marked (IXA) and (IXB)
after the addition of R91 (04). -/
structure QCmd where
  idx : Nat
  gen : Nat
  cmd : Cmd
  a : Int
  b : Int
  /-- number of its issue on its core, and the region cycle of it (02, R53, R61) -/
  seq : Nat
  cyc : Nat
  /-- order clock of its issue, in assay mode (06, R155) -/
  vc : Tab Nat
  deriving DecidableEq, Repr

/-- An accumulator set: 256 words of 32 bits row by row, its type (true INT32), and ACC_OVF (02, R52). `undef` is the mark of
undefined contents after a re-arm (13, R295); words not listed are then free. -/
structure AccSet where
  words : Tab W32
  int32 : Bool
  ovf : Bool
  undef : Option Nat
  deriving DecidableEq, Repr

/-- A pass in the cubes of an engine (02, R41-R43, R56, R60): the step of its chain that is its step 0; the operand lines, each with its scale line, that
the stagger registers or the pre-skewed path still hold, by line number; the partial sums on their way through the grid, by 4 × row block + output slice, 64
words row by row; and how many of its row blocks have entered their sets. -/
structure PassRun where
  q : QCmd
  start : Nat
  lines : Tab (List Byte)
  sums : Tab (List W32)
  done : Nat
  deriving DecidableEq, Repr

/-- A command a unit is running: its lamps, the region cycle of its start and, for anything but a pass, its length in cycles (07, R163; 02, R48). -/
structure Running where
  q : QCmd
  lamps : Nat
  startCyc : Nat
  cycles : Nat
  /-- accumulator sets a vector command still reads, in order, 64 × engine + set, each with the region cycle at which its read is done, none for a read
  that has not begun (02, R53, R54) -/
  reads : List (Nat × Option Nat)
  /-- region cycle at which its last read that has begun is done -/
  readAt : Nat
  /-- a vector command that began before the last of its sets was written: its effect is still owed, and these sets it has read (02, R53) -/
  owed : Bool
  got : Tab AccSet
  /-- the passes of a chain that still have sets to write, oldest first (02, R42, R61) -/
  passes : List PassRun
  /-- steps of the chain that have begun, and the region cycle at which the last of them ends -/
  step : Nat
  stepAt : Nat
  /-- for a pre-skewed pass that has read its line N − 1: the first line of a pass that joins it, and the region cycle of that step, before which
  that one must have been dispatched (02, R61) -/
  chain : Option (Int × Nat)
  deriving DecidableEq, Repr

/-- A shape descriptor (04, R93). -/
structure Shape where
  ext0 : Nat
  ext1 : Nat
  ext2 : Nat
  ext3 : Nat
  stride1 : Int
  stride2 : Int
  stride3 : Int
  deriving DecidableEq, Repr

/-- A landing-slot entry (04, R103). -/
structure SlotDef where
  valid : Bool
  base : Nat
  size : Nat
  role : Nat
  timeout : Nat
  deriving DecidableEq, Repr

/-- Where the message of a slot came from, and so where its credit returns (04, R105; 09, R217). -/
inductive MsgSrc where
  | mesh (c : CoreId)
  | remote (domain devid : Nat) (c : CoreId) (shaft : Bool)
  deriving DecidableEq, Repr

/-- A loose message being put together in a slot (09, R219). -/
structure Reasm where
  domain : Nat
  devid : Nat
  src : CoreId
  msgId : Nat
  pktCount : Nat
  got : List Nat
  marked : Bool
  bytes : Nat
  deriving DecidableEq, Repr

/-- Where a slot's one credit is (13, R296, ledger 3): full, or at its source, or in flight. -/
structure SlotSt where
  full : Bool
  creditHome : Bool
  src : Option MsgSrc
  reasm : Option Reasm
  deriving DecidableEq, Repr

/-- A slot at its load value: empty, its source holds the credit (04, R103). -/
def SlotSt.load : SlotSt := { full := false, creditHome := true, src := none, reasm := none }

/-- A stall of a queue: when it began, the beat edges counted since, and the limit in beats (04, R108). `item` is the flag
number, or slot number + 0x800 (13, R288). -/
structure Stall where
  since : Count
  edges : Nat
  limit : Nat
  item : Nat
  /-- N of a WAIT, 0 for any other stall -/
  need : Nat
  /-- what kind of command stalls: 0 WAIT, 1 ACQUIRE or a read of an empty slot, 2 a SEND that waits for the credit of its destination's slot -/
  kind : Nat
  /-- a wait cycle through it has been reported (06, R156) -/
  seen : Bool := false
  deriving DecidableEq, Repr

/-- An open loop: stream index of the first body command, and the runs left (04, R109). -/
structure LoopFrame where
  body : Nat
  left : Nat
  deriving DecidableEq, Repr

/-- A request in a core's memory decoupling queue (04, R101, R102): byte addresses of the store side and of the memory side
in order (`none`: the byte belongs to an unused page entry), and for a STORE the bytes taken at its start. -/
structure MemReq where
  gen : Nat
  store : Bool
  gallery : Bool
  handle : Nat
  flag : Nat
  stAddr : List Nat
  memAddr : List (Option Nat)
  data : List Byte
  issuedAt : Count
  /-- nanoseconds by which an emergency refresh outside a window delayed it (05, R132, R133) -/
  refreshNs : Nat
  /-- stream offset of its command (06, R159) -/
  cmd : Nat
  /-- order clock of its start, in assay mode (06, R155) -/
  vc : Tab Nat
  deriving DecidableEq, Repr

/-- A landing-list descriptor (09, core shaft table). -/
structure LandDesc where
  slot : Nat
  flag : Nat
  dfen : Bool
  len : Nat
  srcDomain : Nat
  srcDevid : Nat
  src : CoreId
  deriving DecidableEq, Repr

/-- A landing list: its descriptors, the head pointer, flits of the head message landed, and whether one was STRAY (09, R215, R216). -/
structure LandList where
  descs : List LandDesc
  ptr : Nat
  /-- flits of the head message that have come, and their bytes: they are written when the message is whole -/
  flits : Nat
  data : List Byte
  stray : Bool
  /-- the count at which a retransmission last brought one of them -/
  again : Option Count
  deriving DecidableEq, Repr

/-- A slot of a core on another module whose credit this core has spent (04, R103; 09, R220). -/
structure RemoteSlot where
  domain : Nat
  devid : Nat
  dst : CoreId
  slot : Nat
  /-- the entry of the core's shaft table for a message that went by a shaft; the other module's slot is then known by its number only -/
  shaft : Option Nat
  deriving DecidableEq, Repr

/-- A packet of a loose message that waits for a token of the injection limiter (09, R222). -/
structure LooseOut where
  domain : Nat
  devid : Nat
  key : Nat
  role : Nat
  msgId : Nat
  payload : List Byte
  /-- stream offset of its command, and the clock that it hands on (06, R155, R159) -/
  cmd : Nat
  vc : Tab Nat
  deriving DecidableEq, Repr

/-- What a weight bank set holds: the tile and scale bytes of the last load with its formats, or contents that nothing
defines under a mark (02, R50). -/
inductive Bank where
  | loaded (fmt : Nat) (w4 : Bool) (tile : List Byte)
  | undefined (mark : Nat)
  deriving DecidableEq, Repr

/-- A grant entry (07, R165). -/
structure Grant where
  mark : Nat
  grant : Nat
  deriving DecidableEq, Repr

/-- Where HANDOVER leads: the count H, the head lead D and the address of the staged canvas (04, R113). -/
structure Handover where
  h : Count
  d : Nat
  canvas : Nat
  deriving DecidableEq, Repr

/-- The tables of the canvas that a core is leaving in a handover (01, R37). -/
structure GenTab where
  gen : Nat
  shapes : List Shape
  slots : Tab SlotDef
  roles : Tab Nat
  sends : List (Nat × Nat)
  lists : Tab LandList
  deriving DecidableEq, Repr

/-- One core: sequencer, queues, engines, flags, slots and banks (02, 03, 04, 09). -/
structure Core where
  /-- the canvas has a directory entry for the core (04, R86) -/
  hasEntry : Bool
  streamBase : Nat
  streamLen : Nat
  pc : Nat
  /-- commands that the sequencer may have read ahead before a store changed them: a mark and the words before the change (04, R87) -/
  ahead : Tab (Nat × Cmd)
  gen : Nat
  /-- the last command of the stream has issued (04, R114) -/
  ended : Bool
  handover : Option Handover
  /-- old generation still accepted, with its slot table and flag roles (01, R37) -/
  old : Option GenTab
  /-- tables of the generation retired last: a message of it is STRAY, and its descriptor still names the source of its credit (04, R115; 09, R216) -/
  gone : Option GenTab
  shapes : List Shape
  slots : Tab SlotDef
  /-- by 64 × generation + slot -/
  slotSt : Tab SlotSt
  roles : Tab Nat
  flags : Tab Nat
  preds : BitVec 16
  sc : Tab W32
  loops : List LoopFrame
  fpstat : BitVec 6
  /-- sticky SPREAD bits: indices of the output tiles that have one (03, R81) -/
  spread : List Nat
  /-- commands issued into queues since the canvas load -/
  issued : Nat
  /-- engine queues by code 0 M0, 1 M1, 2 V, 3 X, head first (04, R88) -/
  queues : Tab (List QCmd)
  /-- running commands by unit number 0 M0 compute, 1 M0 load, 2 M1 compute, 3 M1 load, 4 V, 5 X -/
  run : Tab Running
  memq : List MemReq
  /-- stalls by queue code, 4 the sequencer; 5 and 6 the passes in the cubes of M0 and M1 (02, R43) -/
  stalls : Tab Stall
  banks : Tab Bank
  /-- bank sets that the head has loaded since it began (02, R50) -/
  headBanks : List Nat
  accs : Tab AccSet
  /-- passes dispatched and not yet done that write a set (02, R53) -/
  wpend : Tab Nat
  /-- vector commands dispatched and not yet done that read a set -/
  rpend : Tab Nat
  grants : List Grant
  grant : Nat
  held : Nat
  /-- by unit: lamps of the command that completed last, with the region cycle and the tick (07, R164) -/
  kept : Tab (Nat × Nat × Count)
  /-- beat at which segment 0 of the stream begins, beat length and operating point of its canvas (01, R17, R34, R35) -/
  base : Int
  beatNs : Nat
  op : Nat
  /-- beat segment in progress: its number, whether it has started, when, and the region cycle of its start (01, R19) -/
  segNo : Nat
  segOpen : Bool
  segStart : Count
  segCyc : Nat
  lateness : Nat
  /-- wall time lost in the segment in ps by cause 1 to 9 (01, R22) -/
  lost : Tab Nat
  /-- cause recorded against the late start, as the segment that ended late gives it -/
  lateCause : Nat
  /-- head segments of the canvas: they begin late with cause HANDOVER (01, R35) -/
  headSegs : Nat
  lateCount : Nat
  lateLast : Nat
  beatOld : Option Nat
  beatNew : Option Nat
  sends : List (Nat × Nat)
  lists : Tab LandList
  msgId : Nat
  remote : List RemoteSlot
  /-- packets of the running loose SEND that wait for tokens (09, R222) -/
  inject : List LooseOut
  /-- when a wait began: 0 to 3 the head of a queue for lamps, 4 the sequencer for queue room or PACE, 5 to 8 the head of a queue for
  anything else that has no timeout, 10 and 11 the passes in the cubes of M0 and M1 for the read of a set, 12 the packets or flits of the running SEND,
  13 to 17 the head of a queue or the sequencer for a port with 16,384 flits outstanding, which only counts it (01, R22, causes LAMP and UPSTREAM; 02,
  R53; 08, R194) -/
  lampWait : Tab Nat
  /-- flags and slots (by ITEM) fed by a retransmitted flit since they were last consumed, with the count at which the last one came (01, R22,
  cause RETRY) -/
  retryItems : Tab Nat
  /-- nanoseconds by which emergency refreshes delayed the arrivals of a flag (01, R22, cause REFRESH) -/
  refreshItems : Tab Nat
  deriving DecidableEq, Repr

/-- A core at reset and at canvas load: nothing queued, all counts zero (04, R91, R103, R106). -/
def Core.reset : Core :=
  { hasEntry := false, streamBase := 0, streamLen := 0, pc := 0, ahead := [], gen := 0, ended := false, handover := none, old := none, gone := none,
    shapes := [], slots := [], slotSt := [], roles := [], flags := [], preds := 0, sc := [],
    loops := [], fpstat := 0, spread := [], issued := 0, queues := [], run := [], memq := [], stalls := [], banks := [], headBanks := [], accs := [], wpend := [],
    rpend := [], grants := [], grant := 0, held := 0, kept := [], base := 0, beatNs := 512, op := 0, segNo := 0, segOpen := false, segStart := 0, segCyc := 0,
    lateness := 0, lost := [], lateCause := 0, headSegs := 0, lateCount := 0, lateLast := 0, beatOld := none, beatNew := none, sends := [],
    lists := [], msgId := 0, remote := [], inject := [], lampWait := [], retryItems := [], refreshItems := [] }

/-! ### Partitions (01, 06, 10 to 13, 16) -/

/-- PT_STATE.STATE (16, R360). -/
inductive PtState where
  | absent | armed | run | hold | faultStop
  deriving DecidableEq, Repr

/-- PT_WT_STAT.STATE (10, R229). -/
inductive WtState where
  | empty | loading | loaded | confirmed | barrier | repainting | failed
  deriving DecidableEq, Repr

/-- What the module keeps of a canvas header (04, R85; 06, R147). -/
structure Canvas where
  beatExp : Nat
  slackExp : Nat
  op : Nat
  gen : Nat
  cls : Nat
  weightless : Bool
  /-- address of the image in the region for a staged image -/
  addr : Nat
  total : Nat
  /-- CABLE_ASSUMED of the sixteen ports, in 2 ns units (06, R147, R150) -/
  cable : List Nat
  deriving DecidableEq, Repr

/-- Steps of a CANVAS_LOAD in progress (12, R277, R364). -/
inductive LoadPhase where
  | header | zeroing | image
  deriving DecidableEq, Repr

/-- A load in progress: its descriptor's tag, its phase, the header bytes read (12, R277). -/
structure Loading where
  tag : Nat
  phase : LoadPhase
  header : List Byte
  deriving DecidableEq, Repr

/-- A gallery object (05, R138, R139). -/
structure GalObj where
  base : Nat
  pages : Nat
  rd : Bool
  wr : Bool
  expiry : Count
  closed : Bool
  /-- REASON of the reclaim notice: 0 expiry, 1 deregistration, 2 partition reset (12, R285) -/
  reason : Nat
  /-- whether a notice is owed (none at a host-link reset, 12, R268) -/
  notice : Bool
  deriving DecidableEq, Repr

/-- A completion record or unsolicited record (12, table "Completion record"). -/
structure Rec where
  opcode : Nat
  status : Nat
  sq : Nat
  tag : Nat
  detail : Word
  w3 : Word
  w4 : Word
  w5 : Word
  w6 : Word
  payload : List Byte
  /-- it ends a descriptor in flight -/
  ends : Bool
  /-- partition of the record -/
  pt : Nat
  deriving DecidableEq, Repr

/-- Progress of a descriptor in flight (12, R271, R275). -/
inductive Progress where
  | waiting | started | ready
  deriving DecidableEq, Repr

/-- A descriptor in flight (12, R271, R274). -/
structure Desc where
  sq : Nat
  cq : Nat
  tag : Nat
  op : Nat
  fence : Bool
  w1 : Word
  w2 : Word
  w3 : Word
  payload : List Byte
  progress : Progress
  func : Func
  deriving DecidableEq, Repr

/-- The fault record (13, R293), valid when present. -/
structure FaultRec where
  cause : Nat
  sub : Nat
  ledger : Nat
  die : Nat
  cluster : Nat
  core : Nat
  queue : Nat
  cmd : Nat
  item : Nat
  time : Nat
  recorded : Nat
  counted : Nat
  addr : Nat
  port : Nat
  stack : Nat
  genOld : Nat
  genNew : Nat
  key : Nat
  beatOld : Option Nat
  beatNew : Option Nat
  secondary : Nat
  deriving DecidableEq, Repr

/-- A repaint in progress (10, R238). -/
structure Repaint where
  tag : Nat
  owner : Nat
  first : Nat
  count : Nat
  next : Nat
  startedAt : Count
  /-- STATE before the repaint, which it takes again at its release -/
  before : WtState
  /-- LAST_LAYER before it -/
  lastBefore : Option Nat
  deriving DecidableEq, Repr

/-- Bytes of a layer written so far and the running CRC-32C (10, R230, R231). -/
structure LayerPos where
  bytes : Nat
  crc : BitVec 32
  /-- verified (10, R230) -/
  ok : Bool
  deriving DecidableEq, Repr

/-- State of a sequence slot (11, R244). -/
inductive SlotState where
  | free | prefill | decode | paused | galleried
  deriving DecidableEq, Repr

/-- Tokens of a slot whose delivery waits for its completion ring, and COMMITTED once it is posted (11, R259). -/
structure Delivery where
  tokens : List Nat
  committed : Nat
  /-- a repaint has sent the slot back to prefill meanwhile: COMMITTED stays (10, R239) -/
  stale : Bool := false
  deriving DecidableEq, Repr

/-- An entry of the request table with what the steward keeps beside it (11, R243). -/
structure SrvSlot where
  state : SlotState
  cls : Nat
  variant : Nat
  half : Nat
  prevDecode : Bool
  returning : Bool
  hostHold : Bool
  draft : Nat
  wgen : Nat
  reqId : Nat
  deadline : Count
  committed : Nat
  prompt : Nat
  more : Bool
  limit : Nat
  /-- page list: the page of each 64 positions and the weight generation under which it was computed (10, R239) -/
  pages : List (Nat × Nat)
  stopEn : Bool
  stop : Nat
  pausedAt : Count
  galExpiry : Count
  galOff : Nat
  /-- weight generations of the pages that lie in the gallery, in order -/
  galGens : List Nat
  /-- tokens of the token log by position -/
  log : List Nat
  /-- host drafts held for the next selection (11, R255) -/
  drafts : List Nat
  /-- tokens sampled whose delivery waits (11, R259) -/
  pendingDelivery : Option Delivery
  /-- the copy to the gallery runs (11, R256) -/
  moving : Bool
  /-- bytes of its gallery space -/
  galSize : Nat
  /-- a return waits for pages of the pool (11, R258) -/
  wantBack : Bool
  deriving DecidableEq, Repr

/-- A free slot (11, R243 table, reset values). -/
def SrvSlot.free : SrvSlot :=
  { state := .free, cls := 0, variant := 0, half := 0, prevDecode := false, returning := false, hostHold := false, draft := 0,
    wgen := 0, reqId := 0, deadline := 0, committed := 0, prompt := 0, more := false, limit := 0, pages := [], stopEn := false,
    stop := 0, pausedAt := 0, galExpiry := 0, galOff := 0, galGens := [], log := [], drafts := [], pendingDelivery := none,
    moving := false, galSize := 0, wantBack := false }

/-- A slot's rows in a half-step: slot, first row, rows, kind true for decode (11, R247, R250). -/
structure Selected where
  slot : Nat
  first : Nat
  rows : Nat
  decode : Bool
  vgroup : Nat
  /-- tokens of its rows -/
  tokens : List Nat
  deriving DecidableEq, Repr

/-- One half-batch: the number of its step under way and the slots selected for it (11, R249, R250). -/
structure Half where
  step : Nat
  selected : List Selected
  startEdge : Count
  deriving DecidableEq, Repr

/-- The steward of a serving partition (11, R241). -/
structure Srv where
  stewardCore : Nat
  running : Bool
  slots : Tab SrvSlot
  half0 : Half
  half1 : Half
  passVariant : Nat
  passPages : Nat
  shortfall : Nat
  /-- operations that wait for their half's next boundary (11, R260) -/
  ops : List Desc
  /-- the object of the galleried slots went while the steward stood still: they end when it resumes (11, R257, R261) -/
  galGone : Bool
  /-- PT_SRV_CLASS_c and PT_SRV_TBT_c as the last boundary took them (11, R242) -/
  classes : List W32
  tbts : List W32
  deriving DecidableEq, Repr

/-- A port record of a canvas: the calendar or ingress entry of a port that it claims, and its register image (09, core shaft
table; R211). -/
structure Claim where
  portNo : Port
  ingress : Bool
  entryNo : Fin 64
  image : Nat
  deriving DecidableEq, Repr

/-- Number of the port and of its entry. -/
def Claim.port (c : Claim) : Nat := c.portNo.val
def Claim.entry (c : Claim) : Nat := c.entryNo.val

/-- One partition PT0 to PT31. -/
structure Part where
  st : PtState
  gen : Nat
  genNew : Nat
  overlap : Bool
  loading : Option Loading
  canvas : Option Canvas
  nextCanvas : Option Canvas
  staged : List Canvas
  /-- port entries claimed by the canvas running and by the one staged for a handover (09, R211) -/
  claims : List Claim
  nextClaims : List Claim
  /-- handover count of the handover under way, at which the ports switch (01, R38) -/
  switchAt : Option Count
  startAt : Option Count
  startTag : Option Nat
  holdAt : Option Count
  holdTag : Option Nat
  releaseAt : Option Count
  releaseTag : Option Nat
  /-- count of the last beat edge seen -/
  lastEdge : Count
  confirmedAt : Option Count
  frec : Option FaultRec
  /-- engines and sequencers (core number, queue) that have raised a cause since the partition stopped (13, R289) -/
  raised : List (Nat × Nat)
  /-- cycles of the twelve compute regions at the stop: what the engines had done by then is done (02, R42; 13, R290) -/
  stopCyc : List Nat
  /-- what ITEM of a record of the stop holds when its cause gives none: LAST_LAYER in a repaint (10, R240) -/
  stopItem : Nat
  slack : Int
  slackSnap : Int
  wt : WtState
  wgen : Nat
  lastLayer : Option Nat
  galMib : Nat
  tableLoaded : Bool
  layers : Tab LayerPos
  repaint : Option Repaint
  gal : Tab GalObj
  galTags : Tab Nat
  /-- handles whose objects closed at their expiry count and whose index has not been given again (05, R139) -/
  galExpired : List Nat
  flight : List Desc
  /-- accesses to gallery objects that had been issued to the host link when the partition stopped or was reset, and that have not ended: 0 the read of an image,
  1 a copy of pages to the gallery, 2 one back, each with the object's index (05, R139; 12, R279) -/
  orphans : List (Nat × Nat)
  /-- submission ring served last (12, R271) -/
  turn : Nat
  /-- unsolicited records waiting for the EVQ ring, oldest first, and events not queued (12, R284) -/
  evq : List Rec
  evLost : Nat
  cxlDrop : Nat
  setupErr : W32
  /-- lamps held beyond base charges per die, with the ticks and values of the last 100 ns (07, R168) -/
  lampHeld : Tab Nat
  lampHist : Tab (List (Count × Nat))
  lampStat : Tab Nat
  lampTurn : Tab Nat
  srv : Option Srv
  assayPos : Nat
  assayCount : Nat
  assayOverrun : Nat
  timingAlarm : Bool
  linkLost : Nat
  meshSent : Nat
  meshApplied : Nat
  deriving DecidableEq, Repr

/-- The value of PT_SLACK.SLACK after a clear (16). -/
def slackNone : Int := 0x7FFFFF

/-- A partition at reset: Absent, nothing loaded (16, R360; 10, R229). -/
def Part.reset : Part :=
  { st := .absent, gen := 0, genNew := 0, overlap := false, loading := none, canvas := none, nextCanvas := none, staged := [],
    claims := [], nextClaims := [], switchAt := none,
    startAt := none, startTag := none, holdAt := none, holdTag := none, releaseAt := none, releaseTag := none,
    lastEdge := 0, confirmedAt := none, frec := none, raised := [], stopCyc := [], stopItem := 0, slack := slackNone, slackSnap := slackNone, wt := .empty, wgen := 0,
    lastLayer := none, galMib := 0, tableLoaded := false, layers := [], repaint := none, gal := [], galTags := [], galExpired := [],
    flight := [], orphans := [], turn := 255, evq := [], evLost := 0, cxlDrop := 0, setupErr := 0, lampHeld := [],
    lampHist := [], lampStat := [], lampTurn := [], srv := none, assayPos := 0, assayCount := 0, assayOverrun := 0,
    timingAlarm := false, linkLost := 0, meshSent := 0, meshApplied := 0 }

/-! ### Mesh traffic (04) -/

/-- A message in flight on the mesh (04, R104). -/
structure MeshMsg where
  pt : Nat
  src : CoreId
  dst : CoreId
  slot : Nat
  flag : Nat
  dfen : Bool
  tag : Nat
  bytes : List Byte
  /-- stream offset of its SEND (06, R159) -/
  cmd : Nat
  vc : Tab Nat
  deriving DecidableEq, Repr

/-- A SET in flight on the mesh (04, R107). -/
structure MeshSet where
  pt : Nat
  src : CoreId
  dst : CoreId
  flag : Nat
  tag : Nat
  vc : Tab Nat
  deriving DecidableEq, Repr

/-- A slot credit on its way to its source core (04, R105): the slot of `dst` whose credit it is. -/
structure CreditMsg where
  pt : Nat
  src : CoreId
  dst : CoreId
  slot : Nat
  vc : Tab Nat
  deriving DecidableEq, Repr

/-! ### Memory stacks, clocks, lamp rooms (05, 07) -/

/-- One HBM stack (05, R131-R135). -/
structure Stack where
  tempC : Nat
  hot : Bool
  tripped : Bool
  deficit : Nat
  windowOpen : Bool
  openedHot : Bool
  /-- end of the emergency refresh that runs, and the count from which on requests that reached the stack wait for it (01, R26; 05, R133) -/
  emergency : Option Count
  heldFrom : Count
  /-- requests that do not come from a core and wait for the open window, by name (05, R132) -/
  waiters : List (Nat × Nat)
  /-- the first count after the trip (05, R134) -/
  trippedAt : Count
  windowWaits : Nat
  emergencies : Nat
  scrubbed : Nat
  deriving DecidableEq, Repr

def Stack.reset : Stack :=
  { tempC := 0, hot := false, tripped := false, deficit := 0, windowOpen := false, openedHot := false, emergency := none, heldFrom := 0,
    waiters := [], trippedAt := 0, windowWaits := 0, emergencies := 0, scrubbed := 0 }

/-- A write that the module makes for itself and that waits for its stack to serve it (05, R132, R133). -/
structure OwnWrite where
  pt : Nat
  addr : Nat
  bytes : List Byte
  deriving DecidableEq, Repr

/-- A compute region's clock (07, R173-R175): thousandths of a cycle lost to stretching, and the stretch counts. The region
cycles are those of `OpState.milliCyc` less what stretching lost. -/
structure Region where
  lostMilli : Nat
  stretched : Nat
  extraPs : Nat
  code4 : Nat
  deriving DecidableEq, Repr

def Region.reset : Region := { lostMilli := 0, stretched := 0, extraPs := 0, code4 := 0 }

/-- A clock domain's monitor (07, R180, R181). -/
structure Domain where
  hist : Tab Nat
  /-- the domain shows no clock -/
  lost : Bool
  duty : Nat
  /-- CLK_MON_STAT.LOSS, JIT_ALM and DUTY_ALM -/
  lossBit : Bool
  jitAlm : Bool
  dutyAlm : Bool
  deriving DecidableEq, Repr

def Domain.reset : Domain := { hist := [], lost := false, duty := 0x80, lossBit := false, jitAlm := false, dutyAlm := false }

/-- A same-frequency crossing (07, R176-R178): pointer distance in thousandths of an entry, holds and re-centres counted. -/
structure Crossing where
  distance : Nat
  holds : Nat
  recentres : Nat
  deriving DecidableEq, Repr

def Crossing.reset : Crossing := { distance := 8000, holds := 0, recentres := 0 }

/-! ### Fretur ports (08, 09, 10) -/

/-- A flit (08, R186). -/
structure Flit where
  seq : Nat
  vl : Nat
  key : Nat
  role : Nat
  vlx : Nat
  payload : List Byte
  deriving DecidableEq, Repr

/-- A flit that arrived, with the congestion mark its datagram gives it at release (09, R227). -/
structure RxFlit where
  flit : Flit
  ce : Bool
  /-- its sequence had been named missing, so a retransmission brought it (01, R22, cause RETRY) -/
  again : Bool
  /-- count in which it reached the ingress pins (09, R212) -/
  came : Count
  deriving DecidableEq, Repr

/-- An ordered set to send (08, R187), by OS_TYPE and body bytes 0x08 to 0xF7. -/
structure OsOut where
  typ : Nat
  body : List Byte
  deriving DecidableEq, Repr

/-- A replay entry (08, R193): the flit, the unit count of its latest transmission, whether it lies in tailings, whether a
read back is under way or done. -/
structure Replay where
  flit : Flit
  sentAt : Option Nat
  tailings : Bool
  readBack : Bool
  resend : Bool
  deriving DecidableEq, Repr

/-- FRT_STAT.STATE (08, R207). -/
inductive PortState where
  | disabled | training | up | resetting | failed
  deriving DecidableEq, Repr

/-- A reset this end asks for (08, R200, R201). -/
structure ResetWant where
  body : ResetBody
  since : Count
  deriving DecidableEq, Repr

/-- A local VL0 flit that waits for its shaft's calendar entry (09, R209). -/
structure ShaftFlit where
  pt : Nat
  gen : Nat
  shaft : Nat
  role : Nat
  payload : List Byte
  /-- core of its SEND or SET; none for weight bytes, which the module sends -/
  src : Option CoreId
  deriving DecidableEq, Repr

/-- A loose or management flit that waits to be picked (09, R210, R221). -/
structure LooseFlit where
  key : Nat
  role : Nat
  vlx : Nat
  payload : List Byte
  /-- the port it came in on, whose output queue holds its credit until it is picked; `none` for a local one -/
  from_ : Option Nat
  deriving DecidableEq, Repr

/-- Progress of a drift tap (10, R232, R233). -/
structure Tap where
  /-- layers of its sequence that have ended -/
  layer : Nat
  /-- bytes of the present layer that have come -/
  got : Nat
  failed : Bool
  /-- the start record has come -/
  begun : Bool
  done : Nat
  discarded : Nat
  deriving DecidableEq, Repr

/-- One Fretur port. -/
structure FPort where
  st : PortState
  width : Nat
  rate : Nat
  lanes : Nat
  peerDomain : Nat
  peerDevid : Nat
  peerPort : Nat
  delay16 : Nat
  delaySum : Int
  delayNum : Nat
  txUnits : Nat
  rxUnits : Nat
  seqNext : Nat
  seqTx : Nat
  seqOldest : Nat
  /-- E: lowest sequence not yet received intact (08, R192) -/
  rxE : Nat
  /-- H + 1: one above the highest sequence received intact -/
  rxHi : Nat
  window : Tab RxFlit
  /-- output queues of the four lanes by lane, head first -/
  outq : Tab (List RxFlit)
  replay : List Replay
  spent : Tab Nat
  returned : Tab Nat
  retired : Tab Nat
  lastCret : Tab Nat
  named : List Nat
  /-- when a later sequence showed that one is missing (06, R146) -/
  missedAt : Tab Count
  ackDue : Bool
  altNack : Bool
  lastAck : Count
  sinceAck : Nat
  osq : List OsOut
  markDue : Bool
  auditDue : Bool
  uncorr : Nat
  want : Option ResetWant
  agreed : Option ResetBody
  resetPhase : Nat
  resetAt : Count
  /-- the peer's RESUME has come (08, R203) -/
  resumed : Bool
  /-- the peer's TRAIN has passed the identity phase (08, R202) -/
  identified : Bool
  /-- DELAY_REQ sent (08, R198) -/
  delayReqs : Nat
  /-- blocks of units that wait for their codeword to fill, oldest first (08, R184) -/
  blocks : List Nat
  /-- units of an Ethernet-mode port that wait for their datagram to fill, each with its unit count (09, R225) -/
  ethUnits : List (Nat × List Byte)
  loose1 : List LooseFlit
  loose2 : List LooseFlit
  mgmt : List LooseFlit
  shaftq : List ShaftFlit
  /-- generations of tables kept for old flits: partition, count at which its switch happened (01, R38) -/
  switched : List (Nat × Count)
  tap : Tap
  auditSkips : Nat
  /-- an AUDIT of the peer has arrived since the last audit count (08, R206) -/
  auditSeen : Bool
  /-- REQ_NO of the next RESET_REQ (08, R187) -/
  reqNo : Nat
  deriving DecidableEq, Repr

def Tap.reset : Tap := { layer := 0, got := 0, failed := false, begun := false, done := 0, discarded := 0 }

/-- A port at reset: Disabled, no state held (08, R207, "Port states"). -/
def FPort.reset : FPort :=
  { st := .disabled, width := 0, rate := 0, lanes := 0, peerDomain := 0, peerDevid := 0, peerPort := 0, delay16 := 0,
    delaySum := 0, delayNum := 0, txUnits := 0, rxUnits := 0, seqNext := 0, seqTx := 0, seqOldest := 0, rxE := 0, rxHi := 0,
    window := [], outq := [], replay := [], spent := [], returned := [], retired := [], lastCret := [], named := [], missedAt := [],
    ackDue := false, altNack := false, lastAck := 0, sinceAck := 0, osq := [], markDue := false, auditDue := false, uncorr := 0,
    want := none, agreed := none, resetPhase := 0, resetAt := 0, resumed := false, identified := false, delayReqs := 0, blocks := [], ethUnits := [], loose1 := [], loose2 := [], mgmt := [],
    shaftq := [], switched := [], tap := Tap.reset, auditSkips := 0, auditSeen := true, reqNo := 0 }

/-- A loose message that awaits DELIVERED (09, R220). -/
structure Tracked where
  src : CoreId
  pt : Nat
  msgId : Nat
  dstDomain : Nat
  dstDevid : Nat
  dst : CoreId
  slot : Option Nat
  since : Count
  deriving DecidableEq, Repr

/-- The injection limiter of a destination group (09, R222). -/
structure Limiter where
  rate : Nat
  tokens : Nat
  halved : Bool
  deriving DecidableEq, Repr

/-! ### Host links and rings (12) -/

/-- One host link (12, R262-R264; 15, R345). -/
structure HostLink where
  trained : Bool
  /-- rate in tenths of a GT/s -/
  rate : Nat
  width : Nat
  /-- largest payload and read request in bytes that the host has set (12, R263) -/
  payload : Nat
  readReq : Nat
  cxl : Bool
  vfs : Nat
  /-- virtual functions whose enable was cleared since training -/
  vfOff : List Nat
  /-- PERST# is asserted -/
  perst : Bool
  deriving DecidableEq, Repr

def HostLink.reset : HostLink :=
  { trained := false, rate := 0, width := 0, payload := 128, readReq := 512, cxl := false, vfs := 0, vfOff := [], perst := true }

/-- Submission and completion state of one ring number (12, R269-R285). -/
structure Ring where
  sqHead : Nat
  sqTail : Nat
  sqErr : Bool
  cqTail : Nat
  cqHead : Nat
  held : Nat
  /-- PHASE of the pass in progress -/
  pass : Bool
  ready : List Rec
  lastSignal : Option Count
  signalDue : Bool
  deriving DecidableEq, Repr

def Ring.reset : Ring :=
  { sqHead := 0, sqTail := 0, sqErr := false, cqTail := 0, cqHead := 0, held := 0, pass := true, ready := [],
    lastSignal := none, signalDue := false }

/-! ### Start-up, timebase, operating point, management (01, 07, 13 to 15) -/

/-- Start-up (14, R312-R316). -/
structure Startup where
  ready : Bool
  stage : Nat
  stopped : Bool
  failStep : Nat
  failPart : Nat
  failCode : Nat
  lastReset : Nat
  /-- how the start-up in progress began, written to LAST_RESET at step 12 -/
  cause : Nat
  geo : BitVec 3
  /-- HOST_CFG in force, as the last start-up took it (12, R265) -/
  hostCur : W32
  /-- BOOT_PORTS as the last module or cold reset found it (14, R316) -/
  bootCur : W32
  deriving DecidableEq, Repr

/-- Power inputs and converter (15, R332-R338). -/
structure Power where
  hvilClosed : Bool
  precharged : Bool
  convOn : Bool
  stbyOk : Bool
  vbus : BitVec 10
  evtDieTrip : Bool
  evtOv : Bool
  evtUv : Bool
  evtHvil : Bool
  /-- the converter has just stopped: a second cause of the same stop is latched too (15, "When things meet") -/
  stopping : Bool
  deriving DecidableEq, Repr

/-- The Kwefer timebase of the module (01, R13-R16; 08, R199; 15, R347). -/
structure Timebase where
  count : Count
  running : Bool
  locked : Bool
  refOk : Bool
  lastMark : Option Count
  lastCorr : Option Count
  /-- correction still to be slewed in, in ns -/
  pending : Int
  err : Int
  useAlternate : Bool
  stratum : Nat
  ignored : Nat
  alarm : Bool
  /-- the last tick added one: it went past a count that is counted as reached with it (01, R15, R17) -/
  jumped : Bool
  deriving DecidableEq, Repr

/-- The operating point (07, R172). -/
structure OpState where
  cur : Nat
  pend : Option (Nat × Count)
  railBusy : Bool
  railMv : Nat
  railTo : Nat
  /-- end of the slew that runs -/
  railEnd : Count
  /-- unstretched cycles of the compute regions since the count began to run, in thousandths -/
  milliCyc : Nat
  deriving DecidableEq, Repr

/-- Kinds of PLDM platform events (13, R308). -/
inductive EventKind where
  | faultStop | warn | alarm | stackTrip | undervoltage | clockAlarm | lockChange | takeover | confirmed | startAborted
  | startupStopped | ready | reverted | scrubError | mainBusLoss | timingAlarm
  deriving DecidableEq, Repr

/-- A platform event not yet acknowledged. -/
structure PlatEvent where
  id : Nat
  kind : EventKind
  arg : Nat
  deriving DecidableEq, Repr

/-- The headframe controllers (13, R307-R311; 14, R312). -/
structure Headframe where
  e0Up : Bool
  e1Up : Bool
  primaryE1 : Bool
  lastSeq : Option W32
  lastAnswer : List Word
  events : List PlatEvent
  nextEvent : Nat
  bothFailed : Bool
  deriving DecidableEq, Repr

/-! ### Firmware (14) -/

/-- A firmware image in flash. -/
structure Image where
  version : Nat
  timingRev : Nat
  settingsFmt : Nat
  bytes : List Byte
  deriving DecidableEq, Repr

def Image.blank : Image := { version := 0, timingRev := 0, settingsFmt := 0, bytes := [] }

/-- One firmware component: its slots and FW_STAT_c (14, R321-R329). -/
structure FwComp where
  running : Image
  pent : Option Image
  pending : Option Image
  /-- ActivateFirmware has named the pending image; it starts at the next module or cold reset (14, R325) -/
  activated : Bool
  unconf : Bool
  reverted : Bool
  fails : Nat
  lastResult : Nat
  deriving DecidableEq, Repr

def FwComp.blank : FwComp :=
  { running := Image.blank, pent := none, pending := none, activated := false, unconf := false,
    reverted := false, fails := 0, lastResult := 0 }

/-- The update in progress (14, R320-R324). -/
structure Update where
  /-- the agent's largest transfer in bytes -/
  maxTransfer : Nat
  /-- the agent has passed its component table -/
  tabled : Bool
  component : Option Nat
  imageSize : Nat
  /-- next block to arrive -/
  next : Nat
  blocks : Nat
  retries : Nat
  header : List Byte
  out : List Byte
  deriving DecidableEq, Repr

/-- On-module flash and fuses (13, R303; 14, R316, R326; 16, R359). -/
structure Flash where
  idDev : W32
  hostCfg : W32
  bootPorts : W32
  accs : Tab Nat
  settingsOld : List Byte
  settings : List Byte
  fw1 : FwComp
  fw2 : FwComp
  fw3 : FwComp
  fw4 : FwComp
  idRev : W32
  serial : Word
  keyRev : BitVec 4
  deriving DecidableEq, Repr

/-- State of the SPDM responder on one path (14, R330). -/
structure Spdm where
  versioned : Bool
  capable : Bool
  negotiated : Bool
  deriving DecidableEq, Repr

def Spdm.reset : Spdm := { versioned := false, capable := false, negotiated := false }

/-! ### Health (13) -/

/-- One canary part: SCORE and its latches (13, R301, R302). -/
structure Canary where
  score : Nat
  warn : Bool
  alarm : Bool
  /-- the latch may take again: the score has fallen below the threshold minus 32, or never latched -/
  warnReady : Bool
  alarmReady : Bool
  deriving DecidableEq, Repr

/-- The canary accumulators by 4 n + i in units of 2^-16 (13, R301): `acc`; the events of a tick at a multiple of 10^9 ns that has not decayed
yet stand apart in `late`, since they are added after the decay. -/
structure Accs where
  acc : Tab Nat
  /-- the tick of the events in `late` -/
  lateAt : Count
  late : Tab Nat
  /-- the last decay -/
  decayedAt : Option Count
  deriving DecidableEq, Repr

/-- The accumulators as flash keeps them. -/
def Accs.of (a : Tab Nat) : Accs := { acc := a, lateAt := 0, late := [], decayedAt := none }

def Canary.reset : Canary := { score := 0, warn := false, alarm := false, warnReady := true, alarmReady := true }

/-- An access the hazard detector remembers of a granule (06, R155): its thread (8 × core + queue, or a number of its own for a landing), the
thread's clock at the access, and who made it. -/
structure AssayAcc where
  write : Bool
  thread : Nat
  clock : Nat
  core : CoreId
  queue : Nat
  cmd : Nat
  deriving DecidableEq, Repr

/-- The assay detector (06, R155-R158): format tags of store granules and accumulator sets, remembered accesses of granules and HBM
blocks, and order clocks of threads, flags, slots and credits. Keys are those of Machine/Assay.lean. -/
structure Assay where
  tags : Tab Nat
  acc : Tab (List AssayAcc)
  clocks : Tab (Tab Nat)
  /-- landings seen, which number their threads -/
  landings : Nat
  deriving DecidableEq, Repr

def Assay.reset : Assay := { tags := [], acc := [], clocks := [], landings := 0 }

/-! ### What the module emits -/

/-- An output of the module. -/
inductive Out where
  /-- a unit on the egress pins of a port with its control bits, or a whole datagram in Ethernet mode -/
  | unit (p : Nat) (control : Bool) (bytes : List Byte)
  /-- a codeword on the active lanes of a port: each lane with its 10-bit symbols in order (08, R184) -/
  | codeword (p : Nat) (lanes : List (Nat × List Nat))
  /-- a management flit that arrived on a port, handed to the headframe controllers -/
  | mctp (p : Nat) (payload : List Byte)
  /-- bytes written to host memory of a function -/
  | hostWrite (f : Func) (addr : Nat) (bytes : List Byte)
  /-- an MSI-X signal -/
  | interrupt (f : Func) (vec : Nat)
  /-- a platform event on MA and MB -/
  | platform (e : PlatEvent)
  /-- the answer to a management command -/
  | answer (seq : W32) (words : List Word)
  /-- an answer of the setup window or of CXL.mem to a read -/
  | readData (bytes : List Byte)
  /-- a confirmation to the management tree: DEVID, partition, WGEN, LAST_LAYER (10, R235) -/
  | confirmation (devid pt wgen lastLayer : Nat)
  /-- a pulse on TB_SYNC at a count -/
  | syncPulse (t : Count)
  /-- a PLDM answer or request: command code and words, with payload -/
  | pldm (m : Option MgmtPath) (cmd : Nat) (words : List Nat) (payload : List Byte)
  /-- an SPDM answer: request code, payload -/
  | spdm (m : MgmtPath) (code : Nat) (payload : List Byte)
  /-- a host link's training reached a rate in tenths of a GT/s and a width, with CXL or without (12, R263) -/
  | linkTrained (l : Link) (rate width : Nat) (cxl : Bool)
  /-- ALARM# changed to the level -/
  | alarm (asserted : Bool)
  deriving DecidableEq, Repr

/-! ### The module -/

/-- The state of the module. -/
structure State where
  pending : List Instr
  fresh : Nat
  outbox : List Out
  startup : Startup
  power : Power
  tb : Timebase
  op : OpState
  hf : Headframe
  flash : Flash
  update : Option Update
  /-- by path: 0 MA, 1 MB, 2 to 5 VDM and 6 to 9 DOE of the host links -/
  spdm : Tab Spdm
  /-- configuration registers by setup-window offset; an unlisted register holds its reset value (16) -/
  regs : Tab W32
  /-- LO halves written and not yet taken (16, R357) -/
  loStage : Tab W32
  setupErr : W32
  parts : Tab Part
  cores : Tab Core
  /-- clusters whose clocks run, by cluster number, and those waiting to start (07, R162) -/
  clusters : Tab Unit
  cluStart : List Nat
  lastCluStart : Option Count
  /-- lamps drawn on each die as the lamp room has them, base charges included (07, R171) -/
  lampRoom : Tab Nat
  regions : Tab Region
  domains : Tab Domain
  /-- what the sensors of the eight dies last read, in °C (15, R351) -/
  dieTemps : Tab Nat
  crossings : Tab Crossing
  /-- entries in the asynchronous crossings, by a number of the model's own (07, R179; log 77) -/
  fifos : Tab Nat
  hbmStk : Tab Stack
  /-- core stores by core number, cluster stores by cluster number, stacks by stack number: bytes by address -/
  coreMem : Tab (Tab Byte)
  cluMem : Tab (Tab Byte)
  hbm : Tab (Tab Byte)
  /-- writes of the module's own that wait at their stacks, oldest first (05, R132) -/
  ownq : List OwnWrite
  /-- poisoned 16-byte words of stores and 32-byte sectors of stacks (05, R117, R130) -/
  poison : List (StoreId × Nat)
  hbmPoison : List (Nat × Nat)
  mesh : List MeshMsg
  meshSets : List MeshSet
  credits : List CreditMsg
  ports : Tab FPort
  loose : List Tracked
  limiters : Tab Limiter
  /-- JOB_STOPs that have passed here: ORIGIN with its domain, STOP_TIME and KEY (08, R187) -/
  jobStopsSeen : List (Nat × Nat × Nat)
  links : Tab HostLink
  rings : Tab Ring
  /-- canary accumulators, and scores by part (13, R301) -/
  canAcc : Accs
  canary : Tab Canary
  /-- counts by the offset of the count register, and their snapshot copies (13, R304, R305) -/
  counts : Tab Nat
  shadows : Tab Nat
  /-- totals of every counted occurrence by event number -/
  events : Tab Nat
  assay : Assay
  deriving DecidableEq, Repr

/-- The module right after a cold reset (00, R8; 14, R312, R317): the standby input has returned and start-up stands before
step 1. Every register holds its documented reset value; values from flash and fuses are those of log 5. -/
def State.reset : State :=
  { pending := [], fresh := 0, outbox := [],
    startup := { ready := false, stage := 0, stopped := false, failStep := 0, failPart := 0x7F, failCode := 0, lastReset := 0,
                 cause := 0, geo := 0, hostCur := 0, bootCur := 0 },
    power := { hvilClosed := false, precharged := false, convOn := false, stbyOk := false, vbus := 0,
               evtDieTrip := false, evtOv := false, evtUv := false, evtHvil := false, stopping := false },
    tb := { count := 0, running := false, locked := false, refOk := true, lastMark := none, lastCorr := none, pending := 0,
            err := 0, useAlternate := false, stratum := 0, ignored := 0, alarm := false, jumped := false },
    op := { cur := 0, pend := none, railBusy := false, railMv := 720, railTo := 720, railEnd := 0, milliCyc := 0 },
    hf := { e0Up := false, e1Up := false, primaryE1 := false, lastSeq := none, lastAnswer := [], events := [], nextEvent := 0,
            bothFailed := false },
    flash := { idDev := 0, hostCfg := 0, bootPorts := 0, accs := [], settingsOld := [], settings := [], fw1 := FwComp.blank,
               fw2 := FwComp.blank, fw3 := FwComp.blank, fw4 := FwComp.blank, idRev := 0, serial := 0, keyRev := 0 },
    update := none, spdm := [], regs := [], loStage := [],
    setupErr := 0, parts := [], cores := [], clusters := [], cluStart := [], lastCluStart := none, lampRoom := [],
    regions := [], domains := [], dieTemps := [], crossings := [], fifos := [], hbmStk := [], coreMem := [], cluMem := [], hbm := [], ownq := [], poison := [],
    hbmPoison := [], mesh := [], meshSets := [], credits := [], ports := [], loose := [], limiters := [], jobStopsSeen := [],
    links := [], rings := [], canAcc := Accs.of [], canary := [], counts := [], shadows := [], events := [], assay := Assay.reset }

/-! ### Stops -/

/-- Why the module stops. -/
inductive Fault where
  /-- The input voltage exceeds the absolute maximum ratings (15, R349): the manual gives no effect, it says that the module
  does not operate under those conditions. Raised by CONVERTER_STOP with an input above 450 V. Safe: the model stops. -/
  | absoluteMaximumExceeded
  deriving DecidableEq, Repr

/-- Why a command is not taken. -/
inductive Refusal where
  /-- Raised by no meaning: the arm of a command that has no meaning yet. Safe. -/
  | notModelled (mnemonic : String)
  deriving DecidableEq, Repr

/-- What a step answers. -/
abbrev Res := Host.Outcome State Fault Refusal

end Sys2Proof.Machine
end

