-- ==== Sys2Proof/Machine/Bits.lean ====
section
/-! DEFINITION. Bit fields, byte order, sign extension and check codes: little-endian multi-byte fields (00, "Conventions"),
CRC-32C (04, R85; 10, R229), the CRC-64 of units (08, R186) and SHA-384 (14, R321). -/

namespace Sys2Proof.Machine

/-- Bits [hi:lo] of a natural number, as a number. -/
def fld (x hi lo : Nat) : Nat := (x >>> lo) % 2 ^ (hi + 1 - lo)

/-- Bit i of a natural number. -/
def bit (x i : Nat) : Bool := x.testBit i

/-- Bits [hi:lo] of a word. -/
def wf (w : Word) (hi lo : Nat) : Nat := fld w.toNat hi lo

/-- Bit i of a word. -/
def wb (w : Word) (i : Nat) : Bool := w.getLsbD i

/-- Bits [hi:lo] of a register. -/
def rf (w : W32) (hi lo : Nat) : Nat := fld w.toNat hi lo

/-- Bit i of a register. -/
def rb (w : W32) (i : Nat) : Bool := w.getLsbD i

/-- A value placed from bit `lo` on. -/
def at_ (v lo : Nat) : Nat := v <<< lo

/-- 1 for true, 0 for false. -/
def b2n (b : Bool) : Nat := if b then 1 else 0

/-- A number read as two's complement of `n` bits. -/
def signed (n x : Nat) : Int := if x % 2 ^ n < 2 ^ (n - 1) then (x % 2 ^ n : Nat) else ((x % 2 ^ n : Nat) : Int) - (2 ^ n : Nat)

/-- An integer written in `n` bits of two's complement. -/
def unsigned (n : Nat) (x : Int) : Nat := (x % ((2 ^ n : Nat) : Int)).toNat

/-- Little-endian value of bytes. -/
def leNat : List Byte → Nat
  | [] => 0
  | b :: bs => b.toNat + 256 * leNat bs

/-- A value as `n` little-endian bytes. -/
def leBytes : Nat → Nat → List Byte
  | 0, _ => []
  | n + 1, v => BitVec.ofNat 8 v :: leBytes n (v / 256)

/-- `n` bytes of a list from `off` on, zero past its end. -/
def slice (bs : List Byte) (off n : Nat) : List Byte :=
  let s := (bs.drop off).take n
  s ++ List.replicate (n - s.length) 0

/-- Little-endian value of `n` bytes at `off`. -/
def leAt (bs : List Byte) (off n : Nat) : Nat := leNat (slice bs off n)

/-- The 64-bit word at byte `off`. -/
def wordAt (bs : List Byte) (off : Nat) : Word := BitVec.ofNat 64 (leAt bs off 8)

/-- The numbers lo, lo + 1, …, n of them. -/
def upFrom : Nat → Nat → List Nat
  | _, 0 => []
  | lo, n + 1 => lo :: upFrom (lo + 1) n

/-- Least element of a list, `d` for the empty one. -/
def leastOf (d : Nat) : List Nat → Nat
  | [] => d
  | x :: xs => xs.foldl Nat.min x

/-- Element `i` of a list replaced. -/
def setAt {α : Type} (l : List α) (i : Nat) (x : α) : List α := l.set i x

/-- The list without element `i`. -/
def dropAt {α : Type} (l : List α) (i : Nat) : List α := l.take i ++ l.drop (i + 1)

/-- The numbers of a list, each once, at the place where it stands first. -/
def dedup (l : List Nat) : List Nat := l.foldl (fun m x => if m.contains x then m else m ++ [x]) []

/-- Two ranges given by start and length meet. -/
def meets (a b : Nat × Nat) : Bool := decide (0 < a.2) && decide (0 < b.2) && decide (a.1 < b.1 + b.2) && decide (b.1 < a.1 + a.2)

/-- ⌈a / b⌉. -/
def ceilDiv (a b : Nat) : Nat := (a + b - 1) / b

/-! ### Check codes -/

/-- One bit step of a reflected 32-bit CRC. -/
def crc32cBit (c : BitVec 32) : BitVec 32 := if c.getLsbD 0 then (c >>> 1) ^^^ 0x82F63B78 else c >>> 1

/-- The running CRC-32C after one byte, before the final XOR. -/
def crc32cByte (c : BitVec 32) (b : Byte) : BitVec 32 :=
  let x := c ^^^ (b.setWidth 32)
  crc32cBit (crc32cBit (crc32cBit (crc32cBit (crc32cBit (crc32cBit (crc32cBit (crc32cBit x)))))))

/-- The running CRC-32C over bytes. -/
def crc32cRun (c : BitVec 32) (bs : List Byte) : BitVec 32 := bs.foldl crc32cByte c

/-- CRC-32C (Castagnoli) of bytes. PRESUMED (log 12): the usual reflected form with initial and final ones. -/
def crc32c (bs : List Byte) : Nat := ((crc32cRun 0xFFFFFFFF bs) ^^^ 0xFFFFFFFF).toNat

/-- The generator 0x42F0_E1EB_A9EA_3693 with its bits reversed: bytes are taken least significant bit first (08, R186). -/
def crc64Poly : BitVec 64 := 0xC96C5795D7870F42

/-- One bit step of the unit CRC. -/
def crc64Bit (c : BitVec 64) : BitVec 64 := if c.getLsbD 0 then (c >>> 1) ^^^ crc64Poly else c >>> 1

def crc64Byte (c : BitVec 64) (b : Byte) : BitVec 64 :=
  let x := c ^^^ (b.setWidth 64)
  crc64Bit (crc64Bit (crc64Bit (crc64Bit (crc64Bit (crc64Bit (crc64Bit (crc64Bit x)))))))

/-- CRC-64 of a unit's bytes 0x00 to 0xF7 (08, R186): initial value all ones, final XOR all ones. -/
def crc64 (bs : List Byte) : Nat := ((bs.foldl crc64Byte 0xFFFFFFFFFFFFFFFF) ^^^ 0xFFFFFFFFFFFFFFFF).toNat

/-! ### SHA-384 (FIPS 180-4; 14, R321). PRESUMED (log 12): the standard's own algorithm. -/

/-- The largest number below 2^n above `r` in its lower `n` bits whose power `k` does not exceed `x`, bit by bit. -/
def rootBits (k x : Nat) : Nat → Nat → Nat
  | 0, r => r
  | n + 1, r => rootBits k x n (if (r + 2 ^ n) ^ k ≤ x then r + 2 ^ n else r)

/-- The first eighty prime numbers: those up to 409. -/
def primes80 : List Nat := (upFrom 2 408).filter fun p => (upFrom 2 19).all fun d => p % d ≠ 0 || p = d

/-- The first 64 bits of the fraction of the `k`-th root of a number below 512. -/
def rootFraction (k p : Nat) : BitVec 64 := BitVec.ofNat 64 (rootBits k (p * 2 ^ (64 * k)) 69 0)

/-- The 80 round constants: fractions of the cube roots of the first eighty primes. -/
def sha384K : List (BitVec 64) := primes80.map (rootFraction 3)

/-- The initial hash value: fractions of the square roots of the ninth to the sixteenth prime. -/
def sha384H : List (BitVec 64) := ((primes80.drop 8).take 8).map (rootFraction 2)

/-- One round over the eight working variables. -/
def sha384Round (h : List (BitVec 64)) (kw : BitVec 64 × BitVec 64) : List (BitVec 64) :=
  match h with
  | [a, b, c, d, e, f, g, i] =>
    let s1 := e.rotateRight 14 ^^^ e.rotateRight 18 ^^^ e.rotateRight 41
    let ch := (e &&& f) ^^^ ((~~~e) &&& g)
    let t1 := i + s1 + ch + kw.1 + kw.2
    let s0 := a.rotateRight 28 ^^^ a.rotateRight 34 ^^^ a.rotateRight 39
    let t2 := s0 + ((a &&& b) ^^^ (a &&& c) ^^^ (b &&& c))
    [t1 + t2, a, b, c, d + t1, e, f, g]
  | other => other

/-- The next word of the message schedule from the last sixteen, newest first. -/
def sha384Next (w : List (BitVec 64)) : BitVec 64 :=
  let x := w.getD 1 0
  let y := w.getD 14 0
  (x.rotateRight 19 ^^^ x.rotateRight 61 ^^^ (x >>> 6)) + w.getD 6 0 + (y.rotateRight 1 ^^^ y.rotateRight 8 ^^^ (y >>> 7))
    + w.getD 15 0

/-- The message schedule extended by `n` words (newest first). -/
def sha384Extend : Nat → List (BitVec 64) → List (BitVec 64)
  | 0, w => w
  | n + 1, w => sha384Extend n (sha384Next w :: w)

/-- Big-endian value of bytes. -/
def beNat (bs : List Byte) : Nat := bs.foldl (fun a b => 256 * a + b.toNat) 0

/-- One block of 128 bytes folded into the hash. -/
def sha384Block (h : List (BitVec 64)) (blk : List Byte) : List (BitVec 64) :=
  let w0 := ((upFrom 0 16).map fun i => BitVec.ofNat 64 (beNat (slice blk (8 * i) 8))).reverse
  let w := (sha384Extend 64 w0).reverse
  List.zipWith (· + ·) h ((sha384K.zip w).foldl sha384Round h)

/-- The blocks of the padded message folded in, `n` of them. -/
def sha384Blocks : Nat → List Byte → List (BitVec 64) → List (BitVec 64)
  | 0, _, h => h
  | n + 1, bs, h => sha384Blocks n (bs.drop 128) (sha384Block h (bs.take 128))

/-- A 64-bit word as big-endian bytes. -/
def beBytes8 (x : BitVec 64) : List Byte := (leBytes 8 x.toNat).reverse

/-- SHA-384 of bytes. -/
def sha384 (bs : List Byte) : List Byte :=
  let n := (bs.length + 17 + 127) / 128
  let pad := List.replicate (128 * n - bs.length - 17) (0 : Byte)
  let msg := bs ++ [0x80] ++ pad ++ (leBytes 16 (8 * bs.length)).reverse
  ((sha384Blocks n msg sha384H).take 6).flatMap beBytes8

end Sys2Proof.Machine
end

