-- ==== Sys2Proof/Machine/RegMap.lean ====
section
/-! DEFINITION. The setup window's register map (16, R353-R361): the offset of every register, its fields with their access
codes and reset values as the chapters' tables give them, and who may write it. -/

namespace Sys2Proof.Machine

/-- Registers of the setup window by name; `Reg` adds the indices. -/
inductive RegKind where
  -- module block
  | idPart | idRev | idSerialLo | idSerialHi | idDev | stStatus | bootPorts | hostCfg | opStatus | opPendLo | opPendHi
  | idTimingRev | tbCfg | tbSyncCfg | tbPresetLo | tbPresetHi | tbCountLo | tbCountHi | pwrStat | pwrEvt | snapLo | snapHi
  | snapCtl | setupErr | fwStat | fwVerLo | fwVerHi | fwKeyrev | stkRef | lampRoom | clkMonCfg | clkDutyCfg | clkMonStat
  | clkHist | canCfg | canThr | canScore | canAcc | fabLooseCfg | fabCcCfg | fabRtd | fabRt
  -- port block, first index the port
  | frtCtl | frtStat | frtDelay | frtReplay | fabXswLo | fabXswHi | wtTap | wtTapN | ethCfg | ethUdp | ethFlow | ethPeer
  | ethMac | ethIpSrc | ethIpDst | frtEvsel | frtEvcnt | frtEvsnap | fabKey | fabCal | fabCalc | fabIn | fabInc
  -- counter blocks
  | evsel | evcnt | evsnap | cevsel | cevcnt | cevsnap
  -- partition block, first index the partition
  | ptState | ptOwn | ptRings | ptKey | ptJobCfg | ptJobTopo | ptClu | ptSlack | ptSlackSnap | ptCxlDrop | ptSetupErr
  | ptHbmExt | ptGalRate | ptLamp | ptLampStat | ptAssayCtl | ptAssayShadow | ptWtTab | ptWtCfg | ptWtStat | ptWtGal
  | srvSlots | srvShape | srvTime | srvFlags | srvKv0 | srvKv1 | srvKv2 | srvTlog | srvPst | srvMap | srvGal | srvStat
  | srvClass | srvTbt | ptFrec
  -- ring records, first index the ring
  | sqAddrLo | sqAddrHi | sqCfg | ringPtr | cqAddrLo | cqAddrHi | cqCfg
  deriving DecidableEq, Repr

/-- A register: its name and its indices. -/
structure Reg where
  kind : RegKind
  i : Nat
  j : Nat
  deriving DecidableEq, Repr

/-- Access codes (00, table "Access codes"). -/
inductive Acc where
  | ro | rw | w1c | wo | s
  deriving DecidableEq, Repr

/-- A field of a register. -/
structure Field where
  hi : Nat
  lo : Nat
  acc : Acc
  reset : Nat
  deriving DecidableEq, Repr

/-- The fields of a register that are not reserved: bit range, access, reset (16 and the chapters its map names). -/
def RegKind.fields : RegKind → List Field
  | .idPart => [⟨31, 0, .ro, 0x880⟩]
  | .idRev => [⟨31, 16, .ro, 0⟩, ⟨15, 0, .ro, 0⟩]
  | .idSerialLo | .idSerialHi => [⟨31, 0, .ro, 0⟩]
  | .idDev => [⟨14, 13, .s, 0⟩, ⟨12, 0, .s, 0⟩]
  | .stStatus => [⟨31, 30, .ro, 0⟩, ⟨29, 26, .ro, 0⟩, ⟨25, 22, .ro, 0⟩, ⟨21, 15, .ro, 0x7F⟩, ⟨14, 11, .ro, 0⟩, ⟨10, 8, .ro, 0⟩, ⟨7, 7, .ro, 0⟩]
  | .bootPorts => [⟨15, 0, .s, 0⟩]
  | .hostCfg => [⟨11, 11, .ro, 0⟩, ⟨10, 10, .ro, 0⟩, ⟨3, 3, .s, 0⟩, ⟨2, 2, .s, 0⟩, ⟨1, 1, .s, 0⟩, ⟨0, 0, .s, 0⟩]
  | .opStatus => [⟨7, 7, .ro, 0⟩, ⟨6, 4, .ro, 0⟩, ⟨3, 3, .ro, 0⟩, ⟨2, 0, .ro, 0⟩]
  | .opPendLo | .opPendHi | .idTimingRev | .tbCountLo | .tbCountHi => [⟨31, 0, .ro, 0⟩]
  | .tbCfg => [⟨31, 31, .rw, 0⟩, ⟨27, 24, .rw, 0⟩, ⟨23, 20, .rw, 0⟩, ⟨12, 0, .rw, 0⟩]
  | .tbSyncCfg => [⟨31, 31, .rw, 0⟩, ⟨30, 30, .rw, 0⟩, ⟨29, 25, .rw, 0x14⟩, ⟨24, 24, .w1c, 0⟩]
  | .tbPresetLo | .tbPresetHi | .snapLo | .snapHi | .fabXswLo | .fabXswHi => [⟨31, 0, .rw, 0⟩]
  | .pwrStat => [⟨31, 31, .ro, 0⟩, ⟨30, 30, .ro, 0⟩, ⟨29, 29, .ro, 0⟩, ⟨28, 28, .ro, 0⟩, ⟨25, 16, .ro, 0⟩, ⟨15, 0, .ro, 0⟩]
  | .pwrEvt => [⟨4, 4, .w1c, 0⟩, ⟨3, 3, .w1c, 0⟩, ⟨2, 2, .w1c, 0⟩, ⟨1, 1, .w1c, 0⟩]
  | .snapCtl => [⟨1, 1, .rw, 0⟩, ⟨0, 0, .w1c, 0⟩]
  | .setupErr | .ptSetupErr => [⟨31, 31, .wo, 0⟩, ⟨30, 24, .ro, 0⟩, ⟨23, 21, .ro, 0⟩, ⟨20, 2, .ro, 0⟩, ⟨1, 1, .ro, 0⟩]
  | .fwStat => [⟨31, 31, .ro, 0⟩, ⟨30, 30, .ro, 0⟩, ⟨29, 29, .ro, 0⟩, ⟨28, 28, .w1c, 0⟩, ⟨27, 26, .ro, 0⟩, ⟨25, 22, .ro, 0⟩]
  | .fwVerLo | .fwVerHi => [⟨31, 0, .ro, 0⟩]
  | .fwKeyrev => [⟨3, 0, .ro, 0⟩]
  | .stkRef => [⟨31, 28, .s, 0xE⟩, ⟨27, 21, .s, 2⟩, ⟨20, 14, .s, 0⟩, ⟨13, 7, .s, 0x55⟩]
  | .lampRoom => [⟨26, 16, .ro, 0⟩, ⟨10, 0, .ro, 0x578⟩]
  | .clkMonCfg => [⟨31, 16, .rw, 0x40⟩, ⟨15, 11, .rw, 0x14⟩, ⟨10, 6, .rw, 0x0C⟩]
  | .clkDutyCfg => [⟨15, 8, .rw, 0x90⟩, ⟨7, 0, .rw, 0x70⟩]
  | .clkMonStat => [⟨31, 31, .w1c, 0⟩, ⟨30, 30, .w1c, 0⟩, ⟨29, 29, .w1c, 0⟩, ⟨28, 21, .ro, 0x80⟩, ⟨20, 20, .wo, 0⟩]
  | .clkHist => [⟨31, 0, .ro, 0⟩]
  | .canCfg => [⟨31, 24, .rw, 0⟩, ⟨20, 16, .rw, 0x0C⟩]
  | .canThr => [⟨25, 16, .rw, 0x3FF⟩, ⟨9, 0, .rw, 0x3FF⟩]
  | .canScore => [⟨31, 31, .w1c, 0⟩, ⟨30, 30, .w1c, 0⟩, ⟨9, 0, .ro, 0⟩]
  | .canAcc => [⟨31, 0, .ro, 0⟩]
  | .fabLooseCfg => [⟨31, 20, .rw, 0x99⟩, ⟨19, 16, .rw, 8⟩, ⟨9, 0, .rw, 0x100⟩]
  | .fabCcCfg => [⟨31, 28, .rw, 0xB⟩, ⟨27, 16, .rw, 0x320⟩, ⟨15, 8, .rw, 0x19⟩, ⟨7, 0, .rw, 8⟩]
  | .fabRtd | .fabRt => [⟨31, 31, .rw, 0⟩, ⟨30, 27, .rw, 0⟩, ⟨26, 26, .rw, 0⟩, ⟨25, 22, .rw, 0⟩, ⟨21, 21, .rw, 0⟩, ⟨20, 17, .rw, 0⟩, ⟨16, 16, .rw, 0⟩, ⟨15, 12, .rw, 0⟩]
  | .frtCtl => [⟨31, 31, .wo, 0⟩, ⟨30, 30, .rw, 0⟩, ⟨29, 28, .rw, 3⟩, ⟨27, 26, .rw, 0⟩, ⟨25, 23, .rw, 0⟩, ⟨22, 22, .rw, 0⟩, ⟨21, 21, .s, 0⟩, ⟨0, 0, .rw, 0⟩]
  | .frtStat => [⟨31, 29, .ro, 0⟩, ⟨28, 27, .ro, 0⟩, ⟨26, 25, .ro, 0⟩, ⟨24, 17, .ro, 0⟩, ⟨16, 4, .ro, 0⟩, ⟨3, 0, .ro, 0⟩]
  | .frtDelay => [⟨17, 0, .ro, 0⟩]
  | .frtReplay => [⟨31, 17, .ro, 0⟩, ⟨16, 2, .ro, 0⟩, ⟨1, 1, .ro, 0⟩]
  | .wtTap => [⟨31, 31, .rw, 0⟩, ⟨30, 30, .rw, 0⟩, ⟨29, 24, .rw, 0⟩, ⟨23, 19, .rw, 0⟩, ⟨15, 0, .rw, 0⟩]
  | .wtTapN => [⟨31, 16, .rw, 1⟩, ⟨15, 0, .ro, 0⟩]
  | .ethCfg => [⟨31, 26, .s, 0⟩, ⟨25, 18, .s, 0x40⟩, ⟨15, 11, .s, 5⟩]
  | .ethUdp => [⟨15, 0, .s, 0xB7A0⟩]
  | .ethFlow => [⟨19, 0, .s, 0⟩]
  | .ethPeer => [⟨14, 13, .s, 0⟩, ⟨12, 0, .s, 0⟩]
  | .ethMac => [⟨31, 0, .s, 0⟩]
  | .ethIpSrc | .ethIpDst => [⟨31, 0, .s, 0⟩]
  | .frtEvsel | .evsel | .cevsel => [⟨31, 31, .rw, 0⟩, ⟨30, 30, .rw, 0⟩, ⟨29, 25, .rw, 0⟩, ⟨11, 0, .rw, 0⟩]
  | .frtEvcnt | .frtEvsnap | .evcnt | .evsnap | .cevcnt | .cevsnap => [⟨31, 0, .ro, 0⟩]
  | .fabKey => [⟨31, 31, .rw, 0⟩, ⟨19, 0, .rw, 0⟩]
  | .fabCal => [⟨31, 30, .rw, 0⟩, ⟨29, 24, .rw, 0⟩, ⟨23, 18, .rw, 0⟩, ⟨17, 12, .rw, 0⟩, ⟨11, 11, .ro, 0⟩]
  | .fabCalc => [⟨31, 30, .ro, 0⟩, ⟨29, 24, .ro, 0⟩, ⟨23, 18, .ro, 0⟩, ⟨17, 12, .ro, 0⟩, ⟨11, 11, .ro, 0⟩]
  | .fabIn => [⟨31, 30, .rw, 0⟩, ⟨29, 26, .rw, 0⟩, ⟨25, 20, .rw, 0⟩, ⟨19, 14, .rw, 0⟩, ⟨13, 8, .rw, 0⟩, ⟨7, 2, .rw, 0⟩, ⟨1, 1, .ro, 0⟩]
  | .fabInc => [⟨31, 30, .ro, 0⟩, ⟨29, 26, .ro, 0⟩, ⟨25, 20, .ro, 0⟩, ⟨19, 14, .ro, 0⟩, ⟨13, 8, .ro, 0⟩, ⟨7, 2, .ro, 0⟩, ⟨1, 1, .ro, 0⟩]
  | .ptState => [⟨31, 29, .ro, 0⟩, ⟨28, 23, .ro, 0⟩, ⟨22, 17, .ro, 0⟩, ⟨16, 16, .ro, 0⟩]
  | .ptOwn => [⟨31, 31, .s, 0⟩, ⟨30, 29, .s, 0⟩, ⟨28, 24, .s, 0⟩]
  | .ptRings => [⟨31, 24, .s, 0⟩, ⟨23, 20, .s, 0⟩, ⟨19, 12, .s, 0⟩, ⟨11, 8, .s, 0⟩, ⟨7, 4, .s, 0⟩]
  | .ptKey => [⟨19, 0, .s, 0⟩]
  | .ptJobCfg => [⟨31, 16, .s, 0⟩]
  | .ptJobTopo => [⟨31, 0, .s, 0⟩]
  | .ptClu => [⟨31, 0, .s, 0⟩]
  | .ptSlack => [⟨31, 31, .wo, 0⟩, ⟨23, 0, .ro, 0x7FFFFF⟩]
  | .ptSlackSnap => [⟨23, 0, .ro, 0x7FFFFF⟩]
  | .ptCxlDrop => [⟨31, 0, .ro, 0⟩]
  | .ptHbmExt => [⟨31, 16, .s, 0⟩, ⟨15, 0, .s, 0⟩]
  | .ptGalRate => [⟨15, 8, .s, 0⟩, ⟨7, 0, .s, 0⟩]
  | .ptLamp => [⟨22, 16, .s, 0⟩, ⟨10, 0, .s, 0⟩]
  | .ptLampStat => [⟨10, 0, .ro, 0⟩]
  | .ptAssayCtl => [⟨7, 6, .s, 2⟩, ⟨5, 5, .s, 1⟩, ⟨4, 4, .s, 1⟩, ⟨3, 3, .s, 1⟩, ⟨2, 2, .s, 1⟩, ⟨1, 1, .s, 1⟩, ⟨0, 0, .s, 0⟩]
  | .ptAssayShadow => [⟨18, 0, .s, 0⟩]
  | .ptWtTab => [⟨31, 4, .s, 0⟩]
  | .ptWtCfg => [⟨31, 31, .rw, 0⟩, ⟨30, 16, .rw, 0x64⟩, ⟨15, 0, .rw, 0x2710⟩]
  | .ptWtStat => [⟨31, 29, .ro, 0⟩, ⟨28, 21, .ro, 0⟩, ⟨15, 0, .ro, 0xFFFF⟩]
  | .ptWtGal => [⟨31, 0, .ro, 0⟩]
  | .srvSlots => [⟨31, 21, .s, 0⟩, ⟨9, 0, .s, 0⟩]
  | .srvShape => [⟨31, 22, .s, 0⟩, ⟨21, 18, .s, 0⟩, ⟨17, 13, .s, 0⟩, ⟨12, 0, .s, 0⟩]
  | .srvTime => [⟨31, 16, .s, 0⟩, ⟨15, 0, .s, 0⟩]
  | .srvFlags => [⟨23, 18, .s, 0⟩, ⟨17, 12, .s, 0⟩, ⟨11, 6, .s, 0⟩, ⟨5, 0, .s, 0⟩]
  | .srvKv0 | .srvTlog | .srvPst | .srvMap => [⟨31, 4, .s, 0⟩]
  | .srvKv1 => [⟨31, 12, .s, 0⟩, ⟨11, 0, .s, 0⟩]
  | .srvKv2 => [⟨31, 16, .s, 0⟩, ⟨12, 0, .s, 0⟩]
  | .srvGal => [⟨31, 16, .rw, 0⟩]
  | .srvStat => [⟨31, 21, .ro, 0⟩, ⟨20, 10, .ro, 0⟩, ⟨1, 1, .ro, 0⟩, ⟨0, 0, .ro, 0⟩]
  | .srvClass => [⟨31, 20, .rw, 0⟩, ⟨19, 3, .rw, 0xE10⟩, ⟨2, 2, .rw, 0⟩]
  | .srvTbt => [⟨19, 0, .rw, 0⟩]
  | .ptFrec => [⟨31, 0, .ro, 0⟩]
  | .sqAddrLo | .cqAddrLo => [⟨31, 12, .rw, 0⟩]
  | .sqAddrHi | .cqAddrHi => [⟨31, 0, .rw, 0⟩]
  | .sqCfg => [⟨31, 31, .rw, 0⟩, ⟨30, 30, .ro, 0⟩, ⟨29, 25, .rw, 6⟩, ⟨24, 17, .rw, 0⟩]
  | .cqCfg => [⟨31, 31, .rw, 0⟩, ⟨30, 30, .rw, 0⟩, ⟨29, 25, .rw, 6⟩, ⟨24, 19, .rw, 0⟩, ⟨18, 11, .rw, 0⟩]
  | .ringPtr => [⟨31, 16, .ro, 0⟩, ⟨15, 0, .ro, 0⟩]

/-- The fields of one register: PT_CLU_2 holds only bits [1:0] (16), the high words of the MAC registers only [15:0] (09,
R227), ETH_MODE exists on F12 to F15 only (08, R207). -/
def Reg.fields (r : Reg) : List Field :=
  match r.kind with
  | .ptClu => if r.j = 2 then [⟨1, 0, .s, 0⟩] else r.kind.fields
  | .ethMac => if r.j = 1 ∨ r.j = 3 then [⟨15, 0, .s, 0⟩] else r.kind.fields
  | .frtCtl => if r.i < 12 then r.kind.fields.filter (fun f => f.lo ≠ 21) else r.kind.fields
  | .evcnt | .evsnap | .frtEvcnt | .frtEvsnap => if r.j % 2 = 1 then [⟨31, 31, .ro, 0⟩, ⟨15, 0, .ro, 0⟩] else r.kind.fields
  | _ => r.kind.fields

/-- Place a field's value. -/
def Field.place (f : Field) (v : Nat) : Nat := (v % 2 ^ (f.hi + 1 - f.lo)) <<< f.lo

/-- The value of a field in a word. -/
def Field.of (f : Field) (w : W32) : Nat := rf w f.hi f.lo

/-- The documented reset value of a register. -/
def Reg.reset (r : Reg) : W32 := BitVec.ofNat 32 ((r.fields.map fun f => f.place f.reset).foldl (· + ·) 0)

/-- Setup-window offset of a register (16, the block maps). Die and core counter blocks take the counter and word in `j`. -/
def Reg.off (r : Reg) : Nat :=
  let p := 0x10000 + 0x2000 * r.i
  let b := 0x100000 + 0x1000 * r.i
  let q := 0x120000 + 0x20 * r.i
  match r.kind with
  | .idPart => 0x0 | .idRev => 0x4 | .idSerialLo => 0x8 | .idSerialHi => 0xC | .idDev => 0x10 | .stStatus => 0x14
  | .bootPorts => 0x18 | .hostCfg => 0x1C | .opStatus => 0x20 | .opPendLo => 0x24 | .opPendHi => 0x28 | .idTimingRev => 0x2C
  | .tbCfg => 0x30 | .tbSyncCfg => 0x34 | .tbPresetLo => 0x38 | .tbPresetHi => 0x3C | .tbCountLo => 0x40 | .tbCountHi => 0x44
  | .pwrStat => 0x50 | .pwrEvt => 0x54 | .snapLo => 0x60 | .snapHi => 0x64 | .snapCtl => 0x68 | .setupErr => 0x70
  | .fwStat => 0x80 + 0x10 * (r.i - 1) | .fwVerLo => 0x84 + 0x10 * (r.i - 1) | .fwVerHi => 0x88 + 0x10 * (r.i - 1)
  | .fwKeyrev => 0xC0 | .stkRef => 0x1000 + 4 * r.i | .lampRoom => 0x1040 + 4 * r.i
  | .clkMonCfg => 0x2000 + 0x100 * r.i | .clkDutyCfg => 0x2004 + 0x100 * r.i | .clkMonStat => 0x2008 + 0x100 * r.i
  | .clkHist => 0x2080 + 0x100 * r.i + 4 * r.j | .canCfg => 0x4000 + 0x10 * r.i + 4 * r.j | .canThr => 0x4080 + 4 * r.i
  | .canScore => 0x4100 + 4 * r.i | .canAcc => 0x4400 + 0x10 * r.i + 4 * r.j | .fabLooseCfg => 0x5000 | .fabCcCfg => 0x5004
  | .fabRtd => 0x5010 + 4 * r.i | .fabRt => 0x8000 + 4 * r.i
  | .frtCtl => p | .frtStat => p + 0x4 | .frtDelay => p + 0x8 | .frtReplay => p + 0xC | .fabXswLo => p + 0x10 | .fabXswHi => p + 0x14
  | .wtTap => p + 0x20 | .wtTapN => p + 0x24 | .ethCfg => p + 0x40 | .ethUdp => p + 0x44 | .ethFlow => p + 0x48 | .ethPeer => p + 0x4C
  | .ethMac => p + 0x50 + 4 * r.j | .ethIpSrc => p + 0x60 + 4 * r.j | .ethIpDst => p + 0x70 + 4 * r.j
  | .frtEvsel => p + 0x80 + 4 * r.j | .frtEvcnt => p + 0xC0 + 4 * r.j | .frtEvsnap => p + 0x100 + 4 * r.j
  | .fabKey => p + 0x200 + 4 * r.j | .fabCal => p + 0x400 + 4 * r.j | .fabCalc => p + 0x500 + 4 * r.j
  | .fabIn => p + 0x600 + 4 * r.j | .fabInc => p + 0x700 + 4 * r.j
  | .evsel => 0x30000 + 0x1000 * r.i + 4 * r.j | .evcnt => 0x30200 + 0x1000 * r.i + 4 * r.j | .evsnap => 0x30400 + 0x1000 * r.i + 4 * r.j
  | .cevsel => 0x40000 + 0x100 * r.i + 4 * r.j | .cevcnt => 0x40010 + 0x100 * r.i + 4 * r.j | .cevsnap => 0x40020 + 0x100 * r.i + 4 * r.j
  | .ptState => b | .ptOwn => b + 0x4 | .ptRings => b + 0x8 | .ptKey => b + 0xC | .ptJobCfg => b + 0x10 | .ptJobTopo => b + 0x14
  | .ptClu => b + 0x18 + 4 * r.j | .ptSlack => b + 0x24 | .ptSlackSnap => b + 0x28 | .ptCxlDrop => b + 0x2C | .ptSetupErr => b + 0x30
  | .ptHbmExt => b + 0x40 + 4 * r.j | .ptGalRate => b + 0x70 | .ptLamp => b + 0x80 + 4 * r.j | .ptLampStat => b + 0xA0 + 4 * r.j
  | .ptAssayCtl => b + 0xC0 | .ptAssayShadow => b + 0xC4 | .ptWtTab => b + 0x100 | .ptWtCfg => b + 0x104 | .ptWtStat => b + 0x108
  | .ptWtGal => b + 0x10C | .srvSlots => b + 0x140 | .srvShape => b + 0x144 | .srvTime => b + 0x148 | .srvFlags => b + 0x14C
  | .srvKv0 => b + 0x150 | .srvKv1 => b + 0x154 | .srvKv2 => b + 0x158 | .srvTlog => b + 0x15C | .srvPst => b + 0x160
  | .srvMap => b + 0x164 | .srvGal => b + 0x168 | .srvStat => b + 0x16C | .srvClass => b + 0x180 + 4 * r.j
  | .srvTbt => b + 0x1A0 + 4 * r.j | .ptFrec => b + 0x200 + 4 * r.j
  | .sqAddrLo => q | .sqAddrHi => q + 0x4 | .sqCfg => q + 0x8 | .ringPtr => q + 0xC | .cqAddrLo => q + 0x10 | .cqAddrHi => q + 0x14
  | .cqCfg => q + 0x18

/-- Register `kind` with an index for each 4-byte step from `base` on, `n` of them. -/
def steps (k : RegKind) (i off base n : Nat) : Option Reg :=
  if base ≤ off ∧ off < base + 4 * n ∧ (off - base) % 4 = 0 then some ⟨k, i, (off - base) / 4⟩ else none

/-- As `steps`, with the step in the first index. -/
def steps1 (k : RegKind) (off base n : Nat) : Option Reg := (steps k 0 off base n).map fun r => ⟨k, r.j, 0⟩

/-- The first register found. -/
def firstOf : List (Option Reg) → Option Reg
  | [] => none
  | some r :: _ => some r
  | none :: l => firstOf l

/-- Registers of the module block at fixed offsets below 0x1000 (16). -/
def regLow (off : Nat) : Option Reg :=
  match off with
  | 0x0 => some ⟨.idPart, 0, 0⟩ | 0x4 => some ⟨.idRev, 0, 0⟩ | 0x8 => some ⟨.idSerialLo, 0, 0⟩ | 0xC => some ⟨.idSerialHi, 0, 0⟩
  | 0x10 => some ⟨.idDev, 0, 0⟩ | 0x14 => some ⟨.stStatus, 0, 0⟩ | 0x18 => some ⟨.bootPorts, 0, 0⟩ | 0x1C => some ⟨.hostCfg, 0, 0⟩
  | 0x20 => some ⟨.opStatus, 0, 0⟩ | 0x24 => some ⟨.opPendLo, 0, 0⟩ | 0x28 => some ⟨.opPendHi, 0, 0⟩ | 0x2C => some ⟨.idTimingRev, 0, 0⟩
  | 0x30 => some ⟨.tbCfg, 0, 0⟩ | 0x34 => some ⟨.tbSyncCfg, 0, 0⟩ | 0x38 => some ⟨.tbPresetLo, 0, 0⟩ | 0x3C => some ⟨.tbPresetHi, 0, 0⟩
  | 0x40 => some ⟨.tbCountLo, 0, 0⟩ | 0x44 => some ⟨.tbCountHi, 0, 0⟩ | 0x50 => some ⟨.pwrStat, 0, 0⟩ | 0x54 => some ⟨.pwrEvt, 0, 0⟩
  | 0x60 => some ⟨.snapLo, 0, 0⟩ | 0x64 => some ⟨.snapHi, 0, 0⟩ | 0x68 => some ⟨.snapCtl, 0, 0⟩ | 0x70 => some ⟨.setupErr, 0, 0⟩
  | 0xC0 => some ⟨.fwKeyrev, 0, 0⟩
  | _ =>
    if 0x80 ≤ off ∧ off < 0xC0 then
      let c := (off - 0x80) / 0x10 + 1
      match (off - 0x80) % 0x10 with
      | 0 => some ⟨.fwStat, c, 0⟩ | 4 => some ⟨.fwVerLo, c, 0⟩ | 8 => some ⟨.fwVerHi, c, 0⟩ | _ => none
    else none

/-- Registers of a port block at an offset within the block (16, "Port block of Fp"). -/
def regPort (p o : Nat) : Option Reg :=
  match o with
  | 0x0 => some ⟨.frtCtl, p, 0⟩ | 0x4 => some ⟨.frtStat, p, 0⟩ | 0x8 => some ⟨.frtDelay, p, 0⟩ | 0xC => some ⟨.frtReplay, p, 0⟩
  | 0x10 => some ⟨.fabXswLo, p, 0⟩ | 0x14 => some ⟨.fabXswHi, p, 0⟩ | 0x20 => some ⟨.wtTap, p, 0⟩ | 0x24 => some ⟨.wtTapN, p, 0⟩
  | _ =>
    if o < 0x80 ∧ p < 12 then none else
    firstOf [if o = 0x40 then some ⟨.ethCfg, p, 0⟩ else none, if o = 0x44 then some ⟨.ethUdp, p, 0⟩ else none,
      if o = 0x48 then some ⟨.ethFlow, p, 0⟩ else none, if o = 0x4C then some ⟨.ethPeer, p, 0⟩ else none,
      steps .ethMac p o 0x50 4, steps .ethIpSrc p o 0x60 4, steps .ethIpDst p o 0x70 4, steps .frtEvsel p o 0x80 8,
      steps .frtEvcnt p o 0xC0 16, steps .frtEvsnap p o 0x100 16, steps .fabKey p o 0x200 64, steps .fabCal p o 0x400 64,
      steps .fabCalc p o 0x500 64, steps .fabIn p o 0x600 64, steps .fabInc p o 0x700 64]

/-- Registers of a partition block at an offset within the block (16, "Partition block map"). -/
def regPart (n o : Nat) : Option Reg :=
  match o with
  | 0x0 => some ⟨.ptState, n, 0⟩ | 0x4 => some ⟨.ptOwn, n, 0⟩ | 0x8 => some ⟨.ptRings, n, 0⟩ | 0xC => some ⟨.ptKey, n, 0⟩
  | 0x10 => some ⟨.ptJobCfg, n, 0⟩ | 0x14 => some ⟨.ptJobTopo, n, 0⟩ | 0x24 => some ⟨.ptSlack, n, 0⟩ | 0x28 => some ⟨.ptSlackSnap, n, 0⟩
  | 0x2C => some ⟨.ptCxlDrop, n, 0⟩ | 0x30 => some ⟨.ptSetupErr, n, 0⟩ | 0x70 => some ⟨.ptGalRate, n, 0⟩
  | 0xC0 => some ⟨.ptAssayCtl, n, 0⟩ | 0xC4 => some ⟨.ptAssayShadow, n, 0⟩ | 0x100 => some ⟨.ptWtTab, n, 0⟩ | 0x104 => some ⟨.ptWtCfg, n, 0⟩
  | 0x108 => some ⟨.ptWtStat, n, 0⟩ | 0x10C => some ⟨.ptWtGal, n, 0⟩ | 0x140 => some ⟨.srvSlots, n, 0⟩ | 0x144 => some ⟨.srvShape, n, 0⟩
  | 0x148 => some ⟨.srvTime, n, 0⟩ | 0x14C => some ⟨.srvFlags, n, 0⟩ | 0x150 => some ⟨.srvKv0, n, 0⟩ | 0x154 => some ⟨.srvKv1, n, 0⟩
  | 0x158 => some ⟨.srvKv2, n, 0⟩ | 0x15C => some ⟨.srvTlog, n, 0⟩ | 0x160 => some ⟨.srvPst, n, 0⟩ | 0x164 => some ⟨.srvMap, n, 0⟩
  | 0x168 => some ⟨.srvGal, n, 0⟩ | 0x16C => some ⟨.srvStat, n, 0⟩
  | _ => firstOf [steps .ptClu n o 0x18 3, steps .ptHbmExt n o 0x40 12, steps .ptLamp n o 0x80 6, steps .ptLampStat n o 0xA0 6,
      steps .srvClass n o 0x180 8, steps .srvTbt n o 0x1A0 8, steps .ptFrec n o 0x200 16]

/-- Registers of a ring record at an offset within the record (16, R354). -/
def regRing (q o : Nat) : Option Reg :=
  match o with
  | 0x0 => some ⟨.sqAddrLo, q, 0⟩ | 0x4 => some ⟨.sqAddrHi, q, 0⟩ | 0x8 => some ⟨.sqCfg, q, 0⟩ | 0xC => some ⟨.ringPtr, q, 0⟩
  | 0x10 => some ⟨.cqAddrLo, q, 0⟩ | 0x14 => some ⟨.cqAddrHi, q, 0⟩ | 0x18 => some ⟨.cqCfg, q, 0⟩ | _ => none

/-- The register at an offset of the setup window; `none` where the offset is reserved (16, R353, R354). -/
def Reg.at (off : Nat) : Option Reg :=
  if off % 4 ≠ 0 then none
  else if off < 0x1000 then regLow off
  else if off < 0x2000 then firstOf [steps1 .stkRef off 0x1000 12, steps1 .lampRoom off 0x1040 6]
  else if off < 0x4000 then
    let d := (off - 0x2000) / 0x100
    let o := (off - 0x2000) % 0x100
    if d < 18 then
      firstOf [if o = 0 then some ⟨.clkMonCfg, d, 0⟩ else none, if o = 4 then some ⟨.clkDutyCfg, d, 0⟩ else none,
        if o = 8 then some ⟨.clkMonStat, d, 0⟩ else none, steps .clkHist d o 0x80 32]
    else none
  else if off < 0x5000 then
    firstOf [if off < 0x4050 then some ⟨.canCfg, (off - 0x4000) / 0x10, (off - 0x4000) % 0x10 / 4⟩ else none,
      steps1 .canThr off 0x4080 5, steps1 .canScore off 0x4100 67,
      if 0x4400 ≤ off ∧ off < 0x4400 + 0x10 * 67 then some ⟨.canAcc, (off - 0x4400) / 0x10, (off - 0x4400) % 0x10 / 4⟩ else none]
  else if off < 0x8000 then
    firstOf [if off = 0x5000 then some ⟨.fabLooseCfg, 0, 0⟩ else none, if off = 0x5004 then some ⟨.fabCcCfg, 0, 0⟩ else none,
      steps1 .fabRtd off 0x5010 4]
  else if off < 0x10000 then steps1 .fabRt off 0x8000 8192
  else if off < 0x30000 then regPort ((off - 0x10000) / 0x2000) ((off - 0x10000) % 0x2000)
  else if off < 0x38000 then
    let x := (off - 0x30000) / 0x1000
    let o := (off - 0x30000) % 0x1000
    firstOf [steps .evsel x o 0 64, steps .evcnt x o 0x200 128, steps .evsnap x o 0x400 128]
  else if off < 0x40000 then none
  else if off < 0x40000 + 0x100 * 528 then
    let c := (off - 0x40000) / 0x100
    let o := (off - 0x40000) % 0x100
    firstOf [steps .cevsel c o 0 4, steps .cevcnt c o 0x10 4, steps .cevsnap c o 0x20 4]
  else if off < 0x100000 then none
  else if off < 0x120000 then regPart ((off - 0x100000) / 0x1000) ((off - 0x100000) % 0x1000)
  else if off < 0x122000 then regRing ((off - 0x120000) / 0x20) ((off - 0x120000) % 0x20)
  else none

/-- The register is written only through REG_WRITE (16, "Writer" columns): the whole module block, and the partition
registers marked Tree. -/
def RegKind.treeOnly : RegKind → Bool
  | .ptOwn | .ptRings | .ptKey | .ptJobCfg | .ptJobTopo | .ptClu | .ptHbmExt | .ptGalRate | .ptLamp => true
  | _ => false

/-- Stored configuration bits of a register: the value written, else its reset value. -/
def cfg (s : State) (k : RegKind) (i j : Nat) : W32 :=
  let r : Reg := ⟨k, i, j⟩
  Tab.get r.reset s.regs r.off

/-- Set stored configuration bits. -/
def setCfg (s : State) (k : RegKind) (i j : Nat) (v : W32) : State :=
  let r : Reg := ⟨k, i, j⟩
  { s with regs := Tab.write r.reset s.regs r.off v }

/-- A field of a stored register. -/
def cf (s : State) (k : RegKind) (i j hi lo : Nat) : Nat := rf (cfg s k i j) hi lo

end Sys2Proof.Machine
end

