-- ==== Sys2Proof/Machine/Ops.lean ====
section
/-! DEFINITION. The shared operations: parts of the state by index, time, outputs and counted events, the bytes of the
stores and stacks, records for hosts, and stopping a partition (13, R288-R291), which every fault takes. -/

namespace Sys2Proof

/-- Number of a host link: the code of LINK (12, R267). -/
def Link.ix : Link → Nat
  | .h0a => 0 | .h0b => 1 | .h1a => 2 | .h1b => 3

/-- Code of a queue (04, R107). -/
def Queue.code : Queue → Nat
  | .m0 => 0 | .m1 => 1 | .v => 2 | .x => 3 | .seq => 4

/-- Number of a unit. -/
def EngUnit.code : EngUnit → Nat
  | .m0c => 0 | .m0l => 1 | .m1c => 2 | .m1l => 3 | .v => 4 | .x => 5

/-- Body of a JOB_STOP ordered set (08, R187). -/
def JobStopBody.bytes (b : JobStopBody) : List Byte :=
  Machine.leBytes 8 (Machine.at_ b.key.toNat 44 + Machine.at_ b.domain.toNat 42 + Machine.at_ b.origin.toNat 29 + b.reason.toNat) ++ Machine.leBytes 8 (b.stopTime % 2 ^ 64)

/-- ORIGIN and STOP_TIME of a JOB_STOP, which name it (08, R187). -/
def JobStopBody.pair (b : JobStopBody) : Nat × Nat := (b.origin.toNat + 8192 * b.domain.toNat, b.stopTime)

end Sys2Proof

namespace Sys2Proof.Machine

/-! ### Parts of the state -/

def State.part (s : State) (n : Nat) : Part := Tab.get Part.reset s.parts n
def State.setPart (s : State) (n : Nat) (p : Part) : State := { s with parts := Tab.put s.parts n p }
def State.updPart (s : State) (n : Nat) (f : Part → Part) : State := s.setPart n (f (s.part n))

def State.core (s : State) (c : CoreId) : Core := Tab.get Core.reset s.cores c.ix
def State.setCore (s : State) (c : CoreId) (k : Core) : State := { s with cores := Tab.put s.cores c.ix k }
def State.updCore (s : State) (c : CoreId) (f : Core → Core) : State := s.setCore c (f (s.core c))

def State.port (s : State) (n : Nat) : FPort := Tab.get FPort.reset s.ports n
def State.setPort (s : State) (n : Nat) (p : FPort) : State := { s with ports := Tab.put s.ports n p }
def State.updPort (s : State) (n : Nat) (f : FPort → FPort) : State := s.setPort n (f (s.port n))

def State.stack (s : State) (n : Nat) : Stack := Tab.get Stack.reset s.hbmStk n
def State.setStack (s : State) (n : Nat) (k : Stack) : State := { s with hbmStk := Tab.put s.hbmStk n k }
def State.updStack (s : State) (n : Nat) (f : Stack → Stack) : State := s.setStack n (f (s.stack n))

def State.region (s : State) (n : Nat) : Region := Tab.get Region.reset s.regions n
def State.updRegion (s : State) (n : Nat) (f : Region → Region) : State :=
  { s with regions := Tab.put s.regions n (f (s.region n)) }

def State.domain (s : State) (n : Nat) : Domain := Tab.get Domain.reset s.domains n
def State.updDomain (s : State) (n : Nat) (f : Domain → Domain) : State :=
  { s with domains := Tab.put s.domains n (f (s.domain n)) }

def State.crossing (s : State) (n : Nat) : Crossing := Tab.get Crossing.reset s.crossings n
def State.updCrossing (s : State) (n : Nat) (f : Crossing → Crossing) : State :=
  { s with crossings := Tab.put s.crossings n (f (s.crossing n)) }

def State.link (s : State) (l : Link) : HostLink := Tab.get HostLink.reset s.links l.ix
def State.updLink (s : State) (l : Link) (f : HostLink → HostLink) : State :=
  { s with links := Tab.put s.links l.ix (f (s.link l)) }

def State.ring (s : State) (q : Nat) : Ring := Tab.get Ring.reset s.rings q
def State.setRing (s : State) (q : Nat) (r : Ring) : State := { s with rings := Tab.put s.rings q r }
def State.updRing (s : State) (q : Nat) (f : Ring → Ring) : State := s.setRing q (f (s.ring q))

def State.can (s : State) (n : Nat) : Canary := Tab.get Canary.reset s.canary n
def State.updCan (s : State) (n : Nat) (f : Canary → Canary) : State := { s with canary := Tab.put s.canary n (f (s.can n)) }

/-- Core number k read back as an identifier. -/
def coreOfIx (k : Nat) : CoreId :=
  { die := ⟨k / 88 % 6, Nat.mod_lt _ (by decide)⟩, clu := ⟨k % 88 / 8 % 11, Nat.mod_lt _ (by decide)⟩,
    core := ⟨k % 8, Nat.mod_lt _ (by decide)⟩ }

/-! ### Time -/

/-- Frequency of the compute regions at an operating point, in MHz (07, "Operating points"). -/
def opMHz : Nat → Nat
  | 0 => 1750 | 1 => 1550 | 2 => 1350 | 3 => 1100 | _ => 800

/-- Core-rail voltage at an operating point, in mV (07, "Operating points"). -/
def opMv : Nat → Nat
  | 0 => 720 | 1 => 680 | 2 => 640 | 3 => 600 | _ => 550

/-- The timebase count in force. -/
def State.now (s : State) : Count := s.tb.count

/-- The count in force is `t` after `advance`, or the present tick is the one that went past `t`: what falls at `t` falls at this moment (01, R17,
"first equals or exceeds"). -/
def State.atCount (s : State) (t : Count) : Bool := s.tb.running && (decide (s.tb.count = t) || (s.tb.jumped && decide (s.tb.count = t + 1)))

/-- Number of a core's compute region: 2 × die, plus 1 for logical clusters 6 to 10 (07, "Droop-tracking oscillators"). -/
def regionOf (c : CoreId) : Nat := 2 * c.die.val + if c.clu.val < 6 then 0 else 1

/-- Cycles a compute region's clock has counted. -/
def State.regionCyc (s : State) (r : Nat) : Nat := (s.op.milliCyc - (s.region r).lostMilli) / 1000

/-- Cycles a core's region clock has counted. -/
def State.cycles (s : State) (c : CoreId) : Nat := s.regionCyc (regionOf c)

/-- Nanoseconds by which the count has gone past an edge: none at the tick that went past it (01, R17, R22). -/
def State.lateBy (s : State) (edge : Int) : Nat :=
  let d := ((s.now : Int) - edge).toNat
  if d = 1 ∧ s.tb.jumped then 0 else d

/-! ### Outputs -/

/-- Emit an output. -/
def State.emit (s : State) (o : Out) : State := { s with outbox := s.outbox ++ [o] }

/-- A free value's mark, and the counter moved on. -/
def State.takeFresh (s : State) : Nat × State := (s.fresh, { s with fresh := s.fresh + 1 })

/-- Management answers the headframe controller can give: one controller runs and HF is not lost (13, R311; 14, R312). -/
def State.managed (s : State) : Bool :=
  s.power.stbyOk && (s.hf.e0Up || s.hf.e1Up) && !(s.domain 1).lost

/-- Send a platform event on MA and MB, kept until acknowledged (13, R308). With HF lost nothing is reported (R311). -/
def State.platform (s : State) (k : EventKind) (arg : Nat) : State :=
  if s.managed then
    let e : PlatEvent := { id := s.hf.nextEvent, kind := k, arg := arg }
    let s := { s with hf := { s.hf with events := s.hf.events ++ [e], nextEvent := s.hf.nextEvent + 1 } }
    s.emit (.platform e)
  else s

/-- ALARM# (15, R344): a canary ALARM bit is latched, HF is lost, or both headframe controllers have failed to boot. -/
def State.alarm (s : State) : Bool := s.canary.any (fun e => e.2.alarm) || (s.domain 1).lost || s.hf.bothFailed

/-- Emit the level of ALARM# when it differs from the level before. -/
def State.alarmEdge (s : State) (before : Bool) : State := if s.alarm = before then s else s.emit (.alarm s.alarm)

/-! ### Counted events (13, R304-R306) -/

/-- Occurrences the manual says are counted. -/
inductive Ev where
  -- group 0x0
  | lateBeat (cause : Fin 10) | commandRefused | skipped
  -- group 0x1, 0x2
  | pass | weightLoad | stencilClip | spread | vop | move
  -- group 0x3
  | storeCorrected | storePoisoned | portRotation
  -- group 0x4
  | lampStall
  -- group 0x5
  | stretchCycles | stretchTime | code4 | crossHold | recentre | jitAlarm | dutyAlarm
  -- group 0x6
  | routerQueue | dieQueue | stray | linkRetry
  -- group 0x7
  | emergencyRefresh | windowWait | channelQueue | sectorCorrected | sectorPoisoned | hot
  -- group 0x8
  | corrupted | resend | tailingsRead | windowDiscard | duplicate | retrain | replayFull | osDiscard | retryOverrun
  | auditSkip | cableExcess | unacceptedFlit
  -- group 0x9
  | keyDrop | unmapped | unroutable | stale | malformed | partialDiscard | marked | linkLostPort | linkLostRoute
  | linkLostTimeout | lateResponse | tapDiscard | ethDrop | strayCredit
  -- group 0xA
  | doorbellRefused | cxlDrop | limiterRead | limiterWrite
  -- group 0xB
  | passOverVariant | passOverPages | galShortfall
  -- group 0xC
  | markIgnored | correction | timebaseUnlocked
  -- group 0xD
  | faultStop | secondaryCause | ledger | discardedRequest | discardedMessage | assayOverrun
  deriving DecidableEq, Repr

/-- Group of a counted event (13, "Event groups"). -/
def Ev.group : Ev → Nat
  | .lateBeat _ | .commandRefused | .skipped => 0x0
  | .pass | .weightLoad => 0x1
  | .stencilClip | .spread | .vop | .move => 0x2
  | .storeCorrected | .storePoisoned | .portRotation => 0x3
  | .lampStall => 0x4
  | .stretchCycles | .stretchTime | .code4 | .crossHold | .recentre | .jitAlarm | .dutyAlarm => 0x5
  | .routerQueue | .dieQueue | .stray | .linkRetry => 0x6
  | .emergencyRefresh | .windowWait | .channelQueue | .sectorCorrected | .sectorPoisoned | .hot => 0x7
  | .corrupted | .resend | .tailingsRead | .windowDiscard | .duplicate | .retrain | .replayFull | .osDiscard | .retryOverrun
  | .auditSkip | .cableExcess | .unacceptedFlit => 0x8
  | .keyDrop | .unmapped | .unroutable | .stale | .malformed | .partialDiscard | .marked | .linkLostPort | .linkLostRoute
  | .linkLostTimeout | .lateResponse | .tapDiscard | .ethDrop | .strayCredit => 0x9
  | .doorbellRefused | .cxlDrop | .limiterRead | .limiterWrite => 0xA
  | .passOverVariant | .passOverPages | .galShortfall => 0xB
  | .markIgnored | .correction | .timebaseUnlocked => 0xC
  | .faultStop | .secondaryCause | .ledger | .discardedRequest | .discardedMessage | .assayOverrun => 0xD

/-- Number of a counted event in the table of totals. -/
def Ev.num : Ev → Nat
  | .lateBeat c => c.val
  | e => 16 + e.ctorIdx

/-- Catalogue code of an event: its group in [11:8], and a low byte that the catalogue fixes (free value, log 7). -/
def Ev.code (e : Ev) : Nat := 256 * e.group + (Config.eventLow e.num).toNat

/-- Where an event is counted: a die (0 to 7 as DIE of R293), a port, or a core. -/
inductive Where where
  | die (x : Nat) | port (p : Nat) | core (c : CoreId)
  deriving DecidableEq, Repr

/-- A selection register counts the event: EN, the code, and PT when PTF is set (13, R304). -/
def selects (w : W32) (code : Nat) (pt : Option Nat) : Bool :=
  rb w 31 && decide (rf w 11 0 = code) && (!rb w 30 || decide (pt = some (rf w 29 25)))

/-- Offsets of the selection registers that may count at a place, with their count registers and limits. -/
def counterOf (wh : Where) (off : Nat) : Option (Nat × Nat) :=
  match wh with
  | .die x =>
    let b := 0x30000 + 0x1000 * x
    if b ≤ off ∧ off < b + 0x100 then some (b + 0x200 + 2 * (off - b), 2 ^ 48 - 1) else none
  | .port p =>
    let b := 0x10000 + 0x2000 * p + 0x80
    if b ≤ off ∧ off < b + 0x20 then some (b + 0x40 + 2 * (off - b), 2 ^ 48 - 1) else none
  | .core c =>
    let b := 0x40000 + 0x100 * c.ix
    if b ≤ off ∧ off < b + 0x10 then some (b + 0x10 + (off - b), 2 ^ 32 - 1) else none

/-- Counters of one place that the event moves by `n`; a 48-bit counter saturates with OVF kept as bit 48 of the count. -/
def bumpCounters (s : State) (e : Ev) (wh : Where) (pt : Option Nat) (n : Nat) : Tab Nat :=
  s.regs.foldl (fun cs ow =>
    match counterOf wh ow.1 with
    | none => cs
    | some (o, lim) =>
      if rb ow.2 31 then
        if selects ow.2 e.code pt then
          let v := Tab.get 0 cs o
          let x := v % 2 ^ 48 + n
          Tab.put cs o (if lim < x then (if lim = 2 ^ 48 - 1 then lim + 2 ^ 48 else lim) else x + 2 ^ 48 * (v / 2 ^ 48))
        else cs
      else cs) s.counts

/-- Count an event `n` times at a place, for a partition when one is concerned. -/
def State.countN (s : State) (e : Ev) (wh : Where) (pt : Option Nat) (n : Nat) : State :=
  { s with events := Tab.put s.events e.num (Tab.get 0 s.events e.num + n), counts := bumpCounters s e wh pt n }

/-- Count an event once. -/
def State.count (s : State) (e : Ev) (wh : Where) (pt : Option Nat) : State := s.countN e wh pt 1

/-- Ticks by which the slew of R15 corrects the count while it moves by `dt`: one in any 256 ns, as far as the error goes (01, R15). -/
def State.slewIn (s : State) (dt : Nat) : Nat := Nat.min s.tb.pending.natAbs (dt / 256)

/-- The count goes on to `t`: the compute regions run their cycles meanwhile, and the slew withholds or adds its ticks (01, R13,
R15; 07, R173). The count never goes back, and does not move while it is not running (14, R316). -/
def State.advance (s : State) (t : Count) : State :=
  if s.tb.running ∧ s.tb.count ≤ t ∧ t < 2 ^ 64 then
    let dt := t - s.tb.count
    let k := s.slewIn dt
    let ns := if 0 < s.tb.pending then dt - k else dt + k
    let s' := { s with tb := { s.tb with count := t,
                                         pending := if 0 < s.tb.pending then s.tb.pending - (k : Int) else s.tb.pending + (k : Int),
                                         lastCorr := if k = 0 then s.tb.lastCorr else some t, jumped := s.tb.jumped && decide (dt = 0) },
                       op := { s.op with milliCyc := s.op.milliCyc + opMHz s.op.cur * ns } }
    if k = 0 then s' else s'.countN .correction (.die 6) none k
  else s

/-- An accumulator of 24 integer bits and 16 fraction bits takes more, and saturates (13, R301). -/
def addSat (t : Tab Nat) (k n : Nat) : Tab Nat := Tab.put t k (Nat.min (2 ^ 40 - 1) (Tab.get 0 t k + n))

/-- The accumulators with the events that stand apart added. -/
def Accs.settled (a : Accs) : Tab Nat := a.late.foldl (fun t e => addSat t e.1 e.2) a.acc

/-- `n` units come to accumulator `k` at the count `now`: at a multiple of 10^9 ns they are added after the decay of that tick (13, R301). -/
def Accs.add (a : Accs) (now : Option Count) (k n : Nat) : Accs :=
  match now with
  | some t =>
    if t % 1000000000 = 0 ∧ a.decayedAt ≠ some t then
      if a.lateAt = t then { a with late := addSat a.late k n } else { a with acc := a.settled, late := addSat [] k n, lateAt := t }
    else { a with acc := addSat a.settled k n, late := [] }
  | none => { a with acc := addSat a.settled k n, late := [] }

/-- The decay of a tick, once in that tick: `f` decays an accumulator. -/
def Accs.decay (a : Accs) (t : Count) (f : Nat → Nat → Nat) : Accs :=
  if a.decayedAt = some t then a
  else
    let old := (if a.lateAt = t then a.acc else a.settled).map fun (e : Nat × Nat) => (e.1, f e.1 e.2)
    { acc := if a.lateAt = t then a.late.foldl (fun t e => addSat t e.1 e.2) old else old, lateAt := t, late := [], decayedAt := some t }

/-- Add `n` events to input `i` of a canary part (13, R300, R301). -/
def State.canInput (s : State) (part i n : Nat) : State :=
  { s with canAcc := s.canAcc.add (if s.tb.running then some s.now else none) (4 * part + i) (65536 * n) }

/-- Canary parts (13, R299). -/
def canPort (p : Nat) : Nat := p
def canStack (k : Nat) : Nat := 16 + k
def canDomain (d : Nat) : Nat := 28 + d
def canDie (x : Nat) : Nat := 59 + x

/-! ### Module and partition states (00, R7) -/

/-- A partition counts as Armed for R7: Armed, in Fault-stop, or loading (12, R364). -/
def Part.countsArmed (p : Part) : Bool := p.st = .armed || p.st = .faultStop || p.loading.isSome

/-- A partition counts as not Absent where partitions are compared (12, R364). -/
def Part.notAbsent (p : Part) : Bool := p.st ≠ .absent || p.loading.isSome

/-- The state the module reports, coded as ST_STATUS.STATE: 0 Standby, 1 Ready, 2 Armed, 3 Run (00, R7). -/
def State.modState (s : State) : Nat :=
  if !s.startup.ready then 0
  else if s.parts.any (fun e => e.2.st = .run || e.2.st = .hold) then 3
  else if s.parts.any (fun e => e.2.countsArmed) then 2
  else 1

/-- A register with access S in the module block is writable (00, R7). -/
def State.sModule (s : State) : Bool := s.modState = 1

/-- A partition's own S registers are writable: Absent and not loading (00, "Access codes"). -/
def Part.sOpen (p : Part) : Bool := p.st = .absent && p.loading.isNone

/-- Some partition is Armed, in Run or in Hold (01, R13, R15). -/
def State.anyActive (s : State) : Bool := s.parts.any (fun e => e.2.st = .armed || e.2.st = .run || e.2.st = .hold)

/-! ### Partition identity (06, 12, 16) -/

/-- The partition's job key (16, PT_KEY). -/
def State.keyOf (s : State) (n : Nat) : Nat := cf s .ptKey n 0 19 0

/-- The partition's cluster set as a 66-bit mask (16, PT_CLU_0 to PT_CLU_2). -/
def State.cluMask (s : State) (n : Nat) : Nat :=
  cf s .ptClu n 0 31 0 + 2 ^ 32 * cf s .ptClu n 1 31 0 + 2 ^ 64 * cf s .ptClu n 2 1 0

/-- Cluster `k` belongs to the partition. -/
def State.ownsClu (s : State) (n k : Nat) : Bool := (s.cluMask n).testBit k

/-- The partition, not Absent, that holds a cluster. Partitions never share clusters (12, R267). -/
def State.partOfClu (s : State) (k : Nat) : Option Nat :=
  (s.parts.find? fun e => e.2.notAbsent && s.ownsClu e.1 k).map (·.1)

/-- The partition of a core. -/
def State.partOf (s : State) (c : CoreId) : Option Nat := s.partOfClu c.cluIx

/-- Cores of a partition that its canvas has entered, in logical order. -/
def State.coresOf (s : State) (n : Nat) : List CoreId :=
  (s.cores.filter fun e => e.2.hasEntry && s.ownsClu n (coreOfIx e.1).cluIx).map fun e => coreOfIx e.1

/-- The owning function of a partition (12, R267). -/
def State.owner (s : State) (n : Nat) : Option Func :=
  let w := cfg s .ptOwn n 0
  if rb w 31 then
    let l : Link := match rf w 30 29 with | 0 => .h0a | 1 => .h0b | 2 => .h1a | _ => .h1b
    some { link := l, fn := ⟨rf w 28 24 % 17, Nat.mod_lt _ (by decide)⟩ }
  else none

/-- Edge die of a partition's host link (12, R262). -/
def State.linkDie (s : State) (n : Nat) : Nat := match s.owner n with | some f => 6 + f.link.ix / 2 | none => 6

/-- Ring q lies in the partition's submission range (12, R267). -/
def State.ownsSq (s : State) (n q : Nat) : Bool :=
  let w := cfg s .ptRings n 0
  decide (rf w 31 24 ≤ q) && decide (q < rf w 31 24 + rf w 23 20)

/-- Ring q lies in the partition's completion range. -/
def State.ownsCq (s : State) (n q : Nat) : Bool :=
  let w := cfg s .ptRings n 0
  decide (rf w 19 12 ≤ q) && decide (q < rf w 19 12 + rf w 11 8)

/-- The module's device id and domain (16, ID_DEV). -/
def State.devid (s : State) : Nat := rf s.flash.idDev 12 0
def State.domainNo (s : State) : Nat := rf s.flash.idDev 14 13

/-- Beat length of a partition's canvas in ns, 2^n (01, R17); the shortest beat without a canvas. -/
def Part.beatLen (p : Part) : Nat :=
  match p.canvas with
  | some c => 2 ^ c.beatExp
  | none => 512

/-- The canvases of a partition: the one it runs, and the one a HANDOVER has named (01, R28, R35). -/
def Part.canvases (p : Part) : List Canvas := p.canvas.toList ++ p.nextCanvas.toList

/-- Beat lengths of those canvases. -/
def Part.beats (p : Part) : List Nat := p.beatLen :: p.nextCanvas.toList.map fun c => 2 ^ c.beatExp

/-! ### Bytes of the stores (04, R92; 05) -/

/-- What an unlisted byte of a store or a stack reads as (log 4). -/
def memDefault : Byte := 0

/-- A byte of a memory. -/
def Mem.read (m : Tab Byte) (a : Nat) : Byte := Tab.get memDefault m a

/-- A byte written; the memory keeps its canonical form. -/
def Mem.write (m : Tab Byte) (a : Nat) (b : Byte) : Tab Byte := Tab.write memDefault m a b

/-- Where a store address of a core lies (04, R92). -/
inductive Spot where
  | core (off : Nat) | cluster (off : Nat) | acc (eng set word byte : Nat) | out
  deriving DecidableEq, Repr

/-- The store address map of a core (04, R92). -/
def spotOf (a : Int) : Spot :=
  if a < 0 then .out
  else
    let n := a.toNat
    if n < 0x400000 then .core n
    else if 0x1000000 ≤ n ∧ n < 0x3000000 then .cluster (n - 0x1000000)
    else if 0x3000000 ≤ n ∧ n < 0x3020000 then
      .acc ((n - 0x3000000) / 0x10000) ((n - 0x3000000) % 0x10000 / 0x400) (n % 0x400 / 4) (n % 4)
    else .out

/-- The address may be used for anything but the reads of accumulators by VOP and VCOMB (04, R92). -/
def storeOk (a : Int) : Bool :=
  match spotOf a with
  | .core _ | .cluster _ => true
  | _ => false

/-- `n` bytes from `a` on all lie at allowed addresses. -/
def rangeOk (a : Int) (n : Nat) : Bool :=
  n = 0 || (storeOk a && storeOk (a + (n : Int) - 1) && (decide (a < 0x400000) == decide (a + (n : Int) - 1 < 0x400000)))

/-- Word `w` of an accumulator set: listed, or undefined contents, or zero. -/
def AccSet.word (x : AccSet) (w : Nat) : W32 :=
  match Tab.find x.words w, x.undef with
  | some v, _ => v
  | none, some m => Config.accWord m w
  | none, none => 0

/-- An accumulator set before any pass wrote it (log 5). -/
def AccSet.blank : AccSet := { words := [], int32 := false, ovf := false, undef := none }

/-- Set `n` of engine `e` of a core. -/
def Core.acc (k : Core) (e n : Nat) : AccSet := Tab.get AccSet.blank k.accs (64 * e + n)

/-- A byte at a core's store address; zero outside the map (callers check first). -/
def State.readSt (s : State) (c : CoreId) (a : Int) : Byte :=
  match spotOf a with
  | .core o => Mem.read (Tab.get [] s.coreMem c.ix) o
  | .cluster o => Mem.read (Tab.get [] s.cluMem c.cluIx) o
  | .acc e n w b => BitVec.ofNat 8 ((((s.core c).acc e n).word w).toNat >>> (8 * b))
  | .out => 0

/-- A command from its 32 bytes (04, R89). -/
def cmdOf (bs : List Byte) : Cmd := { w0 := wordAt bs 0, w1 := wordAt bs 8, w2 := wordAt bs 16, w3 := wordAt bs 24 }

/-- The words of the command at a stream index. -/
def State.streamCmd (s : State) (c : CoreId) (i : Nat) : Cmd :=
  cmdOf ((upFrom 0 32).map fun (j : Nat) => s.readSt c (((s.core c).streamBase + 32 * i + j : Nat) : Int))

/-- A byte of the core store is about to change: a command of the core's stream that holds it may have been read ahead, up to 32 commands (04, R87). -/
def State.noteAhead (s : State) (c : CoreId) (o : Nat) : State :=
  let k := s.core c
  let i := (o - k.streamBase) / 32
  if k.hasEntry ∧ !k.ended ∧ k.streamBase ≤ o ∧ k.pc ≤ i ∧ i < k.pc + 32 ∧ i < k.streamLen ∧ (Tab.find k.ahead i).isNone then
    { s with fresh := s.fresh + 1 }.setCore c { k with ahead := Tab.put k.ahead i (s.fresh, s.streamCmd c i) }
  else s

/-- Write a byte at a core's store address; no effect on accumulators or outside the map. -/
def State.writeSt (s : State) (c : CoreId) (a : Int) (b : Byte) : State :=
  match spotOf a with
  | .core o =>
    let s := s.noteAhead c o
    { s with coreMem := Tab.put s.coreMem c.ix (Mem.write (Tab.get [] s.coreMem c.ix) o b) }
  | .cluster o => { s with cluMem := Tab.put s.cluMem c.cluIx (Mem.write (Tab.get [] s.cluMem c.cluIx) o b) }
  | _ => s

/-- `n` bytes from a store address on. -/
def State.readStN (s : State) (c : CoreId) (a : Int) (n : Nat) : List Byte :=
  (upFrom 0 n).map fun (i : Nat) => s.readSt c (a + (i : Int))

/-- Bytes written from a store address on. -/
def State.writeStN (s : State) (c : CoreId) (a : Int) : List Byte → State
  | [] => s
  | b :: bs => (s.writeSt c a b).writeStN c (a + 1) bs

/-- Bytes written to the given addresses in order. -/
def State.writeStAt (s : State) (c : CoreId) (l : List (Int × Byte)) : State :=
  l.foldl (fun s ab => s.writeSt c ab.1 ab.2) s

/-- The store word of an address (05, R117). -/
def wordOf (c : CoreId) (a : Int) : Option (StoreId × Nat) :=
  match spotOf a with
  | .core o => some (.core c, o / 16)
  | .cluster o => some (.cluster ⟨c.cluIx % 66, Nat.mod_lt _ (by decide)⟩, o / 16)
  | _ => none

/-- The first poisoned word among addresses read by a core (05, R117). -/
def State.poisonedAt (s : State) (c : CoreId) (as : List Int) : Option Int :=
  if s.poison.isEmpty then none
  else as.find? fun a => match wordOf c a with | some w => s.poison.contains w | none => false

/-- Words that a write of these addresses covers whole lose their poison (05, R117). -/
def State.clearPoison (s : State) (c : CoreId) (as : List Int) : State :=
  if s.poison.isEmpty then s
  else
    let ws := as.filterMap (wordOf c)
    { s with poison := s.poison.filter fun w => decide ((ws.filter (· = w)).length < 16) }

/-- A poisoned word that a write of these addresses covers in part only (05, R117). -/
def State.partialPoison (s : State) (c : CoreId) (as : List Int) : Option Int :=
  if s.poison.isEmpty then none
  else
    let ws := as.filterMap (wordOf c)
    as.find? fun a =>
      match wordOf c a with
      | some w => s.poison.contains w && decide ((ws.filter (· = w)).length < 16)
      | none => false

/-! ### HBM regions (05, R123-R126) -/

/-- Bytes in a granule. -/
def granule : Nat := 2 * 1024 * 1024

/-- Extents of a partition in stack order: stack, base granule, granules (05, R124). -/
def State.extents (s : State) (n : Nat) : List (Nat × Nat × Nat) :=
  (upFrom 0 12).map fun k => (k, cf s .ptHbmExt n k 15 0, cf s .ptHbmExt n k 31 16)

/-- Region size in bytes (05, R125). -/
def State.regionSize (s : State) (n : Nat) : Nat := ((s.extents n).map fun e => granule * e.2.2).foldl (· + ·) 0

/-- Stack and stack address of a region-relative address through extents (05, R124, R126). -/
def locate : List (Nat × Nat × Nat) → Nat → Option (Nat × Nat)
  | [], _ => none
  | (k, base, size) :: es, a =>
    if a < granule * size then some (k, granule * base + a) else locate es (a - granule * size)

/-- Channel and pseudo-channel of a stack address (05, R126). -/
def channelOf (a : Nat) : Nat × Nat := (fld a 12 8, fld a 13 13)

/-- A byte of a partition's region. -/
def State.readHbm (s : State) (n a : Nat) : Byte :=
  match locate (s.extents n) a with
  | some (k, x) => Mem.read (Tab.get [] s.hbm k) x
  | none => 0

/-- Write a byte of a partition's region. A tripped stack takes none (05, R134). -/
def State.writeHbm (s : State) (n a : Nat) (b : Byte) : State :=
  match locate (s.extents n) a with
  | some (k, x) => if (s.stack k).tripped then s else { s with hbm := Tab.put s.hbm k (Mem.write (Tab.get [] s.hbm k) x b) }
  | none => s

def State.readHbmN (s : State) (n a len : Nat) : List Byte := (upFrom a len).map fun i => s.readHbm n i

def State.writeHbmN (s : State) (n a : Nat) : List Byte → State
  | [] => s
  | b :: bs => (s.writeHbm n a b).writeHbmN n (a + 1) bs

/-- The stack of a poisoned sector among region bytes, with its region address (05, R130). -/
def State.hbmPoisonAt (s : State) (n : Nat) (as : List Nat) : Option (Nat × Nat) :=
  if s.hbmPoison.isEmpty then none
  else as.findSome? fun a =>
    match locate (s.extents n) a with
    | some (k, x) => if s.hbmPoison.contains (k, x / 32) then some (k, a) else none
    | none => none

/-- A byte of the region as anything but a core reads it: free where its sector is poisoned or its stack has tripped and gives no data (05, R130, R134;
log 7). -/
def State.viewByte (s : State) (n a : Nat) : Byte :=
  match locate (s.extents n) a with
  | some (k, x) => if s.hbmPoison.contains (k, x / 32) ∨ (s.stack k).tripped then Config.poisonByte a else Mem.read (Tab.get [] s.hbm k) x
  | none => 0

/-- A byte of the region as the module itself reads it: its own writes that still wait at their stacks come before (05, R132). -/
def State.ownByte (s : State) (n a : Nat) : Byte :=
  match s.ownq.reverse.find? fun w => w.pt = n && decide (w.addr ≤ a) && decide (a < w.addr + w.bytes.length) with
  | some w => w.bytes.getD (a - w.addr) 0
  | none => s.viewByte n a

def State.ownBytes (s : State) (n a len : Nat) : List Byte := (upFrom a len).map (s.ownByte n)

/-- A 64-bit word of the region as the module itself reads it, little-endian. -/
def State.hbmWord (s : State) (n a : Nat) : Word := BitVec.ofNat 64 (leNat (s.ownBytes n a 8))

/-- Sectors that a write of these region bytes covers whole lose their poison (05, R130). -/
def State.clearHbmPoison (s : State) (n : Nat) (as : List Nat) : State :=
  if s.hbmPoison.isEmpty then s
  else
    let xs := as.filterMap fun a => (locate (s.extents n) a).map fun kx => (kx.1, kx.2 / 32)
    { s with hbmPoison := s.hbmPoison.filter fun w => decide ((xs.filter (· = w)).length < 32) }

/-- Other partitions that are not Absent (12, R364). -/
def State.others (s : State) (n : Nat) : List Nat := (s.parts.filter fun e => e.1 ≠ n && e.2.notAbsent).map (·.1)

/-- An extent (stack, base, granules) breaks R124: it reaches the reserved granules, or one of another partition (05, R123, R124). -/
def State.extentBad (s : State) (n : Nat) (e : Nat × Nat × Nat) : Bool :=
  decide (36860 < e.2.1 + e.2.2) || (s.others n).any fun m => (s.extents m).any fun f => f.1 = e.1 && meets (e.2.1, e.2.2) (f.2.1, f.2.2)

/-- Zero a partition's extents, but for those on a tripped stack, which takes no request (05, R134, R136). -/
def State.zeroExtents (s : State) (n : Nat) : State :=
  (s.extents n).foldl (fun s e =>
    let lo := granule * e.2.1
    let hi := lo + granule * e.2.2
    if e.2.2 = 0 || (s.stack e.1).tripped || s.extentBad n e then s else
    { s with hbm := Tab.put s.hbm e.1 (Tab.clear (Tab.get [] s.hbm e.1) fun a => decide (lo ≤ a) && decide (a < hi)),
             hbmPoison := s.hbmPoison.filter fun w => !(decide (w.1 = e.1) && decide (lo ≤ w.2 * 32) && decide (w.2 * 32 < hi)) }) s

/-- A cluster is the partition's and no other's that is not Absent: of one that two registers name, no part of a load takes effect (00, R10; 12, R267). -/
def State.soleClu (s : State) (n k : Nat) : Bool := s.ownsClu n k && !(s.others n).any fun m => s.ownsClu m k

/-- Zero the core stores and cluster stores of a partition's clusters, with valid check bits (05, R121). -/
def State.zeroStores (s : State) (n : Nat) : State :=
  { s with coreMem := s.coreMem.filter (fun e => !s.soleClu n (e.1 / 8)),
           cluMem := s.cluMem.filter (fun e => !s.soleClu n e.1),
           poison := s.poison.filter fun w =>
             match w.1 with
             | .core c => !s.soleClu n c.cluIx
             | .cluster k => !s.soleClu n k.val }

/-! ### Records for hosts (12, R283-R285) -/

/-- Status codes (12, "Status codes"). -/
def stOK : Nat := 0x00
def stEXTENT : Nat := 0x01
def stRSVD : Nat := 0x02
def stACCESS : Nat := 0x03
def stSTATE : Nat := 0x04
def stTAGBUSY : Nat := 0x05
def stCRCFAIL : Nat := 0x06
def stSIGNATURE : Nat := 0x07
def stCHECKFAIL : Nat := 0x08
def stRECLAIMED : Nat := 0x09
def stNOSLOT : Nat := 0x0A
def stNOVARIANT : Nat := 0x0B
def stBARRIERTMO : Nat := 0x0C
def stHOSTERR : Nat := 0x0D
def stABORTED : Nat := 0x0E
def stNOTSTAGED : Nat := 0x0F
def stDONE : Nat := 0x10
def stCANCELLED : Nat := 0x11
def stMISSED : Nat := 0x12
def stGALEXPIRED : Nat := 0x13

/-- A record is ready for a completion ring: it waits behind those ready before it (12, R284). -/
def State.pushRec (s : State) (q : Nat) (r : Rec) : State := s.updRing q fun g => { g with ready := g.ready ++ [r] }

/-- A plain record of a descriptor. -/
def Desc.record (d : Desc) (pt status : Nat) : Rec :=
  { opcode := d.op, status := status, sq := d.sq, tag := d.tag, detail := 0, w3 := 0, w4 := 0, w5 := 0, w6 := 0, payload := [],
    ends := true, pt := pt }

/-- The descriptor of a tag. -/
def Part.desc (p : Part) (tag : Nat) : Option Desc := p.flight.find? fun d => d.tag = tag

/-- A descriptor's record becomes ready; the descriptor stays in flight until the record is written (12, R271). -/
def State.complete (s : State) (n : Nat) (d : Desc) (r : Rec) : State :=
  let s := s.updPart n fun p =>
    { p with flight := p.flight.map fun e => if e.tag = d.tag ∧ e.sq = d.sq then { e with progress := .ready } else e }
  s.pushRec d.cq r

/-- Complete with a status and nothing else. -/
def State.finish (s : State) (n : Nat) (d : Desc) (status : Nat) : State := s.complete n d (d.record n status)

/-- The ring that receives a partition's unsolicited records, when EVQ names an enabled one (12, R284). -/
def State.evqRing (s : State) (n : Nat) : Option Nat :=
  let w := cfg s .ptRings n 0
  if rf w 7 4 < rf w 11 8 then
    let q := rf w 19 12 + rf w 7 4
    if rb (cfg s .cqCfg q 0) 31 then some q else none
  else none

/-- Event records of the partition that wait (12, R284). -/
def State.eventsWaiting (s : State) (n : Nat) : Nat :=
  ((s.part n).evq.filter (·.opcode = 0x82)).length +
    (match s.evqRing n with
     | some q => ((s.ring q).ready.filter fun r => r.opcode = 0x82 ∧ r.pt = n).length
     | none => 0)

/-- An unsolicited record of a partition goes to its EVQ ring, or waits for one (12, R284). -/
def State.unsolicited (s : State) (n : Nat) (r : Rec) : State :=
  match s.evqRing n with
  | some q => s.pushRec q r
  | none => s.updPart n fun p => { p with evq := p.evq ++ [r] }

/-- Records that waited for an EVQ ring go to it once one is enabled. -/
def State.flushEvq (s : State) (n : Nat) : State :=
  match s.evqRing n with
  | some q => ((s.part n).evq.foldl (fun s r => s.pushRec q r) s).updPart n fun p => { p with evq := [] }
  | none => s

/-- An EVENT record (12, R284, R285): a seventeenth waiting event is not queued; the next event record written counts it in LOST. -/
def State.event (s : State) (n ev : Nat) (detail : Word) : State :=
  let p := s.part n
  if 16 ≤ s.eventsWaiting n then s.updPart n fun p => { p with evLost := p.evLost + 1 }
  else
    let w3 := ev + 256 * p.wgen
    let r : Rec := { opcode := 0x82, status := stOK, sq := 0, tag := 0xFFFF, detail := detail, w3 := BitVec.ofNat 64 w3, w4 := 0,
                     w5 := 0, w6 := 0, payload := [], ends := false, pt := n }
    s.unsolicited n r

/-! ### Fretur tables (09) -/

/-- Key at an index of a port's table, when VALID (09, R224). -/
def State.keyAt (s : State) (p i : Nat) : Option Nat :=
  let w := cfg s .fabKey p i
  if rb w 31 then some (rf w 19 0) else none

/-- A key is admitted at a port (09, R223). -/
def State.keyValid (s : State) (p key : Nat) : Bool := (upFrom 0 64).any fun i => s.keyAt p i = some key

/-- A port's current tables hold a shaft of the key: a calendar entry of TYPE shaft or an ingress entry that forwards or lands. -/
def State.portHasKey (s : State) (p key : Nat) : Bool :=
  (upFrom 0 64).any fun e =>
    (cf s .fabCalc p e 31 30 = 1 && decide (s.keyAt p (cf s .fabCalc p e 23 18) = some key)) ||
    (cf s .fabInc p e 31 30 ≠ 0 && decide (s.keyAt p (cf s .fabInc p e 13 8) = some key))

/-- Three copies of a JOB_STOP wait at a port (08, R187: three consecutive units per stop). A port that is Resetting sends
them after its RESUME exchange. -/
def State.queueJobStop (s : State) (p : Nat) (b : JobStopBody) : State :=
  let o : OsOut := { typ := 0x0B, body := b.bytes }
  s.updPort p fun f => { f with osq := f.osq ++ [o, o, o] }

/-- A port may carry a JOB_STOP: Up or Resetting, and not in Ethernet mode (08, "When things meet"; 09, R226). -/
def State.jobStopPort (s : State) (p : Nat) : Bool :=
  let st := (s.port p).st
  (st = .up || st = .resetting) && !(decide (12 ≤ p) && rb (cfg s .frtCtl p 0) 21)

/-- A JOB_STOP with this pair, of any key, or of this one, has passed here. -/
def State.pairSeen (s : State) (b : JobStopBody) : Bool := s.jobStopsSeen.any fun x => (x.1, x.2.1) = b.pair
def State.stopSeen (s : State) (b : JobStopBody) : Bool := s.jobStopsSeen.contains (b.pair.1, b.pair.2, b.key.toNat)

/-- The JOB_STOP that this module sends for a key at the present count: ORIGIN is this module, STOP_TIME is in sixteenths of a nanosecond (08, R187). -/
def State.ownStop (s : State) (key reason : Nat) : JobStopBody :=
  { key := BitVec.ofNat 20 key, domain := BitVec.ofNat 2 s.domainNo, origin := BitVec.ofNat 13 s.devid, reason := BitVec.ofNat 8 reason,
    stopTime := 16 * s.now % 2 ^ 64 }

/-- Send a JOB_STOP on every port that holds a shaft of its key (08, R187; 13, R290). A received one is forwarded once for each pair of ORIGIN and STOP_TIME;
one of this module's own is sent once for each key. -/
def State.flood (s : State) (b : JobStopBody) (received : Bool) : State :=
  let done := if received then s.pairSeen b else s.stopSeen b
  let s := if s.stopSeen b then s else { s with jobStopsSeen := (b.pair.1, b.pair.2, b.key.toNat) :: s.jobStopsSeen }
  if done then s
  else (upFrom 0 16).foldl (fun s p => if s.jobStopPort p ∧ s.portHasKey p b.key.toNat then s.queueJobStop p b else s) s

/-! ### Stopping a partition (13, R288-R291) -/

/-- What a cause tells the fault record (13, table of causes). -/
structure Cause where
  code : Nat
  sub : Nat := 0
  ledger : Nat := 0
  core : Option CoreId := none
  die : Nat := 0
  queue : Nat := 7
  cmd : Nat := 0
  /-- ITEM, for a cause that has one of its own -/
  item : Option Nat := none
  recorded : Nat := 0
  counted : Nat := 0
  addr : Nat := 0
  port : Nat := 0
  stack : Nat := 0
  /-- generation of the canvas that a refused HANDOVER names (04, R113) -/
  genNew : Option Nat := none
  deriving DecidableEq, Repr

/-- Cause codes (13, R288). -/
def cUNCORRECTED : Nat := 0x01
def cLEDGER : Nat := 0x02
def cTIMEOUT : Nat := 0x03
def cLINKLOST : Nat := 0x04
def cBOUNDS : Nat := 0x05
def cREFUSED : Nat := 0x06
def cCANVAS : Nat := 0x07
def cUNDERVOLT : Nat := 0x08
def cCLOCKLOSS : Nat := 0x09
def cSTACKTRIP : Nat := 0x0A
def cHOSTLINK : Nat := 0x0B
def cASSAY : Nat := 0x0C
def cCHECKFAIL : Nat := 0x0D
def cJOBSTOP : Nat := 0x0E

/-- The engine or sequencer that raises a cause; a refused command's record names its engine, and its sequencer has stopped. A report of assay mode is the
detector's: what its engine raises in the same tick is still detected (06, R156). -/
def Cause.source (c : Cause) : List (Nat × Nat) :=
  match c.core with
  | some x => if c.code = cASSAY then [] else if c.code = cREFUSED then [(x.ix, c.queue), (x.ix, 4)] else [(x.ix, c.queue)]
  | none => []

/-- The core a record speaks of: the named one, or the partition's lowest (13, R293, BEAT_OLD). -/
def State.recordCore (s : State) (n : Nat) (c : Cause) : Core :=
  match c.core with
  | some k => s.core k
  | none => match s.coresOf n with
    | k :: _ => s.core k
    | [] => Core.reset

/-- LAST_LAYER, which the record of a stop during a repaint names in ITEM when the cause has no ITEM of its own (10, R240). -/
def Part.repaintItem (p : Part) : Nat := if p.wt = .repainting ∨ p.wt = .barrier then p.lastLayer.getD 0xFFF else 0

/-- The fault record of a cause (13, R293); `item` stands in ITEM when the cause gives none. -/
def State.recordOf (s : State) (n : Nat) (c : Cause) (item secondary : Nat) : FaultRec :=
  let p := s.part n
  let k := s.recordCore n c
  let cid := c.core
  { cause := c.code, sub := c.sub, ledger := c.ledger, die := (cid.map fun x => x.die.val).getD c.die,
    cluster := (cid.map fun x => x.clu.val).getD 0, core := (cid.map fun x => x.core.val).getD 0, queue := c.queue, cmd := c.cmd,
    item := c.item.getD item, time := s.now, recorded := c.recorded, counted := c.counted, addr := c.addr, port := c.port,
    stack := c.stack, genOld := p.gen, genNew := c.genNew.getD (if p.overlap then p.genNew else p.gen), key := s.keyOf n,
    beatOld := k.beatOld, beatNew := k.beatNew, secondary := secondary }

/-- Word W0 of the record (13, R293, R294). -/
def FaultRec.w0 (r : FaultRec) : Word :=
  BitVec.ofNat 64 (at_ r.cause 56 + at_ r.sub 48 + at_ r.ledger 44 + at_ r.die 41 + at_ r.cluster 37 + at_ r.core 34 +
    at_ r.queue 31 + at_ (r.cmd % 65536) 15 + r.item % 4096)

/-- Descriptor types accepted in Fault-stop, which complete normally there (12, R274 table, R287). -/
def opInFaultStop (op : Nat) (w1 : Word) : Bool :=
  op = 0x01 || op = 0x02 || op = 0x09 || op = 0x0A || op = 0x18 || op = 0x19 || op = 0x1A || op = 0x26 || op = 0x3F ||
  (op = 0x0B && wf w1 1 0 = 3)

/-- Descriptors in flight that cannot complete in Fault-stop end with ABORTED (12, R287). -/
def State.abortFlight (s : State) (n : Nat) : State :=
  ((s.part n).flight.filter fun d => d.progress ≠ .ready ∧ !opInFaultStop d.op d.w1).foldl (fun s d => s.finish n d stABORTED) s

/-- Some partition still stands at the barrier of a repaint, or is in it at all. -/
def State.atBarrier (s : State) (r : Repaint) : Bool :=
  s.parts.any fun e => e.2.wt = .barrier && (match e.2.repaint with | some x => x.owner = r.owner && x.tag = r.tag | none => false)

def State.inRepaint (s : State) (r : Repaint) : Bool :=
  s.parts.any fun e => match e.2.repaint with | some x => x.owner = r.owner && x.tag = r.tag | none => false

/-- The REPAINT that waits for its named partitions completes once none of them stands at the barrier (12, R280). -/
def State.repaintReached (s : State) (r : Repaint) (status : Nat) : State :=
  if s.atBarrier r then s
  else match (s.part r.owner).flight.find? fun d => d.tag = r.tag && d.op = 0x13 && d.progress = .started with
    | some d => s.finish r.owner d status
    | none => s

/-- A named partition has left a repaint by a fault-stop: the others complete it, and with none left it ends with ABORTED (10, R240). -/
def State.repaintLeft (s : State) (r : Option Repaint) : State :=
  match r with
  | some r => s.repaintReached r (if s.inRepaint r then stOK else stABORTED)
  | none => s

/-- A cause takes a partition out of its state: any cause out of Run and Hold, any but JOB_STOP out of Armed (00, "States at a glance"; 10, R233; 13,
R291; log 62). -/
def Part.stopsFor (p : Part) (code : Nat) : Bool := p.st = .run || p.st = .hold || (p.st = .armed && decide (code ≠ cJOBSTOP))

/-- Region bytes of a request. -/
def MemReq.mem (r : MemReq) : List Nat := r.memAddr.filterMap id

/-- Requests of one core whose HBM bytes overlap take effect in issue order, when one of them is a STORE (05, R128); so do those of one gallery object
(05, R141). The later one is held in the decoupling queue. -/
def overlapsEarlier (q : List MemReq) (i : Nat) (r : MemReq) : Bool :=
  (q.take i).any fun e => (e.store || r.store) && e.gallery = r.gallery && (!r.gallery || e.handle % 4096 = r.handle % 4096) && e.mem.any r.mem.contains

/-- The requests of a decoupling queue that it has issued to a stack or a host link. -/
def issuedOf (q : List MemReq) : List MemReq :=
  (upFrom 0 q.length).filterMap fun i => match q[i]? with
    | some r => if overlapsEarlier q i r then none else some r
    | none => none

/-- Requests that the decoupling queues have not yet issued are discarded and counted (13, R290, step 2). -/
def State.discardUnissued (s : State) (n : Nat) : State :=
  (s.coresOf n).foldl (fun s c =>
    let k := s.core c
    let q := issuedOf k.memq
    if q.length = k.memq.length then s
    else (s.setCore c { k with memq := q }).countN .discardedRequest (.core c) (some n) (k.memq.length - q.length)) s

/-- The last element that satisfies a test is changed. -/
def replaceLast {α : Type} (t : α → Bool) (f : α → α) : List α → List α
  | [] => []
  | x :: l => if l.any t then x :: replaceLast t f l else if t x then f x :: l else x :: l

/-- A waiting EVENT record of a partition's stop with a given DETAIL. -/
def Rec.tells (r : Rec) (n : Nat) (w : Word) : Bool := r.opcode = 0x82 && wf r.w3 7 0 = 1 && r.pt = n && r.detail = w

/-- The record of a partition becomes `new`, with the EVENT record that tells of it and its platform event, where they still wait (13, R289, R290, R294). -/
def State.amend (s : State) (n : Nat) (old new : FaultRec) : State :=
  let fix := replaceLast (fun (r : Rec) => r.tells n old.w0) fun r => { r with detail := new.w0 }
  let s := s.updPart n fun p => { p with frec := some new, evq := fix p.evq }
  let s := match s.evqRing n with
    | some q => s.updRing q fun g => { g with ready := fix g.ready }
    | none => s
  let is (e : PlatEvent) : Bool := e.kind = .faultStop && decide (e.arg = n + 256 * old.cause)
  let put (e : PlatEvent) : PlatEvent := { e with arg := n + 256 * new.cause }
  { s with hf := { s.hf with events := replaceLast is put s.hf.events },
           outbox := replaceLast (fun o => match o with | .platform e => is e | _ => false)
             (fun o => match o with | .platform e => .platform (put e) | o => o) s.outbox }

/-- What of a partition's stop was sent with a REASON that a lower code of the same tick replaces: the JOB_STOP copies that wait at ports, and SUB of the
partitions they stopped here (13, R288, R289). -/
def State.amendReason (s : State) (key old new : Nat) : State :=
  let body (r : Nat) : List Byte := (s.ownStop key r).bytes
  let swap (o : OsOut) : OsOut := if o.typ = 0x0B ∧ o.body = body old then { o with body := body new } else o
  let s := { s with ports := s.ports.map fun (e : Nat × FPort) => (e.1, { e.2 with osq := e.2.osq.map swap }) }
  s.parts.foldl (fun s e => match e.2.frec with
    | some r =>
      if r.cause = cJOBSTOP ∧ r.time = s.now ∧ r.key = key ∧ r.sub = old ∧ r.counted = 8192 * s.domainNo + s.devid then
        s.amend e.1 r { r with sub := new }
      else s
    | none => s) s

/-- A cause of the tick in which the partition stopped is the one recorded: its code is the lower one (13, R289), or it is the same poisoned word of a
cluster store, read by a lower-numbered core (05, "When things meet"). -/
def State.outranks (s : State) (c : Cause) (old : FaultRec) : Bool :=
  decide (old.time = s.now) &&
    (decide (c.code < old.cause) ||
      (decide (c.code = cUNCORRECTED) && decide (old.cause = cUNCORRECTED) && decide (0x1000000 ≤ c.addr) && decide (old.addr = c.addr) && old.stack = c.stack &&
        (match c.core with
         | some x => decide (x.die.val = old.die) && decide (x.clu.val = old.cluster) && decide (x.core.val < old.core)
         | none => false)))

/-- The cause is a further increment, in the tick of the stop, of the flag whose overflow stopped the partition (04, R106). -/
def State.sameFlag (s : State) (c : Cause) (old : FaultRec) : Bool :=
  decide (old.time = s.now) && decide (c.code = cLEDGER) && decide (old.cause = cLEDGER) && decide (c.ledger = 7) && decide (old.ledger = 7) &&
    decide (c.item = some old.item) &&
    (match c.core with
     | some x => decide (x.die.val = old.die) && decide (x.clu.val = old.cluster) && decide (x.core.val = old.core)
     | none => false)

/-- Copies of the steward between its pool and the gallery that are under way: 1 to the gallery, 2 back, with the object's index (11, R256, R258). -/
def State.copies (s : State) (n : Nat) : List (Nat × Nat) :=
  let p := s.part n
  let ix := cf s .srvGal n 0 31 16 % 4096
  if p.st = .run ∨ p.st = .hold then
    match p.srv with
    | some v => v.slots.flatMap fun e => (if e.2.moving then [(1, ix)] else []) ++ (if e.2.returning then [(2, ix)] else [])
    | none => []
  else []

/-- The oldest access of a kind whose partition stopped or was reset meanwhile has ended (05, R139; 12, R279). -/
def Part.dropOrphan (p : Part) (kind : Nat) : Part :=
  match p.orphans.findIdx? fun o => o.1 = kind with
  | some i => { p with orphans := p.orphans.eraseIdx i }
  | none => p

/-- Take one partition into Fault-stop, or count a later cause (13, R289, R290 steps 1 to 5, without the flood). A JOB_STOP that this module's own flood
gave the partition is no cause beside one of its own in the same tick: it reaches partitions in Run or Hold only. -/
def State.stopOne (s : State) (n : Nat) (c : Cause) : State :=
  let p := s.part n
  if p.stopsFor c.code then
    let r := s.recordOf n c p.repaintItem 0
    let keep := match p.frec with
      | some old => { old with secondary := Nat.min 65535 (old.secondary + 1) }
      | none => r
    let s := s.setPart n { p with st := .faultStop, frec := some keep, raised := c.source, stopCyc := (upFrom 0 12).map s.regionCyc, stopItem := p.repaintItem, startAt := none, startTag := none, holdAt := none, releaseAt := none,
                                  holdTag := none, releaseTag := none, srv := p.srv.map fun v => { v with running := false },
                                  wt := if p.wt = .repainting ∨ p.wt = .barrier then .failed else p.wt, repaint := none,
                                  orphans := p.orphans ++ s.copies n }
    let s := s.discardUnissued n
    let s := { s with ports := s.ports.map fun (e : Nat × FPort) => (e.1, { e.2 with shaftq := e.2.shaftq.filter fun f => f.pt ≠ n }) }
    let s := (s.abortFlight n).repaintLeft p.repaint
    let s := s.platform .faultStop (n + 256 * c.code)
    let s := s.event n 1 keep.w0
    s.count .faultStop (.die 6) (some n)
  else if p.st = .faultStop then
    match p.frec with
    | some old =>
      if s.sameFlag c old then s.amend n old { old with counted := old.counted + 1 }
      else
        let flood : Bool := decide (old.time = s.now) && decide (old.cause = cJOBSTOP) && decide (old.counted = 8192 * s.domainNo + s.devid) && s.outranks c old
        let sec := if flood then old.secondary else Nat.min 65535 (old.secondary + 1)
        let new := if s.outranks c old then s.recordOf n c p.stopItem sec else { old with secondary := sec }
        let s := s.updPart n fun p => { p with raised := c.source ++ p.raised }
        let s := if flood then s else s.count .secondaryCause (.die 6) (some n)
        let s := s.amend n old new
        if s.outranks c old ∧ old.cause ≠ cJOBSTOP then s.amendReason old.key old.cause new.cause else s
    | none => s.setPart n { p with frec := some (s.recordOf n c p.repaintItem 0), raised := c.source ++ p.raised }
  else s

/-- The partition runs, or a cause has stopped it in the present tick: a further cause that another engine or sequencer raises in the tick is still
detected (13, R289). -/
def State.detects (s : State) (n : Nat) (c : CoreId) (q : Nat) : Bool :=
  let p := s.part n
  p.st = .run || (p.st = .faultStop && (match p.frec with | some r => r.time = s.now | none => false) && !p.raised.contains (c.ix, q))

/-- The cause JOB_STOP that another partition's stop, or a flood, gives (13, R288). -/
def jobStopCause (reason domain origin : Nat) : Cause :=
  { code := cJOBSTOP, sub := reason, counted := 8192 * domain + origin }

/-- Partitions in Run or Hold with a job key. -/
def State.running (s : State) (key : Nat) : List Nat :=
  (s.parts.filter fun e => (e.2.st = .run || e.2.st = .hold) && s.keyOf e.1 = key).map (·.1)

/-- Partitions that a JOB_STOP of the key reaches: those in Run or Hold stop, those in Fault-stop count it (13, R291). -/
def State.stopKey (s : State) (key : Nat) (c : Cause) : State :=
  ((s.parts.filter fun e => (e.2.st = .run || e.2.st = .hold || e.2.st = .faultStop) && s.keyOf e.1 = key).map (·.1)).foldl
    (fun s n => s.stopOne n c) s

/-- The floods of a cause other than JOB_STOP (13, R290, step 3): for each job key, one with this module as ORIGIN, after which every other partition of
the module in Run or Hold with the key stops. -/
def State.floodKeys (s : State) (code : Nat) (keys : List Nat) : State :=
  keys.foldl (fun s key =>
    let s := s.flood (s.ownStop key code) false
    (s.running key).foldl (fun s m => s.stopOne m (jobStopCause code s.domainNo s.devid)) s) s

/-- Fault-stop every partition of a list (13, R290): they stop, and their floods leave. A partition that a flood of this tick had stopped, and that the cause
stops as well, floods too. -/
def State.faultStopAll (s : State) (ns : List Nat) (c : Cause) : State :=
  let hit := ns.filter fun n => (s.part n).stopsFor c.code ||
    (match (s.part n).frec with | some old => (s.part n).st = .faultStop && old.cause = cJOBSTOP && s.outranks c old | none => false)
  let t := ns.foldl (fun s n => s.stopOne n c) s
  if c.code = cJOBSTOP then t else t.floodKeys c.code (dedup (hit.map s.keyOf))

/-- Fault-stop one partition. -/
def State.faultStop (s : State) (n : Nat) (c : Cause) : State := s.faultStopAll [n] c

/-- Partitions with a shaft of a port in their shaft tables: their canvas claims a calendar or ingress entry of the port (08, R204). -/
def State.partsOnPort (s : State) (p : Nat) : List Nat :=
  (s.parts.filter fun e => e.2.notAbsent && (e.2.claims ++ e.2.nextClaims).any fun c => c.port = p).map (·.1)

/-- A LEDGER fault (13, R296): counted, and every partition in its scope fault-stops. -/
def State.ledgerFault (s : State) (ns : List Nat) (c : Cause) : State :=
  (s.count .ledger (.die 6) none).faultStopAll ns { c with code := cLEDGER }

/-! ### Flags (04, R106) -/

/-- Count of a flag. -/
def Core.flag (k : Core) (f : Nat) : Nat := Tab.get 0 k.flags f

/-- The cause of a flag's overflow (04, R106). -/
def overflowCause (c : CoreId) (f counted : Nat) : Cause :=
  { code := cLEDGER, ledger := 7, core := some c, item := some f, recorded := 65535, counted := counted }

/-- The overflow of this flag has stopped the partition in the present tick: further increments of the tick are only counted in COUNTED (04, R106). -/
def State.overflowing (s : State) (n : Nat) (c : CoreId) (f : Nat) : Bool :=
  (s.part n).st = .faultStop && (match (s.part n).frec with | some old => s.sameFlag (overflowCause c f 0) old | none => false)

/-- Add one to a flag of a core: past 65,535 it is not applied and is a LEDGER fault with number 7 (04, R106). COUNTED grows with each further increment
of the tick (`State.sameFlag`; log 62). -/
def State.addFlag (s : State) (n : Nat) (c : CoreId) (f : Nat) : State :=
  let v := (s.core c).flag f
  if v < 65535 then s.updCore c fun k => { k with flags := Tab.put k.flags f (v + 1) }
  else if s.overflowing n c f then s.stopOne n (overflowCause c f 0)
  else s.ledgerFault [n] (overflowCause c f (v + 1))

/-- An increment that reaches a flag in the tick in which its overflow has stopped the partition, where `ok` says that it would have been applied (04,
R106). -/
def State.lateIncrement (s : State) (n : Nat) (c : CoreId) (f : Nat) (ok : Bool) : State :=
  if ok && s.overflowing n c f then s.stopOne n (overflowCause c f 0) else s

end Sys2Proof.Machine
end

