-- ==== Sys2Proof/Machine/Reset.lean ====
section
/-! DEFINITION. Shared operations of resets and of the loss of power: a partition back to Absent (12, R268, R279; 16, R361), a
host-link reset (12, R268), the dies losing or resetting their state (00, R7, R8; 14, R313, R318), the module reset (14, R318),
and the commands of the management tree (13, R309). -/

namespace Sys2Proof.Machine

/-! ### Clusters and lamps (07, R162-R164) -/

/-- Lamps drawn on a die. -/
def State.drawn (s : State) (d : Nat) : Nat := Tab.get 0 s.lampRoom d

/-- The clusters of a partition stop their clocks and return their base charges, a lamp for each core; those of another partition that is not Absent, which
the register of this one names too, keep running (07, R162). -/
def State.gate (s : State) (n : Nat) : State :=
  let gone := s.clusters.filter fun e => s.soleClu n e.1
  { s with
    clusters := s.clusters.filter fun e => !s.soleClu n e.1
    cluStart := s.cluStart.filter fun k => !s.soleClu n k
    lampRoom := gone.foldl (fun m e => Tab.write 0 m (e.1 / 11) (Tab.get 0 m (e.1 / 11) - 8)) s.lampRoom }

/-- Lamps a partition holds on a die beyond base charges (07, R168). -/
def Part.heldOn (p : Part) (d : Nat) : Nat := Tab.get 0 p.lampHeld d

/-- The partition's running commands end and return their lamps (07, "Audit"; 13, R295 step 1). -/
def State.dropRunning (s : State) (n : Nat) : State :=
  let mine := s.cores.filter fun e => s.soleClu n (e.1 / 8)
  let s := { s with
    lampRoom := mine.foldl (fun m (e : Nat × Core) => Tab.write 0 m (e.1 / 88) (Tab.get 0 m (e.1 / 88) - e.2.held)) s.lampRoom
    cores := s.cores.map fun (e : Nat × Core) =>
      if s.soleClu n (e.1 / 8) then (e.1, { e.2 with run := [], held := 0, lampWait := [] }) else e }
  s.updPart n fun p => { p with lampHeld := [], lampHist := p.lampHist.map fun (e : Nat × List (Count × Nat)) => (e.1, (s.now, 0) :: e.2) }

/-! ### A partition back to Absent (12, R268, R279; 16, R361) -/

/-- Offsets within a partition block that a partition reset keeps: PT_OWN, PT_RINGS, PT_KEY, PT_CLU_0 to PT_CLU_2 (16, R361). -/
def keptOffset (o : Nat) : Bool := o = 0x4 || o = 0x8 || o = 0xC || (decide (0x18 ≤ o) && decide (o < 0x24))

/-- Entries of the port tables that a canvas claimed go back to their reset values in both copies. -/
def State.dropClaims (s : State) (cl : List Claim) : State :=
  cl.foldl (fun s c =>
    if c.ingress then setCfg (setCfg s .fabInc c.port c.entry 0) .fabIn c.port c.entry 0
    else setCfg (setCfg s .fabCalc c.port c.entry 0) .fabCal c.port c.entry 0) s

/-- The core a key of the order clocks belongs to, by the keys of threads, flags, slots and their releases, accumulator sets, and credits (06,
R155). -/
def clockCore (k : Nat) : Nat :=
  if k < 2 ^ 40 then k / 8
  else if k < 2 ^ 41 then k % 2 ^ 40 / 64
  else if k < 2 ^ 43 then k % 2 ^ 41 / 2 ^ 13
  else if k < 2 ^ 45 then k % 2 ^ 43 / 128
  else k % 2 ^ 50 / 2 ^ 23

/-- A memory request whose core has gone: it still completes at its stack or host link, and touches nothing (12, R279). -/
def MemReq.dead (r : MemReq) : MemReq := { r with stAddr := [], memAddr := [], data := [], flag := 64 }

/-- What is left of a core of a partition that returns to Absent: its issued gallery requests, unless nothing may be left. -/
def Core.remains (k : Core) (none_ : Bool) : Option Core :=
  let q := (k.memq.filter (·.gallery)).map MemReq.dead
  if none_ || q.isEmpty then none else some { Core.reset with memq := q }

/-- The read of an image that a load has issued, with the index of its object (12, R277). -/
def Part.imageReads (p : Part) : List (Nat × Nat) :=
  match p.loading with
  | some l =>
    if l.phase = .zeroing then []
    else (p.flight.filter fun d => d.op = 0x08 && d.tag = l.tag).map fun d => (0, wf d.w1 11 0)
  | none => []

/-- An object closed with a reason, keeping an earlier one. -/
def GalObj.close (o : GalObj) (reason : Nat) : GalObj := if o.closed then o else { o with closed := true, reason := reason }

/-- A REPAINT of another partition that names a partition which is reset ends with ABORTED (12, "When things meet"). -/
def State.repaintAborted (s : State) (n : Nat) : State :=
  match (s.part n).repaint with
  | some r =>
    if r.owner = n then s
    else match (s.part r.owner).flight.find? fun d => d.tag = r.tag && d.op = 0x13 && d.progress = .started with
      | some d => s.finish r.owner d stABORTED
      | none => s
  | none => s

/-- A partition returns to Absent: its clusters are gated, its stores and extents zeroed (05, R121, R136), its registers at their
reset values but for R361, its traffic dropped, its handles' tags kept (05, R138). In a host-link reset nothing of it is left on the
link and no notice is owed (12, R268). -/
def State.resetPart (s : State) (n : Nat) (hostReset : Bool) : State :=
  let p := s.part n
  let b := 0x100000 + 0x1000 * n
  let own (e : Nat) : Bool := s.soleClu n e
  let t := ((((s.repaintAborted n).dropRunning n).gate n).zeroStores n).zeroExtents n
  let t := t.dropClaims (p.claims ++ p.nextClaims)
  let gal := if hostReset then [] else p.gal.map fun (e : Nat × GalObj) => (e.1, e.2.close 2)
  { t with
    cores := t.cores.filterMap fun e => if own (e.1 / 8) then (e.2.remains hostReset).map (fun k => (e.1, k)) else some e
    mesh := t.mesh.filter fun m => m.pt ≠ n
    meshSets := t.meshSets.filter fun m => m.pt ≠ n
    credits := t.credits.filter fun m => m.pt ≠ n
    loose := t.loose.filter fun m => m.pt ≠ n
    ports := t.ports.map fun (e : Nat × FPort) => (e.1, { e.2 with shaftq := e.2.shaftq.filter fun f => f.pt ≠ n })
    ownq := t.ownq.filter fun w => w.pt ≠ n
    assay := { tags := t.assay.tags.filter fun e => !own (e.1 / 2 ^ 32)
               acc := t.assay.acc.filter fun e => !own (e.1 / 2 ^ 32) && decide (e.1 / 2 ^ 32 ≠ 66 + n)
               clocks := t.assay.clocks.filter fun e => !own (clockCore e.1 / 8), landings := t.assay.landings }
    regs := t.regs.filter fun e => !(decide (b ≤ e.1) && decide (e.1 < b + 0x1000) && !keptOffset (e.1 - b))
    parts := Tab.put t.parts n
      { Part.reset with galTags := p.galTags, gal := gal, orphans := if hostReset then [] else p.orphans ++ s.copies n ++ p.imageReads, flight := if hostReset then [] else p.flight,
                        evq := if hostReset then [] else p.evq, evLost := if hostReset then 0 else p.evLost } }

/-- The partition's rings are disabled: nothing is fetched and no record is written (12, R268 steps 2 and 4). -/
def State.disableRings (s : State) (n : Nat) : State :=
  (upFrom 0 256).foldl (fun s q =>
    let s := if s.ownsSq n q ∧ rb (cfg s .sqCfg q 0) 31 then setCfg s .sqCfg q 0 (cfg s .sqCfg q 0 &&& 0x7FFFFFFF) else s
    if s.ownsCq n q then
      let s := if rb (cfg s .cqCfg q 0) 31 then setCfg s .cqCfg q 0 (cfg s .cqCfg q 0 &&& 0x7FFFFFFF) else s
      s.updRing q fun r => if r.ready.isEmpty ∧ !r.signalDue then r else { r with ready := [], signalDue := false }
    else s) s

/-- Handle of an issued gallery request of the partition, 0 when there is none (05, R141). -/
def State.openHandle (s : State) (n : Nat) : Nat :=
  (s.cores.findSome? fun e =>
    if s.ownsClu n (e.1 / 8) then (e.2.memq.find? (·.gallery)).map (·.handle) else none).getD 0

/-- A host-link reset applied to one partition (12, R268): one in Run or Hold stops. -/
def State.hostResetPart (s : State) (n : Nat) (l : Link) : State :=
  let p := s.part n
  let s := if p.st ≠ .run ∧ p.st ≠ .hold then s else s.faultStop n { code := cHOSTLINK, item := l.ix, counted := s.openHandle n }
  (s.updPart n fun p => { p with flight := [] }).disableRings n |>.resetPart n true

/-- A host-link reset of the functions that `fs` names (12, R268). -/
def State.hostReset (s : State) (fs : Func → Bool) : State :=
  (upFrom 0 32).foldl (fun s n =>
    match s.owner n with
    | some f => if fs f then s.hostResetPart n f.link else s
    | none => s) s

/-! ### Firmware components (14, R320-R328) -/

def Flash.comp (f : Flash) (c : Nat) : FwComp :=
  match c with | 1 => f.fw1 | 2 => f.fw2 | 3 => f.fw3 | _ => f.fw4

def Flash.setComp (f : Flash) (c : Nat) (x : FwComp) : Flash :=
  match c with | 1 => { f with fw1 := x } | 2 => { f with fw2 := x } | 3 => { f with fw3 := x } | 4 => { f with fw4 := x } | _ => f

/-- The pending image of a component starts unconfirmed; the image it replaces is the pentimento (14, R325). -/
def FwComp.start (c : FwComp) : FwComp :=
  match c.pending with
  | some i => if c.activated then { c with running := i, pent := some c.running, pending := none, activated := false, unconf := true,
                                           fails := 0 } else c
  | none => c

/-- The pentimento image becomes the running one, confirmed; the unconfirmed image is discarded (14, R328). -/
def FwComp.revert (c : FwComp) : FwComp :=
  { c with running := c.pent.getD c.running, pent := none, unconf := false, reverted := true, fails := 0 }

/-- What a module or cold reset does to a component: LAST_RESULT returns to 0 and an activated image starts (14, R325, R329). -/
def Flash.startImages (f : Flash) : Flash :=
  let z (c : FwComp) : FwComp := { c with lastResult := 0 }
  { f with fw1 := z f.fw1, fw2 := (z f.fw2).start, fw3 := (z f.fw3).start, fw4 := (z f.fw4).start }

/-- The update in progress ends with ABORTED and its rebuild slot is discarded (14, "When things meet"). -/
def State.abortUpdate (s : State) : State :=
  match s.update with
  | some u =>
    match u.component with
    | some c => { s with update := none, flash := s.flash.setComp c { s.flash.comp c with lastResult := 13 } }
    | none => { s with update := none }
  | none => s

/-! ### Power and resets (00, R7, R8; 14, R312-R318; 15, R332-R338) -/

/-- The dies' state is gone: every partition Absent, every register at its reset value but for those that R8 excepts, memories
lost, links down, the count stopped at zero. `bus`: by loss of the main bus, where the handles' tags and the trips of stacks stay
(05, R134, R138; log 13). -/
def State.dieLoss (s : State) (bus : Bool) : State :=
  let before := s.alarm
  let s' := { s with
    tb := { State.reset.tb with refOk := s.tb.refOk }
    op := State.reset.op
    regs := [], loStage := [], setupErr := 0
    parts := if bus then s.parts.map fun (e : Nat × Part) => (e.1, { Part.reset with galTags := e.2.galTags }) else []
    cores := [], clusters := [], cluStart := [], lastCluStart := none, lampRoom := [], regions := []
    domains := if (s.domain 1).lost then [(1, { Domain.reset with lost := true, lossBit := true })] else []
    dieTemps := [], crossings := []
    hbmStk := if bus then (s.hbmStk.filter fun (e : Nat × Stack) => e.2.tripped).map fun (e : Nat × Stack) => (e.1, { Stack.reset with tripped := true })
              else []
    coreMem := [], cluMem := [], hbm := [], ownq := [], fifos := [], poison := [], hbmPoison := [], mesh := [], meshSets := [], credits := [], ports := []
    loose := [], limiters := [], jobStopsSeen := []
    links := s.links.map fun (e : Nat × HostLink) => (e.1, { HostLink.reset with perst := e.2.perst })
    rings := [], canAcc := Accs.of [], canary := [], counts := [], shadows := [], events := [], assay := Assay.reset }
  s'.alarmEdge before

/-- Start-up stops (14, R313): the regulators and the converter turn off, the report is written, the module stays in Standby. -/
def State.startupStop (s : State) (part code : Nat) : State :=
  if s.startup.ready ∨ s.startup.stopped then s
  else
    let s := s.dieLoss true
    let s := { s with startup := { s.startup with stopped := true, failStep := s.startup.stage + 1, failPart := part, failCode := code }
                      power := { s.power with convOn := false, precharged := false } }
    s.platform .startupStopped (s.startup.failStep + 16 * code)

/-- The loss of the main bus while the module is Ready (00, R7): Standby, and start-up waits for step 3. -/
def State.busLoss (s : State) : State :=
  if s.startup.ready then
    let s := s.dieLoss true
    let s := { s with startup := { s.startup with ready := false, stage := 2, cause := 3 }
                      power := { s.power with convOn := false, precharged := false } }
    s.platform .mainBusLoss 0
  else s

/-- The bus lies within the operating range of 360 V to 420 V (15, R332), in units of 0.5 V. -/
def busInRange (v : BitVec 10) : Bool := decide (720 ≤ v.toNat) && decide (v.toNat ≤ 840)

/-- Step 3 or a later step of start-up runs: the bus and the loop have begun it (14, R312, R313). -/
def State.starting (s : State) : Bool :=
  !s.startup.ready && !s.startup.stopped && s.power.stbyOk &&
    (decide (3 ≤ s.startup.stage) || (s.startup.stage = 2 && s.power.hvilClosed && busInRange s.power.vbus))

/-- The converter stops: a loss of the main bus when the module is Ready, otherwise a stop of the start-up under way (14, R313;
15, R332). `s` is the state in which the converter still runs. -/
def State.converterOff (s : State) (code part : Nat) : State :=
  let s' := if s.startup.ready then s.busLoss else if s.starting then s.startupStop part code else s
  { s' with power := { s'.power with convOn := false, precharged := false, stopping := s.power.convOn || s.power.stopping } }

/-- Save the canary accumulators to flash (13, R303). -/
def State.saveAccs (s : State) : State := { s with flash := { s.flash with accs := s.canAcc.settled } }

/-- The module reset (14, R318): accumulators saved where the module was Ready and so held restored ones (13, R303; log 102), partitions to Absent, activated
images start, start-up runs from step 4, or from step 3 when the converter has been turned off. -/
def State.moduleReset (s : State) (cause : Nat) : State :=
  let s := if s.startup.ready then s.saveAccs else s
  let aborted := s.update.bind (·.component)
  let s := { s with update := none }.dieLoss false
  let f := s.flash.startImages
  let f := match aborted with | some c => f.setComp c { f.comp c with lastResult := 13 } | none => f
  let st := { s.startup with ready := false, stopped := false, stage := if s.power.convOn then 3 else 2, cause := cause,
                             hostCur := f.hostCfg, bootCur := f.bootPorts }
  { s with flash := f
           startup := if s.power.convOn then { st with failStep := 0, failPart := 0x7F, failCode := 0 } else st }

/-- The cold reset (14, R317; 15, R338): everything but flash, the levels at the pins and the start-up report (00, R8; 14, R316). -/
def State.coldReset (s : State) : State :=
  let before := s.alarm
  let aborted := s.update.bind (·.component)
  let f := s.flash.startImages
  let f := match aborted with | some c => f.setComp c { f.comp c with lastResult := 13 } | none => f
  let r := State.reset
  let s' := { r with
    pending := s.pending, fresh := s.fresh, outbox := s.outbox, flash := f
    startup := { r.startup with hostCur := f.hostCfg, bootCur := f.bootPorts, failStep := s.startup.failStep, failPart := s.startup.failPart,
                                failCode := s.startup.failCode, lastReset := s.startup.lastReset }
    power := { r.power with hvilClosed := s.power.hvilClosed, stbyOk := true, vbus := s.power.vbus }
    tb := { r.tb with refOk := s.tb.refOk }
    links := s.links.map fun (e : Nat × HostLink) => (e.1, { HostLink.reset with perst := e.2.perst }) }
  s'.alarmEdge before

/-! ### Commands of the management tree (13, R309) -/

/-- A command of the tree: no answer while management is down (13, R311), the same answer again for a repeated SEQ, otherwise the
command runs and its answer is kept. -/
def State.tree (s : State) (seq : W32) (run : State → State × List Word) : State :=
  if s.managed then
    if s.hf.lastSeq = some seq then s.emit (.answer seq s.hf.lastAnswer)
    else
      let r := run s
      let t := r.1
      ({ t with hf := { t.hf with lastSeq := some seq, lastAnswer := r.2 } }).emit (.answer seq r.2)
  else s

/-- An answer that is a status code (log 14). -/
def status (c : Nat) : List Word := [BitVec.ofNat 64 c]

end Sys2Proof.Machine
end

