-- ==== Sys2Proof/Machine/Calendar.lean ====
section
/-! DEFINITION. The refresh calendars of the stacks and what waits at a stack (05, R128-R135): windows that follow the count and the register, emergency
refreshes, the sectors that accesses read, and the requests of hosts. -/

namespace Sys2Proof.Machine

/-! ### The calendar (05, R131) -/

/-- The refresh calendar of a stack (05, R131). -/
def State.period (s : State) (k : Nat) : Nat := 2 ^ cf s .stkRef k 0 31 28
def State.windowLen (s : State) (k : Nat) : Nat := 512 * cf s .stkRef k 0 27 21
def State.windowOffset (s : State) (k : Nat) : Nat := 512 * cf s .stkRef k 0 20 14
def State.refTemp (s : State) (k : Nat) : Nat := cf s .stkRef k 0 13 7

/-- A count lies in a window of the stack's calendar (05, R131). -/
def State.inWindow (s : State) (k : Nat) (t : Count) : Bool :=
  decide (s.windowOffset k ≤ t) && decide ((t - s.windowOffset k) % s.period k < s.windowLen k)

/-- The opening of the window that is open or was open last. -/
def State.windowStart (s : State) (k : Nat) : Count :=
  let p := s.period k
  (s.now + p - s.windowOffset k) / p * p + s.windowOffset k - p

/-- Opening of the last window at or before a count. -/
def State.lastOpening (s : State) (k : Nat) (t : Count) : Nat := (t - s.windowOffset k) / s.period k * s.period k + s.windowOffset k

/-- Nanoseconds of [a, b) that lie inside windows of the stack, for an interval no longer than a period. -/
def State.insideWindows (s : State) (k a b : Nat) : Nat :=
  let part := fun (w : Nat) => Nat.min b (w + s.windowLen k) - Nat.max a w
  let w := s.lastOpening k a
  part w + part (w + s.period k)

/-! ### Requests at a stack (05, R128, R132, R134) -/

/-- The partition whose register names a core's cluster, whatever its state: requests outlive a partition reset (12, R279). -/
def State.ownerOf (s : State) (c : CoreId) : Nat :=
  match s.partOf c with
  | some n => n
  | none => ((upFrom 0 32).find? fun n => s.ownsClu n c.cluIx).getD 32

/-- Stacks of an HBM request. -/
def State.stacksOf (s : State) (n : Nat) (r : MemReq) : List Nat :=
  if r.gallery then [] else dedup ((r.mem.filterMap (locate (s.extents n))).map (·.1))

/-- A request waits at a stack: it reached it during the window that is open, after the stack tripped, or while the emergency refresh that runs held it: from the
refresh's start on, or in the window in which that began or which it followed (01, R26; 05, R132-R134). -/
def State.waitsAt (s : State) (k : Nat) (r : MemReq) : Bool :=
  let x := s.stack k
  (x.tripped && decide (x.trippedAt < r.issuedAt)) || (x.windowOpen && decide (s.windowStart k ≤ r.issuedAt)) ||
    (match x.emergency with | some e => decide (x.heldFrom ≤ r.issuedAt) && decide (s.now < e) | none => false)

/-- Requests of every core that reached a stack since a count and wait there. -/
def State.waitingAt (s : State) (k : Nat) (since : Count) : Nat :=
  (s.cores.map fun (e : Nat × Core) =>
    (e.2.memq.filter fun r => decide (since ≤ r.issuedAt) && (s.stacksOf (s.ownerOf (coreOfIx e.1)) r).contains k).length).foldl (· + ·) 0

/-- Ranges of the region by stack: stack, start, length (05, R124, R125). -/
def stackRanges : Nat → List (Nat × Nat × Nat) → List (Nat × Nat × Nat)
  | _, [] => []
  | a, (k, _, size) :: es => (k, a, granule * size) :: stackRanges (a + granule * size) es

/-- Stacks that region bytes reach. -/
def State.stacksIn (s : State) (n a len : Nat) : List Nat :=
  ((stackRanges 0 (s.extents n)).filter fun r => meets (a, len) (r.2.1, r.2.2)).map (·.1)

/-- A tripped stack that region bytes reach (05, R134). -/
def State.trippedIn (s : State) (n a len : Nat) : Option Nat := (s.stacksIn n a len).find? fun k => (s.stack k).tripped

/-- A stack serves no request for partition granules at this moment: a window is open, an emergency refresh runs, or it has tripped (05, R132-R134). -/
def State.stackShut (s : State) (k : Nat) : Bool :=
  let x := s.stack k
  x.tripped || x.windowOpen || (match x.emergency with | some e => decide (s.now < e) | none => false)

/-- A request's wait is noted, under its name, at each of the stacks whose window is open: it is counted at the close (05, R132). -/
def State.noteWait (s : State) (ks : List Nat) (name : Nat × Nat) : State :=
  ks.foldl (fun s k => if (s.stack k).windowOpen then s.updStack k fun x => { x with waiters := if x.waiters.contains name then x.waiters else name :: x.waiters }
                       else s) s

/-- A request that does not come from a core waits at the stacks that region bytes reach while one of them serves none: what it does it does when it comes
again (05, R132; log 63). -/
def State.whenServed (s : State) (n a len : Nat) (name : Nat × Nat) (act : State → State) : State :=
  let ks := s.stacksIn n a len
  if ks.any s.stackShut then s.noteWait ks name else act s

/-- A read that the module makes at a moment that a rule fixes: where a window is open it is one window wait (05, R132; log 63). -/
def State.readWait (s : State) (n a len : Nat) : State :=
  (s.stacksIn n a len).foldl (fun s k =>
    if (s.stack k).windowOpen then (s.updStack k fun x => { x with windowWaits := x.windowWaits + 1 }).count .windowWait (.die (k / 2)) (some n) else s) s

/-! ### Sectors (05, R129, R130) -/

/-- A sector of a stack found beyond correction is poisoned, and counted when it was not poisoned before. -/
def State.poisonSector (s : State) (k x : Nat) (n : Option Nat) : State :=
  if s.hbmPoison.contains (k, x / 32) then s
  else ({ s with hbmPoison := (k, x / 32) :: s.hbmPoison }.count .sectorPoisoned (.die (k / 2)) n).canInput (canStack k) 3 1

/-- A corrected sector is counted against its stack. -/
def State.correctSector (s : State) (k : Nat) (n : Option Nat) : State := (s.count .sectorCorrected (.die (k / 2)) n).canInput (canStack k) 0 1

/-- An uncorrectable sector of the region (05, R130): it is poisoned, and the partition whose access found it stops. -/
def State.sectorError (s : State) (n : Nat) (c : Option CoreId) (a : Nat) : State :=
  match locate (s.extents n) a with
  | none => s
  | some (k, x) => (s.poisonSector k x (some n)).faultStop n { code := cUNCORRECTED, core := c, queue := if c.isSome then 3 else 7, addr := a, stack := k }

/-- What the code found in the sectors of some region bytes: corrected ones are counted; the first that is beyond correction, or poisoned already, is given
with the state. -/
def State.readSectors (s : State) (n : Nat) (as : List Nat) (ecc : List EccAt) : State × Option Nat :=
  match s.hbmPoisonAt n as with
  | some (_, a) => (s, some a)
  | none =>
    ecc.foldl (fun r e =>
      if r.2.isSome ∨ !as.contains e.addr then r
      else match e.ecc, locate (s.extents n) e.addr with
        | .clean, _ => r
        | .corrected, some (k, _) => (r.1.correctSector k (some n), none)
        | .uncorrectable, some _ => (r.1, some e.addr)
        | _, none => r) (s, none)

/-- Region bytes of sectors that a write covers in part only: the controller reads those sectors first (05, R129). -/
def State.partSectors (s : State) (n : Nat) (as : List Nat) : List Nat :=
  let sec (a : Nat) : Option (Nat × Nat) := (locate (s.extents n) a).map fun kx => (kx.1, kx.2 / 32)
  let all := as.filterMap sec
  as.filter fun a => match sec a with
    | some w => decide ((all.filter (· = w)).length < 32)
    | none => false

/-- Region bytes from `a` on that lie in sectors which a write of `len` bytes covers in part only. -/
def partEdges (a len : Nat) : List Nat :=
  let e := a + len
  (if a % 32 = 0 ∧ 32 ≤ len then [] else upFrom a (Nat.min len (32 - a % 32))) ++ (if e % 32 = 0 ∨ e / 32 * 32 ≤ a then [] else upFrom (e / 32 * 32) (e % 32))

/-- Bytes written into a partition's region from outside its cores: whole sectors lose their poison; one that is covered in part is read first, with what
the code finds in it, and where that is beyond correction nothing is written (05, R117, R129, R130). -/
def State.putRegion (s : State) (n a : Nat) (bs : List Byte) (ecc : List EccAt) : State :=
  match s.readSectors n (partEdges a bs.length) ecc with
  | (s, some x) => s.sectorError n none x
  | (s, none) => (s.writeHbmN n a bs).clearHbmPoison n (upFrom a bs.length)

/-- The module's own write waits: a stack that it reaches serves no request, or an earlier one of the partition waits still (05, R132). One that has tripped
keeps nothing waiting: it takes no write (R134). -/
def State.ownWaits (s : State) (n a len : Nat) : Bool :=
  s.ownq.any (fun w => w.pt = n) || (s.stacksIn n a len).any fun k => s.stackShut k && !(s.stack k).tripped

/-- A write that the module makes for itself: weight bytes, stamps, the steward's table and pages, assay records (05, R129, R130, R132). One that finds its
stack refreshing waits there. -/
def State.ownWrite (s : State) (n a : Nat) (bs : List Byte) : State :=
  if bs.isEmpty then s
  else if s.ownWaits n a bs.length then { s.noteWait (s.stacksIn n a bs.length) (128 + n, a) with ownq := s.ownq ++ [{ pt := n, addr := a, bytes := bs }] }
  else s.putRegion n a bs []

/-- The module's own writes that waited are made where their stacks now serve them. -/
def State.drainOwn (s : State) : State := s.ownq.foldl (fun s w => s.ownWrite w.pt w.addr w.bytes) { s with ownq := [] }

/-- The module's own write would find a poisoned sector that it covers in part (05, R117). -/
def State.ownPoisoned (s : State) (n a : Nat) (bs : List Byte) : Bool := (s.hbmPoisonAt n (partEdges a bs.length)).isSome

/-- Region bytes as a host reads them. -/
def State.hostView (s : State) (n a len : Nat) : List Byte := (upFrom a len).map (s.viewByte n)

/-- A read of region bytes for a host or for the module itself: what the code found is counted and poisoned (05, R130), and no partition stops, since no FETCH
read it. -/
def State.hostRead (s : State) (n a len : Nat) (ecc : List EccAt) : State :=
  ecc.foldl (fun s e =>
    if a ≤ e.addr ∧ e.addr < a + len then
      match e.ecc, locate (s.extents n) e.addr with
      | .corrected, some (k, x) => if s.hbmPoison.contains (k, x / 32) then s else s.correctSector k (some n)
      | .uncorrectable, some (k, x) => s.poisonSector k x (some n)
      | _, _ => s
    else s) s

/-! ### Emergency refreshes (05, R133) -/

/-- An emergency refresh begins: 480 ns on all channels of the stack, counted against its canary score (05, R133). Requests that reached the stack from the count
`held` on wait for its end. -/
def State.startEmergency (s : State) (k : Nat) (t held : Count) : State :=
  let s := s.updStack k fun x => { x with emergency := some (t + 480), heldFrom := held, emergencies := x.emergencies + 1 }
  (s.count .emergencyRefresh (.die (k / 2)) none).canInput (canStack k) 1 1

/-- Emergency refreshes follow one another while the deficit is 480 ns or more (05, R133). -/
def State.payDeficit (s : State) (k : Nat) (t held : Count) : State :=
  let x := s.stack k
  if x.hot ∧ 480 ≤ x.deficit ∧ x.emergency.isNone then (s.updStack k fun y => { y with deficit := y.deficit - 480 }).startEmergency k t held else s

/-- The count from which on an emergency refresh that begins now holds requests: those of the open window wait already (01, R26). -/
def State.holdsFrom (s : State) (k : Nat) : Count := if (s.stack k).windowOpen then s.windowStart k else s.now + 1

/-! ### Windows open and close (05, R131-R133) -/

/-- A window opens. -/
def State.openWindow (s : State) (k : Nat) : State := s.updStack k fun y => { y with windowOpen := true, openedHot := y.hot, waiters := [] }

/-- The open window closes: requests that waited are counted; a window that opened hot leaves its deficit (05, R132, R133). -/
def State.closeWindow (s : State) (k : Nat) : State :=
  let waits := s.waitingAt k (s.windowStart k) + (s.stack k).waiters.length
  let need := s.period k / 8 - s.windowLen k
  let held := s.windowStart k
  let s := s.updStack k fun y =>
    { y with windowOpen := false, waiters := [], windowWaits := y.windowWaits + waits, deficit := if y.openedHot && y.hot then y.deficit + need else y.deficit }
  let s := if waits = 0 then s else s.countN .windowWait (.die (k / 2)) none waits
  (s.payDeficit k s.now held).drainOwn

/-- Before the count or a calendar changes: windows that are open close but where `stays` says that they lie in a window afterwards too (05, R131). -/
def State.closeWindows (s : State) (ks : List Nat) (stays : Nat → Bool) : State :=
  ks.foldl (fun s k => if (s.stack k).windowOpen && !stays k then s.closeWindow k else s) s

/-- After it: a window in which the count lies is open (05, R131). -/
def State.openWindows (s : State) (ks : List Nat) : State :=
  ks.foldl (fun s k => if s.tb.running && !(s.stack k).windowOpen && s.inWindow k s.now then s.openWindow k else s) s

/-- A calendar register takes a value: the windows follow (05, R131). -/
def State.putCalendar (s : State) (k : Nat) (v : W32) : State :=
  let later := setCfg s .stkRef k 0 v
  (setCfg (s.closeWindows [k] fun k => later.inWindow k s.now) .stkRef k 0 v).openWindows [k]

end Sys2Proof.Machine
end

