-- ==== Sys2Proof/Machine/Flags.lean ====
section
/-! DEFINITION. The sticky status FPSTAT (03, R73): its six bits, and the flags of a conversion (03, R363). -/

namespace Sys2Proof.Machine

/-- FPSTAT bits as numbers: invalid [5], division by zero [4], overflow [3], underflow [2], inexact [1], saturated [0] (03, R73). -/
abbrev FlagSet := BitVec 6

def fInvalid : FlagSet := 0x20
def fDivZero : FlagSet := 0x10
def fOverflow : FlagSet := 0x08
def fUnderflow : FlagSet := 0x04
def fInexact : FlagSet := 0x02
def fSaturated : FlagSet := 0x01

/-- A flag when a condition holds. -/
def FlagSet.when (f : FlagSet) (b : Bool) : FlagSet := if b then f else 0

/-- Flags of a finite value that overflows (03, R363, second point): `clamped` when the result is a largest finite value or a range limit by
SAT or by the table of R74. -/
def overflowFlags (clamped : Bool) : FlagSet := fOverflow ||| fInexact ||| FlagSet.when fSaturated clamped

/-- Flags of a finite value outside the range of an integer destination (03, R363). -/
def intRangeFlags : FlagSet := fInvalid ||| fSaturated

/-- Flags of a NaN that becomes a NaN (03, R363, R65). -/
def nanFlags (signalling : Bool) : FlagSet := FlagSet.when fInvalid signalling

end Sys2Proof.Machine
end

