-- ==== Sys2Proof/Machine/Formats.lean ====
section
/-! DEFINITION. The number formats (03, R63-R67), exact values and their rounding, conversions (R74, R75, R362, R363), and the vector
engine's arithmetic (R71, R72; 04, R95). -/

namespace Sys2Proof.Machine

/-! ### Format codes and layouts (03, R63, R64) -/

/-- What a format code names. -/
inductive FmtKind where
  | flt | int | mxint | scale
  deriving DecidableEq, Repr

/-- A format: kind, width in bits, exponent and mantissa bits, bias; how its all-ones exponent reads: 0 IEEE, 1 the one NaN of E4M3, 2 finite. -/
structure Fmt where
  kind : FmtKind
  width : Nat
  eb : Nat
  mb : Nat
  bias : Nat
  top : Nat
  deriving DecidableEq, Repr

/-- The element format of a code, `none` for a reserved code (03, R63). -/
def fmtOf (c : Nat) : Option Fmt :=
  match c with
  | 0x01 => some ⟨.flt, 64, 11, 52, 1023, 0⟩
  | 0x02 => some ⟨.flt, 32, 8, 23, 127, 0⟩
  | 0x03 => some ⟨.flt, 16, 5, 10, 15, 0⟩
  | 0x04 => some ⟨.flt, 16, 8, 7, 127, 0⟩
  | 0x05 | 0x0A => some ⟨.flt, 8, 4, 3, 7, 1⟩
  | 0x06 | 0x0B => some ⟨.flt, 8, 5, 2, 15, 0⟩
  | 0x07 | 0x0C => some ⟨.flt, 6, 3, 2, 3, 2⟩
  | 0x08 | 0x0D => some ⟨.flt, 6, 2, 3, 1, 2⟩
  | 0x09 | 0x0E => some ⟨.flt, 4, 2, 1, 1, 2⟩
  | 0x0F => some ⟨.mxint, 8, 0, 0, 0, 2⟩
  | 0x10 => some ⟨.int, 8, 0, 0, 0, 2⟩
  | 0x11 => some ⟨.int, 4, 0, 0, 0, 2⟩
  | 0x12 => some ⟨.int, 32, 0, 0, 0, 2⟩
  | 0x13 => some ⟨.scale, 8, 8, 0, 127, 1⟩
  | _ => none

/-- A format for use where the code has been checked. -/
def fmt (c : Nat) : Fmt := (fmtOf c).getD ⟨.int, 8, 0, 0, 0, 2⟩

/-- Codes of MX formats. -/
def isMx (c : Nat) : Bool := decide (0x0A ≤ c) && decide (c ≤ 0x0F)

/-- Width of an element in bits. -/
def fmtBits (c : Nat) : Nat := (fmt c).width

/-- Bytes of `n` packed elements (03, R66). -/
def fmtBytes (c n : Nat) : Nat := ceilDiv (n * fmtBits c) 8

/-! ### Values -/

/-- A value: a NaN (signalling or not), an infinity by sign, or (−1)^neg × m × 2^e. -/
inductive Val where
  | nan (sig : Bool)
  | inf (neg : Bool)
  | fin (neg : Bool) (m : Nat) (e : Int)
  deriving DecidableEq, Repr

/-- Largest exponent field. -/
def Fmt.emaxField (f : Fmt) : Nat := 2 ^ f.eb - 1

/-- Exponent of the last place of subnormals: 1 − bias − mantissa bits. -/
def Fmt.qmin (f : Fmt) : Int := 1 - (f.bias : Int) - (f.mb : Int)

/-- Largest finite value as mantissa and exponent of its last place. -/
def Fmt.maxFinite (f : Fmt) : Nat × Int :=
  let full := 2 ^ (f.mb + 1) - 1
  match f.top with
  | 0 => (full, (f.emaxField : Int) - 1 - (f.bias : Int) - (f.mb : Int))
  | 1 => (full - 1, (f.emaxField : Int) - (f.bias : Int) - (f.mb : Int))
  | _ => (full, (f.emaxField : Int) - (f.bias : Int) - (f.mb : Int))

/-- The value of an element's bits (03, R64, R67). Which NaN encodings of FP8 are signalling the manual does not say: the NaN of E4M3 is taken as quiet, and
of those of E5M2 the one whose upper mantissa bit is 0 as signalling, as in the wider formats (log 65). -/
def decodeElem (c x : Nat) : Val :=
  let f := fmt c
  match f.kind with
  | .int => let v := signed f.width x; .fin (decide (v < 0)) v.natAbs 0
  | .mxint => let v := signed 8 x; .fin (decide (v < 0)) v.natAbs (-6)
  | .scale => if x = 0xFF then .nan false else .fin false 1 ((x : Int) - 127)
  | .flt =>
    let neg := x.testBit (f.width - 1)
    let ex := x / 2 ^ f.mb % 2 ^ f.eb
    let man := x % 2 ^ f.mb
    if ex = f.emaxField ∧ f.top = 0 then
      if man = 0 then .inf neg else .nan (!man.testBit (f.mb - 1))
    else if ex = f.emaxField ∧ f.top = 1 ∧ man = 2 ^ f.mb - 1 then .nan false
    else if ex = 0 then .fin neg man f.qmin
    else .fin neg (2 ^ f.mb + man) (f.qmin + (ex : Int) - 1)

/-- An element under a block scale code (03, R67). -/
def Val.scaled (v : Val) (scale : Nat) : Val :=
  if scale = 0xFF then .nan false
  else match v with
    | .fin n m e => .fin n m (e + (scale : Int) - 127)
    | w => w

/-- ⌊log2 m⌋, 0 for 0. -/
def log2 (m : Nat) : Nat := m.log2

/-- A non-negative m × 2^e cut to multiples of 2^q: quotient, whether more than half, exactly half, or anything is left over. -/
structure Cut where
  quot : Nat
  above : Bool
  half : Bool
  rest : Bool
  deriving DecidableEq, Repr

def cutAt (m : Nat) (e q : Int) : Cut :=
  if q ≤ e then { quot := m * 2 ^ (e - q).toNat, above := false, half := false, rest := false }
  else
    let k := (q - e).toNat
    let r := m % 2 ^ k
    { quot := m / 2 ^ k, above := decide (2 ^ (k - 1) < r), half := decide (r = 2 ^ (k - 1)), rest := decide (r ≠ 0) }

/-- Whether a cut value rounds away from zero in mode RND (03, R71). -/
def Cut.up (c : Cut) (rnd : Nat) (neg : Bool) : Bool :=
  match rnd with
  | 0 => c.above || (c.half && c.quot % 2 = 1)
  | 1 => false
  | 2 => c.rest && !neg
  | _ => c.rest && neg

/-- m × 2^e compared with m' × 2^e'. -/
def ltVal (m : Nat) (e : Int) (m' : Nat) (e' : Int) : Bool :=
  if e ≤ e' then decide (m < m' * 2 ^ (e' - e).toNat) else decide (m * 2 ^ (e - e').toNat < m')

/-- A value rounded to a precision with unbounded range above: mantissa, exponent of the last place, inexact, tiny. -/
structure Rounded where
  m : Nat
  q : Int
  inexact : Bool
  tiny : Bool
  deriving DecidableEq, Repr

/-- Round m × 2^e to the precision of a floating-point format, its subnormals kept (IEEE 754-2019; 03, R68, R71). -/
def roundTo (f : Fmt) (rnd : Nat) (neg : Bool) (m : Nat) (e : Int) : Rounded :=
  if m = 0 then { m := 0, q := f.qmin, inexact := false, tiny := false }
  else
    let top := (log2 m : Int) + e
    let free := top - (f.mb : Int)
    let q := if free < f.qmin then f.qmin else free
    let c := cutAt m e q
    let r := c.quot + b2n (c.up rnd neg)
    let cf := cutAt m e free
    let rf := cf.quot + b2n (cf.up rnd neg)
    let before := ltVal m e 1 (1 - (f.bias : Int))
    let after := ltVal rf free 1 (1 - (f.bias : Int))
    { m := r, q := q, inexact := c.rest, tiny := if Config.tinyBeforeRounding then before else after }

/-- Bits of a rounded value of a floating-point format that does not overflow. -/
def Fmt.pack (f : Fmt) (neg : Bool) (m : Nat) (q : Int) : Nat :=
  let (m, q) := if 2 ^ (f.mb + 1) ≤ m then (m / 2, q + 1) else (m, q)
  let s := b2n neg * 2 ^ (f.width - 1)
  if m < 2 ^ f.mb then s + m
  else s + (q - f.qmin + 1).toNat * 2 ^ f.mb + (m - 2 ^ f.mb)

/-- Bits of ±infinity of an IEEE format. -/
def Fmt.infBits (f : Fmt) (neg : Bool) : Nat := b2n neg * 2 ^ (f.width - 1) + f.emaxField * 2 ^ f.mb

/-- Bits of ± the largest finite value. -/
def Fmt.maxBits (f : Fmt) (neg : Bool) : Nat := f.pack neg f.maxFinite.1 f.maxFinite.2

/-- The canonical NaN of a format that has one (03, R65); 0 for one that has none. -/
def canonNan (c : Nat) : Nat :=
  match c with
  | 0x01 => 0x7FF8000000000000 | 0x02 => 0x7FC00000 | 0x03 => 0x7E00 | 0x04 => 0x7FC0 | 0x05 | 0x0A => 0x7F | 0x06 | 0x0B => 0x7E
  | 0x13 => 0xFF | _ => 0

/-- Bits and flags. -/
abbrev Coded := Nat × FlagSet

/-- In an IEEE overflow without saturation, whether the result is an infinity (03, R74). -/
def overflowsToInf (rnd : Nat) (neg : Bool) : Bool :=
  match rnd with | 0 => true | 1 => false | 2 => !neg | _ => neg

/-- Convert a value into a floating-point format (03, R74 table, R363). -/
def toFlt (c : Nat) (rnd : Nat) (sat : Bool) (v : Val) : Coded :=
  let f := fmt c
  match v with
  | .nan sig => if f.top = 2 then (0, fInvalid) else (canonNan c, nanFlags sig)
  | .inf neg =>
    match f.top with
    | 2 => (f.maxBits neg, fSaturated)
    | 1 => if sat then (f.maxBits neg, fSaturated) else (canonNan c, fInvalid)
    | _ => if sat ∧ f.width = 8 then (f.maxBits neg, fSaturated) else (f.infBits neg, 0)
  | .fin neg m e =>
    let r := roundTo f rnd neg m e
    if ltVal f.maxFinite.1 f.maxFinite.2 r.m r.q then
      if f.top = 2 ∨ sat then (f.maxBits neg, overflowFlags true)
      else if f.top = 1 then (canonNan c, overflowFlags false)
      else if overflowsToInf rnd neg then (f.infBits neg, overflowFlags false)
      else (f.maxBits neg, overflowFlags false)
    else (f.pack neg r.m r.q, FlagSet.when fInexact r.inexact ||| FlagSet.when fUnderflow (r.tiny && r.inexact))

/-- A finite value rounded to an integer in mode RND. -/
def roundInt (rnd : Nat) (neg : Bool) (m : Nat) (e : Int) : Int × Bool :=
  let c := cutAt m e 0
  let r : Nat := c.quot + b2n (c.up rnd neg)
  (if neg then -(r : Int) else (r : Int), c.rest)

/-- Convert a value into an integer format of `w` bits (03, R74 table, R363). -/
def toIntBits (w rnd : Nat) (v : Val) : Coded :=
  let hi : Int := 2 ^ (w - 1) - 1
  let lo : Int := -(2 ^ (w - 1))
  match v with
  | .nan _ => (0, fInvalid)
  | .inf neg => (unsigned w (if neg then lo else hi), intRangeFlags)
  | .fin neg m e =>
    let (r, inexact) := roundInt rnd neg m e
    if hi < r then (unsigned w hi, intRangeFlags)
    else if r < lo then (unsigned w lo, intRangeFlags)
    else (unsigned w r, FlagSet.when fInexact inexact)

/-- Convert a value into E8M0 (03, R362, R363). -/
def toScale (rnd : Nat) (v : Val) : Coded :=
  match v with
  | .nan sig => (0xFF, nanFlags sig)
  | .inf _ => (0xFF, fInvalid)
  | .fin neg m e =>
    if m = 0 ∨ neg then (0xFF, fInvalid)
    else
      let top := (log2 m : Int) + e
      let c := cutAt m e top
      let up := match rnd with | 0 => c.above || c.half | 2 => c.rest | _ => false
      let p := top + (b2n up : Int)
      if top < -127 then ((if p ≤ -127 then 0 else (p + 127).toNat), fUnderflow ||| fInexact ||| fSaturated)
      else if 127 < p then (0xFE, overflowFlags true)
      else ((p + 127).toNat, FlagSet.when fInexact c.rest)

/-- Convert a value into an element of any format that is not MX (03, R74, R362). -/
def toElem (c rnd : Nat) (sat : Bool) (v : Val) : Coded :=
  let f := fmt c
  match f.kind with
  | .flt => toFlt c rnd sat v
  | .int | .mxint => toIntBits f.width rnd v
  | .scale => toScale rnd v

/-! ### MX blocks (03, R75) -/

/-- emax of an MX format's elements (03, R75 step 4). -/
def mxEmax (c : Nat) : Int :=
  match c with | 0x0A => 8 | 0x0B => 15 | 0x0C => 4 | 0x0D => 2 | 0x0E => 2 | _ => 0

/-- ⌊log2⌋ of a finite non-zero magnitude. -/
def Val.top : Val → Option Int
  | .fin _ m e => if m = 0 then none else some ((log2 m : Int) + e)
  | _ => none

/-- One element of an MX block under a shared exponent (03, R75 step 5). An MXINT8 element is a multiple of 2^−6 clamped to ±127; a clamp is an
overflow of R363 (log 17). -/
def mxElem (c rnd : Nat) (shared : Int) (v : Val) : Coded :=
  match v with
  | .fin neg m e =>
    let e := e - shared
    if c = 0x0F then
      let (r, inexact) := roundInt rnd neg m (e + 6)
      if 127 < r then (127, overflowFlags true)
      else if r < -127 then (unsigned 8 (-127), overflowFlags true)
      else (unsigned 8 r, FlagSet.when fInexact inexact)
    else toFlt c rnd true (.fin neg m e)
  | _ => (0, 0)

/-- The scale, the elements and the flags of one MX block (03, R75). -/
def mxBlock (c rnd : Nat) (vs : List Val) : Nat × List Nat × FlagSet :=
  if vs.any (fun v => match v with | .fin _ _ _ => false | _ => true) then (0xFF, vs.map fun _ => 0, fInvalid)
  else
    match vs.filterMap Val.top with
    | [] => (0, vs.map fun _ => 0, 0)
    | t :: ts =>
      let top := ts.foldl (fun a b => if a < b then b else a) t
      let sh := top - mxEmax c
      let sh : Int := if sh < -127 then -127 else if 127 < sh then 127 else sh
      let es := vs.map (mxElem c rnd sh)
      ((sh + 127).toNat, es.map (·.1), es.foldl (fun f e => f ||| e.2) 0)

/-! ### Exact arithmetic -/

/-- A signed value m × 2^e with an integer m. -/
structure Dy where
  m : Int
  e : Int
  deriving DecidableEq, Repr

def Dy.add (x y : Dy) : Dy :=
  if x.e ≤ y.e then { m := x.m + y.m * 2 ^ (y.e - x.e).toNat, e := x.e }
  else { m := x.m * 2 ^ (x.e - y.e).toNat + y.m, e := y.e }

def Dy.mul (x y : Dy) : Dy := { m := x.m * y.m, e := x.e + y.e }

def dyOf (neg : Bool) (m : Nat) (e : Int) : Dy := { m := if neg then -(m : Int) else (m : Int), e := e }

/-- A value's sign bit; a NaN has none. -/
def Val.neg : Val → Bool
  | .nan _ => false | .inf n => n | .fin n _ _ => n

def Val.isNan : Val → Bool
  | .nan _ => true | _ => false

def Val.isSig : Val → Bool
  | .nan b => b | _ => false

/-- The value with the other sign. -/
def Val.negate : Val → Val
  | .nan b => .nan b | .inf n => .inf (!n) | .fin n m e => .fin (!n) m e

/-- The magnitude. -/
def Val.mag : Val → Val
  | .nan b => .nan b | .inf _ => .inf false | .fin _ m e => .fin false m e

/-- A result before rounding: a value, with the flags of the operation. -/
abbrev Exact := Val × FlagSet

/-- Sum of two exact values; the sign of an exact zero follows the mode (IEEE 754-2019). -/
def exactAdd (rnd : Nat) (x y : Val) : Exact :=
  match x, y with
  | .nan a, .nan b => (.nan false, nanFlags (a || b))
  | .nan a, _ => (.nan false, nanFlags a)
  | _, .nan b => (.nan false, nanFlags b)
  | .inf a, .inf b => if a = b then (.inf a, 0) else (.nan false, fInvalid)
  | .inf a, .fin _ _ _ => (.inf a, 0)
  | .fin _ _ _, .inf b => (.inf b, 0)
  | .fin a m e, .fin b n g =>
    let d := (dyOf a m e).add (dyOf b n g)
    if d.m = 0 then (.fin (if m = 0 ∧ n = 0 ∧ a = b then a else decide (rnd = 3)) 0 0, 0)
    else (.fin (decide (d.m < 0)) d.m.natAbs d.e, 0)

/-- Product of two exact values. -/
def exactMul (x y : Val) : Exact :=
  match x, y with
  | .nan a, .nan b => (.nan false, nanFlags (a || b))
  | .nan a, _ => (.nan false, nanFlags a)
  | _, .nan b => (.nan false, nanFlags b)
  | .inf a, .inf b => (.inf (a != b), 0)
  | .inf a, .fin b m _ => if m = 0 then (.nan false, fInvalid) else (.inf (a != b), 0)
  | .fin a m _, .inf b => if m = 0 then (.nan false, fInvalid) else (.inf (a != b), 0)
  | .fin a m e, .fin b n g => (.fin (a != b) (m * n) (e + g), 0)

/-- Fused multiply-add: invalid of a product of zero and infinity stands whatever C is. -/
def exactFma (rnd : Nat) (x y z : Val) : Exact :=
  let p := exactMul x y
  let r := exactAdd rnd p.1 z
  (r.1, p.2 ||| r.2)

/-- Bits kept by a quotient or a root before rounding: more than twice the precision, with a last bit that stands for the rest. -/
def guardBits : Nat := 140

/-- Quotient, with a last bit set when something is left over: enough for one correct rounding (03, R71). -/
def exactDiv (x y : Val) : Exact :=
  match x, y with
  | .nan a, .nan b => (.nan false, nanFlags (a || b))
  | .nan a, _ => (.nan false, nanFlags a)
  | _, .nan b => (.nan false, nanFlags b)
  | .inf _, .inf _ => (.nan false, fInvalid)
  | .inf a, .fin b _ _ => (.inf (a != b), 0)
  | .fin a _ _, .inf b => (.fin (a != b) 0 0, 0)
  | .fin a m e, .fin b n g =>
    if n = 0 then (if m = 0 then (.nan false, fInvalid) else (.inf (a != b), fDivZero))
    else
      let k := guardBits + log2 n
      let q := m * 2 ^ k / n
      let s := b2n (decide (m * 2 ^ k % n ≠ 0))
      (.fin (a != b) (2 * q + s) (e - g - (k : Int) - 1), 0)

/-- ⌊√n⌋ from the bit `k` down. -/
def isqrtFrom : Nat → Nat → Nat → Nat
  | 0, n, r => if (r + 1) * (r + 1) ≤ n then r + 1 else r
  | k + 1, n, r => let t := r + 2 ^ (k + 1); isqrtFrom k n (if t * t ≤ n then t else r)

/-- ⌊√n⌋. -/
def isqrt (n : Nat) : Nat := isqrtFrom (log2 n / 2 + 1) n 0

/-- Square root, with a last bit set when something is left over. -/
def exactSqrt (x : Val) : Exact :=
  match x with
  | .nan a => (.nan false, nanFlags a)
  | .inf a => if a then (.nan false, fInvalid) else (.inf false, 0)
  | .fin a m e =>
    if m = 0 then (.fin a 0 0, 0)
    else if a then (.nan false, fInvalid)
    else
      let (m, e) := if e % 2 = 0 then (m, e) else (2 * m, e - 1)
      let n := m * 2 ^ (2 * guardBits)
      let r := isqrt n
      (.fin false (2 * r + b2n (decide (r * r ≠ n))) (e / 2 - (guardBits : Int) - 1), 0)

/-- Order of two values that are no NaN, −0 before +0 (IEEE 754-2019 minimum and maximum). -/
def Val.le (x y : Val) : Bool :=
  match x, y with
  | .inf a, .inf b => a || !b
  | .inf a, _ => a
  | _, .inf b => !b
  | .fin a m e, .fin b n g =>
    if m = 0 ∧ n = 0 then a || !b
    else
      let d := (dyOf a m e).add (dyOf (!b) n g)
      decide (d.m ≤ 0)
  | _, _ => true

/-- Minimum or maximum of IEEE 754-2019: a NaN when either operand is one (03, R71). -/
def exactMinMax (max_ : Bool) (x y : Val) : Exact :=
  if x.isNan ∨ y.isNan then (.nan false, nanFlags (x.isSig || y.isSig))
  else if x.le y then (if max_ then y else x, 0) else (if max_ then x else y, 0)

/-! ### Two to a power (04, R95, EXP2) -/

/-- Fraction bits of the working precision. -/
def exp2Bits : Nat := 192

/-- 2^(f / 2^k) for the bits of f from the highest down: `c` is 2^(1/2^i) in fixed point, `acc` the product so far. -/
def exp2Prod : Nat → Nat → Nat → Nat → Nat
  | 0, _, _, acc => acc
  | k + 1, f, c, acc =>
    let c' := isqrt (c * 2 ^ exp2Bits)
    exp2Prod k f c' (if f.testBit k then acc * c' / 2 ^ exp2Bits else acc)

/-- 2^A: an exact value when A is an integer, otherwise a value between its two neighbours in every format, with a last bit that stands for the
rest. -/
def exactExp2 (x : Val) : Exact :=
  match x with
  | .nan a => (.nan false, nanFlags a)
  | .inf a => if a then (.fin false 0 0, 0) else (.inf false, 0)
  | .fin a m e =>
    if m = 0 then (.fin false 1 0, 0)
    else
      let d := dyOf a m e
      if 40 < (log2 m : Int) + e then (.fin false 1 (if a then -5000 else 5000), 0)
      else if 0 ≤ e then (.fin false 1 (d.m * 2 ^ e.toNat), 0)
      else
        let k := (-e).toNat
        let n := d.m / 2 ^ k
        let r := (d.m % 2 ^ k).toNat
        if r = 0 then (.fin false 1 n, 0)
        else
          let f := if k ≤ exp2Bits then r * 2 ^ (exp2Bits - k) else r / 2 ^ (k - exp2Bits)
          let p := exp2Prod exp2Bits f (2 * 2 ^ exp2Bits) (2 ^ exp2Bits)
          (.fin false (2 * p + 1) (n - (exp2Bits : Int) - 1), 0)

/-! ### The vector engine's compute formats (04, R95) -/

/-- Round a value into FP64 or FP32 as an arithmetic result, with IEEE overflow. -/
def roundFlt (c rnd : Nat) (v : Exact) : Val × FlagSet :=
  let r := toFlt c rnd false v.1
  (decodeElem c r.1, r.2 ||| v.2)

/-- The faithful rounding of EXP2: one of the two neighbours, chosen by a free value (log 7). -/
def roundFaithful (c : Nat) (bits : Nat) (v : Exact) : Val × FlagSet :=
  roundFlt c (if Config.exp2Up (BitVec.ofNat 64 bits) then 2 else 3) v

/-- The compute format of a destination format: FP64, INT32, otherwise FP32. -/
def computeFmt (d : Nat) : Nat := if d = 0x01 then 0x01 else if d = 0x12 then 0x12 else 0x02

/-- A source converted on read into the compute format (04, R95; 03, R74). -/
def toCompute (c rnd : Nat) (sat : Bool) (v : Val) : Val × FlagSet :=
  let r := toElem c rnd sat v
  (decodeElem c r.1, r.2)

/-- The exact integer of a value of the INT32 compute format. -/
def Val.int : Val → Int
  | .fin n m e => let x : Int := if 0 ≤ e then (m : Int) * 2 ^ e.toNat else (m : Int) / 2 ^ (-e).toNat
                  if n then -x else x
  | _ => 0

/-- An INT32 result: the exact integer when it is one of the range, otherwise a free value (log 7). -/
def int32Of (vopc : Nat) (a b c : Int) (r : Option Int) : Val :=
  let x := match r with
    | some v => if -(2 ^ 31) ≤ v ∧ v < 2 ^ 31 then v else signed 32 (Config.int32Result vopc a b c).toNat
    | none => signed 32 (Config.int32Result vopc a b c).toNat
  .fin (decide (x < 0)) x.natAbs 0

/-- One operation in INT32: sums, differences, products and fused sums are exact; a quotient and a root are rounded in RND (log 17). EXP2 of a negative A lies
between 0 and 1, and a faithful rounding gives one of the two (log 7). -/
def int32Op (vopc rnd : Nat) (a b c : Int) : Val :=
  let rounded (v : Val) : Option Int := match v with | .fin n m e => some (roundInt rnd n m e).1 | _ => none
  let v (x : Int) : Val := .fin (decide (x < 0)) x.natAbs 0
  int32Of vopc a b c <|
    match vopc with
    | 0x01 => some (a + b)
    | 0x02 => some (a - b)
    | 0x03 => some (a * b)
    | 0x04 => some (a * b + c)
    | 0x05 => rounded (exactDiv (v a) (v b)).1
    | 0x06 => rounded (exactSqrt (v a)).1
    | 0x07 => some (if a ≤ b then a else b)
    | 0x08 => some (if a ≤ b then b else a)
    | 0x09 => some (-a)
    | 0x0A => some a.natAbs
    | 0x0E => if a < 0 then some (b2n (Config.exp2Up (BitVec.ofInt 64 a))) else if a < 31 then some (2 ^ a.toNat) else none
    | _ => some a

/-- One elementwise operation in a compute format (04, R95, VOP operations; 03, R71). -/
def vectorOp (vopc cf rnd : Nat) (a b c : Val) : Val × FlagSet :=
  if cf = 0x12 then (int32Op vopc rnd a.int b.int c.int, 0)
  else
    match vopc with
    | 0x01 => roundFlt cf rnd (exactAdd rnd a b)
    | 0x02 => roundFlt cf rnd (exactAdd rnd a b.negate)
    | 0x03 => roundFlt cf rnd (exactMul a b)
    | 0x04 => roundFlt cf rnd (exactFma rnd a b c)
    | 0x05 => roundFlt cf rnd (exactDiv a b)
    | 0x06 => roundFlt cf rnd (exactSqrt a)
    | 0x07 => exactMinMax false a b
    | 0x08 => exactMinMax true a b
    | 0x09 => (a.negate, 0)
    | 0x0A => (a.mag, 0)
    | 0x0E => roundFaithful cf (toFlt cf 0 false a).1 (exactExp2 a)
    | _ => (a, 0)

/-- One level of a pairwise reduction: lane 2i with lane 2i + 1 (03, R72). -/
def pairUp (vopc cf rnd : Nat) : List Val → List Val × FlagSet
  | a :: b :: l =>
    let r := vectorOp vopc cf rnd a b a
    let t := pairUp vopc cf rnd l
    (r.1 :: t.1, r.2 ||| t.2)
  | l => (l, 0)

/-- Levels of the reduction, `n` of them at most. -/
def reduceLevels (vopc cf rnd : Nat) : Nat → List Val → FlagSet → List Val × FlagSet
  | 0, l, f => (l, f)
  | n + 1, l, f => let r := pairUp vopc cf rnd l; reduceLevels vopc cf rnd n r.1 (f ||| r.2)

/-- Smallest k with n ≤ 2^k. -/
def log2Up (n : Nat) : Nat := if n ≤ 1 then 0 else log2 (n - 1) + 1

/-- Reduction of COUNT values, padded to a power of two with −0 for a sum and −∞ for a maximum (04, R95, RSUM, RMAX). In INT32 the padding is 0
or the least number, which change nothing. -/
def reduce (sum : Bool) (cf rnd : Nat) (vs : List Val) : Val × FlagSet :=
  let k := log2Up vs.length
  let pad : Val := if cf = 0x12 then (if sum then .fin false 0 0 else .fin true (2 ^ 31) 0) else if sum then .fin true 0 0 else .inf true
  let l := vs ++ List.replicate (2 ^ k - vs.length) pad
  let r := reduceLevels (if sum then 0x01 else 0x08) cf rnd k l 0
  (r.1.headD pad, r.2)

/-! ### Packed elements (03, R66) -/

/-- Element `i` of packed element data. -/
def elemAt (c : Nat) (bytes : List Byte) (i : Nat) : Nat :=
  match fmtBits c with
  | 4 => fld ((bytes.getD (i / 2) 0).toNat) (4 * (i % 2) + 3) (4 * (i % 2))
  | 6 => fld (leAt bytes (3 * (i / 4)) 3) (6 * (i % 4) + 5) (6 * (i % 4))
  | w => leAt bytes (i * (w / 8)) (w / 8)

/-- All `n` elements of packed element data. -/
def unpack (c n : Nat) (bytes : List Byte) : List Nat := (upFrom 0 n).map (elemAt c bytes)

/-- Elements packed into bytes; a last byte or group that the elements do not fill is zero there. -/
def pack (c : Nat) (xs : List Nat) : List Byte :=
  match fmtBits c with
  | 4 => (upFrom 0 (ceilDiv xs.length 2)).map fun i => BitVec.ofNat 8 (xs.getD (2 * i) 0 + 16 * xs.getD (2 * i + 1) 0)
  | 6 =>
    ((upFrom 0 (ceilDiv xs.length 4)).flatMap fun i =>
      leBytes 3 (xs.getD (4 * i) 0 + at_ (xs.getD (4 * i + 1) 0) 6 + at_ (xs.getD (4 * i + 2) 0) 12 + at_ (xs.getD (4 * i + 3) 0) 18)).take
        (fmtBytes c xs.length)
  | w => xs.flatMap fun x => leBytes (w / 8) x

end Sys2Proof.Machine
end

