-- ==== Sys2Proof/Machine/Operands.lean ====
section
/-! DEFINITION. The commands of a core's stream (04, R88-R113): fields, reserved bits and the checks of issue (R90), shapes, stencils,
step shapes and lamp costs (02, R44, R45; 07, R163). -/

namespace Sys2Proof.Machine

/-! ### Fields of a command (04, R89) -/

def Cmd.opcode (q : Cmd) : Nat := wf q.w0 63 56
def Cmd.pen (q : Cmd) : Bool := wb q.w0 55
def Cmd.pneg (q : Cmd) : Bool := wb q.w0 54
def Cmd.pidx (q : Cmd) : Nat := wf q.w0 53 50
def Cmd.ixaEn (q : Cmd) : Bool := wb q.w0 49
def Cmd.ixa (q : Cmd) : Nat := wf q.w0 48 45
def Cmd.ixbEn (q : Cmd) : Bool := wb q.w0 44
def Cmd.ixb (q : Cmd) : Nat := wf q.w0 43 40
def Cmd.notBefore (q : Cmd) : Nat := wf q.w0 39 23
/-- Store address in [25:0] and in [57:32] of a word. -/
def lowAddr (w : Word) : Nat := wf w 25 0
def highAddr (w : Word) : Nat := wf w 57 32
def Cmd.vopc (q : Cmd) : Nat := wf q.w0 22 15

/-- The opcode is one of the table (04, "Opcodes"). -/
def knownOpcode (o : Nat) : Bool :=
  [0x01, 0x02, 0x10, 0x12, 0x20, 0x21, 0x22, 0x23, 0x28, 0x29, 0x30, 0x31, 0x38, 0x39, 0x40, 0x41, 0x48, 0x49, 0x50, 0x51, 0x58].contains o

/-- Queue a command goes to, as QUEUE of R293: an engine's, the named one, 4 the sequencer's (04, R88). -/
def Cmd.queue (q : Cmd) : Nat :=
  match q.opcode with
  | 0x01 | 0x02 => b2n (wb q.w0 22)
  | 0x10 | 0x12 => 2
  | 0x20 | 0x21 | 0x22 | 0x23 | 0x28 | 0x29 | 0x30 => 3
  | 0x31 | 0x38 | 0x39 => Nat.min 4 (wf q.w0 22 20)
  | _ => 4

/-! ### Step shapes (02, R44, R45) -/

/-- Step shapes of the matrix engine. -/
inductive StepShape where
  | b8 | b4 | b16 | slice
  deriving DecidableEq, Repr

/-- Four-bit formats. -/
def is4 (c : Nat) : Bool := c = 0x09 || c = 0x0E || c = 0x11
/-- Six-bit formats. -/
def is6 (c : Nat) : Bool := c = 0x07 || c = 0x08 || c = 0x0C || c = 0x0D
/-- Sixteen-bit formats. -/
def is16 (c : Nat) : Bool := c = 0x03 || c = 0x04
/-- Integer formats for pairing. -/
def isInt (c : Nat) : Bool := c = 0x10 || c = 0x11
/-- Formats that enter the cubes (02, R45). -/
def cubeFmt (c : Nat) : Bool := decide (0x03 ≤ c) && decide (c ≤ 0x11)

/-- The step shape of a pair of formats; `none` for a forbidden pair (02, R45). -/
def stepShape (op w : Nat) (slice : Bool) : Option StepShape :=
  if !cubeFmt op || !cubeFmt w then none
  else if isInt op != isInt w then none
  else if is16 op != is16 w then none
  else if slice then some .slice
  else if is16 op then some .b16
  else if is4 op && is4 w then some .b4
  else some .b8

/-- Operand line width in bytes (02, R44). -/
def lineWidth (sh : StepShape) (op : Nat) : Nat :=
  match sh with
  | .b16 => 512
  | .b4 | .slice => 256
  | .b8 => if is4 op then 128 else if is6 op then 192 else 256

/-- Reduction elements of one cube row (02, R44). -/
def redux : StepShape → Nat
  | .b4 => 16
  | _ => 8

/-- Bytes of a segment of a weight tile (02, R47). -/
def segBytes (w : Nat) (w4 : Bool) : Nat :=
  if is16 w then 128 else if is6 w then 48 else if is4 w ∧ !w4 then 32 else 64

/-- Bytes of a weight tile, with the scale segments of an MX format (02, R47). -/
def tileBytes (w : Nat) (w4 : Bool) : Nat := 16 * segBytes w w4 + if isMx w then 128 else 0

/-- Region-clock cycles of a weight load (02, R48). -/
def loadCycles (w : Nat) (w4 : Bool) : Nat := ceilDiv (16 * segBytes w w4) 64 + if isMx w then 2 else 0

/-- Lamps of a command (07, R163). -/
def Cmd.lamps (q : Cmd) : Nat :=
  match q.opcode with
  | 0x01 =>
    match stepShape (wf q.w1 47 43) (wf q.w1 42 38) (wb q.w1 35) with
    | some .b4 | some .b16 => 7
    | _ => 6
  | 0x02 => 1
  | 0x10 | 0x12 => 2
  | 0x20 | 0x21 | 0x22 | 0x23 | 0x28 | 0x29 | 0x30 => 1
  | _ => 0

/-! ### Shapes and stencils (04, R93, R99) -/

/-- Bytes a shape covers. -/
def Shape.bytes (h : Shape) : Nat := h.ext0 * h.ext1 * h.ext2 * h.ext3

/-- Addresses of a shape from a base, in generation order (04, R93). -/
def Shape.addrs (h : Shape) (base : Int) : List Int :=
  (upFrom 0 h.ext3).flatMap fun (i3 : Nat) => (upFrom 0 h.ext2).flatMap fun (i2 : Nat) => (upFrom 0 h.ext1).flatMap fun (i1 : Nat) =>
    (upFrom 0 h.ext0).map fun (i0 : Nat) => base + (i0 : Int) + (i1 : Int) * h.stride1 + (i2 : Int) * h.stride2 + (i3 : Int) * h.stride3

/-- A shape descriptor's fields (04, R93). -/
def shapeOf (w0 w1 w2 : Word) : Shape :=
  { ext0 := wf w0 63 48, ext1 := wf w0 47 32, ext2 := wf w0 31 16, ext3 := wf w0 15 0, stride1 := signed 32 (wf w1 63 32),
    stride2 := signed 32 (wf w1 31 0), stride3 := signed 32 (wf w2 63 32) }

/-- Shape number `i` of a core. -/
def Core.shape (k : Core) (i : Nat) : Option Shape := k.shapes[i]?

/-- A stencil entry used: VALID set and INDEX below the extent (04, R99). -/
inductive Entry where
  | used (index : Nat) | invalid | clipped
  deriving DecidableEq, Repr

/-- An entry whose VALID is 0 is never clipped, whatever its INDEX (log 70). -/
def entryOf (x extent : Nat) : Entry :=
  if !x.testBit 31 then .invalid else if x % 2 ^ 31 < extent then .used (x % 2 ^ 31) else .clipped

/-! ### Reserved bits (04, R89, R90) -/

/-- Bits [hi:lo] set. -/
def bits (hi lo : Nat) : Nat := (2 ^ (hi + 1 - lo) - 1) <<< lo

/-- Some bit of a word outside the mask is set. -/
def outside (w : Word) (mask : Nat) : Bool := decide (w.toNat &&& (2 ^ 64 - 1 - mask % 2 ^ 64) ≠ 0)

/-- Masks of the bits a command's class map defines in W0[22:0], W1, W2 and W3, for the values of its other fields. -/
structure Masks where
  m0 : Nat
  m1 : Nat
  m2 : Nat
  m3 : Nat
  /-- the class map marks an address (IXA), (IXB) -/
  ixa : Bool
  ixb : Bool
  deriving DecidableEq, Repr

/-- Whether a vector operation uses source B, and source C (04, VOP operations). -/
def vopUsesB (v : Nat) : Bool := [0x01, 0x02, 0x03, 0x04, 0x05, 0x07, 0x08].contains v
def vopUsesC (v : Nat) : Bool := v = 0x04

/-- The class maps (04, R94-R107, R109). -/
def Cmd.masks (q : Cmd) : Masks :=
  match q.opcode with
  | 0x01 =>
    let mx := isMx (wf q.w1 47 43)
    ⟨bits 22 22, bits 63 35 + bits 25 0, bits 63 48 + (if mx then bits 25 0 else 0), 0, true, mx⟩
  | 0x02 => ⟨bits 22 22, bits 49 48 + bits 42 38 + (if is4 (wf q.w1 42 38) then bits 34 34 else 0) + bits 25 0, 0, 0, true, false⟩
  | 0x10 =>
    ⟨bits 22 12, bits 63 59 + (if vopUsesB q.vopc then bits 58 54 else 0) + (if vopUsesC q.vopc then bits 53 49 else 0) + bits 48 44 + bits 25 0,
      bits 57 32 + bits 25 0, bits 63 44 + bits 25 0, true, true⟩
  | 0x12 => ⟨bits 22 6, bits 63 0, bits 63 59 + bits 57 28 + bits 25 0, bits 57 32 + bits 25 0, true, true⟩
  | 0x20 => ⟨bits 22 4, bits 57 32 + bits 25 0, 0, 0, true, true⟩
  | 0x21 => ⟨bits 22 11, bits 57 32 + bits 25 0, bits 63 32 + bits 25 0, 0, true, true⟩
  | 0x22 | 0x23 => ⟨bits 22 6, bits 57 32 + bits 25 0, bits 63 32 + bits 25 0, bits 63 48 + bits 31 0, true, true⟩
  | 0x28 | 0x29 =>
    let paged := wb q.w0 21
    ⟨bits 22 7, bits 63 24 + (if paged then bits 23 7 else 0), (if paged then bits 57 32 else 0) + bits 25 0,
      (if wb q.w0 22 then bits 63 48 else 0) + (if paged then bits 47 0 else 0), true, true⟩
  | 0x30 =>
    let r := wf q.w0 22 21
    ⟨bits 22 0, (if r = 2 then bits 63 51 else 0) + bits 50 41 + (if r = 1 then bits 39 32 else 0) + bits 25 0, bits 21 0, 0, true, false⟩
  | 0x31 => ⟨bits 22 13 + (if wb q.w0 19 then 0 else bits 12 1), 0, 0, 0, false, false⟩
  | 0x38 =>
    let r := wf q.w0 19 18
    ⟨bits 22 12, (if r = 3 then bits 63 51 else 0) + (if r = 0 then 0 else bits 50 41) + (if r = 2 then bits 39 32 else 0), bits 9 0, 0, false, false⟩
  | 0x39 => ⟨bits 22 2, bits 63 48, 0, 0, false, false⟩
  | 0x40 => ⟨bits 22 18, bits 63 48, 0, 0, false, false⟩
  | 0x48 => ⟨bits 22 0, bits 63 32, 0, 0, false, false⟩
  | 0x49 => ⟨bits 22 3, bits 63 32, 0, 0, false, false⟩
  | 0x51 => ⟨bits 22 12, 0, 0, 0, false, false⟩
  | 0x58 => ⟨bits 22 20, bits 63 0, bits 63 24, 0, false, false⟩
  | _ => ⟨0, 0, 0, 0, false, false⟩

/-- A reserved bit outside the class map or the common fields is set (04, R89). -/
def Cmd.reservedBits (q : Cmd) : Bool :=
  let m := q.masks
  let common := bits 63 55 + (if q.pen then bits 54 50 else 0) + (if m.ixa then bits 49 45 else 0) + (if m.ixb then bits 44 40 else 0) + bits 39 23
  outside q.w0 (common + m.m0) || outside q.w1 m.m1 || outside q.w2 m.m2 || outside q.w3 m.m3

/-- A value that a field map lists as reserved (04, R90). `core` is the core's number in its cluster. -/
def Cmd.reservedValue (q : Cmd) (core : Nat) : Bool :=
  let noPred := q.pen
  match q.opcode with
  | 0x01 =>
    let op := wf q.w1 47 43
    let w := wf q.w1 42 38
    let sh := stepShape op w (wb q.w1 35)
    let xp := wb q.w1 37
    let pre := wb q.w1 36
    let xpOk := match sh with
      | some .b16 => true
      | some .b8 | some .slice => !isMx op && !isMx w && !is4 op && !is4 w
      | _ => false
    sh.isNone || (xp && !xpOk) || (pre && (decide (2 ≤ core) || xp))
  | 0x02 => !cubeFmt (wf q.w1 42 38)
  | 0x10 =>
    let v := q.vopc
    v = 0 || decide (0x0E < v) || (fmtOf (wf q.w1 63 59)).isNone || (vopUsesB v && (fmtOf (wf q.w1 58 54)).isNone) ||
      (vopUsesC v && (fmtOf (wf q.w1 53 49)).isNone) || (fmtOf (wf q.w1 48 44)).isNone
  | 0x20 => decide (6 ≤ wf q.w0 6 4)
  | 0x30 => wf q.w0 22 21 = 3
  | 0x31 | 0x38 | 0x39 => decide (5 ≤ wf q.w0 22 20)
  | 0x40 | 0x41 | 0x50 | 0x58 => noPred
  | 0x48 =>
    let k := wf q.w0 18 16
    decide (5 ≤ k) || decide (4 ≤ wf q.w0 2 0)
  | 0x49 => decide (6 ≤ wf q.w0 18 16)
  | 0x51 => decide (4 ≤ wf q.w0 22 20)
  | o => !knownOpcode o

/-! ### Range checks (04, R90) -/

/-- Destination core of a SEND or SET (04, R104, R107). -/
def Cmd.destDie (q : Cmd) : Nat := wf q.w1 50 48
def Cmd.destClu (q : Cmd) : Nat := wf q.w1 47 44
def Cmd.destCore (q : Cmd) : Nat := wf q.w1 43 41
def Cmd.dest (q : Cmd) : CoreId :=
  { die := ⟨q.destDie % 6, Nat.mod_lt _ (by decide)⟩, clu := ⟨q.destClu % 11, Nat.mod_lt _ (by decide)⟩,
    core := ⟨q.destCore % 8, Nat.mod_lt _ (by decide)⟩ }

/-- The destination fields name a core. -/
def Cmd.destOk (q : Cmd) : Bool := decide (q.destDie ≤ 5) && decide (q.destClu ≤ 10)

/-- Bytes of shape `i` of a core, none when it has no such shape. -/
def Core.shapeBytes (k : Core) (i : Nat) : Option Nat := (k.shape i).map Shape.bytes

/-- A transposing MOVE's shapes fit (04, R97). The outer extents, of which the rule does not speak, must agree one by one (log 66). -/
def xposeOk (a b : Shape) (w : Nat) : Bool :=
  (a.ext0 * 8 % w = 0) && (a.ext1 * w % 8 = 0) && (b.ext0 = a.ext1 * w / 8) && (b.ext1 = a.ext0 * 8 / w) && (b.ext2 = a.ext2) && (b.ext3 = a.ext3)

/-- Element width of XP (04, MOVE). -/
def xpWidth : Nat → Nat
  | 1 => 4 | 2 => 8 | 3 => 16 | 4 => 32 | _ => 64

/-- Longest message: 4,095 units of 256 bytes, 4,680 packets of 224 bytes (04, R103; 09). -/
def maxMessage : Nat := 1048320

/-- Sets that a VCOMB reads (04, R96). -/
def vcombSets (q : Cmd) : Nat := wf q.w2 63 59 * wf q.w0 9 6 * wf q.w0 22 19

/-- A field breaks its range, alignment or relation (04, R90). `owns` tells whether the partition has a cluster; HANDOVER's beat edges are
checked where it acts. -/
def Cmd.outOfRange (q : Cmd) (k : Core) (owns : Nat → Bool) : Bool :=
  match q.opcode with
  | 0x01 =>
    let op := wf q.w1 47 43
    let w := wf q.w1 42 38
    let slice := wb q.w1 35
    let n := wf q.w1 63 57
    let lw := match stepShape op w slice with | some sh => lineWidth sh op | none => 256
    let ls := wf q.w2 63 48
    n = 0 || decide (64 < n) || decide (63 < wf q.w1 56 51 + n - 1) || (slice && (op != 0x10 || w != 0x10)) || decide (ls < lw) ||
      (wb q.w1 36 && ls != lw)
  | 0x10 =>
    let v := q.vopc
    let n := wf q.w3 63 44
    let mx := isMx (wf q.w1 63 59) || (vopUsesB v && isMx (wf q.w1 58 54)) || (vopUsesC v && isMx (wf q.w1 53 49)) || isMx (wf q.w1 48 44)
    n = 0 || (mx && n % 32 != 0) || ((v = 0x0C || v = 0x0D) && isMx (wf q.w1 48 44))
  | 0x12 =>
    let sc := wf q.w0 22 19
    let ph := wf q.w0 18 17
    let kh := wf q.w0 9 6
    let kt := wf q.w1 63 51
    let kf := wf q.w1 50 39
    let tiles := wf q.w2 63 59
    decide (sc < 4) || decide (9 < sc) || kh = 0 || kt = 0 || decide (4096 < kt) || decide (kt < kf + kh) || (ph = 0 && (kf != 0 || kh != kt)) ||
      tiles = 0 || decide (16 < tiles) || decide (64 < wf q.w0 15 10 + vcombSets q) || decide (4096 < wf q.w1 38 26 + tiles)
  | 0x20 =>
    match k.shape (wf q.w0 22 15), k.shape (wf q.w0 14 7) with
    | some a, some b =>
      let xp := wf q.w0 6 4
      if xp = 0 then a.bytes != b.bytes else !xposeOk a b (xpWidth xp)
    | _, _ => true
  | 0x21 =>
    let sc := wf q.w0 22 19
    decide (sc < 4) || decide (9 < sc) || wf q.w2 63 32 = 0 ||
      (match k.shapeBytes (wf q.w0 18 11) with | some n => n % 256 != 0 | none => true)
  | 0x22 | 0x23 =>
    let sl := wf q.w0 22 6
    sl = 0 || decide (65536 < sl) || wf q.w2 63 32 = 0 || lowAddr q.w2 % 4 != 0 || wf q.w3 63 48 = 0 || wf q.w3 31 0 = 0
  | 0x28 | 0x29 =>
    match k.shapeBytes (wf q.w0 20 13) with
    | none => true
    | some n =>
      wb q.w0 21 &&
        (let sl := wf q.w1 23 7
         let pb := wf q.w3 23 0
         sl = 0 || decide (65536 < sl) || wf q.w3 47 24 = 0 || pb = 0 || n != sl * pb * 64)
  | 0x30 =>
    let r := wf q.w0 22 21
    match k.shapeBytes (wf q.w0 20 13) with
    | none => true
    | some n =>
      (r != 1 && !q.destOk) || (r = 0 && !owns q.dest.cluIx) || (r = 1 && decide (k.sends.length ≤ wf q.w1 39 32)) ||
        (r = 2 && decide (maxMessage < n))
  | 0x31 => !(match Tab.find k.slots (wf q.w0 18 13) with | some d => d.valid | none => false)
  | 0x38 =>
    let r := wf q.w0 19 18
    ((r = 1 || r = 3) && !q.destOk) || (r = 1 && !owns q.dest.cluIx) || (r = 2 && decide (k.sends.length ≤ wf q.w1 39 32))
  | 0x39 => wf q.w1 63 48 = 0
  | 0x40 => decide (4 ≤ k.loops.length)
  | 0x41 => k.loops.isEmpty
  | 0x48 =>
    let sk := wf q.w0 18 16
    (sk = 4 && decide (5 < wf q.w0 15 12)) || (sk = 3 && decide (4 < wf q.w0 5 3))
  | 0x49 => wf q.w0 18 16 = 3 && decide (4 < wf q.w0 5 3)
  | 0x51 => decide (128 ≤ wf q.w0 19 12)
  | 0x58 => decide (4 < wf q.w0 22 20) || !k.loops.isEmpty
  | _ => false

/-- The checks of issue (04, R90): SUB 1 for RSVD, 2 for EXTENT, none when the command passes. RSVD goes first. -/
def Cmd.check (q : Cmd) (k : Core) (core : Nat) (owns : Nat → Bool) : Option Nat :=
  if q.reservedBits || q.reservedValue core then some 1
  else if q.outOfRange k owns then some 2
  else none

/-! ### Addresses after IXA and IXB (04, R91) -/

/-- Address fields marked (IXA) and (IXB), before the addition. -/
def Cmd.addrA (q : Cmd) : Nat :=
  match q.opcode with
  | 0x01 | 0x02 | 0x10 | 0x12 | 0x30 => lowAddr q.w1
  | 0x20 | 0x21 | 0x22 | 0x23 => highAddr q.w1
  | 0x28 | 0x29 => wf q.w1 63 24
  | _ => 0

def Cmd.addrB (q : Cmd) : Nat :=
  match q.opcode with
  | 0x01 => lowAddr q.w2
  | 0x10 | 0x12 => lowAddr q.w3
  | 0x20 | 0x21 | 0x22 | 0x23 => lowAddr q.w1
  | 0x28 | 0x29 => lowAddr q.w2
  | _ => 0

/-- A scalar register. -/
def Core.scalar (k : Core) (i : Nat) : W32 := Tab.get 0 k.sc i

/-- The command as its queue holds it, with the scalar registers added as signed values. -/
def Core.queued (k : Core) (q : Cmd) : QCmd :=
  { idx := k.pc, gen := k.gen, cmd := q,
    a := (q.addrA : Int) + (if q.ixaEn then (k.scalar q.ixa).toInt else 0),
    b := (q.addrB : Int) + (if q.ixbEn then (k.scalar q.ixb).toInt else 0), seq := k.issued, cyc := 0, vc := [] }

/-! ### Accumulator sets of a command (02, R53) -/

/-- Accumulator sets, 64 × engine + set, that some of the bytes [a, a + n) of a store address lie in. -/
def accSetsOf (a : Int) (n : Nat) : List Nat :=
  if a < 0x3000000 ∨ 0x3020000 ≤ a ∨ n = 0 then []
  else
    let lo := (a.toNat - 0x3000000) / 0x400
    let hi := (a.toNat - 0x3000000 + n - 1) / 0x400
    upFrom lo (hi + 1 - lo)

/-- Sets a pass writes. -/
def Cmd.writesSets (q : Cmd) : List Nat :=
  if q.opcode = 0x01 then (upFrom 0 (wf q.w1 63 57)).map fun i => 64 * b2n (wb q.w0 22) + wf q.w1 56 51 + i else []

/-- Lists taken in turn: the first of each, then the second of each, for `n` rounds. -/
def inTurn (n : Nat) (ls : List (List Nat)) : List Nat := (upFrom 0 n).flatMap fun i => ls.flatMap fun l => (l[i]?).toList

/-- Sets a vector command reads, in the order of its reads: the sources of a VOP advance together (02, R53, R54; log 91). -/
def QCmd.readsSets (x : QCmd) : List Nat :=
  let q := x.cmd
  match q.opcode with
  | 0x10 =>
    let n := wf q.w3 63 44
    inTurn 128 [accSetsOf x.a (fmtBytes (wf q.w1 63 59) n),
      (if vopUsesB q.vopc then accSetsOf (highAddr q.w2) (fmtBytes (wf q.w1 58 54) n) else []),
      (if vopUsesC q.vopc then accSetsOf (lowAddr q.w2) (fmtBytes (wf q.w1 53 49) n) else [])]
  | 0x12 => (upFrom 0 (vcombSets q)).map fun i => 64 * b2n (wb q.w0 16) + wf q.w0 15 10 + i
  | _ => []

end Sys2Proof.Machine
end

