-- ==== Sys2Proof/Machine/Assay.lean ====
section
/-! DEFINITION. Assay mode (06, R153-R160): reports, order clocks, the hazard detector of the stores and of HBM, format tags. The detector
orders accesses by vector clocks: a thread is an engine queue of a core, and every link of R155 hands a clock on. -/

namespace Sys2Proof.Machine

/-! ### Control (06, R153, R154) -/

/-- Assay mode is on for the partition. -/
def State.assayEn (s : State) (n : Nat) : Bool := rb (cfg s .ptAssayCtl n 0) 0

/-- A check of PT_ASSAY_CTL is on: 4 hazard, 3 wait cycle, 2 overlap, 1 format. -/
def State.assayChk (s : State) (n i : Nat) : Bool := s.assayEn n && rb (cfg s .ptAssayCtl n 0) i

/-- Factor on stall limits: 1, 2, 4 or 8 in assay mode (06, R153). -/
def State.tmul (s : State) (n : Nat) : Nat := if s.assayEn n then 2 ^ cf s .ptAssayCtl n 0 7 6 else 1

/-- First byte of the shadow area and its length: 16 granules for each cluster of the partition (06, R154). -/
def State.shadow (s : State) (n : Nat) : Nat × Nat :=
  (granule * cf s .ptAssayShadow n 0 18 0, 16 * granule * ((upFrom 0 66).filter (s.ownsClu n)).length)

/-- A region byte lies in the shadow area while EN is set (06, R154). -/
def State.inShadow (s : State) (n a : Nat) : Bool :=
  s.assayEn n && decide ((s.shadow n).1 ≤ a) && decide (a < (s.shadow n).1 + (s.shadow n).2)

/-! ### Reports (06, R159) -/

/-- A report of the detector. -/
structure Report where
  kind : Nat
  core : CoreId
  queue : Nat
  cmd : Nat
  addr : Nat := 0
  other : Option AssayAcc := none
  declared : Nat := 0
  tag : Nat := 0
  haddr : Nat := 0
  deriving DecidableEq, Repr

/-- Die, cluster, core, queue and command in the order and widths of W0[59:31], at the top of a word (06, R159). -/
def placeId (c : CoreId) (queue cmd top : Nat) : Nat :=
  at_ c.die.val (top - 2) + at_ c.clu.val (top - 6) + at_ c.core.val (top - 9) + at_ queue (top - 12) + at_ (cmd % 65536) (top - 28)

/-- The 32 bytes of a report record (06, R159). -/
def Report.bytes (r : Report) (time : Nat) : List Byte :=
  leBytes 8 (at_ r.kind 60 + placeId r.core r.queue r.cmd 59 + r.addr % 2 ^ 26) ++
    leBytes 8 (match r.other with | some o => placeId o.core o.queue o.cmd 63 | none => 0) ++ leBytes 8 (time % 2 ^ 64) ++
    leBytes 8 (at_ r.declared 59 + at_ r.tag 54 + r.haddr % 2 ^ 40)

/-- A report is written to the log, which overwrites its oldest record when full; with STOP set the first one fault-stops the partition, and those that follow
are no causes of their own (06, R153, R156, R159). -/
def State.report (s : State) (n : Nat) (r : Report) : State :=
  let p := s.part n
  let base := (s.shadow n).1
  let s := s.ownWrite n (base + 32 * (p.assayPos % 65536)) (r.bytes s.now)
  let full := 65536 ≤ p.assayCount
  let s := s.setPart n { s.part n with assayPos := (p.assayPos + 1) % 65536, assayCount := Nat.min 65536 (p.assayCount + 1),
                                       assayOverrun := p.assayOverrun + b2n full }
  let s := if full then s.count .assayOverrun (.die 6) (some n) else s
  let stopped : Bool := (s.part n).st = .faultStop && (match (s.part n).frec with | some r => r.cause = cASSAY | none => false)
  if rb (cfg s .ptAssayCtl n 0) 5 ∧ !stopped then
    s.faultStop n { code := cASSAY, core := some r.core, queue := r.queue, cmd := r.cmd, item := r.kind }
  else s

/-! ### Order clocks (06, R155) -/

def threadKey (c : CoreId) (q : Nat) : Nat := 8 * c.ix + q
def flagKey (c : CoreId) (f : Nat) : Nat := 2 ^ 40 + 64 * c.ix + f
/-- A slot of a generation: its last message. -/
def slotKey (c : CoreId) (i : Nat) : Nat := 2 ^ 41 + 2 ^ 13 * c.ix + i
/-- A slot of a generation: its last RELEASE, for messages of other modules. -/
def releaseKey (c : CoreId) (i : Nat) : Nat := 2 ^ 42 + 2 ^ 13 * c.ix + i
/-- An accumulator set of a core: what wrote it, and what read it (02, R53). -/
def wroteKey (c : CoreId) (set : Nat) : Nat := 2 ^ 43 + 128 * c.ix + set
def readKey (c : CoreId) (set : Nat) : Nat := 2 ^ 44 + 128 * c.ix + set
/-- The credit of a slot of a generation at its source core. -/
def creditKey (src dst : CoreId) (i : Nat) : Nat := 2 ^ 50 + 2 ^ 13 * (1024 * src.ix + dst.ix) + i

/-- Join of two clocks. -/
def joinClock (a b : Tab Nat) : Tab Nat := b.foldl (fun m e => Tab.put m e.1 (Nat.max (Tab.get 0 m e.1) e.2)) a

/-- A thread's clock, with its own component at least 1. -/
def State.threadClock (s : State) (t : Nat) : Tab Nat :=
  let v := Tab.get [] s.assay.clocks t
  Tab.put v t (Tab.get 1 v t)

def State.putClock (s : State) (key : Nat) (v : Tab Nat) : State := { s with assay := { s.assay with clocks := Tab.put s.assay.clocks key v } }

/-- A clock is joined into the one of a key. -/
def State.joinInto (s : State) (key : Nat) (v : Tab Nat) : State := s.putClock key (joinClock (Tab.get [] s.assay.clocks key) v)

/-- A thread hands its clock on, and its later accesses are not covered by it. -/
def State.handOn (s : State) (n : Nat) (c : CoreId) (q : Nat) : Tab Nat × State :=
  if s.assayEn n then
    let t := threadKey c q
    let v := s.threadClock t
    (v, s.putClock t (Tab.put v t (Tab.get 1 v t + 1)))
  else ([], s)

/-- A thread takes the clock of a key: a WAIT takes its flag's, an ACQUIRE its slot's, a SEND its credit's. -/
def State.takeClock (s : State) (n : Nat) (c : CoreId) (q key : Nat) : State :=
  if s.assayEn n then s.joinInto (threadKey c q) (Tab.get [] s.assay.clocks key) else s

/-- A command that reads accumulator sets follows what wrote them, and what writes them next follows its start (02, R53). -/
def State.readSetsClock (s : State) (n : Nat) (c : CoreId) (q : Nat) (sets : List Nat) : State :=
  if sets.isEmpty then s
  else
    let s := sets.foldl (fun s i => s.takeClock n c q (wroteKey c i)) s
    let (vc, s) := s.handOn n c q
    sets.foldl (fun s i => s.joinInto (readKey c i) vc) s

/-- A pass that writes an accumulator set follows what read it, and what reads it next follows the write (02, R53). -/
def State.wroteSetClock (s : State) (n : Nat) (c : CoreId) (q set : Nat) : State :=
  if s.assayEn n then
    let (vc, s) := (s.takeClock n c q (readKey c set)).handOn n c q
    s.joinInto (wroteKey c set) vc
  else s

/-- A BEAT mark orders everything on its core (06, R155; 04, R112). -/
def State.beatClock (s : State) (n : Nat) (c : CoreId) : State :=
  if s.assayEn n then
    let v := (upFrom 0 5).foldl (fun v q => joinClock v (s.threadClock (threadKey c q))) []
    (upFrom 0 5).foldl (fun s q => s.putClock (threadKey c q) (Tab.put v (threadKey c q) (Tab.get 1 v (threadKey c q) + 1))) s
  else s

/-! ### Granules and accesses (06, R155, R158) -/

/-- Key of the 32-byte granule of a store address: cluster × 2^32, the cluster store below 2^24, core k's store from 2^24 × (k + 1). -/
def granuleKey (c : CoreId) (a : Int) : Option Nat :=
  match spotOf a with
  | .core o => some (2 ^ 32 * c.cluIx + 2 ^ 24 * (c.core.val + 1) + o / 32)
  | .cluster o => some (2 ^ 32 * c.cluIx + o / 32)
  | _ => none

/-- Key of the tag of an accumulator set. -/
def accKey (c : CoreId) (set : Nat) : Nat := 2 ^ 32 * c.cluIx + 2 ^ 28 + 128 * c.core.val + set

/-- Key of a 256-byte block of a partition's region. -/
def blockKey (n a : Nat) : Nat := 2 ^ 32 * (66 + n) + a / 256

/-- Store address of the granule of a key. -/
def keyAddr (key : Nat) : Nat := (if key / 2 ^ 24 % 256 = 0 then 0x1000000 else 0) + key % 2 ^ 24 * 32

/-- One access of a granule or block: every unordered conflict is reported, and the access is remembered (06, R155). `clock` is the clock of the
accessing thread; `rival` tells whether an earlier access is another engine's or a landing's. -/
def State.access (s : State) (n : Nat) (key : Nat) (me : AssayAcc) (clock : Tab Nat) (rival : AssayAcc → Bool) (mk : Nat → Option AssayAcc → Report) : State :=
  let old := Tab.get [] s.assay.acc key
  let bad := old.filter fun o => (o.write || me.write) && rival o && decide (Tab.get 0 clock o.thread < o.clock)
  let keep := if me.write then [me] else me :: old.filter (fun o => o.write || decide (o.thread ≠ me.thread))
  let s := { s with assay := { s.assay with acc := Tab.put s.assay.acc key keep } }
  bad.foldl (fun s o => s.report n (mk (if o.write then (if me.write then 3 else 1) else 2) (some o))) s

/-- A VALID slot whose region holds the address (04, R103): of the core's canvas, or of the one that it is leaving (01, R37). -/
def Core.slotAt (k : Core) (a : Int) : Option Nat :=
  let old : Tab SlotDef := match k.old with | some o => o.slots | none => []
  ((k.slots ++ old).find? fun e => e.2.valid && decide ((e.2.base : Int) ≤ a) && decide (a < (e.2.base + 256 * e.2.size : Nat))).map (·.1)

/-- The accesses of an engine command to the stores, checked granule by granule (06, R155): reads, then writes; a write into a VALID slot is
always reported. -/
def State.assayStores (s : State) (n : Nat) (c : CoreId) (q cmd : Nat) (reads writes : List Int) : State :=
  if s.assayChk n 4 then
    let t := threadKey c q
    let clock := s.threadClock t
    let me (w : Bool) : AssayAcc := { write := w, thread := t, clock := Tab.get 1 clock t, core := c, queue := q, cmd := cmd }
    let rep (a : Int) (kind : Nat) (o : Option AssayAcc) : Report :=
      { kind := kind, core := c, queue := q, cmd := cmd, addr := (a / 32 * 32).toNat, other := o }
    let firsts (l : List Int) : List Int :=
      (dedup (l.filterMap fun a => if (granuleKey c a).isSome then some (a / 32).toNat else none)).map fun (x : Nat) => (x : Int) * 32
    let go (w : Bool) (s : State) (a : Int) : State :=
      match granuleKey c a with
      | some key => s.access n key (me w) clock (fun o => decide (o.thread ≠ t)) (rep a)
      | none => s
    let s := (firsts reads).foldl (go false) s
    let s := (firsts writes).foldl (go true) s
    let k := s.core c
    match writes.find? fun a => (k.slotAt a).isSome with
    | some a => s.report n (rep a 7 none)
    | none => s
  else s

/-- A landing in the stores of core `c`: a thread of its own with the clock `vc`, reported under the core and command that sent it (06, R155, R159;
log 86). Answers the clock that its flag or slot hands on. -/
def State.assayLanding (s : State) (n : Nat) (c by_ : CoreId) (cmd : Nat) (vc : Tab Nat) (writes : List Int) : Tab Nat × State :=
  if s.assayEn n then
    let t := 2 ^ 30 + s.assay.landings
    let s := { s with assay := { s.assay with landings := s.assay.landings + 1 } }
    let clock := Tab.put vc t 1
    let me : AssayAcc := { write := true, thread := t, clock := 1, core := by_, queue := 3, cmd := cmd }
    let go (s : State) (key : Nat) : State :=
      s.access n key me clock (fun o => decide (o.thread ≠ t)) fun kind o => { kind := kind, core := by_, queue := 3, cmd := cmd, addr := keyAddr key, other := o }
    let s := if s.assayChk n 4 then (dedup (writes.filterMap (granuleKey c))).foldl go s else s
    (clock, s)
  else ([], s)

/-- The accesses of a FETCH or STORE to HBM at blocks of 256 bytes: an unordered overlap with another core's is KIND 8 (06, R152, R155, R159). Answers
the clock that the request's flag hands on. -/
def State.assayHbm (s : State) (n : Nat) (c : CoreId) (cmd : Nat) (clock : Tab Nat) (write : Bool) (as : List Nat) : Tab Nat × State :=
  if s.assayChk n 4 then
    let t := 2 ^ 30 + s.assay.landings
    let me : AssayAcc := { write := write, thread := t, clock := 1, core := c, queue := 3, cmd := cmd }
    let s := { s with assay := { s.assay with landings := s.assay.landings + 1 } }
    (Tab.put clock t 1, (dedup (as.map (· / 256))).foldl (fun s b =>
      s.access n (blockKey n (256 * b)) me clock (fun o => decide (o.core ≠ c)) fun _ o =>
        { kind := 8, core := c, queue := 3, cmd := cmd, other := o, haddr := 256 * b }) s)
  else (clock, s)

/-! ### Overlap (06, R157) and formats (06, R158) -/

/-- The overlap check of MOVE, SPLIT, GATHER, SCATTER and VOP. `exempt`: a VOP whose destination equals a source in address and width. -/
def State.assayOverlap (s : State) (n : Nat) (c : CoreId) (q cmd : Nat) (exempt : Bool) (reads writes : List Int) : State :=
  if s.assayChk n 2 ∧ !exempt then
    match writes.find? fun a => reads.contains a with
    | some a => s.report n { kind := 5, core := c, queue := q, cmd := cmd, addr := (a / 32 * 32).toNat }
    | none => s
  else s

/-- Tag of slice results (06, R158): the unused format code 0x1F. -/
def sliceTag : Nat := 0x1F

/-- A declared format is compared with the tags of the granules it reads; untagged ones are not compared (06, R158). -/
def State.assayFormat (s : State) (n : Nat) (c : CoreId) (q cmd declared : Nat) (keys : List Nat) (addr : Nat) : State :=
  if s.assayChk n 1 then
    match keys.findSome? fun k => let t := Tab.get 0 s.assay.tags k; if t ≠ 0 ∧ t ≠ declared then some t else none with
    | some t => s.report n { kind := 6, core := c, queue := q, cmd := cmd, addr := addr / 32 * 32, declared := declared, tag := t }
    | none => s
  else s

/-- An engine's write sets tags (06, R158); a landing sets them to untagged. -/
def State.setTags (s : State) (n : Nat) (keys : List Nat) (tag : Nat) : State :=
  if s.assayEn n then { s with assay := { s.assay with tags := keys.foldl (fun m k => Tab.write 0 m k tag) s.assay.tags } } else s

/-- Tags that a MOVE copies with the data, granule by granule of its destination, as the sources have them before anything is written (06, R158). -/
def State.copiedTags (s : State) (n : Nat) (c : CoreId) (pairs : List (Int × Int)) : List (Nat × Nat) :=
  if s.assayEn n then pairs.filterMap fun ab =>
    match granuleKey c ab.1, granuleKey c ab.2 with
    | some x, some y => some (y, Tab.get 0 s.assay.tags x)
    | _, _ => none
  else []

/-- Tags set one by one. -/
def State.putTags (s : State) (n : Nat) (l : List (Nat × Nat)) : State :=
  if s.assayEn n then { s with assay := { s.assay with tags := l.foldl (fun m e => Tab.write 0 m e.1 e.2) s.assay.tags } } else s

end Sys2Proof.Machine
end

