-- ==== Sys2Proof/Machine/Loose.lean ====
section
/-! DEFINITION. The loose class (09, R218-R222, R297): packets as flits carry them, candidates of the routing tables, the injection
limiters, the messages that await DELIVERED, delivery into slots and flags with reassembly, and responses. Role tags and landing slots
(04, R103, R115) are read here because every delivery needs them. -/

namespace Sys2Proof.Machine

/-! ### Role tags and targets (04, R115; 01, R37) -/

/-- A role tag: generation in [15:10], role in [9:0] (04, R115). -/
def roleTag (gen role : Nat) : Nat := 1024 * (gen % 64) + role % 1024
def tagGen (t : Nat) : Nat := t / 1024 % 64
def tagRole (t : Nat) : Nat := t % 1024

/-- The slot table of a generation that the core accepts: the running one, or the one it is leaving (01, R37). -/
def Core.slotsOf (k : Core) (gen : Nat) : Option (Tab SlotDef) :=
  if !k.hasEntry then none
  else if gen = k.gen then some k.slots
  else match k.old with
    | some o => if gen = o.gen then some o.slots else none
    | none => none

/-- The flag roles of an accepted generation. -/
def Core.rolesOf (k : Core) (gen : Nat) : Option (Tab Nat) :=
  if !k.hasEntry then none
  else if gen = k.gen then some k.roles
  else match k.old with
    | some o => if gen = o.gen then some o.roles else none
    | none => none

/-- The VALID slot that a tag may reach. -/
def Core.slotFor (k : Core) (tag slot : Nat) : Option SlotDef :=
  match k.slotsOf (tagGen tag) with
  | some t => match Tab.find t slot with
    | some d => if d.valid ∧ d.role = tagRole tag then some d else none
    | none => none
  | none => none

/-- The tag matches the role entry of a flag. -/
def Core.flagOk (k : Core) (tag flag : Nat) : Bool :=
  match k.rolesOf (tagGen tag) with
  | some t => Tab.get 0 t flag = tagRole tag
  | none => false

/-- Number of a slot's state: a generation's slots are its own (01, R37). -/
def slotIx (gen slot : Nat) : Nat := 64 * gen + slot

/-- State of a slot. -/
def Core.slot (k : Core) (i : Nat) : SlotSt := Tab.get SlotSt.load k.slotSt i

def Core.setSlot (k : Core) (i : Nat) (x : SlotSt) : Core := { k with slotSt := Tab.put k.slotSt i x }

/-- ITEM of a slot (13, R288). -/
def slotItem (slot : Nat) : Nat := 0x800 + slot % 64

/-- One increment of a flag from outside the core's own bookkeeping, with the clock that orders it (04, R106; 06, R155). -/
def State.incFlag (s : State) (n : Nat) (c : CoreId) (f : Nat) (vc : Tab Nat) : State :=
  let s := s.addFlag n c f
  if s.assayEn n then s.joinInto (flagKey c f) vc else s

/-- The partition takes no message: it is in Fault-stop (13, R290 step 4), or the core belongs to none. -/
def State.takesMessages (s : State) (n : Nat) : Bool := (s.part n).st = .run || (s.part n).st = .hold || (s.part n).st = .armed

/-! ### Packets (09, loose packet header) -/

def looseTypeCode : LooseType → Nat
  | .data => 0 | .set => 1 | .delivered => 2 | .credit => 3

def looseTypeOf : Nat → Option LooseType
  | 0 => some .data | 1 => some .set | 2 => some .delivered | 3 => some .credit | _ => none

/-- The three fields of a core from its die's top bit on: die in 3 bits, cluster in 4, core in 3. -/
def coreField (c : CoreId) (top : Nat) : Nat := at_ c.die.val (top - 2) + at_ c.clu.val (top - 6) + at_ c.core.val (top - 9)

/-- A core read back from its fields, when they name one. -/
def coreAt (w : Word) (top : Nat) : Option CoreId :=
  let d := wf w top (top - 2)
  let k := wf w (top - 3) (top - 6)
  if h : d < 6 ∧ k < 11 then
    some { die := ⟨d, h.1⟩, clu := ⟨k, h.2⟩, core := ⟨wf w (top - 7) (top - 9) % 8, Nat.mod_lt _ (by decide)⟩ }
  else none

/-- The payload of the flit that carries a packet. -/
def packetPayload (k : LoosePkt) : List Byte :=
  let h0 := at_ k.dstDomain.toNat 62 + at_ k.dstDevid.toNat 49 + at_ k.srcDomain.toNat 47 + at_ k.srcDevid.toNat 34 + coreField k.dst 33 +
    coreField k.src 23 + at_ (looseTypeCode k.typ) 11 + at_ (b2n k.last) 10 + at_ (b2n k.echo) 9
  let h1 := at_ (k.msgId % 65536) 48 + at_ (k.pktIndex % 8192) 35 + at_ (k.pktCount % 8192) 22 + at_ k.slot.val 16 + at_ k.flag.val 10 +
    at_ (b2n k.dfen) 9 + k.len % 256
  leBytes 8 h0 ++ leBytes 8 h1 ++ slice k.bytes 0 224

/-- The packet of a flit's payload; none for a reserved TYPE, a non-zero reserved bit, or fields that name no core. -/
def looseOf (key role : Nat) (cm : Bool) (p : List Byte) : Option LoosePkt :=
  let w0 := wordAt p 0
  let w1 := wordAt p 8
  match looseTypeOf (wf w0 13 11), coreAt w0 33, coreAt w0 23 with
  | some t, some d, some c =>
    if wf w0 8 0 = 0 ∧ !wb w1 8 then
      some { key := BitVec.ofNat 20 key, role := BitVec.ofNat 16 role, cm := cm, dstDomain := BitVec.ofNat 2 (wf w0 63 62),
             dstDevid := BitVec.ofNat 13 (wf w0 61 49), srcDomain := BitVec.ofNat 2 (wf w0 48 47), srcDevid := BitVec.ofNat 13 (wf w0 46 34),
             dst := d, src := c, typ := t, last := wb w0 10, echo := wb w0 9, msgId := wf w1 63 48, pktIndex := wf w1 47 35,
             pktCount := wf w1 34 22, slot := ⟨wf w1 21 16 % 64, Nat.mod_lt _ (by decide)⟩, flag := ⟨wf w1 15 10 % 64, Nat.mod_lt _ (by decide)⟩,
             dfen := wb w1 9, len := wf w1 7 0, bytes := slice p 16 224 }
    else none
  | _, _, _ => none

/-- Destination domain and device id of a loose flit's payload. -/
def looseDst (p : List Byte) : Nat × Nat := (wf (wordAt p 0) 63 62, wf (wordAt p 0) 61 49)

/-! ### Routing (09, R218) -/

/-- Candidates of a routing register, lowest index first. -/
def candidates (w : W32) : List Nat :=
  (if rb w 16 then [rf w 15 12] else []) ++ (if rb w 21 then [rf w 20 17] else []) ++ (if rb w 26 then [rf w 25 22] else []) ++
    (if rb w 31 then [rf w 30 27] else [])

/-- Flits in a port's loose queue (09, R221). -/
def FPort.looseCount (f : FPort) : Nat := f.loose1.length + f.loose2.length

/-- The candidate with the fewest flits in its loose queue; a tie goes to the earlier one. -/
def fewest (s : State) : List Nat → Option Nat
  | [] => none
  | p :: ps =>
    match fewest s ps with
    | some q => if (s.port p).looseCount ≤ (s.port q).looseCount then some p else some q
    | none => some p

/-- The egress port of a loose packet: none when no valid candidate is Up (09, R218). -/
def State.looseRoute (s : State) (domain devid : Nat) : Option Nat :=
  let w := if domain = s.domainNo then cfg s .fabRt devid 0 else cfg s .fabRtd domain 0
  fewest s ((candidates w).filter fun p => (s.port p).st = .up)

/-- This module is the destination. -/
def State.isMe (s : State) (domain devid : Nat) : Bool := decide (domain = s.domainNo) && decide (devid = s.devid)

/-! ### The injection limiter (09, R222) -/

/-- Number of a destination group. -/
def State.group (s : State) (domain devid : Nat) : Nat := 8192 * domain + devid / 2 ^ cf s .fabLooseCfg 0 0 19 16

/-- A limiter; one that nothing has moved stands at RATE_MAX, full (log 9). -/
def State.limiter (s : State) (g : Nat) : Limiter :=
  let m := cf s .fabCcCfg 0 0 27 16
  Tab.get { rate := m, tokens := m, halved := false } s.limiters g

def State.setLimiter (s : State) (g : Nat) (l : Limiter) : State := { s with limiters := Tab.put s.limiters g l }

/-- Take a token for a packet. -/
def State.takeToken (s : State) (domain devid : Nat) : Option State :=
  let g := s.group domain devid
  let l := s.limiter g
  if 0 < l.tokens then some (s.setLimiter g { l with tokens := l.tokens - 1 }) else none

/-- A DELIVERED with ECHO halves a group's RATE, once in each interval, not below RATE_MIN (09, R222). -/
def State.halve (s : State) (domain devid : Nat) : State :=
  let g := s.group domain devid
  let l := s.limiter g
  if l.halved then s
  else
    let r := Nat.max (l.rate / 2) (cf s .fabCcCfg 0 0 7 0)
    s.setLimiter g { rate := r, tokens := Nat.min l.tokens r, halved := true }

/-! ### Messages that await DELIVERED (09, R220) -/

/-- The slot credit that a loose or shaft message spent is back at its source core. -/
def Core.creditBack (k : Core) (domain devid : Nat) (dst : CoreId) (slot : Nat) : Option Core :=
  let byName (r : RemoteSlot) : Bool := r.shaft.isNone && decide (r.domain = domain) && decide (r.devid = devid) && decide (r.dst = dst) &&
    decide (r.slot % 64 = slot)
  let byShaft (r : RemoteSlot) : Bool := r.shaft.isSome && decide (r.slot % 64 = slot)
  match k.remote.findIdx? byName with
  | some i => some { k with remote := dropAt k.remote i }
  | none => match k.remote.findIdx? byShaft with
    | some i => some { k with remote := dropAt k.remote i }
    | none => none

/-- A message completes with LINK_LOST: its credit returns to the source core, the partition counts it (09, R220; 13, R297). -/
def State.linkLost (s : State) (t : Tracked) (e : Ev) : State :=
  let s := { s with loose := s.loose.filter fun x => !(decide (x.src = t.src) && decide (x.msgId = t.msgId)) }
  let s := match t.slot with
    | some slot => match (s.core t.src).creditBack t.dstDomain t.dstDevid t.dst slot with
      | some k => s.setCore t.src k
      | none => s
    | none => s
  let s := s.updPart t.pt fun p => { p with linkLost := p.linkLost + 1 }
  let s := s.updCore t.src fun k => { k with inject := k.inject.filter fun x => x.msgId ≠ t.msgId }
  s.count e (.die 6) (some t.pt)

/-! ### Responses -/

/-- A DELIVERED at the source module: the message completes; ECHO makes its group back off. One that nothing awaits is discarded and
counted (09, R220, R222). -/
def State.takeDelivered (s : State) (k : LoosePkt) : State :=
  match s.loose.find? fun t => decide (t.src = k.dst) && decide (t.msgId = k.msgId) && decide (t.dst = k.src) &&
      decide (t.dstDevid = k.srcDevid.toNat) && decide (t.dstDomain = k.srcDomain.toNat) with
  | some t =>
    let s := { s with loose := s.loose.filter fun x => !(decide (x.src = t.src) && decide (x.msgId = t.msgId)) }
    if k.echo then s.halve t.dstDomain t.dstDevid else s
  | none => s.count .lateResponse (.die 6) (s.partOf k.dst)

/-- A CREDIT at the source core: the credit of its slot returns; one for a credit that the core holds is discarded and counted (09, R220; 13, R297). -/
def State.takeCredit (s : State) (k : LoosePkt) : State :=
  match (s.core k.dst).creditBack k.srcDomain.toNat k.srcDevid.toNat k.src k.slot.val with
  | some x => s.setCore k.dst x
  | none => s.count .strayCredit (.die 6) (s.partOf k.dst)

/-- A loose packet's key is the job key of its destination core's partition (09, R223). -/
def State.looseKeyOk (s : State) (k : LoosePkt) : Bool :=
  match s.partOf k.dst with
  | some n => s.keyOf n = k.key.toNat
  | none => false

/-- A packet breaks the rules of the header table (09, R219). -/
def packetMalformed (k : LoosePkt) : Bool :=
  match k.typ with
  | .data => decide (k.pktCount ≤ k.pktIndex) || k.pktCount = 0 || decide (4680 < k.pktCount) || decide (224 < k.len) ||
      (if k.pktIndex + 1 = k.pktCount then k.len = 0 else k.len ≠ 224)
  | _ => decide (k.pktIndex ≠ 0) || decide (k.pktCount ≠ 1) || decide (k.len ≠ 0)

/-- A response at its destination: responses for a partition in Fault-stop are discarded (13, R290 step 4). -/
def State.takeResponse (s : State) (k : LoosePkt) : State :=
  if !s.looseKeyOk k then s.count .keyDrop (.die 6) none
  else if packetMalformed k then s.count .malformed (.die 6) none
  else match k.typ with
    | .delivered => s.takeDelivered k
    | .credit => s.takeCredit k
    | _ => s

/-- Send a response: handled here when it is for this module, else put in the loose queue of its port on VL2 (09, R218). -/
def State.respond (s : State) (k : LoosePkt) : State :=
  if s.isMe k.dstDomain.toNat k.dstDevid.toNat then s.takeResponse k
  else match s.looseRoute k.dstDomain.toNat k.dstDevid.toNat with
    | some p => s.updPort p fun f =>
        { f with loose2 := f.loose2 ++ [{ key := k.key.toNat, role := k.role.toNat, vlx := 0, payload := packetPayload k, from_ := none }] }
    | none => s.count .unroutable (.die 6) (s.partOf k.src)

/-- The response to a packet: its destination fields address the original source (09, loose packet header). -/
def responseTo (k : LoosePkt) (t : LooseType) (echo : Bool) (slot : Fin 64) : LoosePkt :=
  { k with dstDomain := k.srcDomain, dstDevid := k.srcDevid, srcDomain := k.dstDomain, srcDevid := k.dstDevid, dst := k.src, src := k.dst,
           typ := t, last := true, echo := echo, pktIndex := 0, pktCount := 1, slot := slot, flag := 0, dfen := false, len := 0, bytes := [],
           cm := false }

/-! ### Delivery (09, R219) -/

/-- A message length that the packet shows (04, R104). -/
def packetShows (k : LoosePkt) : Nat := if k.pktIndex + 1 = k.pktCount then 224 * (k.pktCount - 1) + k.len else 224 * (k.pktCount - 1) + 1

/-- A later MSG_ID within half the range (09, R219). -/
def newer (a b : Nat) : Bool := let d := (a + 65536 - b % 65536) % 65536; decide (0 < d) && decide (d < 32768)

/-- Landed bytes: written at a store address with any poison of whole words cleared, and untagged (05, R117; 06, R158). A word that is
poisoned and only partly written is an uncorrectable error. -/
def State.landBytes (s : State) (n : Nat) (c : CoreId) (base : Int) (bs : List Byte) : State :=
  let as := (upFrom 0 bs.length).map fun (i : Nat) => base + (i : Int)
  match s.partialPoison c as with
  | some a => s.faultStop n { code := cUNCORRECTED, core := some c, addr := (a / 16 * 16).toNat }
  | none =>
    let s := (s.writeStN c base bs).clearPoison c as
    s.setTags n (dedup (as.filterMap (granuleKey c))) 0

/-- A slot becomes full with the source whose credit it holds (04, R103). -/
def State.fillSlot (s : State) (c : CoreId) (i : Nat) (src : MsgSrc) : State :=
  s.updCore c fun k => k.setSlot i { full := true, creditHome := false, src := some src, reasm := none }

/-- Store addresses of a message's bytes. -/
def landAddrs (base len : Nat) : List Int := (upFrom base len).map fun (a : Nat) => (a : Int)

/-- The command of this module that sent a packet to it: stream offset and the clock handed on, none for a packet that came on a port (06, R155, R159). -/
abbrev OwnSend := Option (Nat × Tab Nat)

/-- A DATA packet for a core of this module (09, R219). -/
def State.takeData (s : State) (n : Nat) (k : LoosePkt) (own : OwnSend) : State :=
  let c := k.dst
  let x := s.core c
  let tag := k.role.toNat
  let credit := responseTo k .credit false k.slot
  match x.slotFor tag k.slot.val with
  | none =>
    let s := s.count .stray (.die c.die.val) (some n)
    if k.pktIndex = 0 then s.respond credit else s
  | some d =>
    if k.dfen ∧ !x.flagOk tag k.flag.val then
      let s := s.count .stray (.die c.die.val) (some n)
      if k.pktIndex = 0 then s.respond credit else s
    else if 256 * d.size < packetShows k then
      (s.respond credit).faultStop n { code := cREFUSED, sub := 2, core := some c }
    else
      let i := slotIx (tagGen tag) k.slot.val
      let st := x.slot i
      let fresh : Reasm := { domain := k.srcDomain.toNat, devid := k.srcDevid.toNat, src := k.src, msgId := k.msgId, pktCount := k.pktCount,
                             got := [], marked := false, bytes := 0 }
      let same (r : Reasm) : Bool := decide (r.domain = fresh.domain) && decide (r.devid = fresh.devid) && decide (r.src = k.src)
      let drop (e : Ev) : State := s.count e (.die c.die.val) (some n)
      let take (s : State) (r : Reasm) : State :=
        let r := { r with got := k.pktIndex :: r.got, marked := r.marked || k.cm, bytes := r.bytes + k.len }
        let s := s.landBytes n c ((d.base + 224 * k.pktIndex : Nat) : Int) (k.bytes.take k.len)
        if r.got.length = k.pktCount then
          let s := s.fillSlot c i (.remote r.domain r.devid r.src false)
          let freed := Tab.get [] s.assay.clocks (releaseKey c i)
          let (vc, s) := match own with
            | some (cmd, clock) => s.assayLanding n c k.src cmd (joinClock clock freed) (landAddrs d.base r.bytes)
            | none => s.assayLanding n c c 0 freed (landAddrs d.base r.bytes)
          let s := if s.assayEn n then s.putClock (slotKey c i) vc else s
          let s := if k.dfen then s.incFlag n c k.flag.val vc else s
          s.respond (responseTo k .delivered r.marked k.slot)
        else s.updCore c fun y => y.setSlot i { st with reasm := some r }
      if st.full then drop .stale
      else match st.reasm with
        | none => take s fresh
        | some r =>
          if same r ∧ r.msgId = k.msgId then
            if r.pktCount ≠ k.pktCount then drop .malformed
            else if r.got.contains k.pktIndex then drop .stale
            else take s r
          else if same r ∧ newer k.msgId r.msgId then take (drop .partialDiscard) fresh
          else drop .stale

/-- A SET packet: one increment under R115, answered with DELIVERED (09, R219). -/
def State.takeSet (s : State) (n : Nat) (k : LoosePkt) (own : OwnSend) : State :=
  if (s.core k.dst).flagOk k.role.toNat k.flag.val then
    (s.incFlag n k.dst k.flag.val (match own with | some x => x.2 | none => [])).respond (responseTo k .delivered k.cm k.slot)
  else s.count .stray (.die k.dst.die.val) (some n)

/-- The DATA packet would complete a message with a flag increment. -/
def Core.completes (x : Core) (k : LoosePkt) : Bool :=
  match x.slotFor k.role.toNat k.slot.val with
  | none => false
  | some d =>
    let st := x.slot (slotIx (tagGen k.role.toNat) k.slot.val)
    k.typ = .data && k.dfen && !st.full && decide (packetShows k ≤ 256 * d.size) &&
      (match st.reasm with
       | none => k.pktCount = 1
       | some r => r.src = k.src && r.msgId = k.msgId && r.pktCount = k.pktCount && !r.got.contains k.pktIndex && r.got.length + 1 = k.pktCount)

/-- A request packet at its destination module. -/
def State.takeRequest (s : State) (k : LoosePkt) (own : OwnSend) : State :=
  match s.partOf k.dst with
  | none => s.count .keyDrop (.die 6) none
  | some n =>
    if s.keyOf n ≠ k.key.toNat then s.count .keyDrop (.die 6) (some n)
    else if packetMalformed k then s.count .malformed (.die 6) (some n)
    else if !s.takesMessages n then
      (s.lateIncrement n k.dst k.flag.val ((s.core k.dst).flagOk k.role.toNat k.flag.val && (k.typ = .set || (s.core k.dst).completes k))).count .discardedMessage (.die 6) (some n)
    else match k.typ with
      | .data => s.takeData n k own
      | .set => s.takeSet n k own
      | _ => s

/-! ### Injection (09, R218, R222) -/

/-- One packet leaves for its destination: this module's own slots, or the loose queue of its port. None when it waits for a token. The flag
tells whether the message is lost for want of a route. -/
def State.injectOne (s : State) (x : LooseOut) : Option (State × Bool) :=
  match s.takeToken x.domain x.devid with
  | none => none
  | some t =>
    if t.isMe x.domain x.devid then
      match looseOf x.key x.role false x.payload with
      | some k => some (t.takeRequest k (some (x.cmd, x.vc)), false)
      | none => some (t, false)
    else match t.looseRoute x.domain x.devid with
      | some p => some (t.updPort p fun f =>
          { f with loose1 := f.loose1 ++ [{ key := x.key, role := x.role, vlx := 0, payload := x.payload, from_ := none }] }, false)
      | none => some (s, true)

/-- Packets of a message leave as long as there are tokens; a message without a route completes with LINK_LOST (09, R218). `rest`: packets of another
message of the core that wait and stay. -/
def State.injectAll (s : State) (c : CoreId) (rest : List LooseOut) : List LooseOut → State
  | [] => s.updCore c fun k => { k with inject := rest }
  | x :: xs =>
    match s.injectOne x with
    | none => s.updCore c fun k => { k with inject := rest ++ x :: xs }
    | some (t, false) => t.injectAll c rest xs
    | some (t, true) =>
      let t := t.updCore c fun k => { k with inject := rest }
      match t.loose.find? fun m => decide (m.src = c) && decide (m.msgId = x.msgId) with
      | some m => t.linkLost m .linkLostRoute
      | none => t

/-- The core's engines run: its partition is in Run. Those of a stopped partition are frozen (13, R290). -/
def State.enginesRun (s : State) (c : CoreId) : Bool :=
  match s.partOf c with
  | some n => (s.part n).st = .run
  | none => false

/-- The waiting packets of every core whose engines run are tried again. -/
def State.injectWaiting (s : State) : State :=
  (s.cores.filter fun e => !e.2.inject.isEmpty && s.enginesRun (coreOfIx e.1)).foldl
    (fun s e => s.injectAll (coreOfIx e.1) [] (s.core (coreOfIx e.1)).inject) s

/-- The packets of a loose DATA message: 224 bytes each but for the last (09, loose packet header). -/
def dataPackets (mk : Nat → Nat → List Byte → LoosePkt) (count : Nat) : Nat → List Byte → List LoosePkt
  | 0, _ => []
  | n + 1, bs => mk (count - (n + 1)) count (bs.take 224) :: dataPackets mk count n (bs.drop 224)

end Sys2Proof.Machine
end

