-- ==== Sys2Proof/Machine/Flow.lean ====
section
/-! DEFINITION. What flags, landing slots and messages do (04, R103-R108, R115): stalls and their limits, WAIT, ACQUIRE, RELEASE, SET and SEND
by the mesh, by shafts and by the loose class, wherever they act. -/

namespace Sys2Proof.Machine

/-! ### Engine queues (04, R88) -/

/-- Depth of a queue (04, R88). -/
def queueDepth : Nat → Nat
  | 3 => 128
  | _ => 64

def Core.queue (k : Core) (q : Nat) : List QCmd := Tab.get [] k.queues q

/-! ### What a read finds (05, R117) -/

/-- One error that the reads find: a corrected one is counted against the die, an uncorrectable one poisons its word. -/
def State.readError (s : State) (n : Nat) (c : CoreId) (e : EccAt) : State :=
  match e.ecc with
  | .clean => s
  | .corrected => (s.count .storeCorrected (.die c.die.val) (some n)).canInput (canDie c.die.val) 0 1
  | .uncorrectable =>
    match wordOf c e.addr with
    | some w => if s.poison.contains w then s else { s with poison := w :: s.poison }
    | none => s

/-- The errors that a command's reads find; with `stop` an uncorrectable one stops the partition. -/
def State.readErrors (s : State) (n : Nat) (c : CoreId) (q cmd : Nat) (reads : List Int) (stop : Bool) (es : List EccAt) : State :=
  let mine := es.filter fun e => reads.contains (e.addr : Int)
  let s := mine.foldl (fun s e => s.readError n c e) s
  match mine.find? fun e => stop && decide (e.ecc = .uncorrectable) with
  | some e => s.faultStop n { code := cUNCORRECTED, core := some c, queue := q, cmd := cmd, addr := e.addr / 16 * 16 }
  | none => s

/-! ### Lost time and stalls (01, R22; 04, R108) -/

/-- Time lost to a cause in the segment, in ps (01, R22). -/
def Core.addLost (k : Core) (cause ps : Nat) : Core :=
  if ps = 0 then k else { k with lost := Tab.put k.lost cause (Tab.get 0 k.lost cause + ps) }

/-- A wait without a timeout begins at a place of `Core.lampWait`. -/
def Core.beginWait (k : Core) (key : Nat) (now : Count) : Core :=
  if (Tab.find k.lampWait key).isSome then k else { k with lampWait := Tab.put k.lampWait key now }

/-- It ends, and its time goes to a cause. -/
def Core.endWait (k : Core) (key cause : Nat) (now : Count) : Core :=
  match Tab.find k.lampWait key with
  | some t => ({ k with lampWait := Tab.erase k.lampWait key }).addLost cause (1000 * (now - t))
  | none => k

/-- A stall ends: its time goes to RETRY when a retransmitted flit fed the item during the stall, to REFRESH as far as a refresh delayed the arrival, else to
UPSTREAM (01, R22). -/
def Core.endStall (k : Core) (q : Nat) (now : Count) : Core :=
  match Tab.find k.stalls q with
  | none => k
  | some x =>
    let ps := 1000 * (now - x.since)
    let k' := { k with stalls := Tab.erase k.stalls q }
    if x.kind = 2 then k'.addLost 7 ps
    else if (match Tab.find k.retryItems x.item with | some t => decide (x.since ≤ t) | none => false) then k'.addLost 2 ps
    else
      let r := Nat.min ps (1000 * Tab.get 0 k.refreshItems x.item)
      (k'.addLost 3 r).addLost 7 (ps - r)

/-- A stall with a timeout begins, or goes on: one on another item ends the stall before it (04, R108). -/
def Core.beginStall (k : Core) (q : Nat) (x : Stall) : Core :=
  match Tab.find k.stalls q with
  | some y => if y.item = x.item ∧ y.kind = x.kind then k else { k.endStall q x.since with stalls := Tab.put (k.endStall q x.since).stalls q x }
  | none => { k with stalls := Tab.put k.stalls q x }

/-- An item has been consumed: what fed it no longer counts. -/
def Core.consumed (k : Core) (item : Nat) : Core :=
  { k with retryItems := Tab.erase k.retryItems item, refreshItems := Tab.erase k.refreshItems item }

/-- A TIMEOUT field in beats, 0 meaning 256, multiplied in assay mode (04, R108; 06, R153). -/
def State.limit (s : State) (n t : Nat) : Nat := (if t = 0 then 256 else t) * s.tmul n

/-! ### Attempts -/

/-- What became of a command that tries to act. -/
inductive Attempt where
  /-- it has acted -/
  | done (s : State)
  /-- it stalls with a limit in beats on an item (04, R108) -/
  | stall (limit item need kind : Nat)
  /-- it waits for something without a timeout of its own -/
  | hold
  /-- the partition has fault-stopped, or nothing is left to do -/
  | stop (s : State)

/-- A WAIT whose stall began first is served first, when the count can satisfy only one; a tie goes to the lower queue code (04, "When things
meet"). -/
def Core.waitTurn (k : Core) (q f need : Nat) (now : Count) : Bool :=
  let mine := match Tab.find k.stalls q with | some x => x.since | none => now
  k.stalls.all fun (e : Nat × Stall) =>
    e.1 = q || e.2.kind ≠ 0 || e.2.item ≠ f || decide (k.flag f < e.2.need) || decide (e.2.need + need ≤ k.flag f) ||
      !(decide (e.2.since < mine) || (e.2.since = mine && decide (e.1 < q)))

/-- WAIT: flag, N and TIMEOUT (04, R107). -/
def Cmd.waitFlag (x : Cmd) : Nat := wf x.w0 19 14
def Cmd.waitN (x : Cmd) : Nat := wf x.w1 63 48

/-- A WAIT at its place: it holds until the flag has a count of at least N, and then subtracts N (04, R107). -/
def State.tryWait (s : State) (n : Nat) (c : CoreId) (q : Nat) (x : Cmd) : Attempt :=
  let k := s.core c
  let f := x.waitFlag
  if x.waitN ≤ k.flag f ∧ k.waitTurn q f x.waitN s.now then
    let k := ((k.endStall q s.now).consumed f)
    let s := s.setCore c { k with flags := Tab.put k.flags f (k.flag f - x.waitN) }
    .done (s.takeClock n c q (flagKey c f))
  else .stall (s.limit n (wf x.w0 13 2)) f x.waitN 0

/-- RECV: slot and mode (04, R105). -/
def Cmd.recvSlot (x : Cmd) : Nat := wf x.w0 18 13
def Cmd.recvRelease (x : Cmd) : Bool := wb x.w0 19

/-- TIMEOUT of a slot of a generation. -/
def Core.slotTimeout (k : Core) (gen slot : Nat) : Nat :=
  match k.slotsOf gen with
  | some t => match Tab.find t slot with | some d => d.timeout | none => 0
  | none => 0

/-- An ACQUIRE holds until the slot is full (04, R105). -/
def State.tryAcquire (s : State) (n : Nat) (c : CoreId) (q gen : Nat) (x : Cmd) : Attempt :=
  let k := s.core c
  let slot := x.recvSlot
  if (k.slot (slotIx gen slot)).full then
    .done ((s.setCore c ((k.endStall q s.now).consumed (slotItem slot))).takeClock n c q (slotKey c (slotIx gen slot)))
  else
    let t := wf x.w0 12 1
    .stall (s.limit n (if t = 0 then k.slotTimeout gen slot else t)) (slotItem slot) 0 1

/-- The credit of a slot returns to a source core of another module as a CREDIT packet (09, R217, R220). -/
def State.creditPacket (s : State) (n : Nat) (c : CoreId) (gen slot domain devid : Nat) (src : CoreId) : State :=
  s.respond { key := BitVec.ofNat 20 (s.keyOf n), role := BitVec.ofNat 16 (roleTag gen 0), cm := false, dstDomain := BitVec.ofNat 2 domain,
              dstDevid := BitVec.ofNat 13 devid, srcDomain := BitVec.ofNat 2 s.domainNo, srcDevid := BitVec.ofNat 13 s.devid, dst := src,
              src := c, typ := .credit, last := true, echo := false, msgId := 0, pktIndex := 0, pktCount := 1,
              slot := ⟨slot % 64, Nat.mod_lt _ (by decide)⟩, flag := 0, dfen := false, len := 0, bytes := [] }

/-- A RELEASE sets the slot empty and returns the credit to the source of its last message: on the mesh, or by a CREDIT packet (04, R105; 09,
R217). -/
def State.release (s : State) (n : Nat) (c : CoreId) (q gen slot : Nat) : State :=
  let k := s.core c
  let i := slotIx gen slot
  let st := k.slot i
  let (vc, s) := s.handOn n c q
  let s := s.updCore c fun k => (k.setSlot i { st with full := false }).consumed (slotItem slot)
  let s := if s.assayEn n then s.joinInto (releaseKey c i) vc else s
  match st.src with
  | none => s
  | some (.mesh src) => { s with credits := s.credits ++ [{ pt := n, src := src, dst := c, slot := i, vc := vc }] }
  | some (.remote domain devid src _) => s.creditPacket n c gen slot domain devid src

/-! ### SET (04, R106, R107) -/

def Cmd.setRoute (x : Cmd) : Nat := wf x.w0 19 18
def Cmd.setFlag (x : Cmd) : Nat := wf x.w0 17 12
def Cmd.role (x : Cmd) : Nat := wf x.w2 9 0
def Cmd.shaftIx (x : Cmd) : Nat := wf x.w1 39 32
def Cmd.destDevid (x : Cmd) : Nat := wf x.w1 63 51

/-- Send entries of a generation (09, core shaft table). -/
def Core.sendsOf (k : Core) (gen : Nat) : List (Nat × Nat) :=
  if gen = k.gen then k.sends
  else match k.old with
    | some o => if gen = o.gen then o.sends else []
    | none => []

/-- Outstanding flits of a port (08, R194). -/
def FPort.outstanding (f : FPort) : Nat := (2 ^ 20 + f.seqNext - f.seqOldest) % 2 ^ 20

/-- The port has switched to the partition's new canvas, and the generation is the one it leaves (01, R38). -/
def State.lateGen (s : State) (n p gen : Nat) : Bool :=
  let q := s.part n
  decide (gen = q.gen % 64) && decide (q.gen ≠ q.genNew) && (s.port p).switched.any fun w => w.1 = n

/-- A SEND may leave by the port: its current calendar carries the shaft for the partition's key and generation, or the shaft was of the
calendar that it has left (01, R36, R38; 09, R209). -/
def State.calendarHas (s : State) (n p shaft gen : Nat) : Bool :=
  s.lateGen n p gen || (upFrom 0 64).any fun e =>
    let w := cfg s .fabCalc p e
    rf w 31 30 = 1 && rf w 29 24 = shaft && decide (s.keyAt p (rf w 23 18) = some (s.keyOf n)) && rf w 17 12 = gen

/-- Flits of a message for a shaft wait at the port for their calendar entries (09, R209). -/
def State.shaftOut (s : State) (n : Nat) (c : Option CoreId) (p shaft gen role : Nat) (payloads : List (List Byte)) : State :=
  s.updPort p fun f => { f with shaftq := f.shaftq ++ payloads.map fun b =>
    { pt := n, gen := gen, shaft := shaft, role := roleTag gen role, payload := b, src := c } }

/-- A wait for a port with 16,384 flits outstanding is counted against the port (08, R194, R207; 13, R300). -/
def State.replayFull (s : State) (n p : Nat) : State := (s.count .replayFull (.port p) (some n)).canInput (canPort p) 3 1

/-- A local SEND or SET waits at a port with 16,384 flits outstanding: counted as REPLAY_FULL when that wait begins, whatever it waited for before (08,
R194). `q`: its queue, 4 the sequencer. -/
def State.noteReplayFull (s : State) (n p : Nat) (c : CoreId) (q : Nat) : State :=
  if (Tab.find (s.core c).lampWait (13 + q)).isSome then s
  else (s.replayFull n p).updCore c fun k => { k with lampWait := Tab.put k.lampWait (13 + q) s.now }

/-- The head of a queue, or the sequencer, no longer waits for its port. -/
def Core.endFull (k : Core) (q : Nat) : Core := { k with lampWait := Tab.erase k.lampWait (13 + q) }

/-- Room for one more message that awaits DELIVERED (09, R220). -/
def State.trackRoom (s : State) : Bool := decide (s.loose.length < 2048)

/-- The header of a request packet from a core to a core of another module of the domain. -/
def State.requestTo (s : State) (n : Nat) (c : CoreId) (gen : Nat) (x : Cmd) (typ : LooseType) (flag : Nat) (msgId : Nat) : LoosePkt :=
  { key := BitVec.ofNat 20 (s.keyOf n), role := BitVec.ofNat 16 (roleTag gen x.role), cm := false, dstDomain := BitVec.ofNat 2 s.domainNo,
    dstDevid := BitVec.ofNat 13 x.destDevid, srcDomain := BitVec.ofNat 2 s.domainNo, srcDevid := BitVec.ofNat 13 s.devid, dst := x.dest, src := c,
    typ := typ, last := true, echo := false, msgId := msgId, pktIndex := 0, pktCount := 1, slot := 0,
    flag := ⟨flag % 64, Nat.mod_lt _ (by decide)⟩, dfen := false, len := 0, bytes := [] }

/-- A packet as it waits for the limiter. -/
def packetOut (cmd : Nat) (vc : Tab Nat) (k : LoosePkt) : LooseOut :=
  { domain := k.dstDomain.toNat, devid := k.dstDevid.toNat, key := k.key.toNat, role := k.role.toNat, msgId := k.msgId, payload := packetPayload k,
    cmd := cmd, vc := vc }

/-- A message of the loose class leaves its core: it takes an entry of the table of tracked messages and its packets take tokens. To this module's own
device it hands its queue's clock on (06, R155). -/
def State.looseOut (s : State) (n : Nat) (c : CoreId) (q cmd : Nat) (slot : Option Nat) (dst : CoreId) (devid : Nat) (msgId : Nat) (ps : List LoosePkt) : State :=
  let t : Tracked := { src := c, pt := n, msgId := msgId, dstDomain := s.domainNo, dstDevid := devid, dst := dst, slot := slot, since := s.now }
  let s : State := { s with loose := s.loose ++ [t] }
  let s := s.updCore c fun k => { k with msgId := (msgId + 1) % 65536 }
  let (vc, s) := if s.isMe s.domainNo devid then s.handOn n c q else ([], s)
  s.injectAll c (s.core c).inject (ps.map (packetOut cmd vc))

/-- A SET acts (04, R107): on its own core's flag, on the mesh, on a shaft, or as a loose packet. -/
def State.trySet (s : State) (n : Nat) (c : CoreId) (q gen idx : Nat) (x : Cmd) : Attempt :=
  let f := x.setFlag
  let tag := roleTag gen x.role
  let k := s.core c
  match x.setRoute with
  | 0 =>
    if k.flagOk tag f then
      let (vc, s) := s.handOn n c q
      .done (s.incFlag n c f vc)
    else .done (s.count .stray (.core c) (some n))
  | 1 =>
    let (vc, s) := s.handOn n c q
    let s : State := { s with meshSets := s.meshSets ++ [{ pt := n, src := c, dst := x.dest, flag := f, tag := tag, vc := vc }] }
    .done (s.updPart n fun p => { p with meshSent := p.meshSent + 1 })
  | 2 =>
    match (k.sendsOf gen)[x.shaftIx]? with
    | none => .done s
    | some (p, shaft) =>
      if 16384 ≤ (s.port p).outstanding then .hold
      else .done (s.shaftOut n (some c) p shaft gen x.role [List.replicate 240 0])
  | _ =>
    if !s.trackRoom ∨ (s.limiter (s.group s.domainNo x.destDevid)).tokens = 0 then .hold
    else .done (s.looseOut n c q idx none x.dest x.destDevid k.msgId [s.requestTo n c gen x .set f k.msgId])

/-! ### SEND (04, R104; 09, R217, R220) -/

def Cmd.sendRoute (x : Cmd) : Nat := wf x.w0 22 21
def Cmd.sendSlot (x : Cmd) : Nat := wf x.w0 12 7
def Cmd.sendFlag (x : Cmd) : Nat := wf x.w0 6 1
def Cmd.sendDfen (x : Cmd) : Bool := wb x.w0 0

/-- The port with 16,384 flits outstanding for which a SEND or SET on a shaft waits (08, R194). -/
def State.fullPort (s : State) (c : CoreId) (gen : Nat) (x : Cmd) : Option Nat :=
  let route := if x.opcode = 0x30 then (if x.sendRoute = 1 then some () else none) else if x.opcode = 0x38 ∧ x.setRoute = 2 then some () else none
  match route, ((s.core c).sendsOf gen)[x.shaftIx]? with
  | some _, some (p, _) => if 16384 ≤ (s.port p).outstanding then some p else none
  | _, _ => none

/-- Pieces of a message, `w` bytes each but for the last. -/
def pieces (w : Nat) : Nat → List Byte → List (List Byte)
  | 0, _ => []
  | n + 1, bs => slice (bs.take w) 0 w :: pieces w n (bs.drop w)

/-- A SEND, at offset `idx` of its stream, with the bytes of its message: it waits for the destination slot's credit, and then the message leaves (04, R103, R104). -/
def State.trySend (s : State) (n : Nat) (c : CoreId) (gen idx : Nat) (x : Cmd) (bs : List Byte) : Attempt :=
  let k := s.core c
  let tag := roleTag gen x.role
  let i := slotIx gen x.sendSlot
  let noCredit : Attempt := .stall (s.limit n (wf x.w2 21 10)) (slotItem x.sendSlot) 0 2
  match x.sendRoute with
  | 0 =>
    if ((s.core x.dest).slot i).creditHome then
      let s := s.takeClock n c 3 (creditKey c x.dest i)
      let (vc, s) := s.handOn n c 3
      let s := s.updCore x.dest fun d => d.setSlot i { d.slot i with creditHome := false }
      let m : MeshMsg := { pt := n, src := c, dst := x.dest, slot := x.sendSlot, flag := x.sendFlag, dfen := x.sendDfen, tag := tag, bytes := bs,
                           cmd := idx, vc := vc }
      let s := { s with mesh := s.mesh ++ [m] }
      .done (s.updPart n fun p => { p with meshSent := p.meshSent + b2n x.sendDfen })
    else noCredit
  | 1 =>
    match (k.sendsOf gen)[x.shaftIx]? with
    | none => .done s
    | some (p, shaft) =>
      if k.remote.any fun r => r.shaft = some x.shaftIx ∧ r.slot = i then noCredit
      else if 16384 ≤ (s.port p).outstanding ∨ !s.calendarHas n p shaft gen then .hold
      else
        let r : RemoteSlot := { domain := 0, devid := 0, dst := c, slot := i, shaft := some x.shaftIx }
        let s := s.updCore c fun k => { k with remote := k.remote ++ [r] }
        .done (s.shaftOut n (some c) p shaft gen x.role (pieces 240 (ceilDiv bs.length 240) bs))
  | _ =>
    let r : RemoteSlot := { domain := s.domainNo, devid := x.destDevid, dst := x.dest, slot := i, shaft := none }
    if k.remote.contains r then noCredit
    else if !s.trackRoom then .hold
    else
      let s := s.updCore c fun k => { k with remote := k.remote ++ [r] }
      let m := s.requestTo n c gen x .data x.sendFlag k.msgId
      let count := ceilDiv bs.length 224
      let mk (j total : Nat) (b : List Byte) : LoosePkt :=
        { m with pktIndex := j, pktCount := total, last := j + 1 = total, len := b.length, bytes := b, dfen := x.sendDfen,
                 slot := ⟨x.sendSlot % 64, Nat.mod_lt _ (by decide)⟩ }
      .done (s.looseOut n c 3 idx (some x.sendSlot) x.dest x.destDevid k.msgId (dataPackets mk count count bs))

end Sys2Proof.Machine
end

