-- ==== Sys2Proof/Machine/Crossings.lean ====
section
/-! DEFINITION. What traffic meets on its way: the same-frequency crossings between compute regions (07, R176-R178), where the pointer distance moves while a
message passes and a hold of the producer is counted, with distances in thousandths of an entry; the asynchronous crossings (R179); and the link layers of
the die-to-die edges (13, R300). -/

namespace Sys2Proof.Machine

/-- Die on which a crossing's events are counted: crossings 0 to 11 join the regions of die x / 2, from A to B the even ones; 12 to 25 the sides of the edges
C0–C1, C1–C2, C3–C4, C4–C5, C0–C3, C1–C4 and C2–C5, two directions each (13, R299). -/
def crossingDie (x : Nat) : Nat := if x < 12 then x / 2 else [0, 1, 3, 4, 0, 1, 2].getD ((x - 12) / 2) 0

/-- Die of a crossing's producer: the odd crossings of an edge lead back from its second die. -/
def producerDie (x : Nat) : Nat := if x < 12 ∨ x % 2 = 0 then crossingDie x else [1, 2, 4, 5, 3, 4, 5].getD ((x - 12) / 2) 0

/-- Region of a crossing's producer. Which region of a die borders an edge is not stated (log 77). -/
def producerRegion (x : Nat) : Nat := 2 * producerDie x + (if x < 12 then x % 2 else b2n (Config.edgeRegion (producerDie x) ((x - 12) / 2)))

/-- What the passage of one message does to a crossing: the distance, the producer's held cycles in thousandths, hold assertions, and whether the hold of the
write before goes on. -/
structure Elastic where
  distance : Nat
  held : Nat
  holds : Nat
  holding : Bool
  deriving DecidableEq, Repr

/-- The distance moves by `d` up to the next valid write: past 14 the producer is held until the consumer has read, and below 2 the read pointer waits
(07, R177). -/
def Elastic.write (e : Elastic) (d : Int) : Elastic :=
  let x : Int := (e.distance : Int) + d
  if 14000 < x then { distance := 14000, held := e.held + (x - 14000).toNat, holds := e.holds + b2n (!e.holding), holding := true }
  else { e with distance := if x < 2000 then 2000 else x.toNat, holding := false }

/-- A message passes a crossing. A first write that falls into a re-centring is held until it is over, for at most three cycles (07, R178). -/
def Elastic.pass (e : Elastic) (p : Passage) : Elastic :=
  let e := if p.recentring = 0 then e else { distance := 8000, held := e.held + 1000 * Nat.min 3 p.recentring, holds := e.holds + 1, holding := false }
  p.drift.foldl Elastic.write e

/-- The crossing holds its producer: each assertion is counted on the die, against the producer's region and, on an edge, against the edge (13, R300). -/
def State.countHolds (s : State) (x : Nat) (pt : Option Nat) (k : Nat) : State :=
  if k = 0 then s
  else
    let s := (s.countN .crossHold (.die (crossingDie x)) pt k).canInput (canDomain (2 + producerRegion x)) 1 k
    if x < 12 then s else s.canInput (46 + (x - 12) / 2) 1 k

/-- A message of core `c` passes a crossing: the time for which the producer is held is lost to CROSS_HOLD in the core's segment (01, R22; 07, R177). A consumer
whose read waits sees its data later: its own stall times that as UPSTREAM. -/
def State.crossOver (s : State) (n : Nat) (c : CoreId) (p : Passage) : State :=
  let x := p.crossing.val
  let e := Elastic.pass { distance := (s.crossing x).distance, held := 0, holds := 0, holding := false } p
  let s := s.updCrossing x fun y => { y with distance := e.distance, holds := y.holds + e.holds }
  let s := s.countHolds x (some n) e.holds
  if (s.core c).segOpen then s.updCore c fun k => k.addLost 4 (e.held * 1000 / opMHz s.op.cur) else s

/-! ### Asynchronous crossings (07, R179) -/

/-- Entries of an asynchronous crossing. -/
def fifoDepth : Nat := 32

/-- A write into an asynchronous crossing that holds `x.1` entries: a full one holds its producer until the consumer's next read. Answers the entries
then held and the time lost so far in ps. -/
def fifoWrite (x : Nat × Nat) (w : FifoWrite) : Nat × Nat :=
  let left := x.1 - w.reads
  if left < fifoDepth then (left + 1, x.2) else (fifoDepth, x.2 + w.gap)

/-- What core `c` sends passes an asynchronous crossing: the time for which a full one holds it is lost to UPSTREAM, and counts no CROSS_HOLD (07, R179; 01,
R22). -/
def State.passFifo (s : State) (c : CoreId) (p : FifoPassage) : State :=
  let r := p.writes.foldl fifoWrite (Tab.get 0 s.fifos p.fifo.val, 0)
  let s : State := { s with fifos := Tab.write 0 s.fifos p.fifo.val r.1 }
  if (s.core c).segOpen then s.updCore c fun k => k.addLost 7 r.2 else s

/-! ### Die-to-die link layers (13, R299, R300) -/

/-- Die on which an edge's events are counted: the first of the two that R299 names, E0 and E1 as dies 6 and 7. -/
def edgeDie (e : Nat) : Nat := [0, 1, 3, 4, 0, 1, 2, 6, 6, 6, 7, 7, 7].getD e 0

/-- The link layer of an edge has retried transfers: counted on its die and against the edge (13, R300, R306). -/
def State.edgeRetries (s : State) (pt : Option Nat) (r : Fin 13 × Nat) : State :=
  if r.2 = 0 then s else (s.countN .linkRetry (.die (edgeDie r.1.val)) pt r.2).canInput (46 + r.1.val) 0 r.2

/-- A wait in a queue is counted where the queue stands, for the partition (05, R142): a limiter's on the edge die of its host link. -/
def State.queueWait (s : State) (n : Nat) (w : QueueWait) : State :=
  match w with
  | .router d => s.count .routerQueue (.die d.val) (some n)
  | .dieQueue e => s.count .dieQueue (.die (edgeDie e.val)) (some n)
  | .channel k => s.count .channelQueue (.die (k.val / 2)) (some n)
  | .limiter toHost => s.count (if toHost then .limiterWrite else .limiterRead) (.die (s.linkDie n)) (some n)

/-- What core `c` sends, or what comes to it, passes its way. -/
def State.travel (s : State) (n : Nat) (c : CoreId) (w : Way) : State :=
  let s := w.crossings.foldl (fun s p => s.crossOver n c p) s
  let s := w.fifos.foldl (fun s p => s.passFifo c p) s
  let s := w.retries.foldl (fun s r => s.edgeRetries (some n) r) s
  w.waits.foldl (fun s q => s.queueWait n q) s

end Sys2Proof.Machine
end

