-- ==== Sys2Proof/Machine/Matrix.lean ====
section
/-! DEFINITION. What an engine command does to the stores, banks, accumulators and registers when it runs (`Effect`), and the effects of the
matrix engines: MPASS and WLOAD (02, R40-R62; 03, R68-R70). -/

namespace Sys2Proof.Machine

/-- The whole effect of an engine command, worked out from the state in which it runs. -/
structure Effect where
  /-- store addresses it reads -/
  reads : List Int := []
  /-- it may read accumulator addresses (04, R92) -/
  accOk : Bool := false
  writes : List (Int × Byte) := []
  banks : List (Nat × Bank) := []
  fp : FlagSet := 0
  sc : List (Nat × W32) := []
  spread : List Nat := []
  counts : List (Ev × Nat) := []
  cycles : Nat := 1
  /-- formats declared for what it reads, with the addresses or accumulator sets (06, R158) -/
  formats : List (Nat × List Int) := []
  accFormats : List (Nat × List Nat) := []
  /-- formats of what it writes: other bytes it writes are untagged -/
  tags : List (Nat × List Int) := []
  /-- destination and source bytes of a MOVE, for its tags -/
  copies : List (Int × Int) := []
  /-- the overlap check applies, and its exception (06, R157) -/
  overlap : Bool := false
  exempt : Bool := false
  deriving DecidableEq, Repr

/-- Addresses from `a` on. -/
def span (a : Int) (n : Nat) : List Int := (upFrom 0 n).map fun (i : Nat) => a + (i : Int)

/-! ### Fields of MPASS and WLOAD (04, R94) -/

def Cmd.eng (q : Cmd) : Nat := b2n (wb q.w0 22)
def Cmd.rowBlocks (q : Cmd) : Nat := wf q.w1 63 57
def Cmd.accBase (q : Cmd) : Nat := wf q.w1 56 51
def Cmd.accumulate (q : Cmd) : Bool := wb q.w1 50
def Cmd.bank (q : Cmd) : Nat := wf q.w1 49 48
def Cmd.opFmt (q : Cmd) : Nat := wf q.w1 47 43
def Cmd.wFmt (q : Cmd) : Nat := wf q.w1 42 38
def Cmd.xpose (q : Cmd) : Bool := wb q.w1 37
def Cmd.preskew (q : Cmd) : Bool := wb q.w1 36
def Cmd.slicePass (q : Cmd) : Bool := wb q.w1 35
def Cmd.w4shape (q : Cmd) : Bool := wb q.w1 34
def Cmd.lstride (q : Cmd) : Nat := wf q.w2 63 48

/-- The step shape of a pass. -/
def Cmd.shapeOf (q : Cmd) : StepShape := (stepShape q.opFmt q.wFmt q.slicePass).getD .b8

/-- A pass that counts in INT32 (02, R52). -/
def Cmd.intPass (q : Cmd) : Bool := isInt q.opFmt && isInt q.wFmt

/-- Region-clock cycles of a step of the shape (02, R44). -/
def stepCycles : StepShape → Nat
  | .b16 => 2
  | _ => 1

/-! ### Weights of a bank set (02, R47, R50, R56) -/

/-- Weight element of cube (j, i) at reduction index `r` and output `o` of a tile in a format. -/
def tileElem (fmt : Nat) (w4 : Bool) (tile : List Byte) (j i r o : Nat) : Nat :=
  let n := segBytes fmt w4
  elemAt fmt (slice tile ((4 * j + i) * n) n) (8 * r + o)

/-- Weight scale of cube (j, i) for output `o` (02, R47). -/
def tileScale (fmt : Nat) (w4 : Bool) (tile : List Byte) (j i o : Nat) : Nat :=
  (tile.getD (16 * segBytes fmt w4 + 8 * (4 * j + i) + o) 0).toNat

/-- A bank set read as a tile of the declared format. -/
def Bank.elem (b : Bank) (fmt : Nat) (w4 : Bool) (j i r o : Nat) : Nat :=
  match b with
  | .loaded f w tile =>
    if fmtBits f = fmtBits fmt ∧ w = w4 then tileElem fmt w4 tile j i r o
    else (Config.bankEntry f w fmt tile (128 * (4 * j + i) + 8 * r + o)).toNat % 2 ^ fmtBits fmt
  | .undefined m =>
    let n := segBytes fmt w4
    elemAt fmt ((upFrom ((4 * j + i) * n) n).map (Config.bankByte m)) (8 * r + o)

/-- A bank set's weight scale in the declared MX format. -/
def Bank.scale (b : Bank) (fmt : Nat) (w4 : Bool) (j i o : Nat) : Nat :=
  match b with
  | .loaded f w tile =>
    if isMx f ∧ fmtBits f = fmtBits fmt ∧ w = w4 then tileScale fmt w4 tile j i o
    else (Config.bankEntry f w fmt tile (2048 + 8 * (4 * j + i) + o)).toNat % 256
  | .undefined m => (Config.bankByte m (16 * segBytes fmt w4 + 8 * (4 * j + i) + o)).toNat

/-- A bank set of a core; one that nothing has loaded holds undefined contents (02, R50). -/
def Core.bankSet (k : Core) (eng b : Nat) : Bank := Tab.get (.undefined 0) k.banks (4 * eng + b)

/-! ### Dot products and sums (02, R40, R51; 03, R68-R70) -/

/-- The exact product of two values (03, R70). -/
def mulVal (x y : Val) : Val :=
  match x, y with
  | .nan _, _ | _, .nan _ => .nan false
  | .inf n, .inf m => .inf (n != m)
  | .inf n, .fin m a _ | .fin m a _, .inf n => if a = 0 then .nan false else .inf (n != m)
  | .fin n a e, .fin m b f => .fin (n != m) (a * b) (e + f)

/-- The exact sum of products: a NaN when one is or infinities of both signs occur; an exact zero is negative only when every product is. -/
def sumVals (vs : List Val) : Val :=
  if vs.any Val.isNan then .nan false
  else
    let pos := vs.any fun v => v = .inf false
    let neg := vs.any fun v => v = .inf true
    if pos ∧ neg then .nan false
    else if pos then .inf false
    else if neg then .inf true
    else
      let d := vs.foldl (fun (d : Dy) v => match v with | .fin n m e => d.add (dyOf n m e) | _ => d) { m := 0, e := 0 }
      if d.m = 0 then .fin (vs.all Val.neg) 0 0 else .fin (decide (d.m < 0)) d.m.natAbs d.e

/-- FP32 addition in round to nearest even, as bits; a NaN is the canonical one (03, R68, R70). -/
def addFp32 (x y : Val) : Val :=
  let r := (toFlt 0x02 0 false (exactAdd 0 x y).1).1
  decodeElem 0x02 r

/-- FP32 bits of a value that is one of the format's. -/
def fp32Bits (v : Val) : Nat := (toFlt 0x02 0 false v).1

/-- FP32 addition of two words (03, R68). -/
def addWords (x : W32) (v : Val) : W32 := BitVec.ofNat 32 (fp32Bits (addFp32 (decodeElem 0x02 x.toNat) v))

/-- One operand or weight of a dot product: its elements' bits and the scale that travels with them. -/
structure Segment where
  vals : List Nat
  scale : Nat
  deriving DecidableEq, Repr

/-! ### Operand lines (02, R41, R55, R60) -/

/-- Line of a pass that holds segment `j` of row block `b`: the block's own line, or `j` lines on in a pre-skewed stripe (02, R60). -/
def Cmd.lineOf (q : Cmd) (b j : Nat) : Nat := if q.preskew then b + j else b

/-- Lines a pass reads. -/
def Cmd.lines (q : Cmd) : Nat := if q.preskew then q.rowBlocks + 3 else q.rowBlocks

/-- Operand line width in bytes. -/
def Cmd.width (q : Cmd) : Nat := lineWidth q.shapeOf q.opFmt

/-- Store addresses of line `l` of a pass, then of its scale line (02, R55). -/
def QCmd.lineAddrs (x : QCmd) (l : Nat) : List Int :=
  span (x.a + (l * x.cmd.lstride : Nat)) x.cmd.width ++ if isMx x.cmd.opFmt then span (x.b + (32 * l : Nat)) 32 else []

/-- Operand elements of segment `j`, row `r`, in the bytes of a line, with the scale that travels with them (02, R55). -/
def Cmd.operandIn (q : Cmd) (line : List Byte) (j r : Nat) : Segment :=
  let sw := q.width / 4
  let n := redux q.shapeOf
  let seg := slice line (j * sw) sw
  { vals := (upFrom 0 n).map fun e => elemAt q.opFmt seg (n * r + e)
    scale := if isMx q.opFmt then (line.getD (q.width + 8 * j + r) 0).toNat else 127 }

/-- Weights that cube row `j` of a pass applies for output column `i`, output `o`: the tile's, or its transpose's under cell transpose (02,
R41, R56). -/
def weightsFor (q : Cmd) (bank : Bank) (j i o : Nat) : Segment :=
  let n := redux q.shapeOf
  let w4 : Bool := q.shapeOf = .b4
  { vals := (upFrom 0 n).map fun e => if q.xpose then bank.elem q.wFmt w4 i j o e else bank.elem q.wFmt w4 j i e o
    scale := if isMx q.wFmt then bank.scale q.wFmt w4 j i o else 127 }

/-! ### One step of a cube (02, R40, R51; 03, R68-R70) -/

/-- The exact dot product with both scales applied (02, R40, R55; 03, R70). -/
def dotVal (fo fw : Nat) (a w : Segment) : Val :=
  if a.scale = 0xFF ∨ w.scale = 0xFF then .nan false
  else
    match sumVals ((a.vals.zip w.vals).map fun (p : Nat × Nat) => mulVal (decodeElem fo p.1) (decodeElem fw p.2)) with
    | .fin n m e => .fin n m (e + (a.scale : Int) + (w.scale : Int) - 254)
    | v => v

/-- The exact integer dot product. -/
def dotInt (fo fw : Nat) (a w : Segment) : Int :=
  ((a.vals.zip w.vals).map fun (p : Nat × Nat) => signed (fmtBits fo) p.1 * signed (fmtBits fw) p.2).foldl (· + ·) 0

/-- A dot product added into the partial sum that passes (02, R40). An integer one stays far inside 32 bits. -/
def Cmd.accumulateDot (q : Cmd) (sum : W32) (a w : Segment) : W32 :=
  if q.intPass then sum + BitVec.ofInt 32 (dotInt q.opFmt q.wFmt a w) else addWords sum (dotVal q.opFmt q.wFmt a w)

/-- Cube (j, i) takes segment `j` of a row block with the partial sums of the 8 rows and 8 outputs that pass through it (02, R40, R41). Under cell
transpose the grid's two axes change places, and (j, i) counts reduction and output slices (R56). -/
def Cmd.cube (q : Cmd) (bank : Bank) (line : List Byte) (j i : Nat) (sums : List W32) : List W32 :=
  let ws := (upFrom 0 8).map fun o => weightsFor q bank j i o
  (upFrom 0 8).flatMap fun r =>
    let a := q.operandIn line j r
    (ws.zip (upFrom 0 8)).map fun (w : Segment × Nat) => q.accumulateDot (sums.getD (8 * r + w.2) 0) a w.1

/-! ### Steps of a pass (02, R41, R42, R51, R52, R56) -/

/-- The cubes of one step that work on output slice `i` of row block `b`: step `t` finds the block in cube row t − b − i. -/
def PassRun.stepCube (p : PassRun) (bank : Bank) (t b i : Nat) : PassRun :=
  let q := p.q.cmd
  let j := t - b - i
  if b + i ≤ t ∧ j < 4 ∧ b < q.rowBlocks then
    let old := Tab.get [] p.sums (4 * b + i)
    { p with sums := Tab.put p.sums (4 * b + i) (q.cube bank (Tab.get [] p.lines (q.lineOf b j)) j i old) }
  else p

/-- Step `t` of a pass: the line read at its beginning enters the stagger registers, or the pre-skewed path, and every cube that has a row block takes it
(02, R42). A line has left the grid 7 steps after it came. -/
def PassRun.stepOn (p : PassRun) (bank : Bank) (t : Nat) (line : Option (List Byte)) : PassRun :=
  let lines := p.lines.filter fun e => decide (t < e.1 + 7)
  let p := { p with lines := match line with | some bs => Tab.put lines t bs | none => lines }
  (upFrom (t - 6) 7).foldl (fun p b => (upFrom 0 4).foldl (fun p i => p.stepCube bank t b i) p) p

/-- One word of a row block's result into its set: stored, or added to the set's contents (02, R51, R52). Answers the word and whether INT32 accumulation
wrapped. -/
def Cmd.setWord (q : Cmd) (old r : W32) : W32 × Bool :=
  if !q.accumulate then (r, false)
  else if q.intPass then
    let t := old.toInt + r.toInt
    (BitVec.ofInt 32 t, decide (t < -(2 ^ 31)) || decide ((2 : Int) ^ 31 ≤ t))
  else (addWords old (decodeElem 0x02 r.toNat), false)

/-- The accumulator set that row block `b` of a pass leaves (02, R41, R51, R52). -/
def PassRun.setOf (p : PassRun) (old : AccSet) (b : Nat) : AccSet :=
  let q := p.q.cmd
  let ws := (upFrom 0 8).flatMap fun r => (upFrom 0 32).map fun o =>
    (32 * r + o, q.setWord (old.word (32 * r + o)) ((Tab.get [] p.sums (4 * b + o / 8)).getD (8 * r + o % 8) 0))
  { words := ws.map fun (e : Nat × W32 × Bool) => (e.1, e.2.1)
    int32 := if q.accumulate then old.int32 else q.intPass
    ovf := ws.any (fun (e : Nat × W32 × Bool) => e.2.2) || (q.accumulate && old.ovf)
    undef := none }

/-- The next row block has entered its set: its partial sums have left the grid. -/
def PassRun.wrote (p : PassRun) : PassRun :=
  { p with sums := p.sums.filter fun e => decide (4 * p.done + 4 ≤ e.1), done := p.done + 1 }

/-- Bytes of a range that lie in the cluster store. -/
def clusterBytes (a : Int) (n : Nat) : Nat := if 0x1000000 ≤ a ∧ a < 0x3000000 then n else 0

/-- Region cycles of step `t` of a pass: those of its shape, or as many as the cluster-store bytes of its line need (02, R44; 05, R120). -/
def QCmd.stepLen (x : QCmd) (t : Nat) : Nat :=
  let q := x.cmd
  let b := if t < q.lines then
      clusterBytes (x.a + (t * q.lstride : Nat)) q.width + (if isMx q.opFmt then clusterBytes (x.b + (32 * t : Nat)) 32 else 0)
    else 0
  Nat.max (stepCycles q.shapeOf) (ceilDiv b 64)

/-- Tag of the sets a pass writes (06, R158). -/
def Cmd.passTag (q : Cmd) : Nat := if q.slicePass then sliceTag else if q.intPass then 0x12 else 0x02

/-- What MPASS does at its start: its lines are read, and its sets written, step by step (02, R42, R43). -/
def QCmd.passEffect (x : QCmd) : Effect :=
  { reads := (upFrom 0 x.cmd.lines).flatMap x.lineAddrs
    counts := [(.pass, 1)] }

/-- The effect of WLOAD: one tile into one bank set (02, R47, R48). It reads the tile with its block scales, and assay mode compares the tags of all of
these bytes; a pass compares those of its lines without their scales (06, R158; log 93). -/
def State.loadEffect (s : State) (c : CoreId) (x : QCmd) : Effect :=
  let q := x.cmd
  let w4 : Bool := is4 q.wFmt && q.w4shape
  let n := tileBytes q.wFmt w4
  { reads := span x.a n
    banks := [(4 * q.eng + q.bank, .loaded q.wFmt w4 (s.readStN c x.a n))]
    counts := [(.weightLoad, 1)]
    cycles := loadCycles q.wFmt w4
    formats := [(q.wFmt, span x.a n)] }

end Sys2Proof.Machine
end

