-- ==== Sys2Proof/Machine/Vector.lean ====
section
/-! DEFINITION. The effects of the vector engine: VOP (03, R71-R75, R362, R363; 04, R95) and the combine of slice mode, VCOMB (03, R80-R82;
04, R96). -/

namespace Sys2Proof.Machine

/-! ### VOP (04, R95) -/

def Cmd.rnd (q : Cmd) : Nat := wf q.w0 14 13
def Cmd.sat (q : Cmd) : Bool := wb q.w0 12
def Cmd.fmtA (q : Cmd) : Nat := wf q.w1 63 59
def Cmd.fmtB (q : Cmd) : Nat := wf q.w1 58 54
def Cmd.fmtC (q : Cmd) : Nat := wf q.w1 53 49
def Cmd.fmtD (q : Cmd) : Nat := wf q.w1 48 44
def Cmd.count (q : Cmd) : Nat := wf q.w3 63 44

/-- A list cut into pieces of 32, `n` of them. -/
def blocks32 {α : Type} : Nat → List α → List (List α)
  | 0, _ => []
  | n + 1, l => l.take 32 :: blocks32 n (l.drop 32)

/-- Store addresses of an operand of `n` elements: its element data, and the block scales after them (04, R95). -/
def operandAddrs (f : Nat) (a : Int) (n : Nat) : List Int := span a (fmtBytes f n + if isMx f then ceilDiv n 32 else 0)

/-- The values of an operand (03, R64, R66, R67). Of an accumulator set it has the words; ACC_OVF has no place in a VOP's or a VCOMB's result and is read
away (02, R52; log 64). -/
def State.operandVals (s : State) (c : CoreId) (f : Nat) (a : Int) (n : Nat) : List Val :=
  let xs := (unpack f n (s.readStN c a (fmtBytes f n))).map (decodeElem f)
  if isMx f then
    let scales := s.readStN c (a + (fmtBytes f n : Nat)) (ceilDiv n 32)
    (xs.zip (upFrom 0 n)).map fun (p : Val × Nat) => p.1.scaled (scales.getD (p.2 / 32) 0).toNat
  else xs

/-- Values written in a format: the bytes with their addresses, and the flags of the conversions. The scales of an MX format go to `scaleAt`. -/
def writeVals (f rnd : Nat) (sat : Bool) (d scaleAt : Int) (vs : List Val) : List (Int × Byte) × FlagSet :=
  let place (a : Int) (bs : List Byte) : List (Int × Byte) := (bs.zip (upFrom 0 bs.length)).map fun (p : Byte × Nat) => (a + (p.2 : Int), p.1)
  if isMx f then
    let bl := (blocks32 (ceilDiv vs.length 32) vs).map (mxBlock f rnd)
    (place d (pack f (bl.flatMap fun (b : Nat × List Nat × FlagSet) => b.2.1)) ++
      place scaleAt (bl.map fun (b : Nat × List Nat × FlagSet) => BitVec.ofNat 8 b.1),
      bl.foldl (fun g b => g ||| b.2.2) 0)
  else
    let xs := vs.map (toElem f rnd sat)
    (place d (pack f (xs.map fun (e : Coded) => e.1)), xs.foldl (fun g e => g ||| e.2) 0)

/-- Rounding mode and SAT of a conversion: an MX element with its scale goes into FP32 exactly, or beyond its range to an infinity of its sign, whatever
RND and SAT say (03, R74). -/
def convMode (src dst rnd : Nat) (sat : Bool) : Nat × Bool := if isMx src ∧ dst = 0x02 then (0, false) else (rnd, sat)

/-- Sources of a format converted on read into the compute format, with their flags. -/
def readVals (src cf rnd : Nat) (sat : Bool) (vs : List Val) : List Val × FlagSet :=
  let m := convMode src cf rnd sat
  let xs := vs.map (toCompute cf m.1 m.2)
  (xs.map (·.1), xs.foldl (fun g e => g ||| e.2) 0)

/-- The results of an elementwise operation, with their flags. -/
def mapOp (vopc cf rnd : Nat) : List Val → List Val → List Val → List Val × FlagSet
  | a :: as, b :: bs, c :: cs =>
    let r := vectorOp vopc cf rnd a b c
    let t := mapOp vopc cf rnd as bs cs
    (r.1 :: t.1, r.2 ||| t.2)
  | _, _, _ => ([], 0)

/-- The values a VOP writes, and the flags of reading and computing (04, R95). CONV converts each value once, from its source format to the
destination (03, R74, R75). -/
def State.vopVals (s : State) (c : CoreId) (x : QCmd) : List Val × FlagSet :=
  let q := x.cmd
  let n := q.count
  let cf := computeFmt q.fmtD
  let a0 := s.operandVals c q.fmtA x.a n
  if q.vopc = 0x0B then (a0, 0)
  else
    let a := readVals q.fmtA cf q.rnd q.sat a0
    let b := if vopUsesB q.vopc then readVals q.fmtB cf q.rnd q.sat (s.operandVals c q.fmtB (highAddr q.w2) n) else (a.1, 0)
    let z := if vopUsesC q.vopc then readVals q.fmtC cf q.rnd q.sat (s.operandVals c q.fmtC (lowAddr q.w2) n) else (a.1, 0)
    let g := a.2 ||| b.2 ||| z.2
    match q.vopc with
    | 0x0C => let r := reduce true cf q.rnd a.1; ([r.1], g ||| r.2)
    | 0x0D => let r := reduce false cf q.rnd a.1; ([r.1], g ||| r.2)
    | v => let r := mapOp v cf q.rnd a.1 b.1 z.1; (r.1, g ||| r.2)

/-- Cycles of a VOP: 128 lanes, or 64 in FP64, and 2 cycles for each accumulator set that it reads (02, R54). -/
def QCmd.vopCycles (x : QCmd) : Nat :=
  Nat.max (Nat.max 1 (ceilDiv x.cmd.count (if computeFmt x.cmd.fmtD = 0x01 then 64 else 128))) (2 * x.readsSets.length)

/-- The effect of VOP (04, R95). -/
def State.vopEffect (s : State) (c : CoreId) (x : QCmd) : Effect :=
  let q := x.cmd
  let n := q.count
  let r := s.vopVals c x
  let scaleAt : Int := if q.vopc = 0x0B then (lowAddr q.w2 : Nat) else x.b + (fmtBytes q.fmtD r.1.length : Nat)
  let m := if q.vopc = 0x0B then convMode q.fmtA q.fmtD q.rnd q.sat else (q.rnd, q.sat)
  let w := writeVals q.fmtD m.1 m.2 x.b scaleAt r.1
  let srcs : List (Nat × Int) :=
    (q.fmtA, x.a) :: (if vopUsesB q.vopc then [(q.fmtB, (highAddr q.w2 : Int))] else []) ++ (if vopUsesC q.vopc then [(q.fmtC, (lowAddr q.w2 : Int))] else [])
  { reads := srcs.flatMap fun (p : Nat × Int) => operandAddrs p.1 p.2 n
    accOk := true
    writes := w.1
    fp := r.2 ||| w.2
    counts := [(.vop, 1)]
    cycles := x.vopCycles
    formats := srcs.map fun (p : Nat × Int) => (p.1, operandAddrs p.1 p.2 n)
    accFormats := srcs.map fun (p : Nat × Int) => (p.1, accSetsOf p.2 (fmtBytes p.1 n))
    tags := [(q.fmtD, w.1.map (·.1))]
    overlap := true
    exempt := srcs.any fun (p : Nat × Int) => p.2 = x.b && fmtBits p.1 = fmtBits q.fmtD }

/-! ### VCOMB (03, R80-R82; 04, R96) -/

def Cmd.scount (q : Cmd) : Nat := wf q.w0 22 19
def Cmd.phase (q : Cmd) : Nat := wf q.w0 18 17
def Cmd.combEng (q : Cmd) : Nat := b2n (wb q.w0 16)
def Cmd.combBase (q : Cmd) : Nat := wf q.w0 15 10
def Cmd.khere (q : Cmd) : Nat := wf q.w0 9 6
def Cmd.ktotal (q : Cmd) : Nat := wf q.w1 63 51
def Cmd.kfirst (q : Cmd) : Nat := wf q.w1 50 39
def Cmd.tile0 (q : Cmd) : Nat := wf q.w1 38 26
def Cmd.tiles (q : Cmd) : Nat := wf q.w2 63 59
def Cmd.cntSc (q : Cmd) : Nat := wf q.w2 31 28

/-- Block range W_s of a slice count (03, "Slice counts"). -/
def blockRange : Nat → Int
  | 4 => 111 | 5 => 95 | 6 => 79 | 7 => 63 | 8 => 47 | _ => 31

/-- Element spread allowance d_s; none at S4 to S6. -/
def spreadAllowance : Nat → Option Int
  | 7 => some 1 | 8 => some 4 | 9 => some 8 | _ => none

/-- An exponent entry (03, R78). -/
structure ExpEntry where
  nonfinite : Bool
  spreadIn : Bool
  zero : Bool
  exp : Int
  deriving DecidableEq, Repr

/-- An exponent entry read from its 16 bits: a block that is not NONFINITE with EXP 0x800 is ZERO. -/
def expEntry (x : Nat) : ExpEntry :=
  { nonfinite := x.testBit 15, spreadIn := x.testBit 14, zero := !x.testBit 15 && decide (x % 4096 = 0x800), exp := signed 12 (x % 4096) }

/-- Row and column entries of K-block `b` for an output row (counted over the tiles) and column (04, R96). -/
def State.rowEntry (s : State) (c : CoreId) (x : QCmd) (row b : Nat) : ExpEntry :=
  expEntry (leNat (s.readStN c (x.a + (row * 2 * x.cmd.ktotal + 2 * b : Nat)) 2))
def State.colEntry (s : State) (c : CoreId) (x : QCmd) (col b : Nat) : ExpEntry :=
  expEntry (leNat (s.readStN c ((highAddr x.cmd.w2 + 64 * b + 2 * col : Nat) : Int) 2))

/-- A K-block that contributes to an output: its number, its exponent sum, and whether it sets SPREAD or makes the output NaN. -/
structure Contrib where
  b : Nat
  sum : Int
  spread : Bool
  nan : Bool
  deriving DecidableEq, Repr

/-- The K-blocks of an output where neither side is ZERO (03, R80). -/
def State.contribs (s : State) (c : CoreId) (x : QCmd) (row col : Nat) : List Contrib :=
  (upFrom 0 x.cmd.ktotal).filterMap fun b =>
    let ea := s.rowEntry c x row b
    let eb := s.colEntry c x col b
    if ea.zero || eb.zero then none
    else some { b := b, sum := ea.exp + eb.exp, spread := ea.spreadIn || eb.spreadIn, nan := ea.nonfinite || eb.nonfinite }

/-- Least and greatest exponent sums. -/
def sumRange : List Contrib → Option (Int × Int)
  | [] => none
  | k :: ks => some (ks.foldl (fun (r : Int × Int) x => (if x.sum < r.1 then x.sum else r.1, if r.2 < x.sum then x.sum else r.2)) (k.sum, k.sum))

/-- A value wrapped to 192 bits of two's complement. -/
def wrap192 (x : Int) : Int := signed 192 (unsigned 192 x)

/-- z of a K-block: the digit sums p[b][n][i][j] of an output (03, R80). -/
def Core.slicesOf (k : Core) (q : Cmd) (t j word : Nat) : Int :=
  ((upFrom 0 q.scount).map fun n =>
    ((k.acc q.combEng (q.combBase + (t * q.khere + j) * q.scount + n)).word word).toInt * 2 ^ (8 * (2 * q.scount - 2 - n))).foldl (· + ·) 0

/-- A value shifted left, or right toward −∞ (03, R80). -/
def shiftInt (z d : Int) : Int := if 0 ≤ d then z * 2 ^ d.toNat else z / 2 ^ (-d).toNat

/-- One output of the combine. -/
structure CombOut where
  acc : Int
  bits : Nat
  flags : FlagSet
  spread : Bool
  deriving DecidableEq, Repr

/-- Bytes of the accumulator of an output: 24 each, row by row in a tile of 6,144 (04, R96). -/
def Cmd.accAddr (q : Cmd) (t i j : Nat) : Int := ((lowAddr q.w2 + 6144 * t + 24 * (32 * i + j) : Nat) : Int)

/-- Row `i` and column `j` of tile `t` (03, R80, R81). MIDDLE and LAST, for which the manual says nowhere that q is kept, find it as ONLY and FIRST do, from
the exponent entries as they stand (log 69). An output that a NONFINITE block makes NaN sets no flag (log 90). -/
def State.combine (s : State) (c : CoreId) (x : QCmd) (t i j : Nat) : CombOut :=
  let q := x.cmd
  let ks := s.contribs c x (8 * t + i) j
  let old : Int := if q.phase = 0 ∨ q.phase = 1 then 0 else signed 192 (leNat (s.readStN c (q.accAddr t i j) 24))
  match sumRange ks with
  | none => { acc := old, bits := 0, flags := 0, spread := false }
  | some (lo, hi) =>
    let w := blockRange q.scount
    let e := if lo < hi - w then hi - w else lo
    let mine := ks.filter fun k => decide (q.kfirst ≤ k.b) && decide (k.b < q.kfirst + q.khere)
    let acc := mine.foldl (fun (a : Int) (k : Contrib) => wrap192 (a + shiftInt ((s.core c).slicesOf q t (k.b - q.kfirst) (32 * i + j)) (k.sum - e))) old
    let r := if ks.any (·.nan) then (canonNan 0x01, (0 : FlagSet))
             else toFlt 0x01 0 false (.fin (decide (acc < 0)) acc.natAbs (e + 6 - 16 * (q.scount : Int)))
    { acc := acc, bits := r.1, flags := r.2, spread := ks.any (fun k => k.spread || k.nan) || decide (w < hi - lo) }

/-- Bytes from an address on with their addresses. -/
def placed (a : Int) (bs : List Byte) : List (Int × Byte) := (bs.zip (upFrom 0 bs.length)).map fun (p : Byte × Nat) => (a + (p.2 : Int), p.1)

/-- The effect of VCOMB (04, R96). -/
def State.vcombEffect (s : State) (c : CoreId) (x : QCmd) : Effect :=
  let q := x.cmd
  let outs := (upFrom 0 q.tiles).map fun t => (upFrom 0 8).flatMap fun i => (upFrom 0 32).map fun j => ((i, j), s.combine c x t i j)
  let ends : Bool := q.phase = 0 || q.phase = 3
  let keeps : Bool := q.phase ≠ 3
  let old : Bool := q.phase = 2 || q.phase = 3
  let tiles := outs.zip (upFrom 0 q.tiles)
  let accW := if keeps then tiles.flatMap fun (p : List ((Nat × Nat) × CombOut) × Nat) => p.1.flatMap fun o =>
      placed (q.accAddr p.2 o.1.1 o.1.2) (leBytes 24 (unsigned 192 o.2.acc)) else []
  let cW := if ends then tiles.flatMap fun (p : List ((Nat × Nat) × CombOut) × Nat) => p.1.flatMap fun o =>
      placed ((highAddr q.w3 + 2048 * p.2 + 256 * o.1.1 + 8 * o.1.2 : Nat) : Int) (leBytes 8 o.2.bits) else []
  let flagged := if ends then (tiles.filter fun (p : List ((Nat × Nat) × CombOut) × Nat) => p.1.any fun o => o.2.spread).map fun p => q.tile0 + p.2 else []
  let listW := (flagged.zip (upFrom 0 flagged.length)).flatMap fun (p : Nat × Nat) => placed (x.b + (4 * p.2 : Nat)) (leBytes 4 (2 ^ 31 + p.1))
  let sets := (upFrom 0 (vcombSets q)).map fun i => 64 * q.combEng + q.combBase + i
  { reads := span x.a (8 * q.tiles * 2 * q.ktotal) ++ span (highAddr q.w2 : Nat) (64 * q.ktotal) ++
      (if old then span (lowAddr q.w2 : Nat) (6144 * q.tiles) else [])
    accOk := true
    writes := accW ++ cW ++ listW
    fp := if ends then outs.foldl (fun g l => l.foldl (fun g o => g ||| o.2.flags) g) 0 else 0
    sc := if ends then [(q.cntSc, BitVec.ofNat 32 flagged.length)] else []
    spread := flagged
    counts := if flagged.isEmpty then [] else [(.spread, flagged.length)]
    cycles := Nat.max 1 (2 * vcombSets q)
    accFormats := [(sliceTag, sets)]
    tags := [(0x01, cW.map (·.1))] }

end Sys2Proof.Machine
end

