-- ==== Sys2Proof/Machine/Move.lean ====
section
/-! DEFINITION. The effects of the move engine: MOVE, SPLIT, GATHER and SCATTER (03, R77, R78; 04, R97-R100), and the bytes of SEND, FETCH and
STORE on the store side and on the memory side (04, R101, R104). -/

namespace Sys2Proof.Machine

/-- A shape of a core's running canvas, or the empty one. -/
def Core.shapeAt (k : Core) (gen i : Nat) : Shape :=
  let l := if gen = k.gen then k.shapes else match k.old with | some o => if gen = o.gen then o.shapes else [] | none => []
  (l[i]?).getD { ext0 := 0, ext1 := 0, ext2 := 0, ext3 := 0, stride1 := 0, stride2 := 0, stride3 := 0 }

/-! ### MOVE (04, R97) -/

/-- Bytes of a transposed plane in its generation order, each with the source bytes it is made of: `rows` rows of `rb` bytes, elements of `w`
bits (04, R97). -/
def transposeIx (w rows rb : Nat) : List (Nat × Option Nat × Bool) :=
  (upFrom 0 (rb * 8 / w)).flatMap fun r =>
    (upFrom 0 (rows * w / 8)).map fun y =>
      if w = 4 then (2 * y * rb + r / 2, some ((2 * y + 1) * rb + r / 2), r % 2 = 1)
      else (y / (w / 8) * rb + r * (w / 8) + y % (w / 8), none, false)

/-- A nibble of a byte. -/
def nibble (b : Byte) (high : Bool) : Nat := if high then b.toNat / 16 else b.toNat % 16

/-- The bytes of a plane transposed. -/
def transposeBytes (w rows rb : Nat) (bs : List Byte) : List Byte :=
  (transposeIx w rows rb).map fun (p : Nat × Option Nat × Bool) =>
    match p.2.1 with
    | none => bs.getD p.1 0
    | some j => BitVec.ofNat 8 (nibble (bs.getD p.1 0) p.2.2 + 16 * nibble (bs.getD j 0) p.2.2)

/-- The effect of MOVE. All of the source is read before anything is written. -/
def State.moveEffect (s : State) (c : CoreId) (x : QCmd) : Effect :=
  let q := x.cmd
  let k := s.core c
  let a := k.shapeAt x.gen (wf q.w0 22 15)
  let b := k.shapeAt x.gen (wf q.w0 14 7)
  let xp := wf q.w0 6 4
  let src := a.addrs x.a
  let dst := b.addrs x.b
  let bs := src.map (s.readSt c)
  let plane := a.ext0 * a.ext1
  let w := xpWidth xp
  let planes := a.ext2 * a.ext3
  let out := if xp = 0 then bs else (upFrom 0 planes).flatMap fun p => transposeBytes w a.ext1 a.ext0 ((bs.drop (p * plane)).take plane)
  let from_ := if xp = 0 then src else (upFrom 0 planes).flatMap fun p =>
    let l := (src.drop (p * plane)).take plane
    (transposeIx w a.ext1 a.ext0).map fun (e : Nat × Option Nat × Bool) => l.getD e.1 0
  { reads := src
    writes := dst.zip out
    counts := [(.move, 1)]
    cycles := Nat.max 1 (ceilDiv a.bytes (if xp = 0 then 128 else 64))
    copies := from_.zip dst
    overlap := true }

/-! ### SPLIT (03, R77, R78; 04, R98) -/

/-- The digits of an integer X in `s` signed bytes, most significant first: the pseudocode of R77, from the least significant digit up. -/
def digitsOf (s : Nat) (xi : Int) : List Nat :=
  let step (st : List Nat × Nat) (t : Nat) : List Nat × Nat :=
    let v := unsigned 8 (xi / 2 ^ (8 * (s - 1 - t))) + st.2
    if 128 ≤ v then (v % 256 :: st.1, 1) else (v :: st.1, 0)
  let r := ((upFrom 1 (s - 1)).reverse).foldl step ([], 0)
  unsigned 8 (xi / 2 ^ (8 * (s - 1)) + (r.2 : Int)) :: r.1

/-- The exponent entry and the digits of one block of 32 values, value by value; and whether a digit rounding was inexact (03, R77, R78). -/
def splitBlock (s : Nat) (vs : List Val) : Nat × List (List Nat) × Bool :=
  let zero := List.replicate s 0
  if vs.any (fun v => match v with | .fin _ _ _ => false | _ => true) then (2 ^ 15 + Config.nonfiniteExp.toNat, vs.map fun _ => zero, false)
  else match vs.filterMap Val.top with
    | [] => (0x800, vs.map fun _ => zero, false)
    | t :: ts =>
      let e := ts.foldl (fun a b => if a < b then b else a) t
      let spread := match spreadAllowance s with
        | some d => (t :: ts).any fun y => decide (d < e - y)
        | none => false
      let xs := vs.map fun v => match v with
        | .fin n m g => roundInt 0 n m (g + 8 * (s : Int) - 3 - e)
        | _ => (0, false)
      (2 ^ 14 * b2n spread + unsigned 12 e, xs.map fun (p : Int × Bool) => digitsOf s p.1, xs.any (·.2))

/-- The effect of SPLIT. A signalling NaN sets invalid (03, R65). -/
def State.splitEffect (s : State) (c : CoreId) (x : QCmd) : Effect :=
  let q := x.cmd
  let sc := wf q.w0 22 19
  let src := ((s.core c).shapeAt x.gen (wf q.w0 18 11)).addrs x.a
  let bs := src.map (s.readSt c)
  let n := bs.length / 8
  let vs := (unpack 0x01 n bs).map (decodeElem 0x01)
  let bl := ((blocks32 (n / 32) vs).map (splitBlock sc)).zip (upFrom 0 (n / 32))
  let pitch := wf q.w2 63 32
  let digW := bl.flatMap fun (p : (Nat × List (List Nat) × Bool) × Nat) => (p.1.2.1.zip (upFrom 0 32)).flatMap fun (d : List Nat × Nat) =>
    (d.1.zip (upFrom 0 sc)).map fun (g : Nat × Nat) => (x.b + (g.2 * pitch + 32 * p.2 + d.2 : Nat), BitVec.ofNat 8 g.1)
  let entW := bl.flatMap fun (p : (Nat × List (List Nat) × Bool) × Nat) => placed ((lowAddr q.w2 + 2 * p.2 : Nat) : Int) (leBytes 2 p.1.1)
  { reads := src
    writes := digW ++ entW
    fp := FlagSet.when fInexact (bl.any fun p => p.1.2.2) ||| FlagSet.when fInvalid (vs.any Val.isSig)
    counts := [(.move, 1)]
    cycles := Nat.max 1 (ceilDiv bs.length 128)
    tags := [(0x10, digW.map (·.1))]
    overlap := true }

/-! ### GATHER and SCATTER (04, R99, R100) -/

/-- The stencil of a command: `n` entries from an address on. -/
def State.stencil (s : State) (c : CoreId) (a : Int) (n extent : Nat) : List Entry :=
  (upFrom 0 n).map fun i => entryOf (leNat (s.readStN c (a + (4 * i : Nat)) 4)) extent

/-- Clipped entries. -/
def clips (l : List Entry) : Nat := (l.filter (· = .clipped)).length

/-- The effect of GATHER (`gather`) or SCATTER (04, R100). All of the source is read before anything is written. The stencil's bytes count among those it reads
(06, R157; log 72). -/
def State.rowsEffect (s : State) (c : CoreId) (x : QCmd) (gather : Bool) : Effect :=
  let q := x.cmd
  let n := wf q.w0 22 6
  let rowb := wf q.w3 63 48
  let pitch := wf q.w2 63 32
  let st := s.stencil c (lowAddr q.w2 : Nat) n (wf q.w3 31 0)
  let dense (i : Nat) : Int := x.b + (i * rowb : Nat)
  let table (i : Nat) : Int := x.a + (i * pitch : Nat)
  let rows := (st.zip (upFrom 0 n)).flatMap fun (e : Entry × Nat) =>
    match e.1 with
    | .used ix => [(if gather then table ix else dense e.2, if gather then dense e.2 else table ix)]
    | _ => []
  let zeros := if gather then (st.zip (upFrom 0 n)).flatMap fun (e : Entry × Nat) =>
      match e.1 with | .used _ => [] | _ => placed (dense e.2) (List.replicate rowb 0) else []
  let data := rows.flatMap fun (r : Int × Int) => placed r.2 (s.readStN c r.1 rowb)
  { reads := span (lowAddr q.w2 : Nat) (4 * n) ++ rows.flatMap fun (r : Int × Int) => span r.1 rowb
    writes := zeros ++ data
    counts := [(.move, 1), (.stencilClip, clips st)]
    cycles := n * Nat.max 1 (ceilDiv rowb 128)
    copies := rows.flatMap fun (r : Int × Int) => (span r.1 rowb).zip (span r.2 rowb)
    overlap := true }

/-! ### FETCH and STORE (04, R101) -/

def Cmd.gallery (q : Cmd) : Bool := wb q.w0 22
def Cmd.paged (q : Cmd) : Bool := wb q.w0 21
def Cmd.memFlag (q : Cmd) : Nat := wf q.w0 12 7
def Cmd.handle (q : Cmd) : Nat := wf q.w3 63 48

/-- The two sides of a FETCH or STORE byte by byte: store address, and memory address (`none` for a byte of an unused page). -/
def State.memSides (s : State) (c : CoreId) (x : QCmd) : List (Int × Option Int) :=
  let q := x.cmd
  let st := ((s.core c).shapeAt x.gen (wf q.w0 20 13)).addrs x.b
  if q.paged then
    let pb := 64 * wf q.w3 23 0
    let es := s.stencil c (highAddr q.w2 : Nat) (wf q.w1 23 7) (wf q.w3 47 24)
    st.zip (es.flatMap fun e => match e with
      | .used i => (span (x.a + (i * pb : Nat)) pb).map some
      | _ => List.replicate pb none)
  else st.zip ((span x.a st.length).map some)

/-- Clipped entries of a paged command's stencil. -/
def State.memClips (s : State) (c : CoreId) (q : Cmd) : Nat :=
  if q.paged then clips (s.stencil c (highAddr q.w2 : Nat) (wf q.w1 23 7) (wf q.w3 47 24)) else 0

/-- Stencil bytes of a paged command. -/
def Cmd.stencilReads (q : Cmd) : List Int := if q.paged then span (highAddr q.w2 : Nat) (4 * wf q.w1 23 7) else []

/-! ### SEND (04, R104) -/

/-- Store addresses of a SEND's message. -/
def State.sendAddrs (s : State) (c : CoreId) (x : QCmd) : List Int := ((s.core c).shapeAt x.gen (wf x.cmd.w0 20 13)).addrs x.a

end Sys2Proof.Machine
end

