-- ==== Sys2Proof/Machine/Effects.lean ====
section
/-! DEFINITION. What an engine command's effect does to its core: the checks of assay mode, the poison that it meets, and the effect itself (02, R50, R53;
05, R117; 06, R155-R158). The effect of a vector command that reads accumulator sets not yet written comes when it has read the last of them (02, R53). -/

namespace Sys2Proof.Machine

/-! ### Assay checks (06, R155, R158) -/

/-- Bytes that a command reads before it does anything else: a pass reads its lines step by step (02, R43). -/
def QCmd.startReads (x : QCmd) (e : Effect) : List Int := if x.cmd.opcode = 0x01 then [] else e.reads

/-- The format check of what a command reads, granule by granule (06, R158). -/
def State.checkFormats (s : State) (n : Nat) (c : CoreId) (q cmd : Nat) (e : Effect) : State :=
  if s.assayChk n 1 then
    let bad (f : Nat) (key : Nat) : Bool := let t := Tab.get 0 s.assay.tags key; t ≠ 0 && t ≠ f
    let s := e.formats.foldl (fun s (p : Nat × List Int) =>
      match p.2.find? fun a => match granuleKey c a with | some key => bad p.1 key | none => false with
      | some a => s.assayFormat n c q cmd p.1 ((granuleKey c a).toList) a.toNat
      | none => s) s
    e.accFormats.foldl (fun s (p : Nat × List Nat) => s.assayFormat n c q cmd p.1 (p.2.map (accKey c)) 0) s
  else s

/-- The assay checks of a command, before it acts (06, R155-R158). The lines of a pass are checked step by step. -/
def State.assayCommand (s : State) (n : Nat) (c : CoreId) (q : Nat) (x : QCmd) (e : Effect) : State :=
  if s.assayEn n then
    let s := s.joinInto (threadKey c q) x.vc
    let s := (s.checkFormats n c q x.idx e).readSetsClock n c q x.readsSets
    let s := s.assayStores n c q x.idx (x.startReads e) (e.writes.map (·.1))
    if e.overlap then s.assayOverlap n c q x.idx e.exempt e.reads (e.writes.map (·.1)) else s
  else s

/-! ### Applying an effect -/

/-- What a command does to the stores, banks, accumulators and registers of its core. Nothing clears a SPREAD bit of a tile: the manual names no command or
register that does, and only a canvas that is installed or re-armed starts without them (03, R81; log 68). -/
def State.applyEffect (s : State) (n : Nat) (c : CoreId) (gen : Nat) (e : Effect) : State :=
  let as := e.writes.map (·.1)
  let s := (s.writeStAt c e.writes).clearPoison c as
  let s := s.updCore c fun k =>
    { k with banks := e.banks.foldl (fun m b => Tab.put m b.1 b.2) k.banks
             headBanks := if gen = k.gen then e.banks.map (·.1) ++ k.headBanks else k.headBanks
             fpstat := k.fpstat ||| e.fp
             sc := e.sc.foldl (fun m b => Tab.put m b.1 b.2) k.sc
             spread := e.spread.foldl (fun m t => if m.contains t then m else m ++ [t]) k.spread }
  let s := e.counts.foldl (fun s p => if p.2 = 0 then s else s.countN p.1 (.core c) (some n) p.2) s
  let copied := s.copiedTags n c e.copies
  let s := s.setTags n (dedup (as.filterMap (granuleKey c))) 0
  let s := e.tags.foldl (fun s (p : Nat × List Int) => s.setTags n (dedup (p.2.filterMap (granuleKey c))) p.1) s
  s.putTags n copied

/-- A fault-stop that names the command (13, R293). -/
def State.stopAt (s : State) (n : Nat) (c : CoreId) (q : Nat) (x : QCmd) (code sub addr : Nat) : State :=
  s.faultStop n { code := code, sub := sub, core := some c, queue := q, cmd := x.idx, addr := addr }

/-- The effect of a vector command in a state. -/
def State.vectorEffect (s : State) (c : CoreId) (x : QCmd) : Effect := if x.cmd.opcode = 0x12 then s.vcombEffect c x else s.vopEffect c x

/-- A write of part of a word whose rest is poisoned, or a read of a poisoned word, stops the partition; a command that meets none is checked by assay mode
(05, R117; 06, R155). -/
def State.checkCommand (s : State) (n : Nat) (c : CoreId) (q : Nat) (x : QCmd) (e : Effect) : State :=
  match s.poisonedAt c (x.startReads e) with
  | some a => s.stopAt n c q x cUNCORRECTED 0 (a / 16 * 16).toNat
  | none => match s.partialPoison c (e.writes.map (·.1)) with
    | some a => s.stopAt n c q x cUNCORRECTED 0 (a / 16 * 16).toNat
    | none => s.assayCommand n c q x e

end Sys2Proof.Machine
end

