-- ==== Sys2Proof/Machine/Passes.lean ====
section
/-! DEFINITION. Passes in the cubes (02, R42, R43, R49, R50, R53, R61, R62): how the steps of an engine go on with its region clock, what freezes
them, and what clears the pending bits of accumulator sets. `State.catchUp` takes every engine up to the present cycle; rows that change what a step would
find take it first. -/

namespace Sys2Proof.Machine

/-! ### What a step needs (02, R43, R53; 04, R103) -/

/-- A VALID slot of the command's generation that is empty and holds a byte the command reads (04, R103). -/
def Core.emptySlot (k : Core) (gen : Nat) (reads : List Int) : Option (Nat × SlotDef) :=
  match k.slotsOf gen with
  | none => none
  | some t => t.find? fun e => e.2.valid && !(k.slot (slotIx gen e.1)).full &&
      reads.any fun a => decide ((e.2.base : Int) ≤ a) && decide (a < (e.2.base + 256 * e.2.size : Nat))

/-- When the reads of a set by vector commands dispatched before a pass are done (02, R53): a region cycle, or none while one of them still waits. -/
def Core.readUntil (k : Core) (x : QCmd) (set : Nat) : Option Nat :=
  if Tab.get 0 k.rpend set = 0 then some 0
  else if (k.queue 2).any fun y => decide (y.seq < x.seq) && y.readsSets.contains set then none
  else match Tab.find k.run 4 with
    | some r =>
      let mine := (r.reads.filter fun e => e.1 = set).map (·.2)
      if r.q.seq < x.seq then (if mine.contains none then none else some ((mine.filterMap id).foldl Nat.max 0)) else some 0
    | none => some 0

/-- A pass dispatched before a vector command has not yet written a set: its write-pending bit holds the command's read of it (02, R53). -/
def Core.setPending (k : Core) (x : QCmd) (set : Nat) : Bool :=
  decide (Tab.get 0 k.wpend set ≠ 0) &&
    (k.run.any (fun (e : Nat × Running) => e.2.passes.any fun p => decide (p.q.seq < x.seq) && (p.q.cmd.writesSets.drop p.done).contains set) ||
      ((k.queue 0 ++ k.queue 1).any fun y => decide (y.seq < x.seq) && y.cmd.writesSets.contains set))

/-- A vector command's first read of a set still waits for a pass: the command does not start (02, R53). -/
def Core.writesPending (k : Core) (x : QCmd) : Bool :=
  match x.readsSets with
  | i :: _ => k.setPending x i
  | [] => false

/-- What a step of a chain waits for. -/
inductive Need where
  /-- nothing, from a region cycle on -/
  | from_ (cyc : Nat)
  /-- a landing slot that is empty -/
  | slot (n : Nat) (d : SlotDef)
  /-- a read of a set that a vector command has not begun -/
  | read

/-- What the next step needs of one pass: its line to be there, and its set to be read before it is first written (02, R43, R53). -/
def Core.passNeed (k : Core) (p : PassRun) (t : Nat) : Need :=
  match if t < p.q.cmd.lines then k.emptySlot p.q.gen (p.q.lineAddrs t) else none with
  | some (n, d) => .slot n d
  | none =>
    if 7 ≤ t ∧ t < p.q.cmd.rowBlocks + 7 then
      match k.readUntil p.q (64 * p.q.cmd.eng + p.q.cmd.accBase + (t - 7)) with
      | some c => .from_ c
      | none => .read
    else .from_ 0

/-- The needs of two passes of a chain together. -/
def Need.both : Need → Need → Need
  | .from_ a, .from_ b => .from_ (Nat.max a b)
  | .from_ _, y => y
  | x, _ => x

/-- What the next step of a chain needs. -/
def Core.chainNeed (k : Core) (r : Running) : Need := r.passes.foldl (fun x p => x.both (k.passNeed p (r.step - p.start))) (.from_ 0)

/-! ### Pre-skewed chains (02, R61, R62) -/

/-- The chain has come to the step in which a joining pass reads its line 0. -/
def Running.joinStep (r : Running) : Bool :=
  match r.passes.getLast? with
  | some p => p.q.cmd.preskew && r.step = p.start + p.q.cmd.rowBlocks
  | none => false

/-- The pass joins the chain that runs (02, R61): same shape and formats, its lines follow, and it was dispatched in time. -/
def Running.joins (r : Running) (x : QCmd) : Bool :=
  let q := x.cmd
  let p := r.q.cmd
  r.joinStep &&
    (match r.chain with
     | some (line, by_) => q.opcode = 0x01 && q.preskew && q.opFmt = p.opFmt && q.wFmt = p.wFmt && q.slicePass = p.slicePass && x.a = line && decide (x.cyc < by_)
     | none => false)

/-- The chain waits for the pass at the head of the engine's queue, which joins it. -/
def Core.awaitsJoin (k : Core) (eng : Nat) (r : Running) : Bool :=
  match k.queue eng with
  | x :: _ => r.joins x
  | [] => false

/-- The line of a step as assay mode sees it. -/
def State.assayLine (s : State) (n : Nat) (c : CoreId) (x : QCmd) (l : Nat) : State :=
  if s.assayEn n then
    let as := x.lineAddrs l
    let s := s.checkFormats n c x.cmd.eng x.idx { formats := [(x.cmd.opFmt, as.take x.cmd.width)] }
    s.assayStores n c x.cmd.eng x.idx as []
  else s

/-! ### Stepping (02, R42, R43) -/

/-- Take one off the counts of some sets. -/
def dropSets (m : Tab Nat) (l : List Nat) : Tab Nat := l.foldl (fun m i => Tab.write 0 m i (Tab.get 0 m i - 1)) m

/-- The result of a pass's next row block enters its set in the step that has ended, if it is that block's step b + 7; the set's write-pending bit clears
(02, R42, R53). In ACCUMULATE mode assay mode compares the set's type (06, R158). -/
def State.writeSet (s : State) (n : Nat) (c : CoreId) (steps : Nat) (p : PassRun) : State × PassRun :=
  if p.done < p.q.cmd.rowBlocks ∧ p.start + p.done + 8 ≤ steps then
    let q := p.q.cmd
    let i := 64 * q.eng + q.accBase + p.done
    let s := if q.accumulate ∧ (s.part n).st = .run then s.checkFormats n c q.eng p.q.idx { accFormats := [(q.passTag, [i])] } else s
    let s := s.updCore c fun k => { k with accs := Tab.put k.accs i (p.setOf (Tab.get AccSet.blank k.accs i) p.done), wpend := dropSets k.wpend [i] }
    ((s.setTags n [accKey c i] q.passTag).wroteSetClock n c q.eng i, p.wrote)
  else (s, p)

/-- What the steps of a chain that have ended leave in the sets. A pass whose last set is written leaves the cubes. -/
def State.writeSets (s : State) (n : Nat) (c : CoreId) (steps : Nat) : List PassRun → State × List PassRun
  | [] => (s, [])
  | p :: ps =>
    let r := s.writeSet n c steps p
    let rest := r.1.writeSets n c steps ps
    (rest.1, if r.2.done < p.q.cmd.rowBlocks then r.2 :: rest.2 else rest.2)

/-- A chain's passes take their step, each with its line as the stores hold it. -/
def State.takeStep (s : State) (c : CoreId) (step : Nat) (ps : List PassRun) : List PassRun :=
  ps.map fun p =>
    let t := step - p.start
    p.stepOn ((s.core c).bankSet p.q.cmd.eng p.q.cmd.bank) t (if t < p.q.cmd.lines then some ((p.q.lineAddrs t).map (s.readSt c)) else none)

/-- The chain after a step that begins at a region cycle (02, R42, R61). -/
def Running.stepped (r : Running) (ps : List PassRun) (at_ : Nat) : Running :=
  let len := (r.passes.map fun p => p.q.stepLen (r.step - p.start)).foldl Nat.max 1
  let chain := match r.passes.getLast? with
    | some p => if p.q.cmd.preskew ∧ r.step + 1 = p.start + p.q.cmd.rowBlocks then some (p.q.a + (p.q.cmd.rowBlocks * p.q.cmd.lstride : Nat), at_)
                else if r.step + 1 < p.start + p.q.cmd.rowBlocks then r.chain else none
    | none => none
  { r with passes := ps, step := r.step + 1, stepAt := at_ + len, chain := chain }

/-- The count at which the region cycle `cyc` of a core came. -/
def State.countOf (s : State) (c : CoreId) (cyc : Nat) : Count := s.now - 1000 * (s.cycles c - cyc) / opMHz s.op.cur

/-- Region cycles up to which the engines of a core have run: those of now, or in Fault-stop those of the stop (13, R290). -/
def State.engineCyc (s : State) (n : Nat) (c : CoreId) : Nat :=
  if (s.part n).st = .faultStop then Nat.min (s.cycles c) ((s.part n).stopCyc.getD (regionOf c) 0) else s.cycles c

/-- The engine freezes (02, R43): its next step begins no earlier than now. -/
def State.freeze (s : State) (n : Nat) (c : CoreId) (u : Nat) (r : Running) : State :=
  s.updCore c fun k => { k with run := Tab.put k.run u { r with stepAt := Nat.max r.stepAt (s.engineCyc n c) } }

/-! ### Reads of accumulator sets (02, R53, R54) -/

/-- A running vector command begins its read of the next set at a region cycle, or when its read before that one is done: the later of the two. A wait for the
set's write is time that the command takes longer. One whose effect is owed keeps what it reads. None when no set is left or the next one is still to be
written. -/
def Core.readNext (k : Core) (at_ : Nat) (r : Running) : Option (Running × Nat) :=
  match r.reads.find? fun e => e.2.isNone with
  | some (set, _) =>
    if k.setPending r.q set then none
    else
      let start := Nat.max r.readAt at_
      let reads := (r.reads.takeWhile fun e => e.2.isSome) ++ (set, some (start + 2)) :: (r.reads.dropWhile fun e => e.2.isSome).drop 1
      some ({ r with reads := reads, readAt := start + 2, cycles := r.cycles + (start - r.readAt),
                     got := if r.owed then Tab.put r.got set (Tab.get AccSet.blank k.accs set) else r.got }, start - r.readAt)
  | none => none

/-- The running vector command's reads go on as far as the sets are written; what it waited for them is UPSTREAM time (01, R22; 02, R53). -/
def State.takeReads (s : State) (c : CoreId) (at_ : Nat) : Nat → State
  | 0 => s
  | fuel + 1 =>
    match Tab.find (s.core c).run 4 with
    | some r => match (s.core c).readNext at_ r with
      | some (r, wait) => (s.updCore c fun k => { k with run := Tab.put k.run 4 r }.addLost 7 (1000000 * wait / opMHz s.op.cur)).takeReads c at_ fuel
      | none => s
    | none => s

/-- A vector command whose effect is owed has read the last of its sets: the effect, with the sets as it read them (02, R53; log 26). -/
def State.settle (s : State) (n : Nat) (c : CoreId) : State :=
  match Tab.find (s.core c).run 4 with
  | some r =>
    if r.owed ∧ r.reads.all fun e => e.2.isSome then
      let e := (s.updCore c fun k => { k with accs := r.got.foldl (fun m a => Tab.put m a.1 a.2) k.accs }).vectorEffect c r.q
      let s := s.updCore c fun k => { k with run := Tab.put k.run 4 { r with owed := false, got := [] } }
      let s := if (s.part n).st = .run then s.checkCommand n c 2 r.q e else s
      if (s.part n).st = .run then s.applyEffect n c r.q.gen e else s
    else s
  | none => s

/-- Reads that the running vector command has done clear the bits of their sets (02, R53). -/
def Core.readsDone (k : Core) (now : Nat) : Core :=
  match Tab.find k.run 4 with
  | some r =>
    let past (e : Nat × Option Nat) : Bool := match e.2 with | some t => decide (t ≤ now) | none => false
    let done := (r.reads.filter past).map (·.1)
    if done.isEmpty then k
    else { k with rpend := dropSets k.rpend done, run := Tab.put k.run 4 { r with reads := r.reads.filter fun e => !past e } }
  | none => k

/-! ### The engines go on -/

/-- A step that reads a poisoned line, with the stream offset of its pass (05, R117). -/
def State.poisonedLine (s : State) (c : CoreId) (r : Running) : Option (Nat × Int) :=
  r.passes.findSome? fun p =>
    let t := r.step - p.start
    if t < p.q.cmd.lines then (s.poisonedAt c (p.q.lineAddrs t)).map fun a => (p.q.idx, a) else none

/-- One step of a chain at a region cycle: its lines are read, and assay mode follows them. A poisoned one stops the partition (05, R117); an engine that has
been stopped takes no such step. -/
def State.oneStep (s : State) (n : Nat) (c : CoreId) (eng : Nat) (r : Running) (at_ : Nat) : State × Bool :=
  match s.poisonedLine c r with
  | some (idx, a) =>
    (if (s.part n).st = .run then s.faultStop n { code := cUNCORRECTED, core := some c, queue := eng, cmd := idx, addr := (a / 16 * 16).toNat } else s, false)
  | none =>
    let s := if (s.part n).st = .run then
        r.passes.foldl (fun s p => if r.step - p.start < p.q.cmd.lines then s.assayLine n c p.q (r.step - p.start) else s) s
      else s
    let t := s.countOf c at_
    (s.updCore c fun k =>
      let k := (k.endStall (5 + eng) t).endWait (10 + eng) 7 t
      { k with run := Tab.put k.run (2 * eng) (r.stepped (s.takeStep c r.step r.passes) at_) }, true)

/-- The steps of one engine up to the present cycle, at most `fuel` of them. A missing line freezes the whole chain and counts as a stall on its slot (04,
R108). -/
def State.runSteps (s : State) (n : Nat) (c : CoreId) (eng : Nat) : Nat → State
  | 0 => s
  | fuel + 1 =>
    match Tab.find (s.core c).run (2 * eng) with
    | none => s
    | some r =>
      if s.engineCyc n c < r.stepAt ∨ r.passes.isEmpty then s
      else
        let (s, ps) := s.writeSets n c r.step r.passes
        let r := { r with passes := ps }
        let s := s.updCore c fun k => { k with run := Tab.put k.run (2 * eng) r }
        let s := (s.takeReads c r.stepAt 128).settle n c
        let k := s.core c
        if ps.isEmpty ∨ k.awaitsJoin eng r then s
        else match k.chainNeed r with
          | .slot slot d =>
            (s.updCore c fun k => k.beginStall (5 + eng) { since := s.countOf c r.stepAt, edges := 0, limit := s.limit n d.timeout, item := slotItem slot, need := 0, kind := 1 }).freeze
              n c (2 * eng) r
          | .read => s.updCore c fun k => k.beginWait (10 + eng) (s.countOf c r.stepAt)
          | .from_ cyc =>
            let at_ := Nat.max r.stepAt cyc
            if s.engineCyc n c < at_ then s
            else
              let (s, more) := s.oneStep n c eng r at_
              if more then s.runSteps n c eng fuel else s

/-- The engines of a core go on to the present cycle. M0 and M1 go on in turn, since a read of the vector engine between them may hold the other. -/
def State.catchUpCore (s : State) (c : CoreId) : State :=
  match s.partOf c with
  | some n =>
    if ((s.part n).st = .run ∨ (s.part n).st = .faultStop) ∧ !(s.core c).run.isEmpty then
      let s := [0, 1, 0, 1].foldl (fun (s : State) eng => s.runSteps n c eng 80) s
      s.setCore c ((s.core c).readsDone (s.engineCyc n c))
    else s
  | none => s

/-- Every engine of the module goes on to the present cycle. -/
def State.catchUp (s : State) : State :=
  (s.cores.filter fun e => !e.2.run.isEmpty).foldl (fun s e => s.catchUpCore (coreOfIx e.1)) s

end Sys2Proof.Machine
end

