-- ==== Sys2Proof/Machine/Sequencer.lean ====
section
/-! DEFINITION. The core sequencer (04, R87-R91, R105-R112): reading a command of the stream, its checks, its predicate and its queue, and the
sequencer's own commands. Each row of the table is the issue of a command of its kind: it takes effect when the core's next command is of
that kind and may issue, and otherwise changes nothing. -/

namespace Sys2Proof.Machine

/-! ### Beat segments (01, R17-R24; 07, R166) -/

/-- Beat edge of the core's segment number `j` (01, R17, R34). -/
def Core.edge (k : Core) (j : Nat) : Int := k.base + (j * k.beatNs : Nat)

/-- The cause with the largest lost time; a tie goes to the lower code (01, R22). -/
def Core.lateCauseOf (k : Core) : Fin 10 :=
  let best := (upFrom 2 8).foldl (fun b c => if Tab.get 0 k.lost b < Tab.get 0 k.lost c then c else b) 1
  ⟨best % 10, Nat.mod_lt _ (by decide)⟩

/-- The grant that follows the BEAT at a stream index (07, R166). -/
def Core.grantAfter (k : Core) (idx : Nat) : Nat :=
  match k.grants.find? fun g => g.mark = idx with
  | some g => g.grant
  | none => k.grant

/-- The core's next segment starts now, which is no later than its edge where the count jumped over it (01, R17). A start after its edge is one LATE_BEAT with the cause of the segment that ended late, or with
HANDOVER for a head segment (01, R22, R35). -/
def State.startSegment (s : State) (n : Nat) (c : CoreId) : State :=
  let k := s.core c
  let late := s.lateBy (k.edge k.segNo)
  let why := if k.segNo < k.headSegs then 9 else k.lateCauseOf
  let k' : Core := { k with segOpen := true, segStart := s.now, segCyc := s.cycles c, lateness := late, lost := [],
                            grant := if 0 < k.pc then k.grantAfter (k.pc - 1) else k.grant }
  let k' := k'.addLost 8 (1000 * late)
  if 0 < late then
    (s.setCore c { k' with lateCount := k.lateCount + 1, lateLast := Nat.min 65535 late, lateCause := why.val }).count (.lateBeat why) (.core c) (some n)
      |>.canInput (canDie c.die.val) 1 1
  else s.setCore c k'

/-- The core may start its next segment: its edge has passed, and it is not the held one (01, R19, R32). -/
def State.segmentDue (s : State) (n : Nat) (c : CoreId) : Bool :=
  let k := s.core c
  let p := s.part n
  let e := k.edge k.segNo
  p.st = .run && k.hasEntry && !k.segOpen && !k.ended && k.handover.isNone && decide (e ≤ (s.now : Int)) &&
    (match p.holdAt with | some h => decide (e < (h : Int)) | none => true)

/-- Clamp of PT_SLACK.SLACK, 24 bits signed (16). -/
def clampSlack (x : Int) : Int := if x < -0x800000 then -0x800000 else if 0x7FFFFF < x then 0x7FFFFF else x

/-- Time lost to a slower operating point in the segment, in ps: what the cycles took beyond their length at the canvas's point and beyond
stretching (01, R22, OPSLOW). -/
def State.opSlow (s : State) (c : CoreId) : Nat :=
  let k := s.core c
  1000 * (s.now - k.segStart) - Tab.get 0 k.lost 1 - 1000000 * (s.cycles c - k.segCyc + 1) / opMHz k.op

/-! ### Reading a command (04, R87; 05, R117) -/

/-- The next command as the sequencer has it: where a store changed a command that may have been read ahead, which of the two it is stays open
(04, R87). -/
def State.nextCmd (s : State) (c : CoreId) : Cmd :=
  let k := s.core c
  match Tab.find k.ahead k.pc with
  | some (m, old) => if Config.readsLate m then s.streamCmd c k.pc else old
  | none => s.streamCmd c k.pc

/-- The core can issue: its partition runs (or has stopped in this tick), its segment is open, and its stream has a command left. -/
def State.canIssue (s : State) (n : Nat) (c : CoreId) : Bool :=
  let k := s.core c
  s.detects n c 4 && k.hasEntry && !k.ended && k.segOpen && decide (k.pc < k.streamLen)

/-- The next command is `row`'s, or none that any row has: then it is refused whichever row tries it (04, R90). -/
def Cmd.isFor (q : Cmd) (row : Cmd → Bool) : Bool :=
  row q || !knownOpcode q.opcode || (q.opcode = 0x10 && (q.vopc = 0 || decide (0x0E < q.vopc)))

/-- Move issue to a stream index; past the last command the core has ended (04, R114). -/
def Core.goTo (k : Core) (i : Nat) : Core := { k with pc := i, ahead := Tab.erase k.ahead k.pc, ended := decide (k.streamLen ≤ i) }

/-- The next command of the stream. -/
def Core.next (k : Core) : Core := k.goTo (k.pc + 1)

/-- The predicate lets the command act (04, R89, R110). -/
def Core.predicate (k : Core) (q : Cmd) : Bool := !q.pen || (k.preds.getLsbD q.pidx != q.pneg)

/-- A stop of the command at issue (04, R90): the record names the engine queue of an engine command, 4 for the sequencer (log 19). -/
def State.refuse (s : State) (n : Nat) (c : CoreId) (q : Cmd) (sub : Nat) : State :=
  s.faultStop n { code := cREFUSED, sub := sub, core := some c, queue := q.queue, cmd := (s.core c).pc }

/-- A SET of the core's own flag that would act in the tick in which an overflow of that flag has stopped the partition: it counts in COUNTED, once (04,
R106). `q`: its queue, 4 the sequencer. -/
def State.lateSet (s : State) (n : Nat) (c : CoreId) (q gen : Nat) (x : Cmd) : State :=
  let ok : Bool := x.opcode = 0x38 && x.setRoute = 0 && (s.core c).flagOk (roleTag gen x.role) x.setFlag && s.overflowing n c x.setFlag
  if ok then (s.lateIncrement n c x.setFlag true).updPart n fun p => { p with raised := (c.ix, q) :: p.raised } else s

/-- The issue of the core's next command when it is one of a row (04, R87-R91, R110): not before its offset; checked; skipped when its
predicate says so; otherwise it acts. `ecc` is what the reading of its 32 bytes found (05, R117). -/
def State.issueRow (s : State) (c : CoreId) (ecc : List EccAt) (row : Cmd → Bool) (act : State → Nat → Cmd → State) : State :=
  match s.partOf c with
  | none => s
  | some n =>
    if s.canIssue n c then
      let k := s.core c
      let a : Int := ((k.streamBase + 32 * k.pc : Nat) : Int)
      match s.poisonedAt c ((upFrom 0 32).map fun (i : Nat) => a + (i : Int)) with
      | some x => s.faultStop n { code := cUNCORRECTED, core := some c, queue := 4, cmd := k.pc, addr := (x / 16 * 16).toNat }
      | none =>
        let q := s.nextCmd c
        if !q.isFor row ∨ s.cycles c < k.segCyc + q.notBefore then s
        else
        let s := s.readErrors n c 4 k.pc ((upFrom 0 32).map fun (i : Nat) => a + (i : Int)) true ecc
        if !s.detects n c 4 then s
        else match q.check k c.core.val (s.ownsClu n) with
          | some sub => s.refuse n c q sub
          | none =>
            if (s.part n).st ≠ .run then (if k.predicate q ∧ q.queue = 4 then s.lateSet n c 4 k.gen q else s)
            else if k.predicate q then act s n q
            else (s.setCore c k.next).count .skipped (.core c) (some n)
    else s

/-! ### Engine queues (04, R88) -/

/-- Add `d` to the counts of some sets. -/
def bumpSets (m : Tab Nat) (l : List Nat) : Tab Nat := l.foldl (fun m i => Tab.put m i (Tab.get 0 m i + 1)) m

/-- Issue into a queue: the command takes its addresses with the scalars added (R91) and sets the pending bits of accumulator sets (02, R53). A
full queue stalls the sequencer, timed as UPSTREAM (01, R22). -/
def State.enqueue (s : State) (n : Nat) (c : CoreId) (q : Nat) (x : Cmd) : State :=
  let k := s.core c
  if (k.queue q).length < queueDepth q then
    let y : QCmd := { k.queued x with cyc := s.cycles c, vc := if s.assayEn n then s.threadClock (threadKey c 4) else [] }
    let k := k.endWait 4 7 s.now
    s.setCore c ({ k with queues := Tab.put k.queues q (k.queue q ++ [y]), issued := k.issued + 1, wpend := bumpSets k.wpend x.writesSets,
                          rpend := bumpSets k.rpend y.readsSets }).next
  else s.setCore c (k.beginWait 4 s.now)

/-- Issue of an engine command of a row. -/
def State.issueEngine (s : State) (c : CoreId) (ecc : List EccAt) (row : Cmd → Bool) : State :=
  s.issueRow c ecc row fun s n q => s.enqueue n c q.queue q

/-- A VOP of an operation. -/
def isVop (v : Nat) (q : Cmd) : Bool := q.opcode = 0x10 && q.vopc = v

/-- MPASS (02, R42; 04, R94). -/
def execMpass (r : IssueRead) (s : State) : Res := .next (s.issueEngine r.core r.ecc fun q => q.opcode = 0x01)
/-- WLOAD (02, R47; 04, R94). -/
def execWload (r : IssueRead) (s : State) : Res := .next (s.issueEngine r.core r.ecc fun q => q.opcode = 0x02)
/-- ADD: a VOP with VOPC 0x01 (04, R95). -/
def execAdd (r : IssueRead) (s : State) : Res := .next (s.issueEngine r.core r.ecc (isVop 0x01))
/-- SUB: a VOP with VOPC 0x02. -/
def execSub (r : IssueRead) (s : State) : Res := .next (s.issueEngine r.core r.ecc (isVop 0x02))
/-- MUL: a VOP with VOPC 0x03. -/
def execMul (r : IssueRead) (s : State) : Res := .next (s.issueEngine r.core r.ecc (isVop 0x03))
/-- FMA: a VOP with VOPC 0x04. -/
def execFma (r : IssueRead) (s : State) : Res := .next (s.issueEngine r.core r.ecc (isVop 0x04))
/-- DIV: a VOP with VOPC 0x05. -/
def execDiv (r : IssueRead) (s : State) : Res := .next (s.issueEngine r.core r.ecc (isVop 0x05))
/-- SQRT: a VOP with VOPC 0x06. -/
def execSqrt (r : IssueRead) (s : State) : Res := .next (s.issueEngine r.core r.ecc (isVop 0x06))
/-- MIN: a VOP with VOPC 0x07. -/
def execMin (r : IssueRead) (s : State) : Res := .next (s.issueEngine r.core r.ecc (isVop 0x07))
/-- MAX: a VOP with VOPC 0x08. -/
def execMax (r : IssueRead) (s : State) : Res := .next (s.issueEngine r.core r.ecc (isVop 0x08))
/-- NEG: a VOP with VOPC 0x09. -/
def execNeg (r : IssueRead) (s : State) : Res := .next (s.issueEngine r.core r.ecc (isVop 0x09))
/-- ABS: a VOP with VOPC 0x0A. -/
def execAbs (r : IssueRead) (s : State) : Res := .next (s.issueEngine r.core r.ecc (isVop 0x0A))
/-- CONV: a VOP with VOPC 0x0B. -/
def execConv (r : IssueRead) (s : State) : Res := .next (s.issueEngine r.core r.ecc (isVop 0x0B))
/-- RSUM: a VOP with VOPC 0x0C. -/
def execRsum (r : IssueRead) (s : State) : Res := .next (s.issueEngine r.core r.ecc (isVop 0x0C))
/-- RMAX: a VOP with VOPC 0x0D. -/
def execRmax (r : IssueRead) (s : State) : Res := .next (s.issueEngine r.core r.ecc (isVop 0x0D))
/-- EXP2: a VOP with VOPC 0x0E. -/
def execExp2 (r : IssueRead) (s : State) : Res := .next (s.issueEngine r.core r.ecc (isVop 0x0E))
/-- VCOMB (04, R96). -/
def execVcomb (r : IssueRead) (s : State) : Res := .next (s.issueEngine r.core r.ecc fun q => q.opcode = 0x12)
/-- MOVE (04, R97). -/
def execMove (r : IssueRead) (s : State) : Res := .next (s.issueEngine r.core r.ecc fun q => q.opcode = 0x20)
/-- SPLIT (04, R98). -/
def execSplit (r : IssueRead) (s : State) : Res := .next (s.issueEngine r.core r.ecc fun q => q.opcode = 0x21)
/-- GATHER (04, R100). -/
def execGather (r : IssueRead) (s : State) : Res := .next (s.issueEngine r.core r.ecc fun q => q.opcode = 0x22)
/-- SCATTER (04, R100). -/
def execScatter (r : IssueRead) (s : State) : Res := .next (s.issueEngine r.core r.ecc fun q => q.opcode = 0x23)
/-- FETCH (04, R101, R102). -/
def execFetch (r : IssueRead) (s : State) : Res := .next (s.issueEngine r.core r.ecc fun q => q.opcode = 0x28)
/-- STORE (04, R101, R102). -/
def execStore (r : IssueRead) (s : State) : Res := .next (s.issueEngine r.core r.ecc fun q => q.opcode = 0x29)

/-- SEND (04, R104). On a shaft it does not issue before its port has switched to the canvas's calendar (01, R36). -/
def execSend (r : IssueRead) (s : State) : Res :=
  .next (s.issueRow r.core r.ecc (fun q => q.opcode = 0x30) fun s n q =>
    let k := s.core r.core
    let blocked : Bool := q.sendRoute = 1 &&
      (match k.sends[q.shaftIx]? with
       | some (p, shaft) => !s.calendarHas n p shaft k.gen
       | none => false)
    if blocked then s.setCore r.core (k.beginWait 4 s.now) else s.enqueue n r.core 3 q)

/-! ### SET, WAIT and RECV (04, R105, R107): into a queue, or at once with QUEUE 4 -/

/-- A command that acts in the sequencer: it goes on when it has acted, and holds all later issue until then. -/
def State.actHere (s : State) (n : Nat) (c : CoreId) (q : Cmd) (a : Attempt) : State :=
  match a with
  | .done t =>
    let k := (t.core c).endFull 4
    t.setCore c ((k.endWait 4 7 t.now).endStall 4 t.now).next
  | .stall limit item need kind => s.updCore c fun k => k.beginStall 4 { since := s.now, edges := 0, limit := limit, item := item, need := need, kind := kind }
  | .hold =>
    let s := match s.fullPort c (s.core c).gen q with
      | some p => s.noteReplayFull n p c 4
      | none => s
    s.updCore c fun k => k.beginWait 4 s.now
  | .stop t => t

/-- Issue of a SET, WAIT or RECV. -/
def State.issueFlow (s : State) (c : CoreId) (ecc : List EccAt) (row : Cmd → Bool) (here : State → Nat → Cmd → Attempt) : State :=
  s.issueRow c ecc row fun s n q => if q.queue < 4 then s.enqueue n c q.queue q else s.actHere n c q (here s n q)

/-- RECV in ACQUIRE mode (04, R105). -/
def execRecvAcquire (r : IssueRead) (s : State) : Res :=
  .next (s.issueFlow r.core r.ecc (fun q => q.opcode = 0x31 && !q.recvRelease) fun s n q => s.tryAcquire n r.core 4 (s.core r.core).gen q)

/-- RECV in RELEASE mode (04, R105). -/
def execRecvRelease (r : IssueRead) (s : State) : Res :=
  .next (s.issueFlow r.core r.ecc (fun q => q.opcode = 0x31 && q.recvRelease) fun s n q => .done (s.catchUp.release n r.core 4 (s.core r.core).gen q.recvSlot))

/-- SET (04, R107). -/
def execSet (r : IssueRead) (s : State) : Res :=
  .next (s.issueFlow r.core r.ecc (fun q => q.opcode = 0x38) fun s n q => s.trySet n r.core 4 (s.core r.core).gen (s.core r.core).pc q)

/-- WAIT (04, R107). -/
def execWait (r : IssueRead) (s : State) : Res := .next (s.issueFlow r.core r.ecc (fun q => q.opcode = 0x39) fun s n q => s.tryWait n r.core 4 q)

/-! ### LOOP and ENDLOOP (04, R109) -/

/-- Stream index after the ENDLOOP that matches a LOOP, the stream's length where there is none: `depth` loops are open from `i` on, and
`left` commands are left. -/
def State.afterEndloop (s : State) (c : CoreId) : Nat → Nat → Nat → Nat
  | 0, i, _ => i
  | left + 1, i, depth =>
    let o := (s.streamCmd c i).opcode
    if o = 0x41 then (if depth = 0 then i + 1 else s.afterEndloop c left (i + 1) (depth - 1))
    else s.afterEndloop c left (i + 1) (if o = 0x40 then depth + 1 else depth)

/-- LOOP: latches its count; zero moves issue past the matching ENDLOOP (04, R109). -/
def State.loop (s : State) (c : CoreId) (q : Cmd) : State :=
  let k := s.core c
  let count := if wb q.w0 22 then (k.scalar (wf q.w0 21 18)).toNat else wf q.w1 63 48
  if count = 0 then s.setCore c (k.goTo (s.afterEndloop c (k.streamLen - (k.pc + 1)) (k.pc + 1) 0))
  else s.setCore c ({ k with loops := { body := k.pc + 1, left := count } :: k.loops }).next

/-- LOOP. -/
def execLoop (r : IssueRead) (s : State) : Res := .next (s.issueRow r.core r.ecc (fun q => q.opcode = 0x40) fun s _ q => s.loop r.core q)

/-- ENDLOOP: back to the command after LOOP until the count is spent (04, R109). -/
def State.endloop (s : State) (c : CoreId) : State :=
  let k := s.core c
  match k.loops with
  | [] => s
  | f :: fs => if 1 < f.left then s.setCore c (Core.goTo { k with loops := { f with left := f.left - 1 } :: fs } f.body)
               else s.setCore c ({ k with loops := fs }).next

/-- ENDLOOP. -/
def execEndloop (r : IssueRead) (s : State) : Res := .next (s.issueRow r.core r.ecc (fun q => q.opcode = 0x41) fun s _ _ => s.endloop r.core)

/-! ### PSET, SSET and PACE (04, R109-R111) -/

/-- Depth of a queue, 4 the sequencer's local one. How far the sequencer has read ahead is open, up to 32 and to the end of the stream: a free
value (log 7). -/
def State.depth (s : State) (c : CoreId) (q : Nat) : Nat :=
  let k := s.core c
  if q < 4 then (k.queue q).length
  else Nat.min (Nat.min (Config.localDepth s.fresh) 32) (k.streamLen - (k.pc + 1))

/-- PSET's comparison: 0 EQ, 1 NE, 2 LT, 3 GE, unsigned (04, R109). -/
def compare (cmp x imm : Nat) : Bool :=
  match cmp with
  | 0 => x = imm
  | 1 => x ≠ imm
  | 2 => decide (x < imm)
  | _ => decide (imm ≤ x)

/-- A read of the local queue's depth takes a fresh free value. -/
def State.freshIf (s : State) (b : Bool) : State := if b then { s with fresh := s.fresh + 1 } else s

/-- PSET (04, R109, "Set sources"). -/
def State.pset (s : State) (c : CoreId) (q : Cmd) : State :=
  let k := s.core c
  let imm := wf q.w1 63 32
  let cmp := wf q.w0 2 0
  let src := wf q.w0 18 16
  let ix := wf q.w0 15 12
  let qu := wf q.w0 5 3
  let b := match src with
    | 0 => bit imm 0
    | 1 => compare cmp (k.scalar ix).toNat imm
    | 2 => compare cmp (k.flag (wf q.w0 11 6)) imm
    | 3 => compare cmp (s.depth c qu) imm
    | _ => k.fpstat.getLsbD ix
  let d := wf q.w0 22 19
  let mask : BitVec 16 := 1 <<< d
  (s.setCore c ({ k with preds := if b then k.preds ||| mask else k.preds &&& ~~~mask }).next).freshIf (src = 3 && qu = 4)

/-- PSET. -/
def execPset (r : IssueRead) (s : State) : Res := .next (s.issueRow r.core r.ecc (fun q => q.opcode = 0x48) fun s _ q => s.pset r.core q)

/-- SSET (04, R109, "Set sources"). -/
def State.sset (s : State) (c : CoreId) (q : Cmd) : State :=
  let k := s.core c
  let imm : W32 := BitVec.ofNat 32 (wf q.w1 63 32)
  let src := wf q.w0 18 16
  let ix := wf q.w0 15 12
  let qu := wf q.w0 5 3
  let d := wf q.w0 22 19
  let v := match src with
    | 0 => imm
    | 1 => k.scalar ix + imm
    | 2 => BitVec.ofNat 32 (k.flag (wf q.w0 11 6))
    | 3 => BitVec.ofNat 32 (s.depth c qu)
    | 4 => k.scalar ix
    | _ => k.scalar d + k.scalar ix
  (s.setCore c ({ k with sc := Tab.put k.sc d v }).next).freshIf (src = 3 && qu = 4)

/-- SSET. -/
def execSset (r : IssueRead) (s : State) : Res := .next (s.issueRow r.core r.ecc (fun q => q.opcode = 0x49) fun s _ q => s.sset r.core q)

/-- PACE holds all later issue until the queue's depth is at or below THRESH (04, R111). -/
def State.pace (s : State) (c : CoreId) (q : Cmd) : State :=
  let k := s.core c
  if (k.queue (wf q.w0 22 20)).length ≤ wf q.w0 19 12 then s.setCore c (k.endWait 4 7 s.now).next
  else s.setCore c (k.beginWait 4 s.now)

/-- PACE. -/
def execPace (r : IssueRead) (s : State) : Res := .next (s.issueRow r.core r.ecc (fun q => q.opcode = 0x51) fun s _ q => s.pace r.core q)

/-! ### BEAT (01, R20-R24; 04, R112) -/

/-- Every engine queue is empty and every engine idle (04, R112). -/
def Core.idle (k : Core) : Bool := k.queues.all (fun e => e.2.isEmpty) && k.run.isEmpty

/-- The stream index of the last BEAT in each generation (13, R293). -/
def Core.noteBeat (k : Core) (p : Part) : Core :=
  if !p.overlap then { k with beatOld := some k.pc, beatNew := some k.pc }
  else if k.gen = p.gen then { k with beatOld := some k.pc }
  else { k with beatNew := some k.pc }

/-- A BEAT mark ends the segment: its margin to the next edge is taken into the partition's slack, and the next segment starts at once when its
edge has passed (01, R19-R24). -/
def State.beat (s : State) (n : Nat) (c : CoreId) : State :=
  let k := s.core c
  if !k.idle then s
  else
    let margin := k.edge (k.segNo + 1) - (s.now : Int)
    let k := (k.addLost 6 (s.opSlow c)).noteBeat (s.part n)
    let s := s.setCore c ({ k with segNo := k.segNo + 1, segOpen := false }).next
    let s := s.updPart n fun p => { p with slack := if margin < p.slack then clampSlack margin else p.slack }
    let s := s.beatClock n c
    if s.segmentDue n c then s.startSegment n c else s

/-- BEAT. -/
def execBeat (r : IssueRead) (s : State) : Res := .next (s.issueRow r.core r.ecc (fun q => q.opcode = 0x50) fun s n _ => s.beat n r.core)

end Sys2Proof.Machine
end

