-- ==== Sys2Proof/Machine/Engine.lean ====
section
/-! DEFINITION. The engines of a core (02, R42-R62; 04, R87, R88; 07, R163-R170): how the head of an engine queue starts, what it waits for, the
lamps it draws, its completion, and the timeout of stalls (04, R108). The effect of any command but a pass takes place at its start; a pass goes on step
by step (Machine/Passes.lean). -/

namespace Sys2Proof.Machine

/-! ### Units -/

/-- Unit of a command: 0 M0 compute, 1 M0 load, 2 M1 compute, 3 M1 load, 4 V, 5 X (02, R49). -/
def Cmd.unit (q : Cmd) : Nat :=
  match q.opcode with
  | 0x01 => 2 * q.eng
  | 0x02 => 2 * q.eng + 1
  | 0x10 | 0x12 => 4
  | _ => 5

/-- Units that run commands of a queue. -/
def unitsOf : Nat → List Nat
  | 0 => [0, 1] | 1 => [2, 3] | 2 => [4] | _ => [5]

/-- Queue whose commands a unit runs. -/
def queueOfUnit : Nat → Nat
  | 0 | 1 => 0 | 2 | 3 => 1 | 4 => 2 | _ => 3

/-! ### Lamps (07, R164-R170) -/

/-- A partition's holding on a die changed at a tick: the history of the last 100 ticks is kept (07, R168). -/
def Part.setHeld (p : Part) (d v : Nat) (now : Count) : Part :=
  let h := (Tab.get [] p.lampHist d).filter fun e => e.1 ≠ now
  let recent := h.filter fun e => decide (now < e.1 + 101)
  let older := h.filter fun e => !decide (now < e.1 + 101)
  { p with lampHeld := Tab.write 0 p.lampHeld d v, lampHist := Tab.put p.lampHist d ((now, v) :: recent ++ older.take 1) }

/-- Least D(s) for s from t − 100 to t − 1 (07, R168). -/
def Part.leastHeld (p : Part) (d : Nat) (now : Count) : Nat :=
  let h := Tab.get [] p.lampHist d
  let inside := h.filter fun e => decide (now < e.1 + 100) && decide (e.1 < now)
  let start := match h.find? fun e => decide (e.1 + 100 ≤ now) with | some e => e.2 | none => 0
  leastOf start (start :: inside.map (·.2))

/-- Lamps that a unit keeps from the command that completed in the cycle before (07, R164): the head of its queue may still be started with them. -/
def State.keptBy (s : State) (c : CoreId) (u : Nat) : Nat :=
  let k := s.core c
  match Tab.find k.kept u, k.queue (queueOfUnit u) with
  | some (l, cyc, _), y :: _ => if s.cycles c ≤ cyc + 1 ∧ y.cmd.unit = u then Nat.min l y.cmd.lamps else 0
  | _, _ => 0

/-- Lamps kept by the units of a core, but for one of them. -/
def State.keptByCore (s : State) (c : CoreId) (but : Nat) : Nat :=
  (((upFrom 0 6).filter fun u => u ≠ but).map (s.keptBy c)).foldl (· + ·) 0

/-- Lamps kept by every other unit of a partition on a die. -/
def State.keptByOthers (s : State) (n : Nat) (c : CoreId) (u : Nat) : Nat :=
  (((s.coresOf n).filter fun x => x.die = c.die).map fun x => s.keptByCore x (if x = c then u else 6)).foldl (· + ·) 0

/-- The holding's history as it is when a unit keeps lamps over a completion: they did not leave it (07, R164). -/
def Part.keepLamps (p : Part) (d lamps : Nat) (since : Count) : Part :=
  if lamps = 0 then p
  else { p with lampHist := Tab.put p.lampHist d ((Tab.get [] p.lampHist d).map fun e => if since ≤ e.1 then (e.1, e.2 + lamps) else e) }

/-- The partition as a draw of a unit sees it. -/
def State.drawView (s : State) (n : Nat) (c : CoreId) (u : Nat) : Part :=
  let p := s.part n
  match Tab.find (s.core c).kept u with
  | some (_, _, t) => p.keepLamps c.die.val (s.keptBy c u) t
  | none => p

/-- The three conditions of R168 for a draw of a unit, which draws only what it does not keep (07, R164). -/
def State.lampsFit (s : State) (n : Nat) (c : CoreId) (u cost : Nat) : Bool :=
  let d := c.die.val
  let k := s.core c
  let v := (s.part n).heldOn d + cost + s.keptByOthers n c u
  decide (k.held + cost + s.keptByCore c u ≤ k.grant) &&
    (decide (cost ≤ s.keptBy c u) || (decide (v ≤ cf s .ptLamp n d 10 0) && decide (v ≤ (s.drawView n c u).leastHeld d s.now + cf s .ptLamp n d 22 16)))

/-- Lamps drawn by a core for a unit. -/
def State.drawLamps (s : State) (n : Nat) (c : CoreId) (u cost : Nat) : State :=
  let d := c.die.val
  let s := s.setPart n (s.drawView n c u)
  let s : State := { s with lampRoom := Tab.write 0 s.lampRoom d (s.drawn d + cost) }
  let s := s.updPart n fun p => p.setHeld d (p.heldOn d + cost) s.now
  s.updCore c fun k => { k with held := k.held + cost, kept := Tab.erase k.kept u }

/-- Lamps returned by a core. -/
def State.returnLamps (s : State) (n : Nat) (c : CoreId) (cost : Nat) : State :=
  let d := c.die.val
  let s : State := { s with lampRoom := Tab.write 0 s.lampRoom d (s.drawn d - cost) }
  let s := s.updPart n fun p => p.setHeld d (p.heldOn d - cost) s.now
  s.updCore c fun k => { k with held := k.held - cost }

/-- Place of an engine in the rotation of its partition on its die: cores in logical order from the one whose turn it is, M0, M1, V, X within a
core (07, R169). -/
def rotationPlace (turn : Nat) (c : CoreId) (q : Nat) : Nat := 4 * ((c.ix + 528 - turn % 528) % 528) + q

/-- Another engine of the partition on the die waits for lamps, is earlier in the rotation, and its draw fits (07, R169). -/
def State.passedOver (s : State) (n : Nat) (c : CoreId) (q : Nat) : Bool :=
  let turn := Tab.get 0 (s.part n).lampTurn c.die.val
  let me := rotationPlace turn c q
  (s.coresOf n).any fun x => x.die = c.die && (upFrom 0 4).any fun r =>
    (Tab.find (s.core x).lampWait r).isSome && decide (rotationPlace turn x r < me) &&
      (match (s.core x).queue r with | y :: _ => s.lampsFit n x y.cmd.unit y.cmd.lamps | [] => false)

/-- A draw was served: the rotation passes on to the next core. -/
def State.turnOn (s : State) (n : Nat) (c : CoreId) : State :=
  s.updPart n fun p => { p with lampTurn := Tab.put p.lampTurn c.die.val ((c.ix + 1) % 528) }

/-! ### Effects by command -/

/-- The effect of an engine command in a state. FETCH, STORE and SEND only read here. -/
def State.effectOf (s : State) (c : CoreId) (x : QCmd) : Effect :=
  let q := x.cmd
  match q.opcode with
  | 0x01 => x.passEffect
  | 0x02 => s.loadEffect c x
  | 0x10 => s.vopEffect c x
  | 0x12 => s.vcombEffect c x
  | 0x20 => s.moveEffect c x
  | 0x21 => s.splitEffect c x
  | 0x22 => s.rowsEffect c x true
  | 0x23 => s.rowsEffect c x false
  | 0x28 => { reads := q.stencilReads, counts := [(.stencilClip, s.memClips c q)] }
  | 0x29 =>
    let used := ((s.memSides c x).filter fun (p : Int × Option Int) => p.2.isSome).map (·.1)
    { reads := q.stencilReads ++ used, counts := [(.stencilClip, s.memClips c q)] }
  | 0x30 => { reads := s.sendAddrs c x }
  | _ => {}

/-- An object reached through a handle, when the handle is current and permits the direction (05, R138, R139). -/
def State.objectOf (s : State) (n handle : Nat) (store : Bool) : Option GalObj :=
  let p := s.part n
  let i := handle % 4096
  match Tab.find p.gal i with
  | some o => if !o.closed ∧ Tab.get 0 p.galTags i = handle / 4096 ∧ s.now < o.expiry ∧ (if store then o.wr else o.rd) then some o else none
  | none => none

/-- Bytes of an object. -/
def GalObj.size (o : GalObj) : Nat := 4096 * o.pages

/-- What a FETCH or STORE breaks on its memory side (05, R125, R138; 06, R154). -/
def State.memFault (s : State) (n : Nat) (c : CoreId) (x : QCmd) : Option Cause :=
  let q := x.cmd
  let mem := (s.memSides c x).filterMap fun (p : Int × Option Int) => p.2
  let bad (a : Int) : Cause := { code := cBOUNDS, core := some c, queue := 3, cmd := x.idx, addr := (a % 2 ^ 40).toNat,
                                 counted := if q.gallery then q.handle else 0 }
  let limit : Option Nat :=
    if q.gallery then (s.objectOf n q.handle (q.opcode = 0x29)).map GalObj.size else some (s.regionSize n)
  match limit with
  | none => some (bad x.a)
  | some l => (mem.find? fun a => decide (a < 0) || decide ((l : Int) ≤ a) || (!q.gallery && s.inShadow n a.toNat)).map bad

/-- The first store address of a command that breaks R92. -/
def State.storeFault (s : State) (c : CoreId) (x : QCmd) (e : Effect) : Option Int :=
  let okRead (a : Int) : Bool := storeOk a || (e.accOk && (match spotOf a with | .acc _ _ _ _ => true | _ => false))
  match e.reads.find? fun a => !okRead a with
  | some a => some a
  | none => match e.writes.find? fun w => !storeOk w.1 with
    | some w => some w.1
    | none => if x.cmd.opcode = 0x28 then ((s.memSides c x).find? fun (p : Int × Option Int) => !storeOk p.1).map (·.1) else none

/-! ### Interlocks between engines (02, R50, R53) -/

/-- The bank rule of R50: a pass waits for a load under way into its bank set, a load for a pass under way that reads its bank set. -/
def Core.bankBusy (k : Core) (q : Cmd) : Bool :=
  match q.opcode with
  | 0x01 => match Tab.find k.run (2 * q.eng + 1) with | some r => r.q.cmd.bank = q.bank | none => false
  | 0x02 => match Tab.find k.run (2 * q.eng) with | some r => r.passes.any fun p => p.q.cmd.bank = q.bank | none => false
  | _ => false

/-- The head of a queue leaves it. -/
def Core.pop (k : Core) (q : Nat) : Core := { k with queues := Tab.put k.queues q ((k.queue q).drop 1) }

/-- The old generation is retired: no command of it is left on the core, nor a pass in a chain that one of the new generation has joined (01, R37). What is
still on its way to its landing lists is STRAY, and its credits return by them (04, R115; 09, R217). -/
def Core.retireOld (k : Core) : Core :=
  match k.old with
  | some o =>
    if k.queues.any (fun e => e.2.any fun x => x.gen = o.gen) || k.run.any (fun e => e.2.q.gen = o.gen || e.2.passes.any fun p => p.q.gen = o.gen) then k
    else { k with old := none, gone := some o, slotSt := k.slotSt.filter fun e => decide (e.1 / 64 ≠ o.gen) }
  | none => k

/-- Bank sets that the head has not loaded are undefined from the handover on (02, R50): each takes a fresh mark. -/
def State.forgetBanks (s : State) (c : CoreId) : State :=
  let k := s.core c
  let gone := (upFrom 0 8).filter fun i => !k.headBanks.contains i
  let f := s.fresh
  let s : State := { s with fresh := f + 9 }
  s.setCore c { k with banks := gone.foldl (fun m i => Tab.put m i (.undefined (f + 1 + i))) k.banks }

/-- Every core of the partition has retired the old generation: its ports drop their old tables (01, R37, R38). -/
def State.allRetired (s : State) (n : Nat) : Bool :=
  (s.coresOf n).all fun c => decide ((s.core c).gen = (s.part n).genNew) && (s.core c).old.isNone

/-- Local flits of the generation that a partition leaves still wait at some port (01, R38). -/
def State.oldFlitsWait (s : State) (n : Nat) : Bool :=
  s.ports.any fun (e : Nat × FPort) => e.2.shaftq.any fun f => decide (f.pt = n) && decide (f.gen = (s.part n).gen % 64)

/-- The handover is over once every core has retired the old generation, every port has switched, and no local flit of the old generation waits at one: the new
canvas is the partition's (01, R37, R38). -/
def State.endOverlap (s : State) (n : Nat) : State :=
  let p := s.part n
  let moved := (p.claims ++ p.nextClaims).all fun c => (s.port c.port).switched.any fun w => w.1 = n
  if p.overlap ∧ moved ∧ s.allRetired n ∧ !s.oldFlitsWait n then
    let s := s.setPart n { p with
      overlap := false, gen := p.genNew, canvas := p.nextCanvas, nextCanvas := none, claims := p.nextClaims, nextClaims := [], switchAt := none }
    { s with ports := s.ports.map fun (e : Nat × FPort) => (e.1, { e.2 with switched := e.2.switched.filter fun w => w.1 ≠ n }) }
  else s

/-- A core that has no command of the old generation left retires it (01, R37). -/
def State.retire (s : State) (n : Nat) (c : CoreId) : State :=
  let k := s.core c
  match k.old, k.retireOld.old with
  | some _, none => ((s.setCore c k.retireOld).forgetBanks c).endOverlap n
  | _, _ => s

/-- Some set that a vector command reads is still to be written when it starts (02, R53). -/
def Core.owesReads (k : Core) (x : QCmd) : Bool := x.readsSets.any (k.setPending x)

/-- The pass at the head of the engine's queue cannot join the chain after all: the chain goes on without it (02, R61; 07, R168). -/
def State.missChain (s : State) (c : CoreId) (u : Nat) : State :=
  match Tab.find (s.core c).run u with
  | some r => s.updCore c fun k => { k with run := Tab.put k.run u { r with chain := none } }
  | none => s

/-- A command that has begun: it holds its lamps until it completes. A pass stands before its step 0, or joins the chain that runs; the read of an
accumulator set takes 2 cycles (02, R42, R54, R61). A vector command that must still wait for some of its sets owes its effect until it has read them (R53). -/
def State.begin (s : State) (n : Nat) (c : CoreId) (q : Nat) (x : QCmd) (e : Effect) : State :=
  let k := s.core c
  let u := x.cmd.unit
  let now := s.cycles c
  let lamps := x.cmd.lamps
  let pass (start : Nat) : List PassRun := if x.cmd.opcode = 0x01 then [{ q := x, start := start, lines := [], sums := [], done := 0 }] else []
  let r : Running := match Tab.find k.run u with
    | some r => { r with q := x, passes := r.passes ++ pass r.step, chain := none }
    | none => { q := x, lamps := lamps, startCyc := now, cycles := e.cycles,
                reads := x.readsSets.map fun i => (i, none), readAt := now, owed := k.owesReads x, got := [],
                passes := pass 0, step := 0, stepAt := now, chain := none }
  let drawn := if (Tab.find k.run u).isSome then s
    else if lamps ≤ s.keptBy c u then s.drawLamps n c u lamps else (s.drawLamps n c u lamps).turnOn n c
  let t := drawn.updCore c fun k =>
    let k := ((((k.endWait q 5 s.now).endWait (5 + q) 7 s.now).endFull q).endStall q s.now).pop q
    { k with run := Tab.put k.run u r }
  if u = 4 then t.takeReads c now 128 else t

/-- The head of a queue stalls with a timeout (04, R108). -/
def State.stallHead (s : State) (c : CoreId) (q limit item need kind : Nat) : State :=
  s.updCore c fun k => ((k.endWait q 5 s.now).endWait (5 + q) 7 s.now).beginStall q
    { since := s.now, edges := 0, limit := limit, item := item, need := need, kind := kind }

/-- The head waits for something without a timeout, timed as UPSTREAM (01, R22). -/
def State.waitHead (s : State) (c : CoreId) (q : Nat) : State := s.updCore c fun k => ((k.endStall q s.now).endWait q 5 s.now).beginWait (5 + q) s.now

/-- The head waits for lamps, timed as LAMP (07, R168). -/
def State.waitLamps (s : State) (n : Nat) (c : CoreId) (q : Nat) : State :=
  let s := if (Tab.find (s.core c).lampWait q).isSome then s else s.count .lampStall (.core c) (some n)
  s.updCore c fun k => ((k.endStall q s.now).endWait (5 + q) 7 s.now).beginWait q s.now

/-! ### Starting -/

/-- The request of a FETCH or STORE as the decoupling queue holds it: a STORE's bytes are taken now (04, R101, R102). -/
def State.memReq (s : State) (c : CoreId) (x : QCmd) (vc : Tab Nat) : MemReq :=
  let q := x.cmd
  let store : Bool := q.opcode = 0x29
  let sides := s.memSides c x
  let sides := if store then sides.filter fun (p : Int × Option Int) => p.2.isSome else sides
  { gen := x.gen, store := store, gallery := q.gallery, handle := q.handle, flag := q.memFlag, stAddr := sides.map fun p => p.1.toNat,
    memAddr := sides.map fun p => p.2.map Int.toNat, data := if store then sides.map fun p => s.readSt c p.1 else [], issuedAt := s.now,
    refreshNs := 0, cmd := x.idx, vc := vc }

/-- A SEND waits for its port or its tokens: a port with 16,384 flits outstanding counts the wait as REPLAY_FULL (08, R194). -/
def State.sendHold (s : State) (n : Nat) (c : CoreId) (q : Nat) (x : QCmd) : State :=
  let s := match s.fullPort c x.gen x.cmd with
    | some p => s.noteReplayFull n p c q
    | none => s
  s.waitHead c q

/-- The command acts: the effect, and what a FETCH, STORE or SEND passes on. None when a SEND must wait. -/
def State.act (s : State) (n : Nat) (c : CoreId) (x : QCmd) (e : Effect) : Attempt :=
  let s' := s.applyEffect n c x.gen e
  match x.cmd.opcode with
  | 0x28 | 0x29 =>
    let (vc, t) := s'.handOn n c 3
    .done (t.updCore c fun k => { k with memq := k.memq ++ [s.memReq c x vc] })
  | 0x30 => s'.trySend n c x.gen x.idx x.cmd (e.reads.map (s.readSt c))
  | _ => .done s'

/-- A SEND that must wait for its credit, its port or the table of tracked messages waits before it reads anything. -/
def State.sendTurn (s : State) (n : Nat) (c : CoreId) (x : QCmd) (e : Effect) : Attempt :=
  if x.cmd.opcode = 0x30 then s.trySend n c x.gen x.idx x.cmd (e.reads.map (s.readSt c)) else .done s

/-- A command that needs more lamps than the core's grant stops its partition at once (07, R170). -/
def State.grantCause (s : State) (c : CoreId) (q : Nat) (x : QCmd) : Option Cause :=
  if (s.core c).grant < x.cmd.lamps then some { code := cREFUSED, sub := 2, core := some c, queue := q, cmd := x.idx } else none

/-- What a command breaks when it would start: an address lies outside what it may reach (04, R92; 05, R125, R138). -/
def State.startCause (s : State) (n : Nat) (c : CoreId) (x : QCmd) (e : Effect) : Option Cause :=
  match s.storeFault c x e with
    | some a => some { code := cBOUNDS, core := some c, queue := x.cmd.queue, cmd := x.idx, addr := (a % 2 ^ 26).toNat }
    | none => if x.cmd.opcode = 0x28 ∨ x.cmd.opcode = 0x29 then s.memFault n c x else none

/-- The bytes of a command's stencil, or of the exponent entries of a VCOMB, from which its list grows: until they are there, none of the addresses that they
give is known (03, R81; 04, R96, R99-R101, R103). -/
def QCmd.stencilAddrs (x : QCmd) : List Int :=
  if x.cmd.opcode = 0x12 then span x.a (16 * x.cmd.tiles * x.cmd.ktotal) ++ span (highAddr x.cmd.w2 : Nat) (64 * x.cmd.ktotal)
  else if x.cmd.opcode = 0x22 ∨ x.cmd.opcode = 0x23 then span (lowAddr x.cmd.w2 : Nat) (4 * wf x.cmd.w0 22 6)
  else if x.cmd.opcode = 0x28 ∨ x.cmd.opcode = 0x29 then x.cmd.stencilReads
  else []

/-- An engine command at the head of its queue, its unit free: what it breaks, what it waits for, and its start (02, R43, R50, R53; 04, R92,
R102, R103; 05, R117; 07, R168-R170). -/
def State.startEngine (s : State) (n : Nat) (c : CoreId) (q : Nat) (x : QCmd) (ecc : List EccAt) : State :=
  let k := s.core c
  let cost := x.cmd.lamps
  let e := s.effectOf c x
  let joining := (Tab.find k.run x.cmd.unit).isSome
  match s.grantCause c q x with
  | some cause => s.faultStop n cause
  | none =>
  match k.emptySlot x.gen x.stencilAddrs with
  | some (slot, d) => if (s.part n).st ≠ .run then s else s.stallHead c q (s.limit n d.timeout) (slotItem slot) 0 1
  | none =>
  match s.startCause n c x e with
  | some cause => s.faultStop n cause
  | none =>
    if (s.part n).st ≠ .run then s
    else if k.bankBusy x.cmd ∨ k.writesPending x then s.waitHead c q
    else if (x.cmd.opcode = 0x28 ∨ x.cmd.opcode = 0x29) ∧ 32 ≤ k.memq.length then s.waitHead c q
    else match k.emptySlot x.gen (x.startReads e) with
      | some (slot, d) => s.stallHead c q (s.limit n d.timeout) (slotItem slot) 0 1
      | none =>
        if joining ∧ !s.lampsFit n c x.cmd.unit 0 then (s.missChain c x.cmd.unit).waitLamps n c q
        else if !joining ∧ (!s.lampsFit n c x.cmd.unit cost ∨ (s.keptBy c x.cmd.unit < cost ∧ s.passedOver n c q)) then s.waitLamps n c q
        else match s.sendTurn n c x e with
        | .stall limit item need kind => s.stallHead c q limit item need kind
        | .hold => s.sendHold n c q x
        | _ => match s.poisonedAt c (x.startReads e) with
          | some a => s.stopAt n c q x cUNCORRECTED 0 (a / 16 * 16).toNat
          | none =>
            let s := s.readErrors n c q x.idx e.reads (x.cmd.opcode ≠ 0x01) ecc
            if (s.part n).st ≠ .run then s
            else
              let s := if k.owesReads x then s else s.checkCommand n c q x e
              if (s.part n).st ≠ .run then s
              else match if k.owesReads x then .done s else s.act n c x e with
                | .done t => t.begin n c q x e
                | .stall limit item need kind => s.stallHead c q limit item need kind
                | .hold => s.sendHold n c q x
                | .stop t => t

/-- A SET, WAIT or RECV at the head of an engine queue (04, R105, R107). `idle`: every earlier command of the queue has completed. -/
def State.flowHead (s : State) (n : Nat) (c : CoreId) (q : Nat) (x : QCmd) (idle : Bool) : State :=
  let s0 := if s.assayEn n then s.joinInto (threadKey c q) x.vc else s
  let a : Attempt :=
    match x.cmd.opcode with
    | 0x39 => s0.tryWait n c q x.cmd
    | 0x38 => if idle then s0.trySet n c q x.gen x.idx x.cmd else .hold
    | _ =>
      if x.cmd.recvRelease then (if idle then .done (s0.release n c q x.gen x.cmd.recvSlot) else .hold)
      else s0.tryAcquire n c q x.gen x.cmd
  match a with
  | .done t => (t.updCore c fun k => (((k.endStall q t.now).endWait (5 + q) 7 t.now).endFull q).pop q).retire n c
  | .stall limit item need kind => s.stallHead c q limit item need kind
  | .hold => s.sendHold n c q x
  | .stop t => t

/-- The head of an engine queue tries to start (04, R87). -/
def State.startHead (s : State) (n : Nat) (c : CoreId) (q : Nat) (ecc : List EccAt) : State :=
  let k := s.core c
  match k.queue q with
  | [] => s
  | x :: _ =>
    let o := x.cmd.opcode
    if o = 0x31 ∨ o = 0x38 ∨ o = 0x39 then
      let idle := (unitsOf q).all fun u => (Tab.find k.run u).isNone
      if (s.part n).st = .run then s.flowHead n c q x idle else if idle then s.lateSet n c q x.gen x.cmd else s
    else match Tab.find k.run x.cmd.unit with
      | none => s.startEngine n c q x ecc
      | some r =>
        match s.grantCause c q x with
        | some cause => s.faultStop n cause
        | none =>
          if (s.part n).st ≠ .run then s
          else if r.joins x ∧ r.stepAt ≤ s.cycles c then s.startEngine n c q x ecc else s.waitHead c q

/-- ENGINE_COMMAND_START: the head of a queue of a core tries to start; `ecc` is what its reads of the stores find. The passes in the cubes go on to
the present cycle first. -/
def execEngineCommandStart (c : CoreId) (q : Queue) (ecc : List EccAt) (s : State) : Res :=
  let s := s.catchUp
  match s.partOf c with
  | some n => .next (if s.detects n c q.code ∧ q ≠ .seq then s.startHead n c q.code ecc else s)
  | none => .next s

/-! ### Completion -/

/-- Flits of the core's SEND lie at a port with 16,384 flits outstanding, which picks nothing (08, R194). -/
def State.heldAtPort (s : State) (c : CoreId) : Bool :=
  s.ports.any fun (e : Nat × FPort) => decide (16384 ≤ e.2.outstanding) && e.2.shaftq.any fun f => f.src = some c

/-- What a unit runs has run out: the cycles of a command, or the last step of the last pass of a chain that no pass joins (02, R42, R49). -/
def State.finished (s : State) (c : CoreId) (u : Nat) (r : Running) : Bool :=
  if r.q.cmd.opcode = 0x01 then r.passes.isEmpty && decide (r.stepAt ≤ s.cycles c)
  else !r.owed && decide (r.startCyc + r.cycles ≤ s.cycles c) && (decide (u ≠ 5) || ((s.core c).inject.isEmpty && !s.heldAtPort c))

/-- A running command completes: its lamps return, its pending bits clear, the old generation may be retired (02, R53; 07, R163; 01, R37). -/
def State.completeUnit (s : State) (n : Nat) (c : CoreId) (u : Nat) (r : Running) : State :=
  let s := s.returnLamps n c r.lamps
  let s := s.updCore c fun k => { k with run := Tab.erase k.run u, kept := Tab.put k.kept u (r.lamps, s.cycles c, s.now), rpend := dropSets k.rpend (r.reads.map (·.1)) }
  s.retire n c

/-- ENGINE_COMMAND_COMPLETE: once its cycles or its steps have run, and the packets of a loose SEND have left; a wait of those for tokens is timed as
UPSTREAM (01, R22; 09, R222). -/
def execEngineCommandComplete (c : CoreId) (u : EngUnit) (s : State) : Res :=
  let s := s.catchUp
  .next <| match s.partOf c with
  | some n =>
    match Tab.find (s.core c).run u.code with
    | some r =>
      if (s.part n).st ≠ .run then s
      else if s.finished c u.code r then (s.updCore c fun k => k.endWait 12 7 s.now).completeUnit n c u.code r
      else if u = .x ∧ r.startCyc + r.cycles ≤ s.cycles c then s.updCore c fun k => k.beginWait 12 (s.countOf c (r.startCyc + r.cycles))
      else s
    | none => s
  | none => s

/-! ### Timeouts (04, R108) -/

/-- An attempt stalls. -/
def Attempt.stalls : Attempt → Bool
  | .stall _ _ _ _ => true
  | _ => false

/-- What a stall waits for is still missing: a count, a full slot, or a credit (04, R108). -/
def State.stallHolds (s : State) (n : Nat) (c : CoreId) (q : Nat) (x : Stall) : Bool :=
  let k := s.core c
  let head := if q < 4 then (k.queue q).head? else none
  let gen := (head.map (·.gen)).getD k.gen
  match x.kind with
  | 0 => decide (k.flag x.item < x.need) || !k.waitTurn q x.item x.need s.now
  | 1 => !(k.slot (slotIx gen (x.item - 0x800))).full
  | _ => match head with
    | some y => (s.trySend n c y.gen y.idx y.cmd []).stalls
    | none => false

/-- The stall of a pass in the cubes still waits for its slot. -/
def Core.passStalls (k : Core) (eng : Nat) : Option Nat :=
  match Tab.find k.run (2 * eng) with
  | some r => (r.passes.find? fun p => match k.passNeed p (r.step - p.start) with | .slot _ _ => true | _ => false).map fun p => p.q.idx
  | none => none

/-- The stream offset of the command of a queue whose stall has reached its limit, with its flag or slot: the pass in the cubes, or the head of the
queue; the sequencer's next command. -/
def State.timedOut (s : State) (n : Nat) (c : CoreId) (q : Queue) : Option (Nat × Nat) :=
  let k := s.core c
  let late (key : Nat) : Option Stall := (Tab.find k.stalls key).filter fun x => decide (x.limit ≤ x.edges)
  let inCubes : Option (Nat × Nat) := if q.code < 2 then (late (5 + q.code)).bind fun x => (k.passStalls q.code).map fun i => (i, x.item) else none
  match inCubes with
  | some y => some y
  | none => ((late q.code).filter fun x => s.stallHolds n c q.code x).map fun x =>
      (if q = .seq then k.pc else match k.queue q.code with | y :: _ => y.idx | [] => 0, x.item)

/-- WAIT_TIMEOUT: a stall that has seen as many beat edges as its limit stops the partition. -/
def execWaitTimeout (c : CoreId) (q : Queue) (s : State) : Res :=
  let s := s.catchUp
  .next <| match s.partOf c with
  | some n =>
    match s.timedOut n c q with
    | some (cmd, item) =>
      if s.detects n c q.code then s.faultStop n { code := cTIMEOUT, core := some c, queue := q.code, cmd := cmd, item := item } else s
    | none => s
  | none => s

end Sys2Proof.Machine
end

