-- ==== Sys2Proof/Machine/Arrival.lean ====
section
/-! DEFINITION. Arrivals on the mesh (04, R103-R107, R115; 13, R290, R296) and completions of memory requests (04, R101, R102; 05, R128-R130,
R132, R138-R141), and the stores' scrubber (05, R118). -/

namespace Sys2Proof.Machine

/-! ### The mesh (04, R104, R105, R107) -/

/-- The credit of a message goes back to its sender. -/
def State.returnCredit (s : State) (m : MeshMsg) : State :=
  { s with credits := s.credits ++ [{ pt := m.pt, src := m.src, dst := m.dst, slot := slotIx (tagGen m.tag) m.slot, vc := m.vc }] }

/-- A mesh increment is applied (04, R106; 13, R296, ledger 7). -/
def State.meshIncrement (s : State) (n : Nat) (c : CoreId) (f : Nat) (vc : Tab Nat) : State :=
  (s.updPart n fun p => { p with meshApplied := p.meshApplied + 1 }).incFlag n c f vc

/-- A break of ledger 3 at a slot (13, R296). -/
def State.slotLedger (s : State) (n : Nat) (c : CoreId) (slot : Nat) : State :=
  s.ledgerFault [n] { code := cLEDGER, ledger := 3, core := some c, item := some slot, recorded := 1, counted := 2 }

/-- What the message would do is to fill the slot and raise its flag: its tag, the slot and the length allow it (04, R103, R115). -/
def MeshMsg.wouldLand (m : MeshMsg) (k : Core) : Bool :=
  match k.slotFor m.tag m.slot with
  | some d => k.flagOk m.tag m.flag && decide (m.bytes.length ≤ 256 * d.size) && !m.bytes.isEmpty && !(k.slot (slotIx (tagGen m.tag) m.slot)).full
  | none => false

/-- A mesh message is delivered (04, R103, R104, R115; 06, R155). An increment of one that is STRAY is not applied (13, R296, ledger 7). -/
def State.deliverMesh (s : State) (m : MeshMsg) : State :=
  let n := m.pt
  let c := m.dst
  let k := s.core c
  if !s.takesMessages n then (s.count .discardedMessage (.core c) (some n)).lateIncrement n c m.flag (m.dfen && m.wouldLand k)
  else match k.slotFor m.tag m.slot with
    | none => (s.returnCredit m).count .stray (.core c) (some n)
    | some d =>
      let i := slotIx (tagGen m.tag) m.slot
      if m.dfen ∧ !k.flagOk m.tag m.flag then (s.returnCredit m).count .stray (.core c) (some n)
      else if 256 * d.size < m.bytes.length ∨ m.bytes.isEmpty then
        (s.returnCredit m).faultStop n { code := cREFUSED, sub := 2, core := some c }
      else if (k.slot i).full then s.slotLedger n c m.slot
      else
        let s := (s.landBytes n c d.base m.bytes).fillSlot c i (.mesh m.src)
        let (vc, s) := s.assayLanding n c m.src m.cmd m.vc (landAddrs d.base m.bytes.length)
        let s := if s.assayEn n then s.putClock (slotKey c i) vc else s
        if m.dfen then s.meshIncrement n c m.flag vc else s

/-- MESH_MESSAGE: a message in flight on the mesh has passed its way and reaches its core. A pass that waited for its line goes on
(02, R43; 07, R177). -/
def execMeshMessage (a : MeshArrival) (s : State) : Res :=
  .next <| match s.mesh[a.ix]? with
  | some m =>
    let s := s.catchUp.travel m.pt m.src a.way
    ({ s with mesh := dropAt s.mesh a.ix }.deliverMesh m).catchUp
  | none => s

/-- MESH_SET_DELIVERY: a SET in flight has passed its way and reaches its core (04, R106, R107, R115; 07, R177). -/
def execMeshSetDelivery (a : MeshArrival) (s : State) : Res :=
  .next <| match s.meshSets[a.ix]? with
  | some m =>
    let s := { s with meshSets := dropAt s.meshSets a.ix }.travel m.pt m.src a.way
    let ok := (s.core m.dst).flagOk m.tag m.flag
    if !s.takesMessages m.pt then (s.count .discardedMessage (.core m.dst) (some m.pt)).lateIncrement m.pt m.dst m.flag ok
    else if ok then s.meshIncrement m.pt m.dst m.flag m.vc
    else s.count .stray (.core m.dst) (some m.pt)
  | none => s

/-- SLOT_CREDIT_RETURN: a credit has passed its way and reaches the source core, which may again send to the slot (04, R105; 13, R296, ledger 3). The slot of
a generation that its core no longer accepts has no credit left to count: the credit is only back (01, R37; 04, R115). -/
def execSlotCreditReturn (a : MeshArrival) (s : State) : Res :=
  .next <| match s.credits[a.ix]? with
  | some m =>
    let s := { s with credits := dropAt s.credits a.ix }.travel m.pt m.dst a.way
    let k := s.core m.dst
    let st := k.slot m.slot
    if (k.slotsOf (m.slot / 64)).isNone then s
    else if st.creditHome then s.slotLedger m.pt m.dst (m.slot % 64)
    else
      let s := s.setCore m.dst (k.setSlot m.slot { st with creditHome := true })
      if s.assayEn m.pt then s.joinInto (creditKey m.src m.dst m.slot) m.vc else s
  | none => s

/-! ### Memory requests (04, R102; 05, R128-R132) -/

/-- Request `i` of a core, when it may complete now. -/
def State.request (s : State) (c : CoreId) (i : Nat) (store : Bool) : Option MemReq :=
  let q := (s.core c).memq
  match q[i]? with
  | some r =>
    if r.store = store ∧ !overlapsEarlier q i r ∧ !(s.stacksOf (s.ownerOf c) r).any (fun k => s.waitsAt k r) then some r else none
  | none => none

/-- The request leaves the decoupling queue. -/
def State.takeRequestOut (s : State) (c : CoreId) (i : Nat) : State := s.updCore c fun k => { k with memq := dropAt k.memq i }

/-- The arrival flag of a request rises, with the time that emergency refreshes delayed it (01, R22; 04, R102). -/
def State.arrive (s : State) (n : Nat) (c : CoreId) (r : MemReq) (vc : Tab Nat) : State :=
  if 64 ≤ r.flag then s
  else
    let s := if r.refreshNs = 0 then s else
      s.updCore c fun k => { k with refreshItems := Tab.put k.refreshItems r.flag (Nat.max r.refreshNs (Tab.get 0 k.refreshItems r.flag)) }
    s.incFlag n c r.flag vc

/-- The bytes of a FETCH land in the store, or zeros for unused pages, and its flag rises (04, R101, R102). -/
def State.land (s : State) (n : Nat) (c : CoreId) (r : MemReq) (bs : List Byte) : State :=
  let as : List Int := r.stAddr.map fun (a : Nat) => (a : Int)
  match s.partialPoison c as with
  | some a => s.faultStop n { code := cUNCORRECTED, core := some c, queue := 3, addr := (a / 16 * 16).toNat }
  | none =>
    let s := (s.writeStAt c (as.zip bs)).clearPoison c as
    let s := s.setTags n (dedup (as.filterMap (granuleKey c))) 0
    let (vc, s) := if r.gallery then (r.vc, s) else s.assayHbm n c r.cmd r.vc false r.mem
    let (vc, s) := s.assayLanding n c c r.cmd vc as
    s.arrive n c r vc

/-- Bytes of a host read put in the place of the used bytes of a request, zeros elsewhere. -/
def spread : List (Option Nat) → List Byte → List Byte
  | [], _ => []
  | none :: l, bs => 0 :: spread l bs
  | some _ :: l, b :: bs => b :: spread l bs
  | some _ :: l, [] => 0 :: spread l []

/-- FETCH_LANDED: the data of a request of a core has passed its way and arrives: from HBM with what the code found there, or from the host. Passes that read the store meanwhile
have run as far as they can, and one that waited for the bytes goes on (02, R43). -/
def execFetchLanded (c : CoreId) (a : MeshArrival) (hostBytes : List Byte) (ecc : List EccAt) (s : State) : Res :=
  let s := s.catchUp
  .next <| match s.request c a.ix false with
  | none => s
  | some r =>
    let n := s.ownerOf c
    let t := (s.takeRequestOut c a.ix).travel n c a.way
    if r.gallery then (t.land n c r (spread r.memAddr hostBytes)).catchUp
    else match t.readSectors n r.mem ecc with
      | (t, some a) => t.sectorError n (some c) a
      | (t, none) => (t.land n c r (r.memAddr.map fun (x : Option Nat) => match x with | some a => t.readHbm n a | none => (0 : Byte))).catchUp

/-- Runs of consecutive addresses with their bytes. -/
def runsOf : List (Nat × Byte) → List (Nat × List Byte)
  | [] => []
  | (a, b) :: l =>
    match runsOf l with
    | (x, bs) :: rs => if x = a + 1 then (a, b :: bs) :: rs else (a, [b]) :: (x, bs) :: rs
    | [] => [(a, [b])]

/-- The data of a STORE has been written; its flag rises (04, R102; 05, R128, R129). A sector that it covers in part is read first. -/
def State.storeDone (s : State) (n : Nat) (c : CoreId) (r : MemReq) (ecc : List EccAt) : State :=
  let bytes := r.mem.zip r.data
  if r.gallery then
    match Tab.find (s.part n).gal (r.handle % 4096), s.owner n with
    | some o, some f => ((runsOf bytes).foldl (fun s w => s.emit (.hostWrite f (o.base + w.1) w.2)) s).arrive n c r r.vc
    | _, _ => s.arrive n c r r.vc
  else match s.readSectors n (s.partSectors n r.mem) ecc with
    | (s, some a) => s.sectorError n (some c) a
    | (s, none) =>
      let s := bytes.foldl (fun s w => s.writeHbm n w.1 w.2) s
      let (vc, s) := (s.clearHbmPoison n r.mem).assayHbm n c r.cmd r.vc true r.mem
      s.arrive n c r vc

/-- STORE_WRITTEN: a request of a core is done. -/
def execStoreWritten (c : CoreId) (w : RequestEnd) (s : State) : Res :=
  .next <| match s.request c w.ix true with
  | some r => ((s.takeRequestOut c w.ix).travel (s.ownerOf c) c w.way).storeDone (s.ownerOf c) c r w.ecc
  | none => s

/-- GALLERY_HOST_ERROR: a poisoned completion of a gallery FETCH, or a completion timeout (05, R141). -/
def execGalleryHostError (c : CoreId) (i : Nat) (s : State) : Res :=
  .next <| match (s.core c).memq[i]? with
  | some r =>
    if r.gallery ∧ !r.store then
      let n := s.ownerOf c
      let link := match s.owner n with | some f => f.link.ix | none => 0
      (s.takeRequestOut c i).faultStop n { code := cHOSTLINK, core := some c, item := some link, counted := r.handle }
    else s
  | none => s

/-! ### The stores' scrubber (05, R118) -/

/-- Cluster of a store. -/
def storeClu : StoreId → Nat
  | .core c => c.cluIx
  | .cluster k => k.val

/-- SCRUB_READ: the scrubber of a store reads one word; it runs while the cluster's clocks run. -/
def execScrubRead (store : StoreId) (word : Nat) (ecc : Ecc) (s : State) : Res :=
  let die := storeClu store / 11
  .next <| if (Tab.find s.clusters (storeClu store)).isNone then s
  else match ecc with
    | .clean => s
    | .corrected => (s.count .storeCorrected (.die die) (s.partOfClu (storeClu store))).canInput (canDie die) 0 1
    | .uncorrectable =>
      if s.poison.contains (store, word) then s
      else
        let s : State := { s with poison := (store, word) :: s.poison }
        let s := (s.count .storePoisoned (.die die) (s.partOfClu (storeClu store))).canInput (canDie die) 2 1
        s.platform .scrubError word

end Sys2Proof.Machine
end

