-- ==== Sys2Proof/Machine/Stacks.lean ====
section
/-! DEFINITION. The HBM stacks (05, R131-R135): refresh windows, emergency refreshes, scrubbing and thermal trips. -/

namespace Sys2Proof.Machine

/-! ### Refresh (05, R131-R133, R135) -/

/-- A sector that the scrubber read (05, R130, R135). -/
def State.scrubSector (s : State) (k : Nat) (e : EccAt) : State :=
  let s := s.updStack k fun x => { x with scrubbed := x.scrubbed + 1 }
  match e.ecc with
  | .clean => s
  | .corrected => s.correctSector k none
  | .uncorrectable => s.poisonSector k e.addr none

/-- The first sector of each channel among those that a list gives. -/
def onePerChannel (l : List EccAt) : List EccAt :=
  (l.foldl (fun (r : List Nat × List EccAt) e =>
    let ch := (channelOf e.addr).1
    if r.1.contains ch then r else (ch :: r.1, r.2 ++ [e])) ([], [])).2

/-- Some partition in Run has an extent on the stack, which then keeps its calendar (05, R135). -/
def State.keepsCalendar (s : State) (k : Nat) : Bool := s.parts.any fun e => e.2.st = .run && decide (cf s .ptHbmExt e.1 k 31 16 ≠ 0)

/-- REFRESH_WINDOW_OPEN: a window of the calendar opens; `scrub` is what the scrubber reads in it, one sector of each channel. A stack none of whose extents
belongs to a partition in Run scrubs outside its calendar too (05, R131, R135). -/
def execRefreshWindowOpen (k : Stk) (t : Count) (scrub : List EccAt) (s : State) : Res :=
  let s := s.advance t
  let read (s : State) (l : List EccAt) : State := l.foldl (fun s e => s.scrubSector k.val e) s
  .next (if !s.atCount t then s
  else if !(s.stack k.val).windowOpen ∧ s.inWindow k.val t then read (s.openWindow k.val) (if s.keepsCalendar k.val then onePerChannel scrub else scrub)
  else if s.keepsCalendar k.val then s
  else read s scrub)

/-- REFRESH_WINDOW_CLOSE: the window closes. -/
def execRefreshWindowClose (k : Stk) (t : Count) (s : State) : Res :=
  let s := s.advance t
  .next (if s.atCount t ∧ (s.stack k.val).windowOpen ∧ !s.inWindow k.val t then s.closeWindow k.val else s)

/-- A request that waits at a stack is delayed by the part of an emergency refresh that lies outside windows (05, R132, R133). -/
def State.delayed (s : State) (k start stop : Nat) (c : CoreId) (r : MemReq) : MemReq :=
  let a := Nat.max start r.issuedAt
  if (s.stacksOf (s.ownerOf c) r).contains k ∧ a < stop then { r with refreshNs := r.refreshNs + ((stop - a) - s.insideWindows k a stop) } else r

/-- Every request that waits at a stack (01, R22). -/
def State.delayRequests (s : State) (k : Nat) (start stop : Nat) : State :=
  { s with cores := s.cores.map fun (e : Nat × Core) => (e.1, { e.2 with memq := e.2.memq.map (s.delayed k start stop (coreOfIx e.1)) }) }

/-- EMERGENCY_REFRESH_END: the refresh is over, and the next one follows while the deficit lasts (05, R133). -/
def execEmergencyRefreshEnd (k : Stk) (t : Count) (s : State) : Res :=
  let s := s.advance t
  .next (match (s.stack k.val).emergency with
    | some e =>
      if s.atCount t ∧ e ≤ t then
        let s := s.delayRequests k.val (e - 480) e
        ((s.updStack k.val fun y => { y with emergency := none }).payDeficit k.val e (s.stack k.val).heldFrom).drainOwn
      else s
    | none => s)

/-! ### Temperature (05, R133, R134) -/

/-- Partitions with an extent on a stack. -/
def State.partsOnStack (s : State) (k : Nat) : List Nat :=
  (s.parts.filter fun e => e.2.notAbsent && decide (cf s .ptHbmExt e.1 k 31 16 ≠ 0)).map (·.1)

/-- STACK_THERMAL_READ: the sensor's reading makes the stack hot, no longer hot, or trips it. -/
def execStackThermalRead (k : Stk) (celsius : Nat) (s : State) : Res :=
  let x := s.stack k.val
  let limit := s.refTemp k.val
  .next (if !s.power.convOn then s
  else
    let s := s.updStack k.val fun y => { y with tempC := celsius }
    let s :=
      if !x.hot ∧ limit < celsius then
        let s := s.updStack k.val fun y => { y with hot := true }
        ((s.count .hot (.die (k.val / 2)) none).canInput (canStack k.val) 2 1).startEmergency k.val s.now (s.holdsFrom k.val)
      else if x.hot ∧ celsius + 3 ≤ limit then s.updStack k.val fun y => { y with hot := false, deficit := 0 }
      else s
    if 105 ≤ celsius ∧ !x.tripped then
      let s := s.updStack k.val fun y => { y with tripped := true, trippedAt := s.now }
      let s := s.platform .stackTrip k.val
      s.faultStopAll (s.partsOnStack k.val) { code := cSTACKTRIP, stack := k.val }
    else s)

end Sys2Proof.Machine
end

