-- ==== Sys2Proof/Machine/Layers.lean ====
section
/-! DEFINITION. The layer table of a partition (10, R229): its entries read from the HBM region, the checks of a table load, and the extents
that other rules compare with. -/

namespace Sys2Proof.Machine

/-- A layer entry's words (10, R229). -/
structure Layer where
  w0 : Word
  w1 : Word
  w2 : Word
  w3 : Word
  deriving DecidableEq, Repr

def Layer.id (l : Layer) : Nat := wf l.w0 63 48
def Layer.wgen (l : Layer) : Nat := wf l.w0 47 40
def Layer.res (l : Layer) : Nat := wf l.w0 39 38
def Layer.check (l : Layer) : Nat := wf l.w0 31 0
def Layer.addr (l : Layer) : Nat := wf l.w1 63 24
def Layer.bytes (l : Layer) : Nat := wf l.w2 63 24
def Layer.handle (l : Layer) : Nat := wf l.w2 23 8
def Layer.goff (l : Layer) : Nat := wf l.w3 63 24
def Layer.variant (l : Layer) : Nat := wf l.w3 23 14
def Layer.aux (l : Layer) : Nat := wf l.w3 13 5

/-- The layer lies in the gallery (RES 1). -/
def Layer.galleried (l : Layer) : Bool := l.res = 1

/-- Region-relative address of the layer table (10, PT_WT_TAB). -/
def State.tableBase (s : State) (n : Nat) : Nat := 4096 * cf s .ptWtTab n 0 31 4

/-- Entry `i` of the table. -/
def State.layer (s : State) (n i : Nat) : Layer :=
  let a := s.tableBase n + 32 * i
  { w0 := s.hbmWord n a, w1 := s.hbmWord n (a + 8), w2 := s.hbmWord n (a + 16), w3 := s.hbmWord n (a + 24) }

/-- Entries from `i` on whose LAYER is their index, at most `fuel` of them. -/
def State.layerRun (s : State) (n : Nat) : Nat → Nat → Nat
  | 0, _ => 0
  | fuel + 1, i => if (s.layer n i).id = i then 1 + s.layerRun n fuel (i + 1) else 0

/-- Entries of the table: it ends before the first entry that is no entry of its index. DEDUCED (log 20): the manual gives the table no
length, and every entry carries its index in LAYER. -/
def State.layerCount (s : State) (n : Nat) : Nat := s.layerRun n 4096 0

/-- The table's entries. -/
def State.layers (s : State) (n : Nat) : List Layer := (upFrom 0 (s.layerCount n)).map (s.layer n)

/-- Some two of a list of ranges meet. -/
def anyMeet : List (Nat × Nat) → Bool
  | [] => false
  | r :: rs => rs.any (meets r) || anyMeet rs

/-- HBM extents of a table's entries. -/
def hbmExtents (ls : List Layer) : List (Nat × Nat) := (ls.filter fun l => !l.galleried).map fun l => (l.addr, l.bytes)

/-- HBM layer extents of the table a partition has loaded (10, R229). -/
def State.layerExtents (s : State) (n : Nat) : List (Nat × Nat) := if (s.part n).tableLoaded then hbmExtents (s.layers n) else []

/-- A reserved field of an entry is not zero: what its RES reserves included (10, "Layer entry"). -/
def Layer.reservedSet (l : Layer) : Bool :=
  wf l.w0 37 32 ≠ 0 || wf l.w1 23 0 ≠ 0 || wf l.w2 7 0 ≠ 0 || wf l.w3 4 0 ≠ 0 ||
  (if l.galleried then l.addr ≠ 0 else l.handle ≠ 0 || l.goff ≠ 0) ||
  (if l.res = 0 ∨ l.res = 1 then l.variant ≠ 0 || l.aux ≠ 0 else false)

/-- A gallery handle is current: its object is open under that tag (05, R138). -/
def State.handleCurrent (s : State) (n h : Nat) : Bool :=
  match Tab.find (s.part n).gal (h % 4096) with
  | some o => !o.closed && decide (s.now < o.expiry) && Tab.get 0 (s.part n).galTags (h % 4096) = h / 4096
  | none => false

/-- The checks of a table load: RSVD, EXTENT, or none (10, R229). -/
def State.tableCheck (s : State) (n : Nat) : Option Nat :=
  let ls := s.layers n
  if ls.any Layer.reservedSet then some stRSVD
  else if ls.isEmpty ∨ ls.any (fun l => l.bytes = 0) ∨ anyMeet (hbmExtents ls) ∨ (hbmExtents ls).any (fun e => decide (s.regionSize n < e.1 + e.2)) ∨
      ls.any (fun l => !l.galleried && l.addr % 256 ≠ 0) ∨ ls.any (fun l => l.res = 2 && (decide (l.aux < 4) || decide (256 < l.aux))) ∨
      ls.any (fun l => l.galleried && !s.handleCurrent n l.handle) then some stEXTENT
  else none

/-- The current WGEN is written into an entry (10, R230). -/
def State.stampLayer (s : State) (n i : Nat) : State := s.ownWrite n (s.tableBase n + 32 * i + 5) [BitVec.ofNat 8 (s.part n).wgen]

/-- GAL_MIB: bytes of the gallery entries in MiB, rounded up (10, R229). -/
def galMibOf (ls : List Layer) : Nat := ceilDiv (((ls.filter Layer.galleried).map Layer.bytes).foldl (· + ·) 0) (2 ^ 20)

end Sys2Proof.Machine
end

