-- ==== Sys2Proof/Machine/Startup.lean ====
section
/-! DEFINITION. Power, start-up, resets, host links and headframe controllers (12, R262-R268; 13, R303, R307, R308; 14, R312-R319;
15, R331-R351). -/

namespace Sys2Proof.Machine

/-- COLD_RESET (14, R317): the standby input returns; the whole module stands before step 1 (log 1). -/
def execColdReset (s : State) : Res := .next s.coldReset

/-- STANDBY_LOSS (15, R338): the converter turns off as under R337 and both headframe controllers stop. Nothing is reported, since
no controller runs. -/
def execStandbyLoss (s : State) : Res :=
  let s := s.abortUpdate.dieLoss true
  .next { s with
    startup := { s.startup with ready := false, stopped := true, stage := 0 }
    power := { s.power with convOn := false, precharged := false, stbyOk := false }
    hf := { s.hf with e0Up := false, e1Up := false } }

/-- The bus reads a new voltage and no stop of the converter is under way. A running converter reports a voltage outside its range through
CONVERTER_STOP, so such a reading stands only where it is off (15, R332). -/
def State.busReads (s : State) (vbus : BitVec 10) : State :=
  if busInRange vbus ∨ !s.power.convOn then { s with power := { s.power with vbus := vbus, stopping := false } } else s

/-- MAIN_BUS_RETURN (00, R7; 15, R339): the bus is back. A start-up that waits at step 3 since the loss goes on from there
(State.starting); an earlier step is not skipped. -/
def execMainBusReturn (vbus : BitVec 10) (s : State) : Res := .next (s.busReads vbus)

/-- MAIN_BUS_LOSS (00, R7; 15, R332, R337): the converter stops while the module is Ready, since the input fell below 360 V: PWR_EVT.UV. -/
def execMainBusLoss (s : State) : Res :=
  .next (if s.startup.ready then
    let f := s.takeFresh
    let t := f.2.converterOff 3 0x7F
    { t with power := { t.power with vbus := BitVec.ofNat 10 (Config.lostBus f.1 % 720), evtUv := true } }
  else s)

/-- CONVERTER_STOP (15, R332): the input leaves its range; PWR_EVT latches the cause of a stop. Above 450 V the module does not
operate (R349). -/
def execConverterStop (e : InputEvent) (vbus : BitVec 10) (s : State) : Res :=
  match e with
  | .aboveAbsoluteMax => .fault .absoluteMaximumExceeded
  | .below300 | .lowRideThrough =>
    let t := s.converterOff 3 0x7F
    .next { t with power := { t.power with vbus := vbus, evtUv := t.power.evtUv || s.power.convOn || s.power.stopping } }
  | .highRideThrough | .above440 =>
    let t := s.converterOff 3 0x7F
    .next { t with power := { t.power with vbus := vbus, evtOv := t.power.evtOv || s.power.convOn || s.power.stopping } }

/-- HVIL_OPEN (15, R334): the converter stops and pre-charge is disabled. -/
def execHvilOpen (s : State) : Res :=
  let t := s.converterOff 4 0x7F
  .next { t with power := { t.power with hvilClosed := false, evtHvil := t.power.evtHvil || s.power.convOn || s.power.stopping } }

/-- HVIL_CLOSE (15, R334): PWR_STAT.HVIL_CLOSED becomes 1. -/
def execHvilClose (s : State) : Res := .next { s with power := { s.power with hvilClosed := true } }

/-- PRECHARGE_BYPASS_CLOSE (15, R333): in step 3, with the loop closed and the bus in range, the bypass closes. -/
def execPrechargeBypassClose (vbus : BitVec 10) (s : State) : Res :=
  let s := s.busReads vbus
  .next (if s.starting ∧ s.startup.stage = 2 ∧ !s.power.convOn then { s with power := { s.power with precharged := true } } else s)

/-- The temperatures that the headframe controller presents as PLDM sensors: the eight dies, then the twelve stacks (15, R351; 13, R308). -/
def State.sensors (s : State) : List Nat :=
  ((upFrom 0 8).map fun x => Tab.get 0 s.dieTemps x) ++ (upFrom 0 12).map fun k => (s.stack k).tempC

/-- DIE_TRIP (15, R351): a sensor of a die is read. At 120 °C or more the converter stops and PWR_EVT.DIE_TRIP is set. A start-up under way
names the die in FAIL_PART (log 15). -/
def execDieTrip (r : DieReading) (s : State) : Res :=
  .next (if s.power.convOn then
    let s := { s with dieTemps := Tab.put s.dieTemps r.die.val r.celsius }
    if 120 ≤ r.celsius then
      let t := s.converterOff 0 (canDie r.die.val)
      { t with power := { t.power with evtDieTrip := true } }
    else s
  else s)

/-! ### Start-up steps (14, R312) -/

/-- A start-up step may complete or reach its limit: start-up runs, a headframe controller has booted or may still, and the step's own condition holds (steps 3 to 12 need main
power, step 7 TB_REF). -/
def State.stepRuns (s : State) : Bool :=
  !s.startup.ready && !s.startup.stopped && s.power.stbyOk && !s.hf.bothFailed && decide (s.startup.stage < 12) &&
    (decide (s.startup.stage < 2) || (s.startup.stage = 2 && s.starting) || s.power.convOn)

/-- Ports named in BOOT_PORTS begin first training in step 10 (14, R312, R314). -/
def State.bootPorts (s : State) : State :=
  (upFrom 0 16).foldl (fun s p =>
    if rb s.startup.bootCur p then
      (setCfg s .frtCtl p 0 (cfg s .frtCtl p 0 ||| 1)).updPort p fun _ =>
        { FPort.reset with st := .training, resetAt := s.now, resetPhase := 1,
                           agreed := some { allowNarrow := false, laneBase := 0, reqNo := 0, full := true, width := 3, rate := 0 } }
    else s) s

/-- What the completion of a start-up step does (14, R312). -/
def State.completeStep (s : State) (geo : BitVec 3) : State :=
  let k := s.startup.stage + 1
  let s := { s with startup := { s.startup with stage := k } }
  match k with
  | 1 => { s with power := { s.power with stbyOk := true } }
  | 2 => { s with startup := { s.startup with geo := geo }, hf := { s.hf with e0Up := true, e1Up := true, primaryE1 := false } }
  | 3 => { s with power := { s.power with convOn := true },
                  startup := { s.startup with failStep := 0, failPart := 0x7F, failCode := 0 } }
  | 4 => { s with op := State.reset.op }
  | 6 => { s with crossings := [] }
  | 7 =>
    let master := rb (cfg s .tbCfg 0 0) 31
    { s with tb := { State.reset.tb with refOk := s.tb.refOk, running := master, locked := master && s.tb.refOk } }
  | 9 => s.bootPorts
  | 12 =>
    let s := { s with canAcc := Accs.of s.flash.accs, startup := { s.startup with ready := true, lastReset := s.startup.cause } }
    s.platform .ready 0
  | _ => s

/-- STARTUP_STEP_COMPLETE (14, R312): STAGE advances and the next step begins. Step 1 needs the standby input only; step 3 the closed
bypass; step 7 TB_REF (R339). -/
def execStartupStepComplete (geo : BitVec 3) (s : State) : Res :=
  .next (if s.startup.stage = 0 ∧ !s.startup.ready ∧ !s.startup.stopped then s.completeStep geo
    else if s.stepRuns ∧ (s.startup.stage = 2 → s.power.precharged) ∧ (s.startup.stage = 6 → s.tb.refOk) then s.completeStep geo
    else s)

/-- STARTUP_STEP_LIMIT (14, R312, last column): the step still running at its limit has failed. `part` is FAIL_PART, `selfTest` a
self-test error, `e1` whether E1's controller boots, and the straps that it then reads (15, R345). Steps 10 and 11 go on; step 12 has no
consequence. -/
def execStartupStepLimit (part : BitVec 7) (selfTest : Bool) (e1 : E1Boot) (s : State) : Res :=
  if s.stepRuns then
    match s.startup.stage + 1 with
    | 1 => .next s
    | 2 =>
      if e1.boots then .next { s with startup := { s.startup with stage := 2, geo := e1.geo }, hf := { s.hf with e1Up := true, primaryE1 := true } }
      else
        let t := { s with hf := { s.hf with bothFailed := true } }
        .next (t.alarmEdge s.alarm)
    | 7 => .next (s.startupStop part.toNat (if s.tb.refOk then 1 else 5))
    | 10 | 11 => .next { s with startup := { s.startup with stage := s.startup.stage + 1 } }
    | 12 => .next s
    | _ => .next (s.startupStop part.toNat (if selfTest then 2 else 1))
  else .next s

/-- MODULE_RESET (13, R309; 14, R318): answered, then carried out. -/
def execModuleReset (seq : W32) (s : State) : Res := .next (s.tree seq fun s => (s.moduleReset 1, status stOK))

/-! ### Host links (12, R262-R268; 14, R315) -/

/-- Whether a port runs split: H0 for H0A and H0B, H1 for H1A and H1B (12, R262, R265). -/
def State.split (s : State) (l : Link) : Bool :=
  match l with
  | .h0a | .h0b => rb s.startup.hostCur 0
  | .h1a | .h1b => rb s.startup.hostCur 1

/-- A link code that stands for a link: the B links only of split ports (12, R262, R265). -/
def State.linkExists (s : State) (l : Link) : Bool :=
  match l with
  | .h0a | .h1a => true
  | .h0b | .h1b => s.split l

/-- A link goes down: nothing is trained on it. -/
def State.linkDown (s : State) (l : Link) : State := s.updLink l fun k => { HostLink.reset with perst := k.perst }

/-- PERST_ASSERT (12, R268; 14, R315): a host-link reset of the link's functions. The PERST# of the B link of an unsplit port is ignored. -/
def execPerstAssert (l : Link) (s : State) : Res :=
  let t := s.updLink l fun k => { k with perst := true }
  .next (if t.linkExists l then (t.hostReset fun f => f.link = l).linkDown l else t)

/-- PERST_RELEASE (14, R315): the link trains at step 11 or later, which HOST_LINK_TRAINED reports. -/
def execPerstRelease (l : Link) (s : State) : Res := .next (s.updLink l fun k => { k with perst := false })

/-- FLR (12, R268). -/
def execFlr (f : Func) (s : State) : Res := .next (s.hostReset fun g => g = f)

/-- VF_ENABLE_CLEAR (12, R268): the function is no longer enabled. -/
def execVfEnableClear (f : Func) (s : State) : Res :=
  .next ((s.hostReset fun g => g = f).updLink f.link fun k =>
    if f.fn.val = 0 ∨ k.vfOff.contains f.fn.val then k else { k with vfOff := f.fn.val :: k.vfOff })

/-- HOST_LINK_DOWN (12, R268). -/
def execHostLinkDown (l : Link) (s : State) : Res := .next ((s.hostReset fun f => f.link = l).linkDown l)

/-- Rates of PCIe 6.0 in tenths of a GT/s, slowest first (12, R263). -/
def linkRate (r : Fin 6) : Nat := [25, 50, 80, 160, 320, 640].getD r.val 25

/-- HOST_LINK_TRAINED (12, R263, R264; 14, R315): not before step 11, not under PERST#, with CXL only where CXL_EN is set. The width is 2^`width` lanes as far as
the link has them. What was reached is reported. -/
def execHostLinkTrained (l : Link) (rate : Fin 6) (width : Fin 5) (cxl : Bool) (cfg : HostConfig) (s : State) : Res :=
  let cxlEn := match l with | .h0a | .h0b => rb s.startup.hostCur 2 | .h1a | .h1b => rb s.startup.hostCur 3
  .next (if (s.startup.ready ∨ (10 ≤ s.startup.stage ∧ !s.startup.stopped)) ∧ s.linkExists l ∧ !(s.link l).perst then
    let lanes := Nat.min (2 ^ width.val) (if s.split l then 8 else 16)
    let s := s.updLink l fun k => { k with trained := true, rate := linkRate rate, width := lanes, payload := 128 * 2 ^ cfg.payload.val,
                                           readReq := 128 * 2 ^ cfg.readReq.val, cxl := cxl && cxlEn, vfs := Nat.min cfg.vfs 16, vfOff := [] }
    s.emit (.linkTrained l (linkRate rate) lanes (cxl && cxlEn))
  else s)

/-! ### Headframe controllers (13, R303, R307, R308) -/

/-- HEADFRAME_TAKEOVER (13, R307; 14, "When things meet"): the standby takes over, repeats every event not acknowledged, and a
firmware transfer ends with ABORTED. Without a standby nothing answers any more. -/
def execHeadframeTakeover (s : State) : Res :=
  let standbyUp := if s.hf.primaryE1 then s.hf.e0Up else s.hf.e1Up
  let hf := if s.hf.primaryE1 then { s.hf with e1Up := false } else { s.hf with e0Up := false }
  let s := s.abortUpdate
  if standbyUp then
    let s := { s with hf := { hf with primaryE1 := !s.hf.primaryE1 } }
    let s := s.hf.events.foldl (fun s e => s.emit (.platform e)) s
    .next (s.platform .takeover (b2n s.hf.primaryE1))
  else .next { s with hf := hf }

/-- PLATFORM_EVENT_REPEAT (13, R308): every event not yet acknowledged is sent again. -/
def execPlatformEventRepeat (acked : List Nat) (s : State) : Res :=
  if s.managed then
    let s := { s with hf := { s.hf with events := s.hf.events.filter fun e => !acked.contains e.id } }
    .next (s.hf.events.foldl (fun s e => s.emit (.platform e)) s)
  else .next s

/-- ACCUMULATOR_SAVE (13, R303). -/
def execAccumulatorSave (s : State) : Res := .next (if s.managed then s.saveAccs else s)

end Sys2Proof.Machine
end

