-- ==== Sys2Proof/Machine/Timebase.lean ====
section
/-! DEFINITION. The Kwefer timebase (01, R13-R16; 08, R199; 14, R316; 15, R347, R348) and the tick of a step on an empty queue
(log 2). -/

namespace Sys2Proof.Machine

/-- A timing port: Up and not in Ethernet mode (08, R199; 09, R226). -/
def State.ethMode (s : State) (p : Nat) : Bool := decide (12 ≤ p) && rb (cfg s .frtCtl p 0) 21

def State.timingOk (s : State) (p : Nat) : Bool := (s.port p).st = .up && !s.ethMode p

/-- TB_CFG fields (08, R199). -/
def State.isMaster (s : State) : Bool := rb (cfg s .tbCfg 0 0) 31
def State.primaryPort (s : State) : Nat := cf s .tbCfg 0 0 27 24
def State.alternatePort (s : State) : Nat := cf s .tbCfg 0 0 23 20
def State.masterDevid (s : State) : Nat := cf s .tbCfg 0 0 12 0

/-- The module's lock state becomes `b`: a change is reported, an unlocked module raises the timebase alarm (01, R16; 13, R308). -/
def State.setLocked (s : State) (b : Bool) : State :=
  let was := s.tb.locked
  let s := { s with tb := { s.tb with locked := b, alarm := !b || !s.tb.refOk } }
  if was = b then s
  else
    let s := s.platform .lockChange (b2n b)
    if b then s else s.count .timebaseUnlocked (.die 6) none

/-- Move a count by the difference of a load. -/
def shiftBy (d : Int) (t : Count) : Count := ((t : Int) + d).toNat

/-- A flit's arrival as a later count sees it. -/
def RxFlit.moved (x : RxFlit) (mv : Count → Count) : RxFlit := { x with came := mv x.came }

/-- A new count is loaded into the timebase (01, R15): gallery expiries keep their remaining time, SNAP_CTL.ARM clears, a pending
operating-point change is cancelled. Elapsed times that the module measures itself go on unchanged (log 16). Refresh windows follow the new
count (05, R131). Each die's count is this one (log 59). A rail raise
under way goes on to its end and stays: no rule lowers the rail again (log 60). -/
def State.loadCount (s : State) (c : Count) : State :=
  let d : Int := (c : Int) - (s.tb.count : Int)
  let mv := shiftBy d
  let snap := cfg s .snapCtl 0 0
  let s := setCfg (s.closeWindows (upFrom 0 12) fun k => s.inWindow k c) .snapCtl 0 0 (snap &&& 0xFFFFFFFD)
  let t : State := { s with
    tb := { s.tb with count := c, running := true, lastMark := s.tb.lastMark.map mv, lastCorr := s.tb.lastCorr.map mv, pending := 0 }
    op := { s.op with pend := none, railEnd := mv s.op.railEnd }
    parts := s.parts.map fun (e : Nat × Part) =>
      (e.1, { e.2 with gal := e.2.gal.map fun (g : Nat × GalObj) => (g.1, { g.2 with expiry := mv g.2.expiry }) })
    hbmStk := s.hbmStk.map fun (e : Nat × Stack) => (e.1, { e.2 with emergency := e.2.emergency.map mv, heldFrom := mv e.2.heldFrom, trippedAt := mv e.2.trippedAt })
    cores := s.cores.map fun (e : Nat × Core) => (e.1, { e.2 with memq := e.2.memq.map fun r => { r with issuedAt := mv r.issuedAt } })
    ports := s.ports.map fun (e : Nat × FPort) =>
      (e.1, { e.2 with lastAck := mv e.2.lastAck, resetAt := mv e.2.resetAt,
                       want := e.2.want.map (fun w => { w with since := mv w.since })
                       missedAt := e.2.missedAt.map fun (m : Nat × Count) => (m.1, mv m.2)
                       window := e.2.window.map fun (m : Nat × RxFlit) => (m.1, m.2.moved mv)
                       outq := e.2.outq.map fun (m : Nat × List RxFlit) => (m.1, m.2.map (·.moved mv)) })
    loose := s.loose.map fun k => { k with since := mv k.since }
    rings := s.rings.map fun (e : Nat × Ring) => (e.1, { e.2 with lastSignal := e.2.lastSignal.map mv })
    lastCluStart := s.lastCluStart.map mv }
  t.openWindows (upFrom 0 12)

/-- One KT tick (01, R13, R15): the count goes up by one, by none or by two where a correction is due and none was made in the last
256 ns. The eight dies' counts are one count here (01, R13, R14; log 59). -/
def State.tick (s : State) : State :=
  let s := { s with power := { s.power with stopping := false } }
  if s.tb.running then
    let due : Bool := decide (s.tb.pending ≠ 0) &&
      (match s.tb.lastCorr with | some t => decide (t + 256 ≤ s.tb.count) | none => true)
    let step : Nat := if due then (if 0 < s.tb.pending then 2 else 0) else 1
    let s' := { s with
      tb := { s.tb with count := (s.tb.count + step) % 2 ^ 64,
                        pending := if due then (if 0 < s.tb.pending then s.tb.pending - 1 else s.tb.pending + 1) else s.tb.pending,
                        lastCorr := if due then some s.tb.count else s.tb.lastCorr
                        jumped := due && decide (0 < s.tb.pending) }
      op := { s.op with milliCyc := s.op.milliCyc + opMHz s.op.cur } }
    if due then s'.count .correction (.die 6) none else s'
  else s

/-- TB_REF_LOSS (15, R347): the KT clock holds over, the domain master sends LOCKED 0, the timebase alarm is raised. -/
def execTbRefLoss (s : State) : Res :=
  let s := { s with tb := { s.tb with refOk := false, alarm := true } }
  .next (if s.isMaster ∧ s.tb.running then s.setLocked false else s)

/-- TB_REF_RETURN (15, R347): the domain master again sends LOCKED 1. -/
def execTbRefReturn (s : State) : Res :=
  let s := { s with tb := { s.tb with refOk := true, alarm := !s.tb.locked && s.tb.running } }
  .next (if s.isMaster ∧ s.tb.running then s.setLocked true else s)

/-- TB_SYNC_EDGE (15, R348; 01, R15): on the domain master, with ARM set and TB_SYNC an input, an edge held for 8 ns loads the preset. -/
def execTbSyncEdge (heldNs : Nat) (s : State) : Res :=
  let w := cfg s .tbSyncCfg 0 0
  .next (if s.isMaster ∧ s.tb.running ∧ rb w 31 ∧ !rb w 30 ∧ 8 ≤ heldNs ∧ !s.anyActive then
    let c := (cfg s .tbPresetLo 0 0).toNat + 2 ^ 32 * (cfg s .tbPresetHi 0 0).toNat
    setCfg (s.loadCount c) .tbSyncCfg 0 0 ((w &&& 0x7FFFFFFF) ||| 0x01000000)
  else s)

/-- TB_SYNC_PULSE (15, R348): as an output, a pulse at every multiple of 2^OUT_EXP. -/
def execTbSyncPulse (t : Count) (s : State) : Res :=
  let s := s.advance t
  let w := cfg s .tbSyncCfg 0 0
  .next (if s.atCount t ∧ rb w 30 ∧ t % 2 ^ rf w 29 25 = 0 then s.emit (.syncPulse t) else s)

/-- TB_SYNC_CFG may take a value (15, R348): OUT_EXP is 10 to 30, and ARM is set only on the master with no partition Armed, in Run or in Hold. -/
def State.syncCfgOk (s : State) (v : W32) : Bool :=
  decide (10 ≤ rf v 29 25) && decide (rf v 29 25 ≤ 30) && (!rb v 31 || (s.isMaster && !s.anyActive))

/-- A write of TB_SYNC_CFG: LOADED clears where a one is written (15, R348). -/
def State.putSyncCfg (s : State) (v : W32) : State :=
  let old := cfg s .tbSyncCfg 0 0
  let loaded : W32 := if rb old 24 ∧ !rb v 24 then 0x01000000 else 0
  setCfg s .tbSyncCfg 0 0 ((v &&& 0xFE000000) ||| loaded)

/-- A write of TB_CFG (08, R199; 14, R316): on a module whose KT clock runs, the write that sets MASTER starts the count. -/
def State.putTbCfg (s : State) (v : W32) : State :=
  let s := setCfg s .tbCfg 0 0 (v &&& 0x8FF01FFF)
  if rb v 31 ∧ 7 ≤ s.startup.stage ∧ !s.startup.stopped then
    let s := { s with tb := { s.tb with running := true, pending := 0, stratum := 0 } }
    (s.openWindows (upFrom 0 12)).setLocked s.tb.refOk
  else s

/-- TIME_MARK_SEND (08, R199; 09, R226): at each multiple of 4,096 a mark is due on every Up port outside Ethernet mode. -/
def execTimeMarkSend (t : Count) (s : State) : Res :=
  let s := s.advance t
  .next (if s.atCount t ∧ t % 4096 = 0 then
    { s with ports := s.ports.map fun (e : Nat × FPort) => (e.1, if s.timingOk e.1 then { e.2 with markDue := true } else e.2) }
  else s)

/-- A received time of 64 bits in sixteenths, the top bits of its count restored from a count (08, R187). -/
def restore16 (now : Count) (t16 : Nat) : Nat :=
  let low := t16 / 16 % 2 ^ 60
  let base := 2 ^ 60 * (now / 2 ^ 60)
  let a := base + low
  let n := if a + 2 ^ 59 < now then a + 2 ^ 60 else if now + 2 ^ 59 < a ∧ 2 ^ 60 ≤ a then a - 2 ^ 60 else a
  16 * n + t16 % 16

/-- The mark taken from a timing port sets the count going, corrects it or loads it (01, R15, R16; 14, R316). -/
def State.takeMark (s : State) (p tx16 arrival16 stratum : Nat) : State :=
  let want16 := restore16 s.tb.count tx16 + (s.port p).delay16
  if !s.tb.running then
    if 7 ≤ s.startup.stage ∧ !s.startup.stopped then
      let s := { s with
        tb := { s.tb with count := want16 / 16 % 2 ^ 64, running := true, stratum := stratum + 1, pending := 0, err := 0,
                          lastMark := some (want16 / 16 % 2 ^ 64) }
        ports := s.ports.map fun (e : Nat × FPort) =>
          (e.1, { e.2 with lastAck := e.2.lastAck + want16 / 16, resetAt := e.2.resetAt + want16 / 16 }) }
      (s.openWindows (upFrom 0 12)).setLocked true
    else s
  else
    let e16 : Int := (want16 : Int) - ((16 * s.tb.count + arrival16 : Nat) : Int)
    if (65536 * 16 : Int) < e16.natAbs ∧ !s.anyActive then
      let s := s.loadCount (want16 / 16 % 2 ^ 64)
      let s := { s with tb := { s.tb with err := 0, stratum := stratum + 1, lastMark := some s.tb.count } }
      s.setLocked true
    else
      let s := { s with tb := { s.tb with err := e16.tdiv 16, pending := e16.tdiv 16, stratum := stratum + 1,
                                          lastMark := some s.tb.count } }
      s.setLocked (decide (e16.natAbs ≤ 32))

/-- TIME_MARK (08, R199): taken from the primary timing port, or from the alternate while the primary delivers none. Marks with LOCKED 0
or another MASTER are ignored and counted. The domain master takes none. -/
def execTimeMark (p : Port) (txTime16 : Nat) (arrival16 : BitVec 4) (locked : Bool) (stratum : BitVec 8) (master : BitVec 13) (s : State) : Res :=
  if s.isMaster ∨ !s.timingOk p.val then .next s
  else
    let fromPrimary := p.val = s.primaryPort
    let fromAlternate := p.val = s.alternatePort ∧ s.tb.useAlternate
    if ¬ (fromPrimary ∨ fromAlternate) then .next s
    else if !locked ∨ master.toNat ≠ s.masterDevid then
      .next (({ s with tb := { s.tb with ignored := s.tb.ignored + 1 } }).count .markIgnored (.die 6) none)
    else
      let s := if fromPrimary then { s with tb := { s.tb with useAlternate := false } } else s
      .next (s.takeMark p.val txTime16 arrival16.toNat stratum.toNat)

/-- Time since the last valid mark exceeds `n` ns. -/
def State.noMarkFor (s : State) (n : Nat) : Bool :=
  match s.tb.lastMark with
  | some t => decide (t + n < s.tb.count)
  | none => true

/-- TIMEBASE_UNLOCK (01, R16): no valid mark within 16 mark intervals. -/
def execTimebaseUnlock (s : State) : Res :=
  .next (if s.tb.running ∧ !s.isMaster ∧ s.noMarkFor 65536 then s.setLocked false else s)

/-- TIMING_PORT_FAILOVER (08, R199): the primary is not Up or has delivered no mark for four intervals, and an alternate is named. -/
def execTimingPortFailover (s : State) : Res :=
  .next (if !s.isMaster ∧ s.alternatePort ≠ s.primaryPort ∧ (!s.timingOk s.primaryPort ∨ s.noMarkFor 16384) then
    { s with tb := { s.tb with useAlternate := true } }
  else s)

end Sys2Proof.Machine
end

