-- ==== Sys2Proof/Machine/CanvasImage.lean ====
section
/-! DEFINITION. The canvas image (04, R85, R86, R365; 06, R147-R149; 09, R211-R217; 07, R165) and the checks of staging, load and handover:
its header, its directory entries with the records they point to, and every other load check. -/

namespace Sys2Proof.Machine

/-- An image by canvas offset. -/
abbrev Img := Nat → Byte

def imgBytes (img : Img) (off n : Nat) : List Byte := (upFrom off n).map img
def imgNat (img : Img) (off n : Nat) : Nat := leNat (imgBytes img off n)
def imgWord (img : Img) (off : Nat) : Word := BitVec.ofNat 64 (imgNat img off 8)

/-- The image staged at a region address, as the module reads it (05, R130). -/
def State.stagedImg (s : State) (n addr : Nat) : Img := fun i => s.ownByte n (addr + i)

/-- The image that a list of bytes holds; zero past its end. -/
def imgOf (bs : List Byte) : Img := fun i => bs.getD i 0

/-- A refused canvas: status, number of the check in the order of R85, and the rest of DETAIL (12, R278). -/
structure Bad where
  status : Nat
  check : Nat
  arg : Nat
  deriving DecidableEq, Repr

/-- DETAIL (12, R278). -/
def Bad.detail (b : Bad) : Word := BitVec.ofNat 64 (at_ b.check 56 + b.arg % 2 ^ 56)

/-- The first refusal of a list of checks. -/
def firstBad {α : Type} : List (Option α) → Option α
  | [] => none
  | some b :: _ => some b
  | none :: l => firstBad l

/-- A refusal when a condition holds. -/
def badIf {α : Type} (c : Bool) (b : α) : Option α := if c then some b else none

/-! ### The header (04, R85; 06, R147) -/

/-- What the module keeps of a header. -/
def headCanvas (h : Img) (addr : Nat) : Canvas :=
  let p := imgNat h 0x06 2
  { beatExp := fld p 15 12, slackExp := fld p 11 9, op := fld p 8 6, gen := fld p 5 0, cls := fld (imgNat h 0x16 1) 7 5,
    weightless := bit (imgNat h 0x60 4) 0, addr := addr, total := imgNat h 0x58 8, cable := (upFrom 0x38 16).map fun a => imgNat h a 1 }

def headCores (h : Img) : Nat := imgNat h 0x0C 4
def headDir (h : Img) : Nat := imgNat h 0x50 8

/-- CRC-32C over 32-bit words as little-endian bytes (06, R147). -/
def digest (ws : List Nat) : Nat := crc32c (ws.flatMap (leBytes 4))

def State.extentDigest (s : State) (n : Nat) : Nat := digest ((upFrom 0 12).map fun k => (cfg s .ptHbmExt n k).toNat)
def State.refreshDigest (s : State) : Nat := digest ((upFrom 0 12).map fun k => (cfg s .stkRef k 0).toNat)

/-- The port word of LINK_DIGEST (06, R147). -/
def State.linkWord (s : State) (p : Nat) : Nat := 256 * b2n (s.ethMode p) + 16 * 2 ^ (s.port p).width + (s.port p).rate

/-- LINK_DIGEST over the ports named, in port order; 0 without shafts. -/
def State.linkDigest (s : State) (ports : List Nat) : Nat :=
  let ps := (upFrom 0 16).filter ports.contains
  if ps.isEmpty then 0 else digest (ps.map s.linkWord)

/-- The signature check (06, R147, R149): reserved fields and CLASS, then the rows in order. `ports` are the ports named in the shaft tables,
when they are known already: a load applies this check to the header before any other byte is read (04, R85), and once more to the whole image. A pending
target faster than OP fails row 7, which comes before what R29 (01) says of a load (log 74). -/
def State.sigCheck (s : State) (n : Nat) (h : Img) (ports : Option (List Nat)) : Option Bad :=
  let dd := imgNat h 0x14 2
  let cp := imgNat h 0x16 1
  let mask := imgNat h 0x28 16
  let cls := fld cp 7 5
  let op := (headCanvas h 0).op
  let row (r : Nat) (ok : Bool) : Option Bad := badIf (!ok) { status := stSIGNATURE, check := 3, arg := r }
  let jm := imgNat h 0x12 2
  firstBad [
    badIf (bit dd 15 || imgNat h 0x17 1 ≠ 0 || decide (2 ^ 66 ≤ mask) || imgNat h 0x48 8 ≠ 0 || decide (3 ≤ cls))
      { status := stRSVD, check := 3, arg := 0 },
    row 1 (imgNat h 0x10 2 = 1),
    row 2 (jm = cf s .ptJobCfg n 0 31 16 && imgNat h 0x18 4 = (cfg s .ptJobTopo n 0).toNat && decide (1 ≤ jm) && decide (jm ≤ 32768)),
    row 3 (fld dd 14 13 = s.domainNo && fld dd 12 0 = s.devid),
    row 4 (fld cp 4 0 = n && mask = s.cluMask n),
    row 5 (imgNat h 0x1C 4 = s.extentDigest n && imgNat h 0x20 4 = s.refreshDigest &&
      (match ports with | some ps => imgNat h 0x24 4 = s.linkDigest ps | none => true)),
    row 6 (imgNat h 0x08 4 = s.flash.fw3.running.timingRev),
    row 7 (decide (4 < op) || (decide (op ≤ s.op.cur) && match s.op.pend with | some x => decide (op ≤ x.1) | none => true)),
    row 8 (cls ≠ 0 || !s.assayEn n)]

/-- The first five checks of R85 on a header. `room`: bytes from the image's start to the end of what holds it. -/
def State.headCheck (s : State) (n : Nat) (h : Img) (ports : Option (List Nat)) (room : Nat) : Option Bad :=
  let c := headCanvas h 0
  let cores := headCores h
  firstBad [
    badIf (imgNat h 0xFC 4 ≠ crc32c (imgBytes h 0 0xFC)) { status := stCRCFAIL, check := 1, arg := 0 },
    badIf (imgNat h 0 4 ≠ 0x4E564143 || imgNat h 4 2 ≠ 1 || decide (2 ≤ imgNat h 0x60 4) || (imgBytes h 0x64 0x98).any (· ≠ 0))
      { status := stRSVD, check := 2, arg := 0 },
    s.sigCheck n h ports,
    badIf (decide (c.beatExp < 9) || decide (16 < c.beatExp) || decide (c.slackExp < 2) || decide (5 < c.slackExp))
      { status := stEXTENT, check := 4, arg := 0 },
    badIf (decide (4 < c.op) || cores = 0 || decide (528 < cores) || decide (c.total < 256) || decide (room < c.total) || headDir h % 64 ≠ 0 ||
        decide (c.total < headDir h + 64 * cores))
      { status := stEXTENT, check := 5, arg := 0 }]

/-! ### Directory entries and their records (04, R86) -/

/-- A directory entry's fields. -/
structure DirEnt where
  die : Nat
  clu : Nat
  core : Nat
  reserved : Bool
  len : Nat
  off : Nat
  base : Nat
  shapes : Nat
  slots : Nat
  shapeOff : Nat
  slotOff : Nat
  templateOff : Nat
  grantOff : Nat
  shaftOff : Nat
  deriving DecidableEq, Repr

/-- Entry `i` of an image's directory. -/
def dirEnt (img : Img) (i : Nat) : DirEnt :=
  let a := headDir img + 64 * i
  let id := imgNat img a 2
  { die := fld id 9 7, clu := fld id 6 3, core := fld id 2 0, reserved := fld id 15 10 ≠ 0 || imgNat img (a + 2) 2 ≠ 0,
    len := imgNat img (a + 4) 4, off := imgNat img (a + 8) 8, base := imgNat img (a + 0x10) 4, shapes := imgNat img (a + 0x14) 2,
    slots := imgNat img (a + 0x16) 2, shapeOff := imgNat img (a + 0x18) 8, slotOff := imgNat img (a + 0x20) 8,
    templateOff := imgNat img (a + 0x28) 8, grantOff := imgNat img (a + 0x30) 8, shaftOff := imgNat img (a + 0x38) 8 }

/-- The core an entry names; callers check its range first. -/
def DirEnt.id (e : DirEnt) : CoreId :=
  { die := ⟨e.die % 6, Nat.mod_lt _ (by decide)⟩, clu := ⟨e.clu % 11, Nat.mod_lt _ (by decide)⟩, core := ⟨e.core % 8, Nat.mod_lt _ (by decide)⟩ }

/-- The directory of an image. -/
def dirOf (img : Img) : List DirEnt := (upFrom 0 (Nat.min 528 (headCores img))).map (dirEnt img)

/-- Command `i` of an entry's stream. -/
def DirEnt.cmd (e : DirEnt) (img : Img) (i : Nat) : Cmd := cmdOf (imgBytes img (e.off + 32 * i) 32)

/-- A landing-slot entry (04, R103). -/
def slotDefOf (w : Word) : SlotDef :=
  { valid := wb w 0, base := wf w 63 38, size := wf w 37 26, role := wf w 25 16, timeout := wf w 15 4 }

def DirEnt.slotWord (e : DirEnt) (img : Img) (i : Nat) : Word := imgWord img (e.slotOff + 8 * i)
def DirEnt.roleWord (e : DirEnt) (img : Img) (i : Nat) : Nat := imgNat img (e.slotOff + 8 * e.slots + 2 * i) 2

/-- Size in bytes of a valid slot, 0 of any other. -/
def DirEnt.slotSize (e : DirEnt) (img : Img) (i : Nat) : Nat :=
  if i < e.slots ∧ (slotDefOf (e.slotWord img i)).valid then 256 * (slotDefOf (e.slotWord img i)).size else 0

/-- A stencil template: store address, entries, and the canvas offset of its entries (04, R365). -/
structure Template where
  addr : Nat
  len : Nat
  off : Nat
  deriving DecidableEq, Repr

/-- Bytes of a record with its entries and padding. -/
def templateBytes (len : Nat) : Nat := 8 + (4 * len + 7) / 8 * 8

/-- The templates of a list from an offset on. -/
def templatesFrom (img : Img) : Nat → Nat → List Template
  | 0, _ => []
  | n + 1, p =>
    let w := imgWord img p
    { addr := wf w 25 0, len := wf w 48 32, off := p + 8 } :: templatesFrom img n (p + templateBytes (wf w 48 32))

/-- The status that refuses a template list, if any (04, R365). -/
def templatesBad (img : Img) (total : Nat) : Nat → Nat → Option Nat
  | 0, _ => none
  | n + 1, p =>
    if total < p + 8 then some stEXTENT
    else
      let w := imgWord img p
      let len := wf w 48 32
      let addr := wf w 25 0
      if wf w 63 49 ≠ 0 ∨ wf w 31 26 ≠ 0 then some stRSVD
      else if len = 0 ∨ 65536 < len ∨ addr % 4 ≠ 0 ∨ !rangeOk (addr : Int) (4 * len) ∨ total < p + templateBytes len then some stEXTENT
      else if len % 2 = 1 ∧ imgNat img (p + 8 + 4 * len) 4 ≠ 0 then some stRSVD
      else templatesBad img total n (p + templateBytes len)

def DirEnt.templates (e : DirEnt) (img : Img) : List Template :=
  if e.templateOff = 0 then [] else templatesFrom img (imgNat img (e.templateOff + 6) 2) (e.templateOff + 8)

def DirEnt.templateBad (e : DirEnt) (img : Img) (total : Nat) : Option Nat :=
  if e.templateOff = 0 then none
  else if total < e.templateOff + 8 then some stEXTENT
  else if imgNat img e.templateOff 6 ≠ 0 then some stRSVD
  else if imgNat img (e.templateOff + 6) 2 = 0 then some stEXTENT
  else templatesBad img total (imgNat img (e.templateOff + 6) 2) (e.templateOff + 8)

/-- Grant entry `i` of an entry's list, 0 the initial one (07, R165). -/
def DirEnt.grantWord (e : DirEnt) (img : Img) (i : Nat) : Word := imgWord img (e.grantOff + 8 * i)

/-- Grants that follow the initial one. -/
def DirEnt.grantCount (e : DirEnt) (img : Img) : Nat := wf (e.grantWord img 0) 31 16

def DirEnt.grants (e : DirEnt) (img : Img) : List Grant :=
  (upFrom 1 (e.grantCount img)).map fun i => { mark := wf (e.grantWord img i) 63 32, grant := wf (e.grantWord img i) 5 0 }

def DirEnt.firstGrant (e : DirEnt) (img : Img) : Nat := wf (e.grantWord img 0) 5 0

/-- Strictly rising marks. -/
def risingMarks : List Grant → Bool
  | [] => true
  | [_] => true
  | a :: b :: l => decide (a.mark < b.mark) && risingMarks (b :: l)

def DirEnt.grantBad (e : DirEnt) (img : Img) (total : Nat) : Option Nat :=
  if total < e.grantOff + 8 ∨ total < e.grantOff + 8 * (1 + e.grantCount img) then some stEXTENT
  else
    let gs := e.grants img
    if wf (e.grantWord img 0) 15 6 ≠ 0 ∨ (upFrom 1 (e.grantCount img)).any (fun i => wf (e.grantWord img i) 31 6 ≠ 0) then some stRSVD
    else if wf (e.grantWord img 0) 63 32 ≠ 0xFFFFFFFF ∨ !risingMarks gs ∨
        gs.any (fun g => decide (e.len ≤ g.mark) || (e.cmd img g.mark).opcode ≠ 0x50 || decide (32 < g.grant)) ∨ 32 < e.firstGrant img then
      some stEXTENT
    else none

/-! ### Shaft tables (09, "Core shaft table") -/

def DirEnt.sendCount (e : DirEnt) (img : Img) : Nat := if e.shaftOff = 0 then 0 else wf (imgWord img e.shaftOff) 63 48
def DirEnt.listCount (e : DirEnt) (img : Img) : Nat := if e.shaftOff = 0 then 0 else wf (imgWord img e.shaftOff) 47 40
def DirEnt.recCount (e : DirEnt) (img : Img) : Nat := if e.shaftOff = 0 then 0 else wf (imgWord img e.shaftOff) 39 28

/-- Where the list headers, the descriptors and the port records begin. -/
def DirEnt.listsAt (e : DirEnt) (img : Img) : Nat := e.shaftOff + 16 + 2 * e.sendCount img
def DirEnt.descsAt (e : DirEnt) (img : Img) : Nat := e.listsAt img + 8 * e.listCount img

def DirEnt.listLen (e : DirEnt) (img : Img) (l : Nat) : Nat := wf (imgWord img (e.listsAt img + 8 * l)) 63 52

/-- Descriptors of the lists before `l`. -/
def DirEnt.descsBefore (e : DirEnt) (img : Img) (l : Nat) : Nat := ((upFrom 0 l).map (e.listLen img)).foldl (· + ·) 0

def DirEnt.recsAt (e : DirEnt) (img : Img) : Nat := e.descsAt img + 16 * e.descsBefore img (e.listCount img)

/-- The send entries: port and shaft. -/
def DirEnt.sends (e : DirEnt) (img : Img) : List (Nat × Nat) :=
  (upFrom 0 (e.sendCount img)).map fun i =>
    let w := imgNat img (e.shaftOff + 16 + 2 * i) 2
    (fld w 15 12, fld w 11 6)

/-- A landing descriptor. -/
def landDescOf (w0 w1 : Word) : LandDesc :=
  { slot := wf w0 63 58, flag := wf w0 57 52, dfen := wb w0 51, len := wf w0 50 31, srcDomain := wf w1 63 62, srcDevid := wf w1 61 49,
    src := { die := ⟨wf w1 48 46 % 6, Nat.mod_lt _ (by decide)⟩, clu := ⟨wf w1 45 42 % 11, Nat.mod_lt _ (by decide)⟩,
             core := ⟨wf w1 41 39 % 8, Nat.mod_lt _ (by decide)⟩ } }

/-- Canvas offset of descriptor `j` of all. -/
def DirEnt.descAt (e : DirEnt) (img : Img) (j : Nat) : Nat := e.descsAt img + 16 * j

/-- The status of a landing descriptor that no rule admits: must-be-zero bits, a range beyond its slot, or a source that is no core of a module (09, R217;
log 96). -/
def DirEnt.descBad (e : DirEnt) (img : Img) (j : Nat) : Option Nat :=
  let w0 := imgWord img (e.descAt img j)
  let w1 := imgWord img (e.descAt img j + 8)
  if wf w0 30 0 ≠ 0 ∨ wf w1 38 0 ≠ 0 then some stRSVD
  else if e.slotSize img (wf w0 63 58) < wf w0 50 31 ∨ 5 < wf w1 48 46 ∨ 10 < wf w1 45 42 then some stEXTENT
  else none

/-- A landing list at its load value. -/
def DirEnt.list (e : DirEnt) (img : Img) (l : Nat) : LandList :=
  { descs := (upFrom (e.descsBefore img l) (e.listLen img l)).map fun j => landDescOf (imgWord img (e.descAt img j)) (imgWord img (e.descAt img j + 8)),
    ptr := 0, flits := 0, data := [], stray := false, again := none }

/-- A port record. -/
def claimOf (w : Word) : Claim :=
  { portNo := ⟨wf w 63 60 % 16, Nat.mod_lt _ (by decide)⟩, ingress := wb w 59, entryNo := ⟨wf w 58 53 % 64, Nat.mod_lt _ (by decide)⟩, image := wf w 31 0 }

def DirEnt.claimWord (e : DirEnt) (img : Img) (i : Nat) : Word := imgWord img (e.recsAt img + 8 * i)
def DirEnt.claims (e : DirEnt) (img : Img) : List Claim := (upFrom 0 (e.recCount img)).map fun i => claimOf (e.claimWord img i)

/-- Fields of a claim's image (09, R211 tables). -/
def Claim.typ (c : Claim) : Nat := fld c.image 31 30
def Claim.shaft (c : Claim) : Nat := fld c.image 29 24

/-- Core and list of a landing ingress image: DIE in [29:27], CLUSTER in [26:23], CORE in [22:20], LIST in [19:14]. -/
def landCore (image : Nat) : Option CoreId :=
  let d := fld image 29 27
  let k := fld image 26 23
  if h : d < 6 ∧ k < 11 then some { die := ⟨d, h.1⟩, clu := ⟨k, h.2⟩, core := ⟨fld image 22 20 % 8, Nat.mod_lt _ (by decide)⟩ } else none

def landList (image : Nat) : Nat := fld image 19 14

def State.claimBad (s : State) (w : Word) : Option Nat :=
  let c := claimOf w
  let reserved : Nat := if c.ingress then (if c.typ = 1 then fld c.image 19 0 else fld c.image 13 0) else fld c.image 23 0
  if wf w 52 32 ≠ 0 ∨ reserved ≠ 0 then some stRSVD
  else if s.ethMode c.port ∨ (if c.ingress then c.typ = 3 ∨ (c.typ = 2 ∧ (landCore c.image).isNone) else 2 ≤ c.typ) then some stEXTENT
  else none

/-- Two landing records of different ports name one core and list (09, R216). -/
def listFedTwice : List Claim → Bool
  | [] => false
  | c :: l => (c.ingress && c.typ = 2 && l.any fun d => d.ingress && d.typ = 2 && d.port ≠ c.port && fld d.image 29 14 = fld c.image 29 14) || listFedTwice l

/-- A SEND on a shaft names no send entry. -/
def DirEnt.sendOutside (e : DirEnt) (img : Img) : Bool :=
  (upFrom 0 e.len).any fun i => let q := e.cmd img i; q.opcode = 0x30 && wf q.w0 22 21 = 1 && decide (e.sendCount img ≤ wf q.w1 39 32)

/-- The status that refuses an entry's shaft table. `claims` are the canvas's port records, `lowest` whether the entry is that of the
partition's lowest core. -/
def State.shaftBad (s : State) (e : DirEnt) (img : Img) (total : Nat) (claims : List Claim) (lowest : Bool) : Option Nat :=
  if e.shaftOff ≠ 0 ∧ total < e.shaftOff + 16 then some stEXTENT
  else if 256 < e.sendCount img ∨ 64 < e.listCount img ∨ 2048 < e.recCount img ∨ (e.recCount img ≠ 0 ∧ !lowest) then some stEXTENT
  else if e.shaftOff ≠ 0 ∧ total < e.recsAt img + 8 * e.recCount img then some stEXTENT
  else
    let heads := if e.shaftOff = 0 then false
      else wf (imgWord img e.shaftOff) 27 0 ≠ 0 || imgWord img (e.shaftOff + 8) ≠ 0 ||
        (upFrom 0 (e.sendCount img)).any (fun i => fld (imgNat img (e.shaftOff + 16 + 2 * i) 2) 5 0 ≠ 0) ||
        (upFrom 0 (e.listCount img)).any (fun l => wf (imgWord img (e.listsAt img + 8 * l)) 51 0 ≠ 0)
    if heads then some stRSVD
    else firstBad ([
      badIf ((upFrom 0 (e.listCount img)).any (fun l => e.listLen img l = 0)) stEXTENT,
      badIf (e.sendOutside img) stEXTENT,
      badIf ((e.sends img).any fun ps => !claims.any fun c => !c.ingress && c.typ = 1 && decide (c.port = ps.1) && decide (c.shaft = ps.2)) stEXTENT] ++
      (upFrom 0 (e.descsBefore img (e.listCount img))).map (e.descBad img) ++
      (upFrom 0 (e.recCount img)).map (fun i => s.claimBad (e.claimWord img i)) ++
      [badIf (lowest && listFedTwice claims) stEXTENT])

/-- The status that refuses a directory entry (04, R86). `seen`: cores named by earlier entries. -/
def State.dirBad (s : State) (n : Nat) (img : Img) (total : Nat) (claims : List Claim) (lowest : Nat) (seen : List Nat) (e : DirEnt) : Option Nat :=
  let k := e.id
  if e.reserved then some stRSVD
  else if 5 < e.die ∨ 10 < e.clu ∨ !s.ownsClu n k.cluIx ∨ seen.contains k.ix ∨ e.len = 0 ∨ 65536 < e.len ∨ e.off % 32 ≠ 0 ∨
      total < e.off + 32 * e.len ∨ e.base % 32 ≠ 0 ∨ 0x400000 < e.base + 32 * e.len ∨ 256 < e.shapes ∨ 64 < e.slots ∨
      total < e.shapeOff + 32 * e.shapes ∨ total < e.slotOff + 8 * e.slots + 128 ∨ e.templateOff % 8 ≠ 0 then some stEXTENT
  else firstBad [
    badIf ((upFrom 0 e.shapes).any fun i => wf (imgWord img (e.shapeOff + 32 * i + 16)) 31 0 ≠ 0 || imgWord img (e.shapeOff + 32 * i + 24) ≠ 0) stRSVD,
    badIf ((upFrom 0 e.shapes).any fun i => (upFrom 0 4).any fun j => imgNat img (e.shapeOff + 32 * i + 2 * j) 2 = 0) stEXTENT,
    badIf ((upFrom 0 e.slots).any (fun i => wf (e.slotWord img i) 3 1 ≠ 0) || (upFrom 0 64).any (fun i => decide (1024 ≤ e.roleWord img i))) stRSVD,
    badIf ((upFrom 0 e.slots).any fun i =>
      let d := slotDefOf (e.slotWord img i)
      d.valid && (d.base % 256 ≠ 0 || d.size = 0 || !rangeOk (d.base : Int) (256 * d.size))) stEXTENT,
    e.templateBad img total,
    e.grantBad img total,
    s.shaftBad e img total claims (k.ix = lowest)]

/-- The partition's lowest core: core 0 of its lowest cluster (09, PORT_RECS). -/
def State.lowestCore (s : State) (n : Nat) : Nat := 8 * ((upFrom 0 66).find? (s.ownsClu n)).getD 66

/-- The port records of a canvas. -/
def State.claimsOf (s : State) (n : Nat) (img : Img) : List Claim :=
  match (dirOf img).find? fun e => e.id.ix = s.lowestCore n with
  | some e => if e.recCount img ≤ 2048 then e.claims img else []
  | none => []

/-- The ports that a canvas's shaft tables name. -/
def State.portsOf (s : State) (n : Nat) (img : Img) : List Nat :=
  (s.claimsOf n img).map (·.port) ++ (dirOf img).flatMap fun e => if e.sendCount img ≤ 256 then (e.sends img).map (·.1) else []

/-- The sixth check: entry by entry (04, R85, R86). -/
def State.dirCheck (s : State) (n : Nat) (img : Img) (total : Nat) (claims : List Claim) (lowest : Nat) : Nat → List Nat → List DirEnt → Option Bad
  | _, _, [] => none
  | i, seen, e :: es =>
    match s.dirBad n img total claims lowest seen e with
    | some st => some { status := st, check := 6, arg := i }
    | none => s.dirCheck n img total claims lowest (i + 1) (e.id.ix :: seen) es

/-! ### Port entries (09, R211, R224) -/

/-- The key table index of a key at a port. -/
def State.keyIndex (s : State) (p key : Nat) : Option Nat := (upFrom 0 64).find? fun i => s.keyAt p i = some key

/-- The word that a claim puts in a table: KIDX, GEN and LOCAL filled in. -/
def State.claimImage (s : State) (n gen : Nat) (c : Claim) : W32 :=
  let k := (s.keyIndex c.port (s.keyOf n)).getD 0
  BitVec.ofNat 32 (if c.ingress then c.image + at_ k 8 + at_ gen 2 + 2 else c.image + at_ k 18 + at_ gen 12 + at_ 1 11)

/-- Claims written into the current copies, or into the next ones. -/
def State.putClaims (s : State) (n gen : Nat) (cl : List Claim) (next : Bool) : State :=
  cl.foldl (fun t c =>
    let w := s.claimImage n gen c
    match c.ingress, next with
    | false, false => setCfg t .fabCalc c.port c.entry w
    | false, true => setCfg t .fabCal c.port c.entry w
    | true, false => setCfg t .fabInc c.port c.entry w
    | true, true => setCfg t .fabIn c.port c.entry w) s

/-- Claims taken out of one of the copies. -/
def State.clearClaims (s : State) (cl : List Claim) (next : Bool) : State :=
  cl.foldl (fun t c =>
    match c.ingress, next with
    | false, false => setCfg t .fabCalc c.port c.entry 0
    | false, true => setCfg t .fabCal c.port c.entry 0
    | true, false => setCfg t .fabInc c.port c.entry 0
    | true, true => setCfg t .fabIn c.port c.entry 0) s

/-- The port entries of a partition's canvases taken out of both copies; at a port that has switched the next canvas's are in the current one (01, R38). -/
def State.clearPorts (s : State) (n : Nat) : State :=
  let p := s.part n
  ((s.clearClaims p.claims false).clearClaims p.nextClaims true).clearClaims
    (p.nextClaims.filter fun c => (s.port c.port).switched.any fun w => w.1 = n) false

/-- An entry of a copy is owned by another key: it is in use under a key that is not this one. -/
def State.ownedByOther (s : State) (c : Claim) (key : Nat) (w : W32) : Bool :=
  rf w 31 30 ≠ 0 && (s.keyAt c.port (if c.ingress then rf w 13 8 else rf w 23 18) ≠ some key)

/-- Entries of TYPE loose in a calendar. -/
def State.looseEntries (s : State) (p : Nat) (next : Bool) : Nat :=
  ((upFrom 0 64).filter fun e => (if next then cf s .fabCal p e 31 30 else cf s .fabCalc p e 31 30) = 0).length

/-- The checks of R211 and R224 on a canvas's port records. -/
def State.claimsOk (s : State) (n gen : Nat) (cl : List Claim) (next : Bool) : Bool :=
  let key := s.keyOf n
  let t := s.putClaims n gen cl next
  cl.all fun c => (s.keyIndex c.port key).isSome &&
    !s.ownedByOther c key (if c.ingress then cfg s .fabInc c.port c.entry else cfg s .fabCalc c.port c.entry) &&
    !s.ownedByOther c key (if c.ingress then cfg s .fabIn c.port c.entry else cfg s .fabCal c.port c.entry) &&
    decide (4 ≤ t.looseEntries c.port false) && decide (4 ≤ t.looseEntries c.port true)

/-! ### The seventh check -/

/-- A pending operating-point change refuses a canvas (01, R29). -/
def State.opBlocks (s : State) (c : Canvas) : Bool :=
  match s.op.pend with
  | some (t, count) => let b := 2 ^ c.beatExp; count % b ≠ 0 || decide (count < s.now + 64 * b) || decide (t < c.op)
  | none => false

/-- The extents break R124. -/
def State.extentsBad (s : State) (n : Nat) : Bool := (s.extents n).any (s.extentBad n)

/-- The cluster set meets that of another partition (12, R267). -/
def State.clustersBad (s : State) (n : Nat) : Bool := (s.others n).any fun m => s.cluMask n &&& s.cluMask m ≠ 0

/-- The partition has cores on a die. -/
def State.onDie (s : State) (n d : Nat) : Bool := (upFrom (11 * d) 11).any (s.ownsClu n)

/-- The lamp registers break R167. -/
def State.lampsBad (s : State) (n : Nat) : Bool :=
  (upFrom 0 6).any fun d =>
    let ps := n :: (s.others n).filter fun m => s.onDie m d
    s.onDie n d && (decide (cf s .ptLamp n d 22 16 < 8) || decide (1312 < (ps.map fun m => cf s .ptLamp m d 10 0).foldl (· + ·) 0) ||
      decide (64 < (ps.map fun m => cf s .ptLamp m d 22 16).foldl (· + ·) 0))

/-- The gallery shares of a link exceed its rate (05, R140). -/
def State.sharesBad (s : State) (n : Nat) : Bool :=
  match s.owner n with
  | none => false
  | some f =>
    let ps := n :: (s.others n).filter fun m => (s.owner m).any fun g => g.link = f.link
    let lim := if s.split f.link then 60 else 121
    decide (lim < (ps.map fun m => cf s .ptGalRate m 0 15 8).foldl (· + ·) 0) || decide (lim < (ps.map fun m => cf s .ptGalRate m 0 7 0).foldl (· + ·) 0)

/-- The shadow area reaches past the region (06, R154). -/
def State.shadowBad (s : State) (n : Nat) : Bool :=
  s.assayEn n && decide (s.regionSize n < (s.shadow n).1 + (s.shadow n).2)

/-! ### Serving registers and the serving map (11, R242, R247) -/

def State.srvCount (s : State) (n : Nat) : Nat := cf s .srvSlots n 0 31 21
def State.srvBase (s : State) (n : Nat) : Nat := cf s .srvSlots n 0 9 0
def State.hbRows (s : State) (n : Nat) : Nat := cf s .srvShape n 0 31 22
def State.draftMax (s : State) (n : Nat) : Nat := cf s .srvShape n 0 21 18
def State.vgMax (s : State) (n : Nat) : Nat := cf s .srvShape n 0 17 13
def State.prefillMax (s : State) (n : Nat) : Nat := cf s .srvShape n 0 12 0
def State.halfBeats (s : State) (n : Nat) : Nat := cf s .srvTime n 0 31 16
def State.overlapBeats (s : State) (n : Nat) : Nat := cf s .srvTime n 0 15 0
def State.kvPages (s : State) (n : Nat) : Nat := cf s .srvKv1 n 0 31 12
def State.pageBytes (s : State) (n : Nat) : Nat := 256 * cf s .srvKv1 n 0 11 0
def State.pageMax (s : State) (n : Nat) : Nat := cf s .srvKv2 n 0 31 16
def State.kvLayers (s : State) (n : Nat) : Nat := cf s .srvKv2 n 0 12 0
def State.kvAt (s : State) (n : Nat) : Nat := 4096 * cf s .srvKv0 n 0 31 4
def State.tlogAt (s : State) (n : Nat) : Nat := 4096 * cf s .srvTlog n 0 31 4
def State.pstAt (s : State) (n : Nat) : Nat := 4096 * cf s .srvPst n 0 31 4
def State.mapAt (s : State) (n : Nat) : Nat := 4096 * cf s .srvMap n 0 31 4

/-- ENTRIES of the serving map. -/
def State.mapCount (s : State) (n : Nat) : Nat := wf (s.hbmWord n (s.mapAt n)) 63 48

/-- The four serving areas: start and length (11, R242). -/
def State.servingAreas (s : State) (n : Nat) : List (Nat × Nat) :=
  [(s.kvAt n, s.kvLayers n * s.kvPages n * s.pageBytes n), (s.tlogAt n, 256 * (s.srvCount n * s.pageMax n)),
   (s.pstAt n, s.srvCount n * (s.pageMax n * 4 + 64)), (s.mapAt n, 16 + 16 * s.mapCount n)]

/-- The serving registers break R242. -/
def State.servingBad (s : State) (n : Nat) : Bool :=
  let cnt := s.srvCount n
  let hb := s.hbRows n
  decide (1024 < s.srvBase n + cnt) || (s.others n).any (fun m => meets (s.srvBase n, cnt) (s.srvBase m, s.srvCount m)) ||
  decide (hb < 8) || decide (512 < hb) || hb % 8 ≠ 0 || s.vgMax n = 0 || decide (16 < s.vgMax n) || s.prefillMax n = 0 || decide (hb < s.prefillMax n) ||
  decide (s.halfBeats n < 2) || decide (s.halfBeats n ≤ 2 * s.overlapBeats n) || s.kvPages n = 0 || s.pageBytes n = 0 || s.pageMax n = 0 ||
  s.kvLayers n = 0 || decide (4096 < s.kvLayers n) ||
  (let as := s.servingAreas n
   as.any (fun a => decide (s.regionSize n < a.1 + a.2)) || anyMeet as || as.any fun a => (s.layerExtents n).any (meets a))

/-- An entry of the serving map (11, R247). -/
structure MapEnt where
  kind : Nat
  half : Nat
  group : Nat
  core : Nat
  first : Nat
  addr : Nat
  haddr : Nat
  len : Nat
  reserved : Bool
  deriving DecidableEq, Repr

def mapEntOf (w0 w1 : Word) : MapEnt :=
  let k := wf w0 63 60
  { kind := k, half := wf w0 59 59, group := wf w0 58 55, core := 88 * wf w0 54 52 + 8 * wf w0 51 48 + wf w0 47 45, first := wf w0 44 35,
    addr := wf w0 25 0, haddr := wf w1 63 24, len := wf w1 16 0,
    reserved := decide (5 ≤ k) || wf w0 34 26 ≠ 0 || wf w1 23 17 ≠ 0 || (k ≠ 2 && wf w0 58 55 ≠ 0) || (k ≠ 1 && wf w0 44 35 ≠ 0) ||
      (k = 4 && (wf w0 54 45 ≠ 0 || wf w0 25 0 ≠ 0)) || (k ≠ 4 && wf w1 63 24 ≠ 0) || (k ≠ 4 && (decide (5 < wf w0 54 52) || decide (10 < wf w0 51 48))) }

/-- The serving map of a partition. -/
def State.servingMap (s : State) (n : Nat) : List MapEnt :=
  (upFrom 0 (s.mapCount n)).map fun i => let a := s.mapAt n + 16 + 16 * i; mapEntOf (s.hbmWord n a) (s.hbmWord n (a + 8))

/-- LEN of an entry as the table gives it. -/
def State.mapLenOk (s : State) (n : Nat) (m : MapEnt) : Bool :=
  match m.kind with
  | 0 => m.len = 2 * s.hbRows n
  | 1 => m.len % s.pageMax n = 0 && decide (1 ≤ m.len / s.pageMax n) && decide (m.first + m.len / s.pageMax n ≤ s.hbRows n)
  | 2 => m.len = s.hbRows n
  | 3 => m.len = 512
  | _ => m.len = 4 + s.hbRows n

/-- The serving map breaks R247 against a canvas. -/
def State.mapBad (s : State) (n : Nat) (img : Img) : Bool :=
  let ms := s.servingMap n
  let es := dirOf img
  let has (h k g : Nat) : Bool := ms.any fun m => m.half = h && m.kind = k && m.group = g
  s.mapCount n = 0 || decide (4095 < s.mapCount n) || ms.any (fun m => !s.mapLenOk n m) ||
  ms.any (fun m => m.kind ≠ 4 && !es.any fun e => e.id.ix = m.core && (e.templates img).any fun t => t.addr = m.addr && t.len = m.len) ||
  (upFrom 0 2).any fun h =>
    !has h 0 0 || !has h 3 0 || !has h 4 0 || (upFrom 0 (s.vgMax n)).any (fun g => !has h 2 g) ||
    (upFrom 0 (s.hbRows n)).any fun j =>
      !ms.any fun m => m.half = h && m.kind = 1 && decide (m.first ≤ j) && decide (j < m.first + m.len / s.pageMax n)

/-- The seventh check (04, R85): every other load check. -/
def State.restCheck (s : State) (n : Nat) (img : Img) (next : Bool) : Option Bad :=
  let c := headCanvas img 0
  let no (b : Bool) : Option Bad := badIf b { status := stEXTENT, check := 7, arg := 0 }
  let lim (d : Nat) : Nat := cf s .ptLamp n d 10 0
  let tooHigh (e : DirEnt) : Bool := decide (lim e.die < e.firstGrant img) || (e.grants img).any fun g => decide (lim e.die < g.grant)
  firstBad [
    no (s.keyOf n = 0 || s.cluMask n = 0),
    no (s.opBlocks c),
    no (s.clustersBad n),
    no (s.extentsBad n),
    ((dirOf img).findIdx? tooHigh).map fun i => { status := stEXTENT, check := 7, arg := i },
    no (s.lampsBad n),
    no (s.sharesBad n),
    no (s.shadowBad n),
    no (!s.claimsOk n c.gen (s.claimsOf n img) next),
    no (s.srvCount n ≠ 0 && s.servingBad n),
    badIf (s.srvCount n ≠ 0 && (s.servingMap n).any MapEnt.reserved) { status := stRSVD, check := 7, arg := 0 },
    no (s.srvCount n ≠ 0 && s.mapBad n img)]

/-- The checks from the sixth on, after the header's five. -/
def State.bodyCheck (s : State) (n : Nat) (img : Img) (next : Bool) : Option Bad :=
  firstBad [s.dirCheck n img (headCanvas img 0).total (s.claimsOf n img) (s.lowestCore n) 0 [] (dirOf img), s.restCheck n img next]

/-- All seven checks on an image that can be read whole (04, R85). -/
def State.imageCheck (s : State) (n : Nat) (img : Img) (room : Nat) (next : Bool) : Option Bad :=
  firstBad [s.headCheck n img (some (s.portsOf n img)) room, s.bodyCheck n img next]

end Sys2Proof.Machine
end

