-- ==== Sys2Proof/Machine/Slots.lean ====
section
/-! DEFINITION. The steward's records in the HBM region (11, R243): the request table, the page lists and the token logs, kept equal to the
slots of `Srv`; and what a repaint's release does to slots (10, R239; 11, R244). -/

namespace Sys2Proof.Machine

/-! ### Request-table entries (11, R243) -/

def SlotState.code : SlotState → Nat
  | .free => 0 | .prefill => 1 | .decode => 2 | .paused => 3 | .galleried => 4

/-- A request-table entry's eight words. -/
def SrvSlot.words (z : SrvSlot) : List Nat :=
  [at_ z.state.code 61 + at_ (z.cls % 8) 58 + at_ (z.variant % 1024) 48 + at_ (z.half % 2) 47 + at_ (b2n z.prevDecode) 46 + at_ (b2n z.returning) 45 +
     at_ (b2n z.hostHold) 44 + at_ (z.draft % 16) 40 + at_ (z.wgen % 256) 32 + at_ (z.reqId % 65536) 16,
   z.deadline, at_ (z.committed % 2 ^ 23) 41 + at_ (z.prompt % 2 ^ 23) 18 + at_ (b2n z.more) 17,
   at_ (z.limit % 2 ^ 23) 41 + at_ (z.pages.length % 65536) 25 + at_ (b2n z.stopEn) 24 + z.stop % 2 ^ 24, z.pausedAt, z.galExpiry,
   at_ (z.galOff % 2 ^ 40) 24, 0]

def SrvSlot.bytes (z : SrvSlot) : List Byte := z.words.flatMap (leBytes 8)

/-- A page-list entry: a stencil entry that names a page (11, R243; 04, R99). -/
def pageEntry (x : Nat × Nat) : Nat := 2 ^ 31 + x.1

/-- A slot of a partition's steward. -/
def Srv.slot (v : Srv) (i : Nat) : SrvSlot := Tab.get SrvSlot.free v.slots i

def State.srvSlot (s : State) (n i : Nat) : SrvSlot :=
  match (s.part n).srv with
  | some v => v.slot i
  | none => SrvSlot.free

/-- Change the steward of a partition. -/
def State.updSrv (s : State) (n : Nat) (f : Srv → Srv) : State := s.updPart n fun p => { p with srv := p.srv.map f }

/-- A slot changes: its entry, its page list and its token log in the region follow (11, R243). -/
def State.putSlot (s : State) (n i : Nat) (z : SrvSlot) : State :=
  let old := s.srvSlot n i
  let base := s.pstAt n
  let row := 4 * s.pageMax n
  let s := s.updSrv n fun v => { v with slots := Tab.put v.slots i z }
  let s := s.ownWrite n (base + s.srvCount n * row + 64 * i) z.bytes
  let s := if z.pages = old.pages then s
    else s.ownWrite n (base + row * i) ((z.pages.map pageEntry ++ List.replicate (old.pages.length - z.pages.length) 0).flatMap (leBytes 4))
  if z.log = old.log then s else s.ownWrite n (s.tlogAt n + 64 * row * i) (z.log.flatMap (leBytes 4))

/-- Slots of a partition in order. -/
def State.srvSlots (s : State) (n : Nat) : List (Nat × SrvSlot) := match (s.part n).srv with | some v => v.slots | none => []

/-! ### Requests that end (11, R244, R257; 12, R286) -/

/-- A delivery record. -/
def State.deliveryRec (s : State) (n i : Nat) (z : SrvSlot) (toks : List Nat) (status : Nat) (final missed : Bool) (committed : Nat) : Rec :=
  { opcode := 0x80, status := status, sq := 0, tag := 0xFFFF, detail := 0,
    w3 := BitVec.ofNat 64 (at_ z.reqId 48 + at_ (s.srvBase n + i) 38 + at_ toks.length 33 + at_ (b2n final) 32 + at_ (b2n missed) 31),
    w4 := BitVec.ofNat 64 committed, w5 := 0, w6 := 0, payload := toks.flatMap (leBytes 3), ends := false, pt := n }

/-- The slot's deadline has passed. -/
def SrvSlot.late (z : SrvSlot) (now : Count) : Bool := z.deadline ≠ 0 && decide (z.deadline < now)

/-- A request ends without tokens: the slot is free and the final delivery follows (11, R244; 12, R286). -/
def State.endSlot (s : State) (n i status : Nat) : State :=
  let z := s.srvSlot n i
  let r := s.deliveryRec n i z [] status true (status = stCANCELLED && z.late s.now) z.committed
  (s.putSlot n i SrvSlot.free).unsolicited n r

/-- Every slot galleried in the object ends, and moves under way are dropped (11, R257). -/
def State.endGalleried (s : State) (n : Nat) : State :=
  (s.srvSlots n).foldl (fun s e =>
    if e.2.state = .galleried then s.endSlot n e.1 stGALEXPIRED
    else if e.2.moving then s.putSlot n e.1 { e.2 with moving := false, galOff := 0, galSize := 0 }
    else s) s

/-- The object of galleried slots is reclaimed, or its handle rewritten: they end at once, or when a steward that has stopped resumes (11, R257, R261). -/
def State.galleryGone (s : State) (n : Nat) : State :=
  if (s.part n).st = .faultStop then s.updSrv n fun v => { v with galGone := true } else s.endGalleried n

/-! ### Release of a repaint (10, R238, R239; 11, R244) -/

/-- The slot holds a page of another generation than `wgen`, in HBM or in the gallery. -/
def SrvSlot.stalePages (z : SrvSlot) (wgen : Nat) : Bool := z.pages.any (fun x => x.2 ≠ wgen) || z.galGens.any (· ≠ wgen)

/-- A slot goes back to prefill: its pages and gallery copy are freed, its token log is kept (11, R244), and so is a delivery that waits (R259). One in prefill
stays there; PAUSED_AT of a galleried one stays that of its pause (log 100). -/
def SrvSlot.rePrefill (z : SrvSlot) (now : Count) : SrvSlot :=
  { z with state := if z.state = .prefill then .prefill else .paused
           prevDecode := false, pausedAt := if z.state = .decode then now else z.pausedAt
           pages := [], committed := 0, galOff := 0, galGens := [], galExpiry := 0, returning := false, moving := false, galSize := 0,
           wantBack := false, draft := 0, drafts := [], pendingDelivery := z.pendingDelivery.map fun d => { d with stale := true } }

/-- Every layer of the table is verified (10, R230). -/
def State.allVerified (s : State) (n : Nat) : Bool :=
  (upFrom 0 (s.layerCount n)).all fun i => match Tab.find (s.part n).layers i with | some x => x.ok | none => false

/-- The partition releases from its repaint: STATE returns, stale slots go back to prefill under KV_POLICY 1, and the release is reported
(10, R238, R239; 12, R280). -/
def State.releaseRepaint (s : State) (n : Nat) : State :=
  let p := s.part n
  match p.repaint with
  | none => s
  | some r =>
    let wt : WtState := if r.before = .confirmed then .confirmed else if s.allVerified n then .loaded else r.before
    let s := s.setPart n { p with wt := wt, repaint := none }
    let s := if rb (cfg s .ptWtCfg n 0) 31 then
        (s.srvSlots n).foldl (fun s e => if e.2.stalePages p.wgen then s.putSlot n e.1 (e.2.rePrefill s.now) else s) s
      else s
    s.event n 2 0

end Sys2Proof.Machine
end

