-- ==== Sys2Proof/Machine/CanvasLoad.lean ====
section
/-! DEFINITION. What a canvas that has passed its checks puts into the module: the cores' tables, streams and templates (04, R85, R86), the
port entries (09, R211), the weights' state of a weightless canvas (10, R237), the steward of a serving partition (11, R241), and the
re-arm (13, R295). -/

namespace Sys2Proof.Machine

/-! ### One core (04, R86, R91, R93, R103, R106) -/

/-- The slot table of an entry: its VALID slots. -/
def DirEnt.slotTab (e : DirEnt) (img : Img) : Tab SlotDef :=
  ((upFrom 0 e.slots).map fun i => (i, slotDefOf (e.slotWord img i))).filter fun (x : Nat × SlotDef) => x.2.valid

/-- The flag role entries that are not zero. -/
def DirEnt.roleTab (e : DirEnt) (img : Img) : Tab Nat :=
  ((upFrom 0 64).map fun i => (i, e.roleWord img i % 1024)).filter fun (x : Nat × Nat) => x.2 ≠ 0

def DirEnt.shapeList (e : DirEnt) (img : Img) : List Shape :=
  (upFrom 0 e.shapes).map fun i =>
    let a := e.shapeOff + 32 * i
    shapeOf (imgWord img a) (imgWord img (a + 8)) (imgWord img (a + 16))

def DirEnt.listTab (e : DirEnt) (img : Img) : Tab LandList := (upFrom 0 (e.listCount img)).map fun l => (l, e.list img l)

/-- A core with the tables of an entry, everything else at its load value. -/
def DirEnt.core0 (e : DirEnt) (img : Img) : Core :=
  let c := headCanvas img 0
  { Core.reset with
    hasEntry := true, streamBase := e.base, streamLen := e.len, gen := c.gen, shapes := e.shapeList img, slots := e.slotTab img, roles := e.roleTab img,
    grants := e.grants img, grant := e.firstGrant img, beatNs := 2 ^ c.beatExp, op := c.op, sends := e.sends img, lists := e.listTab img }

/-- Bytes land in a core's stores: words written whole lose their poison, part of a poisoned word is an uncorrectable error (05, R117), and the granules are
untagged. -/
def State.putBytes (s : State) (n : Nat) (c : CoreId) (a : Nat) (bs : List Byte) : State := s.landBytes n c (a : Int) bs

/-- The stream and the stencil templates of an entry are copied to the core's stores (04, R86, R365). -/
def State.copyEntry (s : State) (n : Nat) (img : Img) (e : DirEnt) : State :=
  let s := s.putBytes n e.id e.base (imgBytes img e.off (32 * e.len))
  ((e.templates img).foldl (fun s t => s.putBytes n e.id t.addr (imgBytes img t.off (4 * t.len))) s).updCore e.id fun k => { k with ahead := [] }

/-- Marks of undefined bank sets and, when `accs`, of undefined accumulator sets (02, R50; 13, R295): 8 and 128 sets of a core. -/
def State.undefineSets (s : State) (c : CoreId) (accs : Bool) : State :=
  let f := s.fresh
  let s : State := { s with fresh := f + 137 }
  s.updCore c fun k =>
    { k with banks := (upFrom 0 8).map fun i => (i, .undefined (f + 1 + i))
             accs := if accs then (upFrom 0 128).map (fun i => (i, { AccSet.blank with undef := some (f + 9 + i) })) else k.accs }

/-- An entry's core takes its canvas. `rearm`: accumulator sets are undefined too. FPSTAT starts at zero here and is cleared nowhere else: the manual gives its
W1C bits no address and no command (03, R73; log 67). -/
def State.installEntry (s : State) (img : Img) (rearm : Bool) (e : DirEnt) : State :=
  let old := s.core e.id
  let k := { e.core0 img with memq := (old.memq.filter (·.gallery)).map MemReq.dead, lateCount := old.lateCount, lateLast := old.lateLast,
                              lateCause := old.lateCause }
  (s.setCore e.id k).undefineSets e.id rearm

/-- Every core of the partition is emptied: it stays idle unless the canvas has an entry for it. -/
def State.idleCores (s : State) (n : Nat) : State :=
  { s with cores := s.cores.map fun (e : Nat × Core) =>
      if s.ownsClu n (e.1 / 8) then (e.1, { Core.reset with memq := (e.2.memq.filter (·.gallery)).map MemReq.dead, lateCount := e.2.lateCount,
                                                            lateLast := e.2.lateLast, lateCause := e.2.lateCause }) else e }

/-- Queued shaft flits and mesh traffic of the partition are dropped with its queues. -/
def State.dropTraffic (s : State) (n : Nat) : State :=
  { s with
    mesh := s.mesh.filter fun m => m.pt ≠ n
    meshSets := s.meshSets.filter fun m => m.pt ≠ n
    credits := s.credits.filter fun m => m.pt ≠ n
    ports := s.ports.map fun (e : Nat × FPort) => (e.1, { e.2 with shaftq := e.2.shaftq.filter fun f => f.pt ≠ n }) }

/-- A cluster of the partition still waits for its start (07, R162). -/
def State.clustersWait (s : State) (n : Nat) : Bool := s.cluStart.any (s.ownsClu n)

/-- The partition's clusters are to start their clocks, one per 100 ns across the module (07, R162). -/
def State.startClusters (s : State) (n : Nat) : State :=
  { s with cluStart := s.cluStart ++ ((upFrom 0 66).filter fun k => s.ownsClu n k && (Tab.find s.clusters k).isNone && !s.cluStart.contains k) }

/-! ### Cable delays (06, R150) -/

/-- Excess of a port's measured cable delay over the assumed one in ns, 0 when there is none. The delay is held in sixteenths of a ns, and a part of a
nanosecond counts as a whole one (06, R150; log 71). -/
def cableExcess (delay16 assumed : Nat) : Nat := ceilDiv (delay16 - 32 * assumed) 16

/-- Each port's delay is compared with the assumption: the excess is counted and the partition's timing alarm raised. -/
def State.checkCables (s : State) (n : Nat) (assumed : List Nat) (ports : List Nat) : State :=
  ports.foldl (fun s p =>
    let x := cableExcess (s.port p).delay16 (assumed.getD p 0)
    if x = 0 then s
    else
      let s := s.countN .cableExcess (.port p) (some n) x
      let s := if (s.part n).timingAlarm then s else s.platform .timingAlarm n
      s.updPart n fun q => { q with timingAlarm := true }) s

/-! ### The steward (11, R241, R261) -/

/-- A steward core of a die is the one with the fewest serving partitions, the lowest among equals. -/
def State.stewardLoad (s : State) (k : Nat) : Nat := (s.parts.filter fun e => (e.2.srv.map (·.stewardCore)) = some k).length

def State.pickSteward (s : State) (d : Nat) : Nat :=
  (upFrom 1 3).foldl (fun b i => if s.stewardLoad (4 * d + i) < s.stewardLoad b then 4 * d + i else b) (4 * d)

/-- PT_SRV_CLASS_c and PT_SRV_TBT_c as they stand. -/
def State.srvClasses (s : State) (n : Nat) : List W32 := (upFrom 0 8).map (cfg s .srvClass n)
def State.srvTbts (s : State) (n : Nat) : List W32 := (upFrom 0 8).map (cfg s .srvTbt n)

/-- A steward at load: every slot free (11, R243, R249). -/
def Srv.start (core count : Nat) (classes tbts : List W32) : Srv :=
  { stewardCore := core, running := false, slots := (upFrom 0 count).map fun i => (i, SrvSlot.free), half0 := { step := 0, selected := [], startEdge := 0 },
    half1 := { step := 0, selected := [], startEdge := 0 }, passVariant := 0, passPages := 0, shortfall := 0, ops := [], galGone := false, classes := classes, tbts := tbts }

/-- A slot as the steward finds it when it resumes from its table (11, R261): what an interrupted half-step, move or return left undone is
dropped, and a return is tried again. The tokens of a half-step that was complete, whose delivery waits for its ring, are kept (11, R259). -/
def SrvSlot.resume (z : SrvSlot) : SrvSlot :=
  { z with returning := false, draft := 0, moving := false, galSize := if z.state = .galleried then z.galSize else 0,
           wantBack := z.wantBack || z.returning, pages := if z.returning then [] else z.pages }

/-- The steward resumes: each half restarts at step 1. -/
def Srv.resume (v : Srv) : Srv :=
  { v with running := false, ops := [], galGone := false, half0 := { step := 0, selected := [], startEdge := 0 }, half1 := { step := 0, selected := [], startEdge := 0 } }

/-- The steward of a partition whose canvas is loaded or armed: a new one, or the one that resumes. -/
def State.loadSteward (s : State) (n : Nat) : State :=
  if s.srvCount n = 0 then s.updPart n fun p => { p with srv := none }
  else match (s.part n).srv with
    | some v =>
      let s := v.slots.foldl (fun s (e : Nat × SrvSlot) => s.putSlot n e.1 e.2.resume) s
      (if v.galGone then s.endGalleried n else s).updSrv n Srv.resume
    | none => s.updPart n fun p => { p with srv := some (Srv.start (s.pickSteward (s.lowestCore n / 88)) (s.srvCount n) (s.srvClasses n) (s.srvTbts n)) }

/-! ### Confirmation (10, R235, R237) -/

/-- The partition is Confirmed: its confirmation goes to the management tree, and the gate's time starts. With HF lost it goes nowhere (13, R311). -/
def State.confirm (s : State) (n wgen lastLayer : Nat) : State :=
  let s := s.updPart n fun p => { p with wt := .confirmed, confirmedAt := some s.now }
  let s := if s.managed then (s.emit (.confirmation s.devid n wgen lastLayer)).platform .confirmed n else s
  s.event n 4 0

/-- Weights after a canvas is loaded or armed (10, R237): a weightless canvas is Loaded at once, and Confirmed in a job of several modules. One with weights
leaves STATE as it is, also where a weightless one stood before (log 99). -/
def State.loadWeights (s : State) (n : Nat) (weightless : Bool) : State :=
  if weightless then
    let s := s.updPart n fun p => { p with wt := .loaded }
    if 1 < cf s .ptJobCfg n 0 31 16 then s.confirm n 0 0xFFFF else s
  else s

/-! ### A canvas takes effect -/

/-- The checked canvas takes effect in a partition that becomes Armed (04, R85, R86; 09, R211; 13, R295 steps 1 to 5). The rotation of lamp draws
starts at the lowest core (07, R169). What assay mode remembers of accesses before a re-arm stays (log 92). -/
def State.install (s : State) (n : Nat) (img : Img) (addr : Nat) (rearm : Bool) : State :=
  let cv := headCanvas img addr
  let claims := s.claimsOf n img
  let s := ((s.dropRunning n).idleCores n).dropTraffic n
  let s := (dirOf img).foldl (fun s e => s.installEntry img rearm e) s
  let s := (s.clearPorts n).putClaims n cv.gen claims false
  let s := s.updPart n fun p =>
    { p with st := .armed, gen := cv.gen, genNew := cv.gen, overlap := false, canvas := some cv, nextCanvas := none, claims := claims, nextClaims := [],
             switchAt := none, startAt := none, startTag := none, holdAt := none, releaseAt := none, confirmedAt := none, lampTurn := [], timingAlarm := false,
             meshSent := 0, meshApplied := 0 }
  let s := ((s.loadSteward n).loadWeights n cv.weightless).checkCables n cv.cable (upFrom 0 16)
  let s := (dirOf img).foldl (fun s e => s.copyEntry n img e) s
  { s with ports := s.ports.map fun (e : Nat × FPort) => (e.1, { e.2 with switched := e.2.switched.filter fun w => w.1 ≠ n }) }

/-- A partition whose load was refused is Absent again, its clusters gated (07, R162; 12, R277, R364). -/
def State.refuseLoad (s : State) (n : Nat) : State := ((s.updPart n fun p => { p with loading := none }).gate n)

/-- The image is staged: it enters the list, and the next copies of its port entries are written (04, R85; 09, R211; 12, R277). -/
def State.stage (s : State) (n : Nat) (img : Img) (addr : Nat) : State :=
  let cv := headCanvas img addr
  let claims := s.claimsOf n img
  let p := s.part n
  let s := if p.overlap then s else (s.clearClaims p.nextClaims true).putClaims n cv.gen claims true
  s.updPart n fun p =>
    { p with staged := (p.staged.filter fun c => c.addr ≠ addr) ++ [cv], nextClaims := if p.overlap then p.nextClaims else claims }

end Sys2Proof.Machine
end

