-- ==== Sys2Proof/Machine/Tap.lean ====
section
/-! DEFINITION. Weight bytes on their way into a partition's region: writing and verifying a layer (10, R230, R231), the layers of a repaint in
ascending order (10, R238), the drift tap of a port (10, R232, R233), and the start record (10, R235). -/

namespace Sys2Proof.Machine

/-! ### Layers (10, R230, R231, R238) -/

/-- A layer of which nothing is written. -/
def LayerPos.start : LayerPos := { bytes := 0, crc := 0xFFFFFFFF, ok := false }

def Part.pos (p : Part) (i : Nat) : LayerPos := Tab.get LayerPos.start p.layers i

/-- The canvas reads no weights (10, R237). -/
def Part.weightless (p : Part) : Bool := match p.canvas with | some c => c.weightless | none => false

/-- Weight bytes are accepted: the partition is Armed, or in Run with STATE Repainting; its table is loaded, and no check has failed
(10, R230, R231, R233, R237). -/
def Part.takesWeights (p : Part) : Bool :=
  (p.st = .armed || (p.st = .run && p.wt = .repainting)) && p.wt ≠ .barrier && p.wt ≠ .failed && p.tableLoaded && !p.weightless

/-- Bytes of a layer are accepted: in a repaint, only those of the next layer it names (10, R238). -/
def Part.takesLayer (p : Part) (i : Nat) : Bool :=
  p.takesWeights && (match p.repaint with
    | some r => p.wt ≠ .repainting || (i = r.next && decide (r.next < r.first + r.count))
    | none => true)

/-- Bytes are written into a layer from an offset on. -/
def State.layerBytes (s : State) (n i off : Nat) (bs : List Byte) : State := s.ownWrite n ((s.layer n i).addr + off) bs

/-- A layer's position changes. -/
def State.setPos (s : State) (n i : Nat) (x : LayerPos) : State := s.updPart n fun p => { p with layers := Tab.put p.layers i x }

/-- The check of a layer has passed: its entry carries the current WGEN, LAST_LAYER rises, and the partition is Loaded once every entry is
verified; in a repaint the next layer follows, and after the last one the partition releases, in Run of a serving partition at the next step
boundary (10, R230, R238). -/
def State.layerPassed (s : State) (n i : Nat) : State :=
  let s := s.stampLayer n i
  let s := s.updPart n fun p =>
    { p with lastLayer := some (match p.lastLayer with | some l => Nat.max l i | none => i)
             layers := Tab.put p.layers i { p.pos i with ok := true } }
  let p := s.part n
  match p.repaint with
  | some r =>
    if p.wt = .repainting ∧ i = r.next then
      let s := s.setPart n { p with repaint := some { r with next := i + 1 } }
      if i + 1 = r.first + r.count ∧ (p.st = .armed ∨ p.srv.isNone) then s.releaseRepaint n else s
    else s
  | none => if p.wt = .loading ∧ s.allVerified n then s.setPart n { p with wt := .loaded } else s

/-- The check of a layer has failed: STATE is Failed, and in a repaint the partition fault-stops, Armed or in Run, with LAST_LAYER in its record (10, R230, R238,
R240; log 22). -/
def State.layerFailed (s : State) (n : Nat) : State :=
  let p := s.part n
  if p.st = .run ∨ p.wt = .repainting then s.faultStop n { code := cCHECKFAIL, item := p.lastLayer.getD 0xFFFF }
  else (s.setPart n { p with wt := .failed, repaint := none }).repaintLeft p.repaint

/-- All bytes of a layer have been written or read: its running CRC-32C meets CHECK or not. -/
def State.judgeLayer (s : State) (n i : Nat) (crc : BitVec 32) : State × Bool :=
  if (crc ^^^ 0xFFFFFFFF).toNat = (s.layer n i).check then (s.layerPassed n i, true) else (s.layerFailed n, false)

/-- Where the next bytes of a layer go: in a repaint, a layer whose turn has come and that is still verified from before starts anew. -/
def Part.posFor (p : Part) (i : Nat) : LayerPos :=
  let x := p.pos i
  match p.repaint with
  | some r => if p.wt = .repainting ∧ i = r.next ∧ x.ok then LayerPos.start else x
  | none => x

/-- The next bytes of a layer are written; the last of them judge it (10, R230, R231). The flag tells whether the layer failed its check. A write past the
region, or into part of a poisoned sector, stops the partition, and nothing of it happens (05, R125, R129, R130; 10, R233). -/
def State.appendLayer (s : State) (n i : Nat) (bs : List Byte) : State × Bool :=
  let x := (s.part n).posFor i
  let crc := crc32cRun x.crc bs
  let a := (s.layer n i).addr + x.bytes
  if s.regionSize n < a + bs.length then (s.faultStop n { code := cBOUNDS, addr := a }, false)
  else match s.hbmPoisonAt n (partEdges a bs.length) with
  | some (_, e) => (s.sectorError n none e, false)
  | none =>
  let s := (s.layerBytes n i x.bytes bs).setPos n i { bytes := x.bytes + bs.length, crc := crc, ok := false }
  if x.bytes + bs.length = (s.layer n i).bytes then
    let r := s.judgeLayer n i crc
    (r.1, !r.2)
  else (s, false)

/-! ### The start record (10, R235) -/

/-- A start record matches the partition: its job modules, topology, key and LAYERS. -/
def State.recordOk (s : State) (n layers : Nat) (b : List Byte) : Bool :=
  leAt b 0 4 = 0x53545254 && leAt b 4 4 = (cfg s .ptJobTopo n 0).toNat && leAt b 8 4 = at_ (s.keyOf n) 12 && leAt b 12 2 = cf s .ptJobCfg n 0 31 16 &&
    leAt b 14 2 = layers && (slice b 16 224).all (· = 0)

/-- A start record at a partition whose layers have come: Confirmed and its confirmation, or Failed and none. -/
def State.startRecord (s : State) (n layers : Nat) (b : List Byte) : State :=
  let p := s.part n
  if s.recordOk n layers b then s.confirm n p.wgen (p.lastLayer.getD 0xFFFF)
  else s.updPart n fun p => { p with wt := .failed }

/-! ### Drift taps (10, R232, R233) -/

/-- First layer from `i` on, below `last`, that lies in HBM: a chain carries no gallery-resident one (log 23). -/
def State.nextHbmLayer (s : State) (n last : Nat) : Nat → Nat → Nat
  | 0, i => i
  | f + 1, i => if i < last ∧ (s.layer n i).galleried then s.nextHbmLayer n last f (i + 1) else i

def State.updTap (s : State) (p : Nat) (f : Tap → Tap) : State := s.updPort p fun q => { q with tap := f q.tap }

/-- A tap discards a flit and counts it. -/
def State.tapDrop (s : State) (p n : Nat) : State :=
  (s.updTap p fun t => { t with discarded := t.discarded + 1 }).count .tapDiscard (.port p) (some n)

/-- The tap of a port is active on an ingress entry. -/
def State.tapOn (s : State) (p entry : Nat) : Bool := rb (cfg s .wtTap p 0) 31 && decide (cf s .wtTap p 0 29 24 = entry)

/-- A flit that a tap copies (10, R232, R233): the next bytes of its layer, or after the last layer the start record. `Tap.layer` counts the
layers of the sequence that have ended; a layer begins in a new flit. A start record that comes in Run, or after another, is discarded (log 97). -/
def State.tapFlit (s : State) (p : Nat) (payload : List Byte) : State :=
  let w := cfg s .wtTap p 0
  let n := rf w 23 19
  let first := rf w 15 0
  let count := cf s .wtTapN p 0 31 16
  let q := s.part n
  let t := (s.port p).tap
  let i := s.nextHbmLayer n (first + count) count (first + t.layer)
  if !q.takesWeights ∨ t.failed then s.tapDrop p n
  else if first + count ≤ i then
    if q.st = .armed ∧ !t.begun then (s.updTap p fun t => { t with begun := true }).startRecord n count payload else s.tapDrop p n
  else if s.layerCount n ≤ i ∨ !q.takesLayer i then s.tapDrop p n
  else
    let s := if t.got = 0 then s.setPos n i LayerPos.start else s
    let left := (s.layer n i).bytes - t.got
    let bs := payload.take (Nat.min 240 left)
    let r := s.appendLayer n i bs
    if r.2 then r.1.updTap p fun t => { t with failed := true }
    else if (r.1.part n).st = .faultStop then r.1
    else if left ≤ 240 then r.1.updTap p fun t => { t with layer := i + 1 - first, got := 0, done := t.done + 1 }
    else r.1.updTap p fun t => { t with got := t.got + 240 }

end Sys2Proof.Machine
end

