-- ==== Sys2Proof/Machine/Units.lean ====
section
/-! DEFINITION. Units of the Fretur link as bytes (08, R184-R188): flits, ordered sets and their bodies; sequence numbers and unit counts modulo
2^20 and 2^24; a port's own counts; and datagrams of an Ethernet-mode port (09, R225-R227). -/

namespace Sys2Proof.Machine

/-! ### Sequence numbers and counts (08, R185, R186) -/

/-- Distance from sequence `b` up to sequence `a`, modulo 2^20. -/
def seqDist (b a : Nat) : Nat := (2 ^ 20 + a - b % 2 ^ 20) % 2 ^ 20

def seqAdd (a k : Nat) : Nat := (a + k) % 2 ^ 20

/-- Unit count `a` is above `b`, modulo 2^24 within half the range. -/
def unitAbove (a b : Nat) : Bool := let d := (2 ^ 24 + a - b % 2 ^ 24) % 2 ^ 24; decide (0 < d) && decide (d < 2 ^ 23)

/-- Credit pool of a lane (08, R189). -/
def pool : Nat → Nat
  | 0 => 2048 | 1 => 1024 | 2 => 1024 | _ => 256

def FPort.spentOn (f : FPort) (v : Nat) : Nat := Tab.get 0 f.spent v
def FPort.returnedOn (f : FPort) (v : Nat) : Nat := Tab.get 0 f.returned v
def FPort.retiredOn (f : FPort) (v : Nat) : Nat := Tab.get 0 f.retired v

/-- Credits of a lane that are spent and not returned. -/
def FPort.inUse (f : FPort) (v : Nat) : Nat := (2 ^ 32 + f.spentOn v - f.returnedOn v) % 2 ^ 32

/-- Flits picked and not yet sent (08, R191). -/
def FPort.unsent (f : FPort) : Nat := seqDist f.seqTx f.seqNext

/-- Unsent flits of a lane: each of VL1 to VL3 holds a reserved credit. -/
def FPort.reserved (f : FPort) (v : Nat) : Nat :=
  (f.replay.filter fun r => r.flit.vl = v && decide (seqDist f.seqTx r.flit.seq < 2 ^ 19)).length

/-- A lane has a credit that no flit has spent or reserved. -/
def FPort.hasCredit (f : FPort) (v : Nat) : Bool := decide (f.inUse v + f.reserved v < pool v)

/-- A VL0 flit may be sent for the first time: a credit of its lane is free (08, R191). -/
def FPort.mayLaunch (f : FPort) (v : Nat) : Bool := v ≠ 0 || decide (f.inUse 0 < pool 0)

/-- Entries on the die and in tailings (08, R193). -/
def FPort.onDie (f : FPort) : Nat := (f.replay.filter fun r => !r.tailings).length
def FPort.inTailings (f : FPort) : Nat := (f.replay.filter fun r => r.tailings).length

/-! ### Flits (08, R186) -/

/-- Bytes 0x00 to 0xF7 with their CRC-64. -/
def withCrc (bs : List Byte) : List Byte := let b := slice bs 0 248; b ++ leBytes 8 (crc64 b)

def Flit.bytes (f : Flit) : List Byte :=
  withCrc (leBytes 8 (at_ (f.seq % 2 ^ 20) 44 + at_ (f.vl % 4) 42 + at_ (f.key % 2 ^ 20) 22 + at_ (f.role % 65536) 6 + f.vlx % 64) ++ slice f.payload 0 240)

def flitOf (b : List Byte) : Flit :=
  let w := wordAt b 0
  { seq := wf w 63 44, vl := wf w 43 42, key := wf w 41 22, role := wf w 21 6, vlx := wf w 5 0, payload := slice b 8 240 }

/-- A unit's CRC-64 is correct. -/
def crcOk (b : List Byte) : Bool := crc64 (slice b 0 248) = leAt b 248 8

/-! ### Ordered sets (08, R187, R188) -/

/-- Header of an ordered set of this module's port, its body and its CRC-64. -/
def State.osBytes (s : State) (p : Nat) (o : OsOut) : List Byte :=
  withCrc (leBytes 8 (at_ (o.typ % 256) 56 + at_ s.domainNo 54 + at_ s.devid 41 + at_ p 37) ++ slice o.body 0 240)

/-- CRET_0 to CRET_3 as one word. -/
def FPort.cret (f : FPort) : Nat :=
  at_ (f.retiredOn 3 % 65536) 48 + at_ (f.retiredOn 2 % 65536) 32 + at_ (f.retiredOn 1 % 65536) 16 + f.retiredOn 0 % 65536

/-- Sequence E + o is missing: not received, or discarded beyond the window (08, R195). -/
def FPort.missing (f : FPort) (o : Nat) : Bool :=
  decide (o < seqDist f.rxE f.rxHi) && (Tab.find f.window (seqAdd f.rxE o)).isNone

/-- Sequences that an ACK from offset `b` on names. -/
def FPort.nacked (f : FPort) (b : Nat) : List Nat :=
  ((upFrom b (Nat.min 1024 (seqDist f.rxE f.rxHi - b))).filter f.missing).map (seqAdd f.rxE)

/-- Offset of NACK_BASE from E: every second ACK uses E + 1,024 while a sequence is missing there (08, R195). -/
def FPort.ackBase (f : FPort) : Nat := if f.altNack ∧ !(f.nacked 1024).isEmpty then 1024 else 0

/-- The NACK bitmap of a base as 128 bytes. -/
def FPort.nackMap (f : FPort) (b : Nat) : List Byte :=
  (upFrom 0 128).map fun j => BitVec.ofNat 8 (((upFrom 0 8).map fun i => at_ (b2n (f.missing (b + 8 * j + i))) i).foldl (· + ·) 0)

def FPort.ackBody (f : FPort) : List Byte :=
  let b := f.ackBase
  leBytes 8 (at_ (seqAdd f.rxE (2 ^ 20 - 1)) 44 + at_ (seqAdd f.rxE b) 24 % 2 ^ 44 + f.rxUnits % 2 ^ 24) ++ leBytes 8 f.cret ++ f.nackMap b

def FPort.resumeBody (f : FPort) : List Byte :=
  leBytes 8 (at_ (seqAdd f.rxE (2 ^ 20 - 1)) 44 + at_ f.seqOldest 24 + at_ f.seqTx 4) ++ leBytes 8 f.cret

def FPort.auditBody (f : FPort) : List Byte :=
  leBytes 8 (at_ f.seqOldest 44 + at_ f.seqTx 24 + at_ f.seqNext 4) ++ leBytes 8 (at_ (f.spentOn 1) 32 + f.spentOn 0) ++
    leBytes 8 (at_ (f.spentOn 3) 32 + f.spentOn 2)

/-- Twenty-fifths of a ns in the unit time of a port (08, R183). -/
def FPort.unitTime25 (f : FPort) : Nat := 32 * 2 ^ (3 - f.width + f.rate)

/-- Units that have begun, from the last multiple of 65,536 on, before the next tick: the present boundary is the start of the last of them (09, R208). -/
def State.boundaryNo (s : State) (p : Nat) : Nat := ceilDiv ((s.now % 65536 + 1) * 25) (s.port p).unitTime25 - 1

/-- The unit boundary of the present tick, in twenty-fifths of a ns (09, R208). -/
def State.boundary25 (s : State) (p : Nat) : Nat := 25 * (s.now - s.now % 65536) + s.boundaryNo p * (s.port p).unitTime25

/-- Time field of a unit that leaves the pins at the present boundary, in sixteenths of a tick (08, R187, R198, R199). -/
def State.leaves16 (s : State) (p : Nat) : Nat := s.boundary25 p * 16 / 25 % 2 ^ 64

/-- TIME_MARK (08, R199): the domain master sends STRATUM 0 and itself as MASTER. -/
def State.markBody (s : State) (p : Nat) : List Byte :=
  leBytes 8 (s.leaves16 p) ++ leBytes 8 (at_ (b2n s.tb.locked) 21 + at_ (if s.isMaster then 0 else s.tb.stratum % 256) 13 +
    (if s.isMaster then s.devid else s.masterDevid))

/-- Body of a RESET_REQ or RESET_ACK. -/
def resetBytes (b : ResetBody) : List Byte :=
  leBytes 8 (at_ (b2n b.allowNarrow) 19 + at_ b.laneBase.toNat 16 + at_ b.reqNo.toNat 8 + at_ (b2n b.full) 7 + at_ b.width.toNat 5 + at_ b.rate.toNat 3)

def reqOs (b : ResetBody) : OsOut := { typ := 0x06, body := resetBytes b }
def ackOs (b : ResetBody) : OsOut := { typ := 0x07, body := resetBytes b }

/-- TRAIN of a phase, with the test pattern. -/
def trainBody (phase : Nat) : List Byte := leBytes 8 (phase % 8) ++ (upFrom 0 232).map Config.trainPattern

/-- A reserved field of an ordered set is not zero, or its type is reserved (08, R187). -/
def osBad (b : List Byte) : Bool :=
  let w0 := wordAt b 0
  let w1 := wordAt b 8
  let zero (off : Nat) : Bool := (slice b off (248 - off)).all (· = 0)
  wf w0 36 0 ≠ 0 ||
  (match wf w0 63 56 with
  | 0x01 => !zero 8
  | 0x02 => !zero 0x98
  | 0x03 => wf (wordAt b 16) 63 22 ≠ 0 || !zero 24
  | 0x04 => !zero 16
  | 0x05 => !zero 32
  | 0x06 | 0x07 => wf w1 63 20 ≠ 0 || wf w1 2 0 ≠ 0 || !zero 16
  | 0x08 => wf w1 63 3 ≠ 0
  | 0x09 => wf w1 3 0 ≠ 0 || !zero 24
  | 0x0A => wf w1 3 0 ≠ 0 || !zero 32
  | 0x0B => wf w1 28 8 ≠ 0 || !zero 24
  | _ => true)

/-! ### Ethernet encapsulation (09, R225-R227) -/

/-- A value as `n` bytes, most significant first. -/
def beBytes (n v : Nat) : List Byte := (leBytes n v).reverse

/-- Sum of 16-bit big-endian words. -/
def sum16 : List Byte → Nat
  | a :: b :: bs => 256 * a.toNat + b.toNat + sum16 bs
  | [a] => 256 * a.toNat
  | [] => 0

/-- Internet checksum of bytes; 0 is sent as 0xFFFF. PRESUMED (log 12): RFC 768 and RFC 8200. -/
def checksum (bs : List Byte) : Nat :=
  let f (x : Nat) : Nat := x / 65536 + x % 65536
  let c := 65535 - f (f (sum16 bs))
  if c = 0 then 65535 else c

def crc32Bit (c : BitVec 32) : BitVec 32 := if c.getLsbD 0 then (c >>> 1) ^^^ 0xEDB88320 else c >>> 1

def crc32Byte (c : BitVec 32) (b : Byte) : BitVec 32 :=
  let x := c ^^^ (b.setWidth 32)
  crc32Bit (crc32Bit (crc32Bit (crc32Bit (crc32Bit (crc32Bit (crc32Bit (crc32Bit x)))))))

/-- Frame check sequence of IEEE 802.3. PRESUMED (log 12): the standard's own. -/
def fcs (bs : List Byte) : Nat := ((bs.foldl crc32Byte 0xFFFFFFFF) ^^^ 0xFFFFFFFF).toNat

/-- Own and next-hop MAC of a port: j 0 own, 2 next hop. -/
def State.mac (s : State) (p j : Nat) : Nat := (cfg s .ethMac p j).toNat + 2 ^ 32 * cf s .ethMac p (j + 1) 15 0

/-- An IPv6 address of four words, word 0 least significant. -/
def State.ip (s : State) (k : RegKind) (p : Nat) : Nat :=
  (cfg s k p 0).toNat + 2 ^ 32 * (cfg s k p 1).toNat + 2 ^ 64 * (cfg s k p 2).toNat + 2 ^ 96 * (cfg s k p 3).toNat

/-- A datagram of units, from the frame's first byte to its FCS (09, table "Datagram on an Ethernet-mode port"). -/
def State.datagram (s : State) (p unitCnt : Nat) (us : List (List Byte)) : List Byte :=
  let u := us.flatten
  let tunnel := leBytes 8 (at_ 0xF7E2 48 + at_ 1 44 + at_ us.length 39 + at_ s.domainNo 37 + at_ s.devid 24 + unitCnt % 2 ^ 24)
  let port := cf s .ethUdp p 0 15 0
  let len := 8 + tunnel.length + u.length
  let src := beBytes 16 (s.ip .ethIpSrc p)
  let dst := beBytes 16 (s.ip .ethIpDst p)
  let udp (c : Nat) : List Byte := beBytes 2 port ++ beBytes 2 port ++ beBytes 2 len ++ beBytes 2 c ++ tunnel ++ u
  let sum := checksum (src ++ dst ++ beBytes 4 len ++ beBytes 4 17 ++ udp 0)
  let tc := 4 * cf s .ethCfg p 0 31 26 + 2
  let ip6 := beBytes 4 (at_ 6 28 + at_ tc 20 + cf s .ethFlow p 0 19 0) ++ beBytes 2 len ++ beBytes 1 17 ++ beBytes 1 (cf s .ethCfg p 0 25 18) ++ src ++ dst
  let frame := beBytes 6 (s.mac p 2) ++ beBytes 6 (s.mac p 0) ++ beBytes 2 0x86DD ++ ip6 ++ udp sum
  frame ++ leBytes 4 (fcs frame)

/-! ### A unit leaves -/

/-- The eight blocks of a unit (08, R184): a control bit, then 32 bytes in address order, each least significant bit first as its CRC takes it. -/
def unitBlocks (control : Bool) (bs : List Byte) : List Nat := (upFrom 0 8).map fun j => b2n control + 2 * leAt bs (32 * j) 32

/-- The 514 message symbols of twenty blocks, 10 bits each (08, R184). -/
def messageSymbols (blocks : List Nat) : List Nat :=
  let m := blocks.foldr (fun b m => b + 2 ^ 257 * m) 0
  (upFrom 0 514).map fun j => m / 1024 ^ j % 1024

/-- Symbols dealt to lanes in turn (08, R184). -/
def dealt (lanes : List Nat) (syms : List Nat) : List (Nat × List Nat) :=
  (upFrom 0 lanes.length).map fun i => (lanes.getD i 0, (upFrom 0 (ceilDiv (syms.length - i) lanes.length)).map fun k => syms.getD (i + lanes.length * k) 0)

/-- Active lanes of a port, lowest first. -/
def FPort.activeLanes (f : FPort) : List Nat := (upFrom 0 8).filter fun i => bit f.lanes i

/-! ### RS(544,514) of IEEE 802.3 (08, R182): its field and generator are PRESUMED (log 79) -/

/-- A symbol of GF(2^10) times α, a root of x^10 + x^3 + 1. -/
def gfDouble (x : Nat) : Nat := if bit x 9 then (2 * x % 1024) ^^^ 9 else 2 * x

/-- The product of two symbols: Horner's rule over the bits of the second, highest first. -/
def gfMul (x y : Nat) : Nat := ((upFrom 0 10).reverse).foldl (fun a i => gfDouble a ^^^ (if bit y i then x else 0)) 0

/-- The coefficients of the generator below its leading one, highest power first, and the next root: ∏ (x + α^j). -/
def rsGenStep (g : List Nat × Nat) : List Nat × Nat :=
  let scaled := (1 :: g.1).map (gfMul g.2)
  (List.zipWith (· ^^^ ·) (g.1 ++ [0]) scaled, gfDouble g.2)

/-- The generator of 30 check symbols, for the roots α^0 to α^29. -/
def rsGenerator : List Nat := ((upFrom 0 30).foldl (fun g _ => rsGenStep g) ([], 1)).1

/-- The remainder after one more message symbol. -/
def rsStep (g r : List Nat) (m : Nat) : List Nat :=
  let x := m ^^^ r.headD 0
  List.zipWith (fun a b => a ^^^ gfMul x b) (r.drop 1 ++ [0]) g

/-- The 30 check symbols of a message of 514 symbols. -/
def rsCheck (msg : List Nat) : List Nat := let g := rsGenerator; msg.foldl (rsStep g) (List.replicate 30 0)

/-- Symbols in error that the decoder corrects in a codeword: half the check symbols (08, R182). -/
def rsCorrects : Nat := 15

/-- The codewords of a unit, with these numbers of wrong symbols, decode (08, R182). -/
def rsDecodes (errors : List Nat) : Bool := errors.all fun e => decide (e ≤ rsCorrects)

/-- A unit's blocks join those that wait; twenty fill a codeword, whose 30 check symbols follow its message (08, R182, R184). -/
def State.sendBlocks (s : State) (p : Nat) (bs : List Nat) : State :=
  let f := s.port p
  let all := f.blocks ++ bs
  if all.length < 20 then s.setPort p { f with blocks := all }
  else
    let msg := messageSymbols (all.take 20)
    (s.setPort p { f with blocks := all.drop 20 }).emit (.codeword p (dealt f.activeLanes (msg ++ rsCheck msg)))

/-- Units that wait for their datagram leave in it (09, R225). -/
def State.flushEth (s : State) (p : Nat) : State :=
  let f := s.port p
  match f.ethUnits with
  | [] => s
  | u :: _ => (s.setPort p { f with ethUnits := [] }).emit (.unit p true (s.datagram p u.1 (f.ethUnits.map (·.2))))

/-- A unit joins its datagram, which leaves with UNITS_MAX units (09, R225). -/
def State.ethSend (s : State) (p cnt : Nat) (bs : List Byte) : State :=
  let f := s.port p
  let s := s.setPort p { f with ethUnits := f.ethUnits ++ [(cnt, bs)] }
  if f.ethUnits.length + 1 < cf s .ethCfg p 0 15 11 then s else s.flushEth p

/-- A unit leaves a port: the unit count goes up, and an ACK restarts its interval (08, R185, R195). -/
def State.sendUnit (s : State) (p : Nat) (control isAck : Bool) (bs : List Byte) : State :=
  let f := s.port p
  let s := s.setPort p { f with txUnits := (f.txUnits + 1) % 2 ^ 24, sinceAck := if isAck then 0 else f.sinceAck + 1 }
  if s.ethMode p then s.ethSend p f.txUnits bs else (s.emit (.unit p control bs)).sendBlocks p (unitBlocks control bs)

def State.sendOs (s : State) (p : Nat) (o : OsOut) : State := s.sendUnit p true (decide (o.typ = 0x02)) (s.osBytes p o)

end Sys2Proof.Machine
end

