-- ==== Sys2Proof/Machine/Failure.lean ====
section
/-! DEFINITION. What a receiver retires (08, R190), the choice of an egress port for loose packets that arrive (09, R218), and the failure of a
port (08, R204; 09, R228). -/

namespace Sys2Proof.Machine

/-! ### Retirement and output queues (08, R190, R192) -/

def FPort.lane (f : FPort) (v : Nat) : List RxFlit := Tab.get [] f.outq v
def FPort.setLane (f : FPort) (v : Nat) (l : List RxFlit) : FPort := { f with outq := Tab.put f.outq v l }

/-- The head of an output queue has left it. -/
def FPort.popLane (f : FPort) (v : Nat) : FPort := f.setLane v ((f.lane v).drop 1)

/-- A sequence retires: its lane's total goes up, and its credit returns with the next ACK. -/
def FPort.retire (f : FPort) (v : Nat) : FPort := { f with retired := Tab.put f.retired v ((f.retiredOn v + 1) % 2 ^ 32) }

def State.retireOn (s : State) (p v : Nat) : State := s.updPort p fun f => f.retire v

/-- A sequence is dropped at release: retired and counted. -/
def State.dropFlit (s : State) (p v : Nat) (e : Ev) : State := (s.retireOn p v).count e (.port p) none

/-! ### Loose packets in transit (09, R218, R221) -/

/-- A waiting loose flit has been picked, or dropped: the output queue it came from retires it. -/
def State.leftLoose (s : State) (v : Nat) (x : LooseFlit) : State :=
  match x.from_ with
  | some q => s.retireOn q v
  | none => s

/-- A loose flit joins the loose queue of a port. -/
def State.queueLoose (s : State) (p v : Nat) (x : LooseFlit) : State :=
  s.updPort p fun f => if v = 1 then { f with loose1 := f.loose1 ++ [x] } else { f with loose2 := f.loose2 ++ [x] }

/-- A loose flit that is not picked yet is routed: a packet without an Up candidate is dropped, and a local request completes with LINK_LOST
(09, R218). -/
def State.routeLoose (s : State) (v : Nat) (x : LooseFlit) : State :=
  let d := looseDst x.payload
  match s.looseRoute d.1 d.2 with
  | some p => s.queueLoose p v x
  | none =>
    match x.from_ with
    | some q => s.dropFlit q v .unroutable
    | none =>
      match looseOf x.key x.role false x.payload with
      | some k =>
        if v = 1 then
          match s.loose.find? fun t => decide (t.src = k.src) && decide (t.msgId = k.msgId) with
          | some t => s.linkLost t .linkLostRoute
          | none => s
        else s.count .unroutable (.die 6) none
      | none => s

/-! ### Failure (08, R204; 09, R228) -/

/-- The packet of a flit is a request of this module that a tracked message sent. -/
def State.requestOf (s : State) (t : Tracked) (f : Flit) : Bool :=
  f.vl = 1 && (match looseOf f.key f.role false f.payload with
    | some k => k.src = t.src && k.msgId = t.msgId && s.isMe k.srcDomain.toNat k.srcDevid.toNat
    | none => false)

/-- The packet of a flit is the response that a tracked message awaits. -/
def State.responseOf (s : State) (t : Tracked) (f : Flit) : Bool :=
  f.vl = 2 && (match looseOf f.key f.role false f.payload with
    | some k => k.typ = .delivered && k.dst = t.src && k.msgId = t.msgId && s.isMe k.dstDomain.toNat k.dstDevid.toNat
    | none => false)

/-- Tracked messages that a port's failure ends: one of their flits lies in its replay buffer or tailings, or their response had begun to
arrive on it (08, R204). -/
def State.lostWith (s : State) (f : FPort) : List Tracked :=
  s.loose.filter fun t => f.replay.any (fun r => s.requestOf t r.flit) || f.window.any (fun (e : Nat × RxFlit) => s.responseOf t e.2.flit) ||
    (f.lane 2).any fun x => s.responseOf t x.flit

/-- Keys with a transit entry among the current entries of a port (09, R228). -/
def State.transitKeys (s : State) (p : Nat) : List Nat :=
  dedup ((upFrom 0 64).flatMap fun e =>
    let c := cfg s .fabCalc p e
    let i := cfg s .fabInc p e
    (if rf c 31 30 = 1 ∧ !rb c 11 then (s.keyAt p (rf c 23 18)).toList else []) ++
      (if rf i 31 30 ≠ 0 ∧ !rb i 1 then (s.keyAt p (rf i 13 8)).toList else []))

/-- JOB_STOP of a key whose transit entries a failed port carried: the key's partitions on this module stop too, and the flood is theirs when
there is one (09, R228; 13, R288). -/
def State.stopTransit (s : State) (p key : Nat) : State :=
  match s.running key with
  | n :: _ => s.faultStop n { code := cLINKLOST, port := p }
  | [] => s.flood (s.ownStop key cLINKLOST) false

/-- Flits that a failed port's output queues held in other ports' loose queues are gone with them. -/
def State.forgetFrom (s : State) (p : Nat) : State :=
  let keep (l : List LooseFlit) : List LooseFlit := l.filter fun x => x.from_ ≠ some p
  { s with ports := s.ports.map fun (e : Nat × FPort) => (e.1, { e.2 with loose1 := keep e.2.loose1, loose2 := keep e.2.loose2, mgmt := keep e.2.mgmt }) }

/-- A port fails (08, R204): its state is discarded, partitions with a shaft of it stop with LINK_LOST, requests that lie in it are lost, loose
packets that waited for it take other routes, and the keys of its transit entries are stopped (09, R228). -/
def State.failPort (s : State) (p : Nat) (st : PortState) : State :=
  let f := s.port p
  let lost := s.lostWith f
  let keys := s.transitKeys p
  let s := s.setPort p { FPort.reset with st := st, switched := f.switched, tap := f.tap, auditSkips := f.auditSkips, reqNo := f.reqNo,
                                          shaftq := f.shaftq.filter fun x => !(s.partsOnPort p).contains x.pt }
  let s := s.forgetFrom p
  let s := s.faultStopAll (s.partsOnPort p) { code := cLINKLOST, port := p }
  let s := keys.foldl (fun s k => s.stopTransit p k) s
  let s := lost.foldl (fun s t => s.linkLost t .linkLostPort) s
  let back (l : List LooseFlit) : List LooseFlit := l.filter fun x => x.from_ ≠ some p
  (back f.loose2).foldl (fun s x => s.routeLoose 2 x) ((back f.loose1).foldl (fun s x => s.routeLoose 1 x) s)

/-- A break of a link ledger (08, R206; 13, R296): the partitions with a shaft of the port stop, and the port fails. The lane of ledger 1 stands in ITEM
(log 62: the record has no field of its own for it). -/
def State.linkLedger (s : State) (p ledger : Nat) (lane : Option Nat) (recorded counted : Nat) : State :=
  (s.ledgerFault (s.partsOnPort p) { code := cLEDGER, ledger := ledger, item := lane, port := p, recorded := recorded, counted := counted }).failPort p .failed

end Sys2Proof.Machine
end

