-- ==== Sys2Proof/Machine/Receive.lean ====
section
/-! DEFINITION. What arrives on a port: the reorder window and release (08, R192), key checks (09, R223), the ingress table and generations (01,
R38; 09, R212-R214), landing lists (09, R215-R217), and the output queues (08, R189, R190). -/

namespace Sys2Proof.Machine

/-! ### Ingress tables (01, R38; 09, R211, R214) -/

/-- Images of an ingress entry: the current copy, the next one when a canvas of this module wrote it, and those of canvases the port has left. -/
def State.ingressImages (s : State) (p e : Nat) : List W32 :=
  let next := cfg s .fabIn p e
  [cfg s .fabInc p e] ++ (if rb next 1 then [next] else []) ++
    (s.port p).switched.flatMap fun w =>
      ((s.part w.1).claims.filter fun c => c.ingress && c.port = p && c.entry = e).map (s.claimImage w.1 (s.part w.1).gen)

/-- The generation of a flit is one whose tables the ports have dropped: every core of its partition has retired it (01, R38). -/
def State.droppedGen (s : State) (f : Flit) : Bool :=
  s.parts.any fun e => e.2.overlap && decide (s.keyOf e.1 = f.key) && decide (tagGen f.role = e.2.gen % 64) && decide (e.2.gen ≠ e.2.genNew) && s.allRetired e.1

/-- An image routes a flit: it has an action, its key is the flit's, and its generation too when a canvas wrote it. -/
def State.routes (s : State) (p : Nat) (f : Flit) (w : W32) : Bool :=
  rf w 31 30 ≠ 0 && decide (s.keyAt p (rf w 13 8) = some f.key) && (!rb w 1 || (rf w 7 2 = tagGen f.role && !s.droppedGen f))

/-- The image by which a VL0 flit travels: that of its own generation (01, R38). -/
def State.ingress (s : State) (p : Nat) (f : Flit) : Option W32 := (s.ingressImages p f.vlx).find? (s.routes p f)

/-- What the checks say of a VL0 flit (09, R214, R223). -/
inductive Verdict where
  | keep | keyDrop | unmapped | stray
  deriving DecidableEq, Repr

def State.verdict (s : State) (p : Nat) (f : Flit) : Verdict :=
  match s.ingress p f with
  | some _ => .keep
  | none =>
    let w := cfg s .fabInc p f.vlx
    if s.droppedGen f then .stray else if s.keyAt p (rf w 13 8) ≠ some f.key then .keyDrop else if rf w 31 30 = 0 then .unmapped else .stray

/-! ### Landing (09, R215, R216) -/

/-- Landing lists of a generation that the core accepts, or of the one that it retired last: its messages are STRAY, and their credits return (04, R115; 09,
R217). -/
def Core.listsOf (k : Core) (gen : Nat) : Option (Tab LandList) :=
  if !k.hasEntry then none
  else if gen = k.gen then some k.lists
  else match k.old, k.gone with
    | some o, g => if gen = o.gen then some o.lists else g.bind fun o => if gen = o.gen then some o.lists else none
    | none, g => g.bind fun o => if gen = o.gen then some o.lists else none

/-- A generation's tables with one landing list changed. -/
def GenTab.setList (o : GenTab) (gen i : Nat) (l : LandList) : GenTab := if gen = o.gen then { o with lists := Tab.put o.lists i l } else o

def Core.setList (k : Core) (gen i : Nat) (l : LandList) : Core :=
  if gen = k.gen then { k with lists := Tab.put k.lists i l }
  else { k with old := k.old.map fun o => o.setList gen i l, gone := k.gone.map fun o => o.setList gen i l }

/-- Flits of a descriptor's message. -/
def LandDesc.flits (d : LandDesc) : Nat := if d.len = 0 then 1 else ceilDiv d.len 240

/-- A flit's tag matches every target of its descriptor (09, R216). -/
def Core.descOk (k : Core) (tag : Nat) (d : LandDesc) : Bool :=
  if d.len = 0 then k.flagOk tag d.flag else (k.slotFor tag d.slot).isSome && (!d.dfen || k.flagOk tag d.flag)

/-- A whole message lands: its slot is full and its flag goes up by one (09, R215). The passes in the cubes go on to the present cycle first (02, R43). -/
def State.landMessage (s : State) (n : Nat) (c : CoreId) (tag : Nat) (d : LandDesc) (l : LandList) : State :=
  let s := s.catchUp
  let base : Nat := match (s.core c).slotFor tag d.slot with | some x => x.base | none => 0
  let s := if d.len = 0 then s
    else (s.landBytes n c (base : Int) (l.data.take d.len)).fillSlot c (slotIx (tagGen tag) d.slot) (.remote d.srcDomain d.srcDevid d.src true)
  let s := match l.again with
    | some t => s.updCore c fun k =>
        { k with retryItems := ((if d.len = 0 then [] else [slotItem d.slot]) ++ (if d.dfen then [d.flag] else [])).foldl (fun m i => Tab.put m i t) k.retryItems }
    | none => s
  let i := slotIx (tagGen tag) d.slot
  let (vc, s) := s.assayLanding n c c 0 (if d.len = 0 then [] else Tab.get [] s.assay.clocks (releaseKey c i)) (if d.len = 0 then [] else landAddrs base d.len)
  let s := if s.assayEn n ∧ d.len ≠ 0 then s.putClock (slotKey c i) vc else s
  if d.dfen then s.incFlag n c d.flag vc else s

/-- The flag that a landing flit would raise as the last of its message, were the partition running (04, R106; 09, R215). -/
def Core.lastFlag (k : Core) (tag li : Nat) : Option Nat :=
  ((k.listsOf (tagGen tag)).bind fun t => Tab.find t li).bind fun l => (l.descs[l.ptr]?).bind fun d =>
    if k.descOk tag d && d.dfen && !l.stray && decide (d.flits ≤ l.flits + 1) then some d.flag else none

/-- A landing flit reaches its core (09, R215, R216; 13, R290, R296). -/
def State.landFlit (s : State) (w : W32) (x : RxFlit) : State :=
  match coreAt (BitVec.ofNat 64 w.toNat) 29 with
  | none => s.count .stray (.die 6) none
  | some c =>
    let tag := x.flit.role
    let gen := tagGen tag
    let li := rf w 19 14
    match s.partOf c with
    | none => s.count .stray (.die c.die.val) none
    | some n =>
      if s.keyOf n ≠ x.flit.key then s.count .keyDrop (.die c.die.val) (some n)
      else if !s.takesMessages n then
        (s.count .discardedMessage (.die c.die.val) (some n)).lateIncrement n c (((s.core c).lastFlag tag li).getD 0) ((s.core c).lastFlag tag li).isSome
      else
        let k := s.core c
        match (k.listsOf gen).bind fun t => Tab.find t li with
        | none => s.count .stray (.die c.die.val) (some n)
        | some l =>
          match l.descs[l.ptr]? with
          | none => s.count .stray (.die c.die.val) (some n)
          | some d =>
            let ok := k.descOk tag d
            let l1 := { l with flits := l.flits + 1, data := l.data ++ x.flit.payload, stray := l.stray || !ok, again := if x.again then some s.now else l.again }
            let next := { l with ptr := (l.ptr + 1) % l.descs.length, flits := 0, data := [], stray := false, again := none }
            if ok ∧ d.len ≠ 0 ∧ (k.slot (slotIx gen d.slot)).full then s.slotLedger n c d.slot
            else if l1.flits < d.flits then s.setCore c (k.setList gen li l1)
            else
              let s := s.setCore c (k.setList gen li next)
              if l1.stray then
                let s := s.count .stray (.die c.die.val) (some n)
                if d.len = 0 then s else s.creditPacket n c gen d.slot d.srcDomain d.srcDevid d.src
              else s.landMessage n c tag d l1

/-! ### Output queues -/

/-- VL0 flits that land leave their queue at once; a flit to be forwarded waits at its head (09, R213). -/
def State.drain0 (s : State) (p : Nat) : Nat → State
  | 0 => s
  | fuel + 1 =>
    match (s.port p).lane 0 with
    | [] => s
    | x :: _ =>
      match s.ingress p x.flit with
      | some w =>
        if rf w 31 30 = 1 then s
        else (((s.updPort p fun f => (f.popLane 0).retire 0).landFlit w x)).drain0 p fuel
      | none => ((s.updPort p fun f => (f.popLane 0).retire 0).count .stray (.port p) none).drain0 p fuel

/-- The lane that a packet's type belongs to. -/
def LooseType.lane : LooseType → Nat
  | .data | .set => 1
  | .delivered | .credit => 2

/-- The packet of a flit on a loose lane, well formed as its header goes. -/
def loosePacket (v : Nat) (f : Flit) : Option LoosePkt :=
  match looseOf f.key f.role (decide (32 ≤ f.vlx)) f.payload with
  | some k => if LooseType.lane k.typ = v then some k else none
  | none => none

/-- Loose flits for other modules join the loose queue of a port; a packet for this module waits at the head for its own command; one that no
header rule allows is dropped as malformed (09, R218, R219). -/
def State.drainLoose (s : State) (p v : Nat) : Nat → State
  | 0 => s
  | fuel + 1 =>
    match (s.port p).lane v with
    | [] => s
    | x :: _ =>
      let d := looseDst x.flit.payload
      if s.isMe d.1 d.2 then
        match loosePacket v x.flit with
        | some _ => s
        | none => ((s.updPort p fun f => f.popLane v).dropFlit p v .malformed).drainLoose p v fuel
      else
        ((s.updPort p fun f => f.popLane v).routeLoose v { key := x.flit.key, role := x.flit.role, vlx := x.flit.vlx, payload := x.flit.payload, from_ := some p }).drainLoose p v fuel

/-- Every output queue of a port moves on as far as it can. -/
def State.drain (s : State) (p : Nat) : State :=
  let s := s.drain0 p ((s.port p).lane 0).length
  let s := s.drainLoose p 1 ((s.port p).lane 1).length
  s.drainLoose p 2 ((s.port p).lane 2).length

/-! ### Release and the window (08, R192, R195) -/

/-- A flit joins its output queue; a datagram's congestion mark joins the flit's (09, R227). -/
def State.queueFlit (s : State) (p : Nat) (x : RxFlit) : State :=
  let f := x.flit
  let f := if x.ce ∧ f.vl ≠ 0 ∧ f.vlx < 32 then { f with vlx := f.vlx + 32 } else f
  (s.updPort p fun q => q.setLane f.vl (q.lane f.vl ++ [{ x with flit := f }])).drain p

/-- A flit is released in sequence: its key is checked, the drift tap copies it, and it joins its queue or is dropped and retired. A management
flit goes to the headframe controllers (08, R192; 09, R214, R223; 10, R232). -/
def State.releaseFlit (s : State) (p : Nat) (x : RxFlit) : State :=
  let f := x.flit
  if f.vl = 3 then
    if f.vlx ≠ 0 then s.dropFlit p 3 .unacceptedFlit else (s.retireOn p 3).emit (.mctp p f.payload)
  else if f.key = 0 ∨ !s.keyValid p f.key then s.dropFlit p f.vl .keyDrop
  else if f.vl = 0 then
    let v := s.verdict p f
    if v = .keyDrop then s.dropFlit p 0 .keyDrop
    else
      let tapped := s.tapOn p f.vlx
      let s := if tapped then s.tapFlit p f.payload else s
      match v with
      | .unmapped => if tapped ∧ rb (cfg s .wtTap p 0) 30 then s.retireOn p 0 else s.dropFlit p 0 .unmapped
      | .stray => s.dropFlit p 0 .stray
      | _ => s.queueFlit p x
  else if f.vlx % 32 ≠ 0 then s.dropFlit p f.vl .unacceptedFlit
  else s.queueFlit p x

/-- Stored flits are released as E passes them. -/
def State.releaseRun (s : State) (p : Nat) : Nat → State
  | 0 => s
  | fuel + 1 =>
    let f := s.port p
    match Tab.find f.window f.rxE with
    | none => s
    | some x => ((s.setPort p { f with window := Tab.erase f.window f.rxE, rxE := seqAdd f.rxE 1 }).releaseFlit p x).releaseRun p fuel

/-- A missing sequence that no ACK has named makes an ACK due at once (08, R195). Those that a RESUME has shown missing above H stay noted (06, R146). -/
def FPort.noteMissing (now : Count) (f : FPort) : FPort :=
  let open_ (q : Nat) : Bool := f.missing (seqDist f.rxE q)
  let named := f.named.filter open_
  let lost := ((upFrom 0 (Nat.min 2048 (seqDist f.rxE f.rxHi))).filter f.missing).map (seqAdd f.rxE)
  { f with named := named, missedAt := (lost.map fun q => (q, Tab.get now f.missedAt q)) ++ f.missedAt.filter fun e => decide (seqDist f.rxHi e.1 < 2 ^ 19),
           ackDue := f.ackDue || lost.any fun q => !named.contains q }

/-- A retransmission on a shaft's lane came later after its sequence was first seen missing than the retry allowance of its shaft, a figure of the canvas for
which the image has no field (01, "What slack absorbs"; 06, R146; log 78). -/
def FPort.overran (q : FPort) (p : Nat) (f : Flit) (now : Count) : Bool :=
  f.vl = 0 && (match Tab.find q.missedAt f.seq with
    | some t => decide (Config.retryAllowance p f.vlx f.key (tagGen f.role) < now - t)
    | none => false)

/-- An intact flit (08, R192). -/
def State.acceptFlit (s : State) (p : Nat) (f : Flit) (ce : Bool) : State :=
  let q := s.port p
  let off := seqDist q.rxE f.seq
  if 2 ^ 19 ≤ off then s.count .duplicate (.port p) none
  else
    let q := if seqDist q.rxE q.rxHi ≤ off then { q with rxHi := seqAdd f.seq 1 } else q
    if 2048 ≤ off then (s.setPort p (q.noteMissing s.now)).count .windowDiscard (.port p) none
    else if (Tab.find q.window f.seq).isSome then s.count .duplicate (.port p) none
    else
      let x : RxFlit := { flit := f, ce := ce, again := q.named.contains f.seq, came := s.now }
      let s := if q.overran p f s.now then s.count .retryOverrun (.port p) none else s
      ((s.setPort p { q with window := Tab.put q.window f.seq x }).releaseRun p 2048).updPort p (FPort.noteMissing s.now)

/-! ### Units (08, R185, R200) -/

/-- A reset requested under R200. One request waits at a time; that of a RESET_GO write takes the place of one that waits (log 81). -/
def State.askReset (s : State) (p : Nat) (b : ResetBody) (written : Bool) : State :=
  let f := s.port p
  if f.st = .up ∧ (f.want.isNone ∨ written) then
    let b : ResetBody := { b with reqNo := BitVec.ofNat 8 f.reqNo }
    let want : ResetWant := { body := b, since := s.now }
    let waiting := f.osq.filter fun o => decide (o.typ ≠ 0x06)
    s.setPort p { f with want := some want, reqNo := (f.reqNo + 1) % 256, osq := waiting ++ [reqOs b] }
  else s

/-- First lane in use. -/
def FPort.laneBase (f : FPort) : Nat := ((upFrom 0 8).find? fun i => bit f.lanes i).getD 0

def FPort.retrainBody (f : FPort) : ResetBody :=
  { allowNarrow := false, laneBase := BitVec.ofNat 3 f.laneBase, reqNo := 0, full := false, width := BitVec.ofNat 2 f.width, rate := BitVec.ofNat 2 f.rate }

def State.askRetrain (s : State) (p : Nat) : State := s.askReset p (s.port p).retrainBody false

/-- An intact unit is a flit or an ordered set. An ordered set's effect is its own command; one with a reserved type or field is discarded and
counted (08, R187). -/
def State.intactUnit (s : State) (p : Nat) (control : Bool) (b : List Byte) (ce : Bool) : State :=
  if control then (if osBad b then s.count .osDiscard (.port p) none else s) else s.acceptFlit p (flitOf b) ce

/-- UNIT_RECEIVED on an Up port (08, R182, R185, R200): four consecutive uncorrectable codewords are ten consecutive units that do not decode, since
five units span two codewords. While the port trains or resets, ordered sets alone are taken (R187). -/
def execUnitReceived (p : Port) (u : RawUnit) (s : State) : Res :=
  let f := s.port p.val
  let decodes := rsDecodes u.symbolErrors
  let intact := decodes && (u.controlBits = 0 || u.controlBits = 0xFF) && crcOk u.bytes
  .next (if s.ethMode p.val then s
  else if f.st = .training ∨ f.st = .resetting then (if intact ∧ u.controlBits = 0xFF then s.intactUnit p.val true u.bytes false else s)
  else if f.st ≠ .up then s
  else
    let bad := if decodes then 0 else f.uncorr + 1
    let s := s.setPort p.val { f with rxUnits := (f.rxUnits + 1) % 2 ^ 24, uncorr := bad }
    if intact then s.intactUnit p.val (u.controlBits = 0xFF) u.bytes false
    else
      let s := (s.count .corrupted (.port p.val) none).canInput (canPort p.val) 0 1
      if 10 ≤ bad then s.askRetrain p.val else s)

end Sys2Proof.Machine
end

