-- ==== Sys2Proof/Machine/Descriptors.lean ====
section
/-! DEFINITION. Descriptors (12, R271-R275): their fields, the checks 1 to 6 of R274 that every type shares, and the start of a descriptor in
flight. -/

namespace Sys2Proof.Machine

/-! ### Types and fields (12, "Descriptor types and their fields") -/

/-- Named bits of W1, W2 and W3 of a type; `none` for a reserved opcode. -/
def descMasks (op : Nat) : Option (Nat × Nat × Nat) :=
  let low (n : Nat) : Nat := 2 ^ n - 1
  match op with
  | 0x01 => some (low 40, low 16, 0)
  | 0x02 => some (low 40, low 14, 0)
  | 0x08 => some (low 16, low 64, 0)
  | 0x09 | 0x0A => some (low 40, 0, 0)
  | 0x0B => some (low 2, low 64, 0)
  | 0x10 | 0x3F => some (0, 0, 0)
  | 0x11 => some (low 17, low 40, low 16)
  | 0x12 => some (low 17 + at_ (low 10) 21, low 40, low 16)
  | 0x13 => some (low 32, low 32, 0)
  | 0x18 => some (at_ (low 52) 12, low 29 + at_ 3 30, low 17)
  | 0x19 => some (low 16, 0, low 17)
  | 0x1A => some (low 16, 0, 0)
  | 0x20 => some (low 24 + at_ (low 31) 33, low 64, low 14 + at_ (low 23) 41)
  | 0x21 => some (at_ (low 10) 38 + at_ 1 37 + at_ 1 34, 0, low 14)
  | 0x22 => some (at_ (low 10) 38 + at_ 7 35, low 64, 0)
  | 0x23 | 0x24 | 0x25 => some (at_ (low 10) 38, 0, 0)
  | 0x26 => some (at_ (low 10) 38 + low 5, 0, 0)
  | _ => none

/-- The bits that a word sets lie in a mask. -/
def within (w : Word) (mask : Nat) : Bool := w.toNat &&& mask = w.toNat

def Desc.ntok (d : Desc) : Nat := wf d.w3 13 0

/-- Bytes of payload that a descriptor's fields name, `none` for a form without payload. -/
def Desc.needs (d : Desc) : Option Nat :=
  match d.op with
  | 0x01 => some (wf d.w2 15 0)
  | 0x11 => if wb d.w1 16 then none else some (wf d.w3 15 0)
  | 0x12 => some (if wb d.w1 16 then 240 else wf d.w3 15 0)
  | 0x20 | 0x21 => some (4 * d.ntok)
  | _ => none

/-- In-band tokens. -/
def Desc.tokens (d : Desc) : List Nat := (upFrom 0 d.ntok).map fun i => leAt d.payload (4 * i) 3

/-- A reserved byte of a payload of tokens is not zero. -/
def Desc.tokensReserved (d : Desc) : Bool :=
  (upFrom 0 d.ntok).any (fun i => leAt d.payload (4 * i + 3) 1 ≠ 0) || (d.payload.drop (4 * d.ntok)).any (· ≠ 0)

/-- A header as it is fetched: its fields with the ring, the function and the payload that follows. -/
def descOf (sq cq : Nat) (f : Func) (h payload : List Byte) : Desc :=
  let w0 := wordAt h 0
  { sq := sq, cq := cq, tag := wf w0 15 0, op := wf w0 63 56, fence := wb w0 44, w1 := wordAt h 8, w2 := wordAt h 16, w3 := wordAt h 24,
    payload := payload, progress := .waiting, func := f }

/-- A reserved field of a header, or of what follows it, is not zero, or the opcode is reserved (check 1). -/
def Desc.reserved (d : Desc) (h : List Byte) : Bool :=
  match descMasks d.op with
  | none => true
  | some (a, b, c) =>
    wf (wordAt h 0) 43 16 ≠ 0 || !within d.w1 a || !within d.w2 b || !within d.w3 c || (slice h 32 32).any (· ≠ 0) ||
      (d.op = 0x0B && wf d.w1 1 0 = 3 && d.w2 ≠ 0) || ((d.op = 0x20 || d.op = 0x21) && d.tokensReserved)

/-! ### Region ranges -/

/-- Region bytes overlap a serving area of a serving partition (11, R242). -/
def State.inServing (s : State) (n a len : Nat) : Bool := (s.part n).srv.isSome && (s.servingAreas n).any (meets (a, len))

/-- The output records that a serving map names: KIND 4, LEN words of 4 bytes (11, R243, R247). -/
def State.recordAreas (s : State) (n : Nat) : List (Nat × Nat) := ((s.servingMap n).filter fun m => m.kind = 4).map fun m => (m.haddr, 4 * m.len)

/-- Region bytes that no host writes in a serving partition: its serving areas, and the output records (11, R243). -/
def State.guarded (s : State) (n a len : Nat) : Bool := s.inServing n a len || ((s.part n).srv.isSome && (s.recordAreas n).any (meets (a, len)))

/-- TOTAL_BYTES of an image at a region address, as the module reads it. -/
def State.imageTotal (s : State) (n a : Nat) : Nat := leNat (s.ownBytes n (a + 0x58) 8)

/-- Bytes of an image at a region address that its checks read. -/
def State.imageLen (s : State) (n a : Nat) : Nat := Nat.max 256 (Nat.min (s.imageTotal n a) (s.regionSize n))

/-! ### Checks 4 and 5 (12, R274, R276, R277, R280) -/

/-- Partitions that a REPAINT names. -/
def Desc.named (d : Desc) : List Nat := (upFrom 0 32).filter fun n => wb d.w1 n

/-- Check 4: the detail of a refusal with ACCESS. -/
def State.accessBad (s : State) (n : Nat) (d : Desc) : Option Nat :=
  let p := s.part n
  let a := wf d.w1 39 0
  match d.op with
  | 0x01 =>
    let len := wf d.w2 15 0
    match s.trippedIn n a len with
    | some k => some k
    | none => badIf ((p.st = .run || p.st = .hold) && p.wt ≠ .repainting && (s.layerExtents n).any (meets (a, len)) || s.guarded n a len) 0
  | 0x02 => s.trippedIn n a (wf d.w2 13 0)
  | 0x08 => match Tab.find p.gal (wf d.w1 15 0 % 4096) with
    | some o => badIf (s.handleCurrent n (wf d.w1 15 0) && !o.rd) 0
    | none => none
  | 0x09 | 0x0A => s.trippedIn n a (s.imageLen n a)
  | 0x13 => badIf (d.named.any fun m => s.owner m ≠ some d.func) 0
  | _ => none

/-- Check 5: the state of the partition allows the type (12, R274 table, R275, R279, R364; 10, R237). -/
def State.stateOk (s : State) (n : Nat) (d : Desc) : Bool :=
  let p := s.part n
  let serving := p.srv.isSome
  match d.op with
  | 0x01 | 0x02 | 0x09 => p.st ≠ .absent
  | 0x08 => p.st = .absent && p.loading.isNone
  | 0x0A => p.st = .armed || p.st = .faultStop
  | 0x0B =>
    wf d.w1 1 0 = 3 || (cf s .ptJobCfg n 0 31 16 = 1 && (match wf d.w1 1 0 with | 0 => p.st = .armed | 1 => p.st = .run | _ => p.st = .hold))
  | 0x10 | 0x11 | 0x12 => !p.weightless && (p.st = .armed || (p.st = .run && p.wt = .repainting))
  | 0x13 => (p.st = .armed || p.st = .run) && d.named.all fun m => !(s.part m).weightless
  | 0x18 | 0x19 | 0x1A | 0x3F => true
  | 0x26 => serving && p.st ≠ .absent
  | _ => serving && (p.st = .armed || p.st = .run || p.st = .hold)

/-- Check 6: ENTRIES is 1 without payload, and covers the payload otherwise (12, R274, R282). -/
def Desc.entriesBad (d : Desc) (entries : Nat) : Bool :=
  match d.needs with
  | none => entries ≠ 1
  | some b => decide (entries < 1 + ceilDiv b 64)

/-- The first of checks 1 to 6 that refuses a descriptor: its status and DETAIL. -/
def State.descCheck (s : State) (n : Nat) (d : Desc) (h : List Byte) (entries : Nat) : Option (Nat × Nat) :=
  firstBad [
    badIf (d.reserved h) (stRSVD, 0),
    badIf (d.tag = 65535) (stEXTENT, 0),
    badIf ((s.part n).flight.any fun e => e.tag = d.tag) (stTAGBUSY, 0),
    (s.accessBad n d).map fun k => (stACCESS, k),
    badIf (!s.stateOk n d) (stSTATE, 0),
    badIf (d.entriesBad entries) (stEXTENT, 0)]

/-! ### Starting (12, R271, R274, R275) -/

/-- Descriptors of the same ring fetched before the waiting one of a tag. -/
def Part.before (p : Part) (d : Desc) : List Desc :=
  (p.flight.takeWhile fun e => !(e.tag = d.tag && e.sq = d.sq && e.progress = .waiting)).filter fun e => e.sq = d.sq

/-- A descriptor may start: those before it in its ring have started, or with FENCE have completed. -/
def Part.mayStart (p : Part) (d : Desc) : Bool :=
  if d.fence then (p.before d).isEmpty else (p.before d).all fun e => e.progress ≠ .waiting

/-- The waiting descriptor of a tag, of a form that `ok` names, when it may start. -/
def Part.waiting (p : Part) (tag : Nat) (ok : Desc → Bool) : Option Desc :=
  match p.flight.find? fun d => d.tag = tag && d.progress = .waiting with
  | some d => if ok d ∧ p.mayStart d then some d else none
  | none => none

/-- A descriptor has started and completes later. -/
def State.started (s : State) (n : Nat) (d : Desc) : State :=
  s.updPart n fun p =>
    { p with flight := p.flight.map fun e => if e.tag = d.tag ∧ e.sq = d.sq ∧ e.progress = .waiting then { e with progress := .started } else e }

/-- The waiting descriptor starts: checks 4 and 5 hold at that moment too, and then `act` does what its type says. -/
def State.descRow (s : State) (pt : Pt) (tag : BitVec 16) (ok : Desc → Bool) (act : State → Nat → Desc → State) : State :=
  let n := pt.val
  match (s.part n).waiting tag.toNat ok with
  | none => s
  | some d =>
    match s.accessBad n d with
    | some k => s.complete n d { d.record n stACCESS with detail := BitVec.ofNat 64 k }
    | none => if s.stateOk n d then act (s.started n d) n d else s.finish n d stSTATE

/-- A row that may have to wait at a stack: a descriptor that has started and waits there goes on when its row comes again (05, R132), and checks 4 and 5 hold
again then: at a stack that has tripped meanwhile it completes with ACCESS (12, R276, R287). -/
def State.servedRow (s : State) (pt : Pt) (tag : BitVec 16) (ok : Desc → Bool) (act : State → Nat → Desc → State) : State :=
  let n := pt.val
  match (s.part n).flight.find? fun d => d.tag = tag.toNat && d.progress = .started && ok d with
  | some d =>
    match s.accessBad n d with
    | some k => s.complete n d { d.record n stACCESS with detail := BitVec.ofNat 64 k }
    | none => if s.stateOk n d then act s n d else s.finish n d stSTATE
  | none => s.descRow pt tag ok act

/-- The module reads region bytes for a descriptor once their stacks serve it: what the code finds there is counted and poisoned (05, R130, R132). -/
def State.readFor (s : State) (n : Nat) (d : Desc) (a len : Nat) (ecc : List EccAt) (act : State → State) : State :=
  s.whenServed n a len (n, d.tag) fun s => act (s.hostRead n a len ecc)

/-- Completed, or refused with a status. -/
def State.finishIf (s : State) (n : Nat) (d : Desc) (bad : Option Nat) (act : State → State) : State :=
  match bad with
  | some st => s.finish n d st
  | none => act s

end Sys2Proof.Machine
end

