-- ==== Sys2Proof/Machine/Weights.lean ====
section
/-! DEFINITION. The weight commands (10, R229-R240; 12, R280): loading a table and its layers, feeding a drift chain, and the repaint barrier. -/

namespace Sys2Proof.Machine

/-! ### The table (10, R229) -/

/-- The table is loaded: STATE is Loading, and nothing of it is verified. During a repaint the state and the layers' positions stay. -/
def State.loadTable (s : State) (n : Nat) : State :=
  let mib := galMibOf (s.layers n)
  s.updPart n fun p =>
    let p := { p with tableLoaded := true, galMib := mib }
    if p.repaint.isSome then p else { p with wt := .loading, layers := [], lastLayer := none, confirmedAt := none }

/-- WT_TABLE, with what the code found in the entries read (05, R130). -/
def execWtTable (pt : Pt) (r : DescRead) (s : State) : Res :=
  .next (s.servedRow pt r.tag (fun d => d.op = 0x10) fun s n d =>
    s.readFor n d (s.tableBase n) (32 * s.layerCount n) r.ecc fun s => s.finishIf n d (s.tableCheck n) fun s => (s.loadTable n).finish n d stOK)

/-! ### Layers (10, R230, R231) -/

/-- LAYER, OFFSET and BYTES of a weight descriptor. -/
def Desc.layer (d : Desc) : Nat := wf d.w1 15 0
def Desc.offset (d : Desc) : Nat := wf d.w2 39 0
def Desc.bytes (d : Desc) : Nat := wf d.w3 15 0

/-- The record of a weight descriptor: LAYER, WGEN, and whether the layer is verified (12, R285 table). -/
def State.wtRecord (s : State) (n : Nat) (d : Desc) (status : Nat) (verified : Bool) : Rec :=
  { d.record n status with w3 := BitVec.ofNat 64 (d.layer + at_ (s.part n).wgen 16 + at_ (b2n verified) 24) }

/-- A record for a descriptor that no fault-stop has ended meanwhile. -/
def State.completeLive (s : State) (n : Nat) (d : Desc) (r : Rec) : State :=
  if (s.part n).flight.any fun e => e.tag = d.tag && e.sq = d.sq && e.progress = .started then s.complete n d r else s

/-- R231: the bytes continue the layer where it stands, within it, and the partition takes them. -/
def State.feedOk (s : State) (n : Nat) (d : Desc) : Bool :=
  let i := d.layer
  let p := s.part n
  p.takesLayer i && decide (i < s.layerCount n) && !(s.layer n i).galleried && d.offset = (p.posFor i).bytes && decide (1 ≤ d.bytes) &&
    decide (d.bytes ≤ 65472) && decide (d.offset + d.bytes ≤ (s.layer n i).bytes)

/-- The payload's bytes are the last of their layer. -/
def State.endsLayer (s : State) (n : Nat) (d : Desc) : Bool := d.offset + d.bytes = (s.layer n d.layer).bytes

/-- The bytes are written; the descriptor that writes the last of them carries the result of the check. -/
def State.feed (s : State) (n : Nat) (d : Desc) : State :=
  let bs := slice d.payload 0 d.bytes
  let crc := crc32cRun ((s.part n).posFor d.layer).crc bs
  let last := s.endsLayer n d
  let ok : Bool := (crc ^^^ 0xFFFFFFFF).toNat = (s.layer n d.layer).check
  if last && !ok then ((s.complete n d (s.wtRecord n d stCHECKFAIL false)).appendLayer n d.layer bs).1
  else
    let s := (s.appendLayer n d.layer bs).1
    s.completeLive n d (s.wtRecord n d stOK last)

/-- WT_LOAD with SRC 0. -/
def execWtLoad (pt : Pt) (tag : BitVec 16) (s : State) : Res :=
  .next (s.descRow pt tag (fun d => d.op = 0x11 && !wb d.w1 16) fun s n d =>
    s.finishIf n d (badIf (!s.feedOk n d) stEXTENT) fun s => s.feed n d)

/-- The bytes of a gallery-resident layer lie in an object that may be read (05, R138). -/
def State.galleryLayerOk (s : State) (n i : Nat) : Bool :=
  let l := s.layer n i
  s.handleCurrent n l.handle && (match Tab.find (s.part n).gal (l.handle % 4096) with
    | some o => o.rd && decide (l.goff + l.bytes ≤ 4096 * o.pages)
    | none => false)

/-- The verifying read of a gallery-resident layer has ended (10, R230, R240): in a repaint, a read through a handle that has closed is a bounds violation, which
stops the partition. -/
def State.verifyGallery (s : State) (n : Nat) (d : Desc) (r : HostRead) : State :=
  let i := d.layer
  if !s.galleryLayerOk n i then
    if (s.part n).wt = .repainting then s.faultStop n { code := cBOUNDS, addr := (s.layer n i).goff, counted := (s.layer n i).handle } else s.finish n d stEXTENT
  else match r with
    | .error => s.finish n d stHOSTERR
    | .data bs =>
      let crc := crc32cRun 0xFFFFFFFF (slice bs 0 (s.layer n i).bytes)
      if (crc ^^^ 0xFFFFFFFF).toNat = (s.layer n i).check then
        let s := (s.setPos n i { bytes := (s.layer n i).bytes, crc := crc, ok := false }).layerPassed n i
        s.complete n d (s.wtRecord n d stOK true)
      else (s.complete n d (s.wtRecord n d stCHECKFAIL false)).layerFailed n

/-- WT_LOAD with SRC 1. -/
def execWtLoadGallery (pt : Pt) (tag : BitVec 16) (r : HostRead) (s : State) : Res :=
  .next (s.descRow pt tag (fun d => d.op = 0x11 && wb d.w1 16) fun s n d =>
    let i := d.layer
    s.finishIf n d (badIf (d.offset ≠ 0 || d.bytes ≠ 0 || decide (s.layerCount n ≤ i) || !(s.layer n i).galleried || !(s.part n).takesLayer i) stEXTENT)
      fun s => s.verifyGallery n d r)

/-! ### The head of a drift chain (10, R232, R235; 12, R280) -/

/-- Bytes go out on the head's shaft as a local SEND of the partition, 240 to a flit. -/
def State.inject (s : State) (n : Nat) (d : Desc) (bs : List Byte) : State :=
  s.shaftOut n none (wf d.w1 24 21) (wf d.w1 30 25) (s.part n).gen 0 (pieces 240 (ceilDiv bs.length 240) bs)

/-- WT_DRIFT with START 0: the bytes are written as WT_LOAD writes them, and injected. -/
def execWtDrift (pt : Pt) (tag : BitVec 16) (s : State) : Res :=
  .next (s.descRow pt tag (fun d => d.op = 0x12 && !wb d.w1 16) fun s n d =>
    s.finishIf n d (badIf (!s.feedOk n d || (d.bytes % 240 ≠ 0 && !s.endsLayer n d)) stEXTENT) fun s =>
      (s.inject n d (slice d.payload 0 d.bytes)).feed n d)

/-- WT_DRIFT with START 1: the start record is injected, and the head, whose layers are verified, takes it as its own. -/
def execWtDriftStart (pt : Pt) (tag : BitVec 16) (s : State) : Res :=
  .next (s.descRow pt tag (fun d => d.op = 0x12 && wb d.w1 16) fun s n d =>
    s.finishIf n d (badIf (d.layer ≠ 0 || d.offset ≠ 0 || d.bytes ≠ 0) stEXTENT) fun s =>
      let b := slice d.payload 0 240
      let s := s.inject n d b
      let p := s.part n
      let s := if p.st = .armed ∧ p.wt = .loaded ∧ s.allVerified n then s.startRecord n (leAt b 14 2) b else s
      s.complete n d (s.wtRecord n d stOK false))

/-! ### Repaint (10, R238, R240; 12, R280) -/

def Desc.firstLayer (d : Desc) : Nat := wf d.w2 15 0
def Desc.layerCount (d : Desc) : Nat := wf d.w2 31 16

/-- A named partition stands in a state that a repaint needs. -/
def Part.mayRepaint (p : Part) : Bool := (p.st = .armed || p.st = .run) && p.repaint.isNone

/-- The layers of a repaint lie in a partition's table. -/
def State.repaintFits (s : State) (d : Desc) (n : Nat) : Bool :=
  (s.part n).tableLoaded && decide (d.firstLayer + d.layerCount ≤ s.layerCount n)

/-- A partition's barrier begins: its steward starts no new step. -/
def Part.barrier (p : Part) (owner : Nat) (d : Desc) (now : Count) : Part :=
  { p with wt := .barrier, repaint := some { tag := d.tag, owner := owner, first := d.firstLayer, count := d.layerCount, next := d.firstLayer, startedAt := now,
                                             before := p.wt, lastBefore := p.lastLayer } }

/-- REPAINT: refused with STATE unless every named partition is Armed or in Run and in no repaint, with EXTENT unless the layers lie in the tables. -/
def execRepaint (pt : Pt) (tag : BitVec 16) (s : State) : Res :=
  .next (s.descRow pt tag (fun d => d.op = 0x13) fun s n d =>
    s.finishIf n d (firstBad [badIf (!d.named.all fun m => (s.part m).mayRepaint) stSTATE,
        badIf (d.named.isEmpty || d.layerCount = 0 || decide (4096 < d.layerCount) || !d.named.all (s.repaintFits d)) stEXTENT]) fun s =>
      d.named.foldl (fun s m => s.updPart m fun p => p.barrier n d s.now) s)

/-- A step of the partition is under way, or stands still in Hold: a half has slots selected whose output record is not read (11, R249, R250). -/
def Part.stepUnderWay (p : Part) : Bool :=
  (p.st = .run || p.st = .hold) && (match p.srv with | some v => !v.half0.selected.isEmpty || !v.half1.selected.isEmpty | none => false)

/-- REPAINT_BARRIER_CLEAR: STATE becomes Repainting and WGEN rises by one. -/
def execRepaintBarrierClear (pt : Pt) (s : State) : Res :=
  let n := pt.val
  let p := s.part n
  .next (match p.repaint with
  | some r =>
    if p.wt = .barrier ∧ !p.stepUnderWay then
      let keep := p.layers.filter fun (e : Nat × LayerPos) => e.2.ok || decide (e.1 < r.first) || decide (r.first + r.count ≤ e.1)
      (s.setPart n { p with wt := .repainting, wgen := (p.wgen + 1) % 256, lastLayer := none, layers := keep }).repaintReached r stOK
    else s
  | none => s)

/-- A named partition goes back to its old weights: at the barrier, or in Repainting before any byte has been written. -/
def Part.unbarrier (p : Part) (r : Repaint) : Part :=
  match p.repaint with
  | some x =>
    if x.owner = r.owner ∧ x.tag = r.tag then
      if p.wt = .barrier then { p with wt := x.before, repaint := none }
      else if p.wt = .repainting ∧ x.next = x.first ∧ (p.posFor x.next).bytes = 0 then
        { p with wt := x.before, repaint := none, wgen := (p.wgen + 255) % 256, lastLayer := x.lastBefore }
      else p
    else p
  | none => p

/-- BARRIER_TIMEOUT: the steps under way have not finished BARRIER_TMO ms after the repaint began; the repaint is refused for every named partition. -/
def execBarrierTimeout (pt : Pt) (s : State) : Res :=
  let p := s.part pt.val
  .next (match p.repaint with
  | some r =>
    if p.wt = .barrier ∧ p.stepUnderWay ∧ r.startedAt + 1000000 * cf s .ptWtCfg pt.val 0 30 16 ≤ s.now then
      { s with parts := s.parts.map fun (e : Nat × Part) => (e.1, e.2.unbarrier r) }.repaintReached r stBARRIERTMO
    else s
  | none => s)

end Sys2Proof.Machine
end

