-- ==== Sys2Proof/Machine/Steward.lean ====
section
/-! DEFINITION. The steward of a serving partition (11, R241-R261): the half-step boundary with its deliveries, selection and step tables, the gallery
moves of paused slots, and the host's operations. -/

namespace Sys2Proof.Machine

/-! ### Halves and time (11, R249, R251) -/

def Srv.half (v : Srv) (h : Nat) : Half := if h = 0 then v.half0 else v.half1
def Srv.setHalf (v : Srv) (h : Nat) (x : Half) : Srv := if h = 0 then { v with half0 := x } else { v with half1 := x }

def State.srvHalf (s : State) (n h : Nat) : Half :=
  match (s.part n).srv with
  | some v => v.half h
  | none => { step := 0, selected := [], startEdge := 0 }

/-- Nanoseconds between the starts of a half's consecutive steps. -/
def State.halfPeriod (s : State) (n : Nat) : Nat := 2 * (s.halfBeats n - s.overlapBeats n) * (s.part n).beatLen

/-- Start edge of a half's next step; the first one of half 0 starts with the canvas, that of half 1 half a period later. -/
def State.nextStart (s : State) (n h : Nat) : Count :=
  let x := s.srvHalf n h
  if x.step = 0 then (match s.coresOf n with | c :: _ => (s.core c).base.toNat | [] => 0) + h * (s.halfPeriod n / 2) else x.startEdge + s.halfPeriod n

/-- Lateness of the partition: the greatest of its cores' segments (01, R22). -/
def State.lateNow (s : State) (n : Nat) : Nat := ((s.coresOf n).map fun c => (s.core c).lateness).foldl Nat.max 0

/-- Fields of a class as the last boundary took them (11, R242). -/
def State.classWord (s : State) (n c : Nat) : W32 := match (s.part n).srv with | some v => v.classes.getD c 0 | none => 0
def State.pauseTtl (s : State) (n c : Nat) : Nat := rf (s.classWord n c) 31 20
def State.galTtl (s : State) (n c : Nat) : Nat := rf (s.classWord n c) 19 3
def State.missEnds (s : State) (n c : Nat) : Bool := rb (s.classWord n c) 2
def State.tbt (s : State) (n c : Nat) : Nat := match (s.part n).srv with | some v => rf (v.tbts.getD c 0) 19 0 | none => 0

/-! ### Pages (11, R245, R253) -/

/-- Pages that slots hold. -/
def State.heldPages (s : State) (n : Nat) : List Nat := (s.srvSlots n).flatMap fun e => e.2.pages.map (·.1)

/-- The lowest free pages of the pool, at most `k`. -/
def lowestFree (held : List Nat) (total k : Nat) : List Nat :=
  (((upFrom 0 (held.length + k)).filter fun x => !held.contains x).filter fun x => decide (x < total)).take k

/-- The steward's ledgers (11, R245; 13, R296, ledgers 9 and 10): a count that does not add up. -/
def State.srvLedger (s : State) (n : Nat) : Option Cause :=
  let slots := (s.srvSlots n).length
  let held := s.heldPages n
  let pages := held.length + (s.kvPages n - (dedup held).length)
  if slots ≠ s.srvCount n then some { code := cLEDGER, ledger := 9, recorded := s.srvCount n, counted := slots }
  else if pages ≠ s.kvPages n then some { code := cLEDGER, ledger := 10, recorded := s.kvPages n, counted := pages }
  else none

/-- Region address of a page of a layer (11, R253). -/
def State.pageAt (s : State) (n layer page : Nat) : Nat := s.kvAt n + (layer * s.kvPages n + page) * s.pageBytes n

/-! ### Deliveries (11, R254, R255, R259; 12, R286) -/

/-- Completion entries that a record takes (12, R283). -/
def Rec.entries (r : Rec) : Nat := 1 + ceilDiv r.payload.length 63

/-- Entries of a completion ring. -/
def State.cqSize (s : State) (q : Nat) : Nat := 2 ^ cf s .cqCfg q 0 29 25

/-- A record of so many entries can be posted at once: the partition's EVQ ring has them free beyond the records that wait for it. -/
def State.canPost (s : State) (n need : Nat) : Bool :=
  match s.evqRing n with
  | some q =>
    let g := s.ring q
    decide (g.held + (g.ready.map Rec.entries).foldl (· + ·) 0 + need ≤ s.cqSize q)
  | none => false

/-- Tokens of a slot are delivered and appended to its token log; with the last of them its slot is free (11, R244, R254, R255). -/
def State.post (s : State) (n i : Nat) (d : Delivery) : State :=
  let z := s.srvSlot n i
  let missed := z.late s.now
  let done := (z.stopEn && d.tokens.contains z.stop) || decide (z.limit ≤ d.committed + 1)
  let ends := done || (missed && s.missEnds n z.cls)
  let status := if done then stDONE else if missed then stMISSED else stOK
  let committed := if d.stale then z.committed else d.committed
  let r := s.deliveryRec n i z d.tokens status ends (done && missed) committed
  let tbt := s.tbt n z.cls
  let deadline := if tbt ≠ 0 then s.now + 1000 * tbt else if missed then 0 else z.deadline
  let z' : SrvSlot :=
    { z with committed := committed, log := z.log ++ d.tokens, deadline := deadline, draft := 0, pendingDelivery := none,
             state := if z.state = .prefill ∧ !d.stale then .decode else z.state, prevDecode := z.prevDecode || (z.state = .paused && !d.stale) }
  let s := s.putSlot n i z'
  (if ends then s.putSlot n i SrvSlot.free else s).unsolicited n r

/-- Entries of a delivery of tokens: its header, and one for the tokens (12, R285). -/
def Delivery.entries (d : Delivery) : Nat := if d.tokens.isEmpty then 1 else 2

/-- Tokens are posted, or kept until the ring has room. -/
def State.deliver (s : State) (n i : Nat) (d : Delivery) : State :=
  if s.canPost n d.entries then s.post n i d else s.putSlot n i { s.srvSlot n i with pendingDelivery := some d, draft := 0 }

/-- Deliveries that waited are posted in slot order, as far as the ring has room (11, R259). -/
def State.postPending (s : State) (n : Nat) : State :=
  if (s.part n).st = .run ∨ (s.part n).st = .hold then
    (s.srvSlots n).foldl (fun s e => match e.2.pendingDelivery with
      | some d => if s.canPost n d.entries then s.post n e.1 d else s
      | none => s) s
  else s

/-! ### The output record (11, R247, R249, R255) -/

/-- Address of a half's output record. -/
def State.recordAt (s : State) (n h : Nat) : Nat :=
  (((s.servingMap n).find? fun m => m.kind = 4 && m.half = h).map (·.haddr)).getD 0

def State.stepSeq (s : State) (n h : Nat) : Nat := leNat (s.ownBytes n (s.recordAt n h + 4) 4)

/-- Bytes of an output record. -/
def State.recordLen (s : State) (n : Nat) : Nat := 4 * (4 + s.hbRows n)

/-- The sampled token of a row, when the canvas has marked it valid. -/
def State.sample (s : State) (n h row : Nat) : Option Nat :=
  let w := leNat (s.ownBytes n (s.recordAt n h + 16 + 4 * row) 4)
  if bit w 31 then some (fld w 23 0) else none

/-- Samples s_0 to s_a: each further one is accepted while the draft before it equals the sample that precedes it. -/
def accepted : List Nat → List (Option Nat) → List Nat
  | [], some t :: _ => [t]
  | d :: ds, some t :: ts => if d = t then t :: accepted ds ts else [t]
  | _, _ => []

/-- What a selected slot's rows produced: tokens, and COMMITTED after them. -/
def State.produced (s : State) (n h : Nat) (x : Selected) (z : SrvSlot) : Option Delivery :=
  let smp := (upFrom x.first x.rows).map (s.sample n h)
  if x.decode then
    let ts := accepted (x.tokens.drop 1) smp
    if ts.isEmpty then none else some { tokens := ts, committed := z.committed + ts.length }
  else
    let c := z.committed + x.rows
    if c = z.log.length ∧ !z.more then
      match smp.getLast? with
      | some (some t) => some { tokens := [t], committed := c }
      | _ => none
    else some { tokens := [], committed := c }

/-- The slot of a selection: its delivery, or its advance alone. A slot with a cancel waiting delivers nothing (11, R261). -/
def State.takeRows (s : State) (n h : Nat) (cancelled : List Nat) (x : Selected) : State :=
  let z := s.srvSlot n x.slot
  if cancelled.contains x.slot then s
  else match s.produced n h x z with
    | none => s.putSlot n x.slot { z with draft := 0 }
    | some d => if d.tokens.isEmpty then s.putSlot n x.slot { z with committed := d.committed, draft := 0 } else s.deliver n x.slot d

/-! ### The gallery of slots (11, R256-R258) -/

/-- The object that holds moved pages, when its handle is current. -/
def State.srvObject (s : State) (n : Nat) : Option GalObj :=
  let h := cf s .srvGal n 0 31 16
  if h ≠ 0 ∧ s.handleCurrent n h then Tab.find (s.part n).gal (h % 4096) else none

/-- Space that slots hold in it. -/
def State.galSpace (s : State) (n : Nat) : List (Nat × Nat) := ((s.srvSlots n).filter fun e => e.2.galSize ≠ 0).map fun e => (e.2.galOff, e.2.galSize)

/-- First fit on 4 KiB boundaries. -/
def firstFit (used : List (Nat × Nat)) (size total : Nat) : Option Nat :=
  let starts := 0 :: used.map fun u => 4096 * ceilDiv (u.1 + u.2) 4096
  let ok := starts.filter fun a => decide (a + size ≤ total) && !used.any (meets (a, size))
  match ok with
  | [] => none
  | a :: l => some (l.foldl Nat.min a)

/-- Bytes that a slot's space takes. -/
def State.slotBytes (s : State) (n : Nat) (z : SrvSlot) : Nat := z.pages.length * s.kvLayers n * s.pageBytes n

/-- A gallery access that the object's permissions forbid (05, R138). -/
def State.galBounds (s : State) (n : Nat) : State := s.faultStop n { code := cBOUNDS, counted := cf s .srvGal n 0 31 16 }

/-- The pause of a slot has lasted PAUSE_TTL and nothing keeps it from moving. -/
def State.mayMove (s : State) (n : Nat) (z : SrvSlot) : Bool :=
  let ttl := s.pauseTtl n z.cls
  z.state = .paused && !z.moving && z.pendingDelivery.isNone && ttl ≠ 0 && decide (z.pausedAt + 10000000 * ttl ≤ s.now)

/-- A move to the gallery starts, or its shortfall is counted (11, R256). -/
def State.tryMove (s : State) (n i : Nat) : State :=
  let z := s.srvSlot n i
  match s.srvObject n with
  | none => s
  | some o =>
    if !s.mayMove n z then s
    else match firstFit (s.galSpace n) (s.slotBytes n z) (4096 * o.pages) with
      | none => (s.updSrv n fun v => { v with shortfall := v.shortfall + 1 }).count .galShortfall (.die 6) (some n)
      | some a => if !o.wr then s.galBounds n else s.putSlot n i { z with moving := true, galOff := a, galSize := s.slotBytes n z }

/-- The steward acts: in Run and in Hold (11, R261). -/
def State.stewardActs (s : State) (n : Nat) : Bool := (s.part n).st = .run || (s.part n).st = .hold

/-- PAUSE_TTL_EXPIRY. -/
def execPauseTtlExpiry (pt : Pt) (slot : Nat) (s : State) : Res := .next (if s.stewardActs pt.val then s.tryMove pt.val slot else s)

/-- Pages of positions below COMMITTED. -/
def SrvSlot.livePages (z : SrvSlot) : List (Nat × Nat) := z.pages.take (ceilDiv z.committed 64)

/-- Bytes of pages in the order in which the gallery holds them: page by page, each layer in turn (log 42). -/
def State.pageImage (s : State) (n : Nat) (ps : List (Nat × Nat)) : List Byte :=
  ps.flatMap fun p => (upFrom 0 (s.kvLayers n)).flatMap fun l => s.ownBytes n (s.pageAt n l p.1) (s.pageBytes n)

/-- The pages of a copy are read: what the code finds in them is counted and poisoned (05, R130, R132). -/
def State.readPages (s : State) (n : Nat) (ps : List (Nat × Nat)) (ecc : List EccAt) : State :=
  (ps.flatMap fun p => (upFrom 0 (s.kvLayers n)).map fun l => s.pageAt n l p.1).foldl
    (fun s a => (s.readWait n a (s.pageBytes n)).hostRead n a (s.pageBytes n) ecc) s

/-- Some copy of a kind goes on whose partition stopped or was reset after it was issued (05, R139; 12, R279). -/
def Part.hasOrphan (p : Part) (kind : Nat) : Bool := p.orphans.any fun o => o.1 = kind

/-- GALLERY_MOVE_DONE: the copy is in the object, the slot is galleried and its pages return to the pool. A copy whose steward has stopped or been reset only
ends. -/
def execGalleryMoveDone (pt : Pt) (r : SlotRead) (s : State) : Res :=
  let n := pt.val
  let slot := r.slot
  let z := s.srvSlot n slot
  .next (if (s.part n).hasOrphan 1 then s.updPart n fun p => p.dropOrphan 1
  else match s.srvObject n, s.owner n with
  | some o, some f =>
    if s.stewardActs n ∧ z.state = .paused ∧ z.moving then
      let s := s.readPages n z.livePages r.ecc
      let s := s.emit (.hostWrite f (o.base + z.galOff) (s.pageImage n z.livePages))
      s.putSlot n slot { z with state := .galleried, moving := false, galExpiry := s.now + 1000000000 * s.galTtl n z.cls, galGens := z.livePages.map (·.2), pages := [] }
    else s
  | _, _ => s)

/-- SLOT_GAL_EXPIRY (11, R257). -/
def execSlotGalExpiry (pt : Pt) (slot : Nat) (s : State) : Res :=
  let z := s.srvSlot pt.val slot
  .next (if (s.stewardActs pt.val ∨ (s.part pt.val).st = .armed) ∧ z.state = .galleried ∧ z.galExpiry ≤ s.now then s.endSlot pt.val slot stGALEXPIRED else s)

/-- A return from the gallery starts, or waits for pages (11, R258). -/
def State.startReturn (s : State) (n i : Nat) : State :=
  let z := s.srvSlot n i
  if z.state ≠ .galleried ∨ z.returning then s
  else
    let ps := lowestFree (s.heldPages n) (s.kvPages n) z.galGens.length
    if ps.length < z.galGens.length then s.putSlot n i { z with wantBack := true }
    else match s.srvObject n with
      | some o => if !o.rd then s.galBounds n else s.putSlot n i { z with returning := true, wantBack := false, pages := ps.zip z.galGens }
      | none => s

/-- Bytes of a page image land in the pool. -/
def State.landPages (s : State) (n : Nat) (ps : List Nat) (bs : List Byte) : State :=
  let places := ps.flatMap fun p => (upFrom 0 (s.kvLayers n)).map fun l => s.pageAt n l p
  ((upFrom 0 places.length).zip places).foldl (fun s ia => s.ownWrite n ia.2 (slice bs (ia.1 * s.pageBytes n) (s.pageBytes n))) s

/-- GALLERY_RETURN_DONE: the last page has landed. A host-link error on the way stops the partition; the slot stays galleried (05, R141; 11, R261). -/
def execGalleryReturnDone (pt : Pt) (slot : Nat) (r : HostRead) (s : State) : Res :=
  let n := pt.val
  let z := s.srvSlot n slot
  .next (if (s.part n).hasOrphan 2 then s.updPart n fun p => p.dropOrphan 2
  else if s.stewardActs n ∧ z.state = .galleried ∧ z.returning then
    match r with
    | .error => (s.faultStop n { code := cHOSTLINK, item := (s.owner n).map fun f => f.link.ix, counted := cf s .srvGal n 0 31 16 }).updPart n fun p => p.dropOrphan 2
    | .data bytes =>
      let s := s.landPages n (z.pages.map (·.1)) bytes
      s.putSlot n slot { z with state := .paused, returning := false, pausedAt := s.now, galExpiry := 0, galOff := 0, galSize := 0, galGens := [] }
  else s)

/-! ### Operations that wait for a boundary (11, R260) -/

/-- Slot of the partition that a descriptor names. -/
def State.slotOf (s : State) (n : Nat) (d : Desc) : Option Nat :=
  let m := wf d.w1 47 38
  if s.srvBase n ≤ m ∧ m < s.srvBase n + s.srvCount n then some (m - s.srvBase n) else none

/-- The slot has rows in a step whose record has not been read. -/
def State.inStep (s : State) (n i : Nat) : Bool := (upFrom 0 2).any fun h => (s.srvHalf n h).selected.any fun x => x.slot = i

/-- An operation takes effect. In Hold it does so as at a boundary: a slot held by the host is paused unless a step of it is under way (11, R244, R261). -/
def State.applyOp (s : State) (n : Nat) (d : Desc) : State :=
  match s.slotOf n d with
  | none => s.finish n d stEXTENT
  | some i =>
    let z := s.srvSlot n i
    if z.state = .free then s.finish n d stEXTENT
    else match d.op with
      | 0x21 => if z.state = .decode then (s.putSlot n i { z with drafts := d.tokens }).finish n d stOK else s.finish n d stEXTENT
      | 0x22 => (s.putSlot n i { z with deadline := d.w2.toNat, cls := wf d.w1 37 35 }).finish n d stOK
      | 0x23 =>
        let pauses : Bool := (s.part n).st = .hold && (z.state = .prefill || z.state = .decode) && !s.inStep n i
        (s.putSlot n i (if pauses then { z with hostHold := true, state := .paused, prevDecode := z.state = .decode, pausedAt := s.now, draft := 0 }
                        else { z with hostHold := true })).finish n d stOK
      | 0x24 => ((s.putSlot n i { z with hostHold := false }).startReturn n i).finish n d stOK
      | _ => (s.endSlot n i stCANCELLED).finish n d stOK

/-- An operation on a slot waits for the next boundary of the slot's half while a step of it is under way in Run; SRV_CANCEL also waits in Hold for
the step that holds the slot. -/
def State.opEarly (s : State) (n i : Nat) (d : Desc) : Bool :=
  let p := s.part n
  (p.st = .run && decide (0 < (s.srvHalf n (s.srvSlot n i).half).step)) || (p.st = .hold && d.op = 0x25 && s.inStep n i)

/-- It also waits behind an earlier one on the slot: operations on one slot take effect in ring order (11, R260). -/
def State.opWaits (s : State) (n i : Nat) (d : Desc) : Bool :=
  s.opEarly n i d || (match (s.part n).srv with | some v => v.ops.any fun e => s.slotOf n e = some i | none => false)

/-- An operation arrives: refused for a slot outside the range or a free one, applied, or kept for its boundary. -/
def State.srvOp (s : State) (n : Nat) (d : Desc) : State :=
  match s.slotOf n d with
  | none => s.finish n d stEXTENT
  | some i =>
    if (s.srvSlot n i).state = .free then s.finish n d stEXTENT
    else if s.opWaits n i d then s.updSrv n fun v => { v with ops := v.ops ++ [d] }
    else s.applyOp n d

/-- Operations that waited for a boundary when the partition entered Hold take effect there, but for a SRV_CANCEL of a slot in a step and those behind it
(11, R261). -/
def State.holdOps (s : State) (n : Nat) : State :=
  match (s.part n).srv with
  | none => s
  | some v =>
    (v.ops.foldl (fun (a : State × List (Option Nat)) d =>
      let k := a.1.slotOf n d
      let keep : Bool := match k with | some i => a.2.contains k || a.1.opEarly n i d | none => false
      if keep then (a.1, k :: a.2) else ((a.1.updSrv n fun v => { v with ops := v.ops.erase d }).applyOp n d, a.2)) (s, [])).1

/-- Operations that wait for a boundary of half `h`. -/
def State.opsOf (s : State) (n h : Nat) : List Desc :=
  match (s.part n).srv with
  | some v => v.ops.filter fun d => match s.slotOf n d with | some i => (s.srvSlot n i).state = .free || (s.srvSlot n i).half = h | none => true
  | none => []

/-- They take effect in order. -/
def State.applyOps (s : State) (n h : Nat) : State :=
  let mine := s.opsOf n h
  let s := s.updSrv n fun v => { v with ops := v.ops.filter fun d => !mine.contains d }
  mine.foldl (fun s d => s.applyOp n d) s

/-! ### Selection (11, R250-R252) -/

/-- The slot decodes, now or once it is selected again. -/
def SrvSlot.decodes (z : SrvSlot) : Bool := z.state = .decode || (z.state = .paused && z.prevDecode)

/-- The slot may be a candidate. -/
def SrvSlot.candidate (z : SrvSlot) : Bool :=
  (z.state = .prefill || z.state = .decode || z.state = .paused) && !z.hostHold && !z.returning && z.pendingDelivery.isNone &&
    (z.decodes || decide (z.committed < z.log.length))

/-- Candidate `a` stands before `b`: class, deadline with 0 last, slot index. -/
def slotBefore (a b : Nat × SrvSlot) : Bool :=
  let dl (z : SrvSlot) : Nat := if z.deadline = 0 then 2 ^ 64 else z.deadline
  if a.2.cls ≠ b.2.cls then decide (a.2.cls < b.2.cls) else if dl a.2 ≠ dl b.2 then decide (dl a.2 < dl b.2) else decide (a.1 < b.1)

def insertSlot (x : Nat × SrvSlot) : List (Nat × SrvSlot) → List (Nat × SrvSlot)
  | [] => [x]
  | y :: l => if slotBefore x y then x :: y :: l else y :: insertSlot x l

/-- Candidates in order. -/
def orderSlots (l : List (Nat × SrvSlot)) : List (Nat × SrvSlot) := l.foldl (fun a x => insertSlot x a) []

/-- Where a selection stands: rows taken, variant groups in use (group 0 is variant 0), slots selected. -/
structure Picks where
  rows : Nat
  groups : List Nat
  selected : List Selected
  deriving DecidableEq, Repr

/-- Rows that a candidate takes of those left: 1 and its drafts, or its unprocessed tokens. Drafts stay within the context limit. -/
def State.rowsFor (s : State) (n : Nat) (z : SrvSlot) (left : Nat) : Nat :=
  if left = 0 then 0
  else if z.decodes then 1 + Nat.min (Nat.min z.drafts.length (s.draftMax n)) (Nat.min (left - 1) (64 * s.pageMax n - 1 - z.committed))
  else Nat.min (z.log.length - z.committed) (Nat.min (s.prefillMax n) left)

/-- Tokens of a candidate's rows. -/
def SrvSlot.rowTokens (z : SrvSlot) (rows : Nat) : List Nat :=
  if z.decodes then z.log.getD z.committed 0 :: z.drafts.take (rows - 1) else (z.log.drop z.committed).take rows

/-- A pass-over is counted by its cause, on edge die E0 (log 101). -/
def State.passVariantOver (s : State) (n : Nat) : State :=
  (s.updSrv n fun v => { v with passVariant := v.passVariant + 1 }).count .passOverVariant (.die 6) (some n)

def State.passPagesOver (s : State) (n : Nat) : State :=
  (s.updSrv n fun v => { v with passPages := v.passPages + 1 }).count .passOverPages (.die 6) (some n)

/-- A candidate is taken for half `h`, or passed over. -/
def State.pickSlot (s : State) (n h : Nat) (acc : Picks) (i : Nat) : State × Picks :=
  let z := s.srvSlot n i
  let rows := s.rowsFor n z (s.hbRows n - acc.rows)
  if rows = 0 then (s, acc)
  else
    let groups := if acc.groups.contains z.variant then acc.groups else acc.groups ++ [z.variant]
    let need := (z.committed + rows - 1) / 64 + 1 - z.pages.length
    let ps := lowestFree (s.heldPages n) (s.kvPages n) need
    if s.vgMax n < groups.length then (s.passVariantOver n, acc)
    else if ps.length < need then (s.passPagesOver n, acc)
    else
      let wgen := (s.part n).wgen
      let x : Selected := { slot := i, first := acc.rows, rows := rows, decode := z.decodes, vgroup := groups.findIdx (· = z.variant), tokens := z.rowTokens rows }
      let z' := { z with state := if z.decodes then .decode else .prefill
                         half := h, draft := if z.decodes then rows - 1 else 0, drafts := [], wgen := wgen, pages := z.pages ++ ps.map fun p => (p, wgen),
                         moving := false, galOff := 0, galSize := 0 }
      (s.putSlot n i z', { rows := acc.rows + rows, groups := groups, selected := acc.selected ++ [x] })

/-- The candidates of a half are taken in order, then the paused ones of the other half in the rows left; at a repaint barrier none is. -/
def State.select (s : State) (n h : Nat) : State × Picks :=
  let start : Picks := { rows := 0, groups := [0], selected := [] }
  if (s.part n).repaint.isSome then (s, start)
  else
    let mine := orderSlots ((s.srvSlots n).filter fun e => e.2.half = h && e.2.candidate)
    let other := orderSlots ((s.srvSlots n).filter fun e => e.2.half ≠ h && e.2.state = .paused && e.2.candidate)
    (mine ++ other).foldl (fun sa e => sa.1.pickSlot n h sa.2 e.1) (s, start)

/-- Slots of the half in prefill or decode that are not selected are paused (11, R244). -/
def State.pauseRest (s : State) (n h : Nat) (xs : List Selected) : State :=
  (s.srvSlots n).foldl (fun s e =>
    let z := e.2
    if z.half = h ∧ (z.state = .prefill ∨ z.state = .decode) ∧ !xs.any (fun x => x.slot = e.1) then
      s.putSlot n e.1 { z with state := .paused, prevDecode := z.state = .decode, pausedAt := s.now, draft := 0 }
    else s) s

/-- Moves that wait are tried, and the galleried slot that would be the half's first candidate not selected returns, as do those whose return waits
for pages (11, R256, R258). -/
def State.boundaryGallery (s : State) (n h : Nat) : State :=
  let s := (s.srvSlots n).foldl (fun s e => s.tryMove n e.1) s
  let s := (s.srvSlots n).foldl (fun s e => if e.2.wantBack then s.startReturn n e.1 else s) s
  let rest := orderSlots ((s.srvSlots n).filter fun e => e.2.half = h && e.2.pendingDelivery.isNone &&
    ((e.2.state = .galleried && !e.2.hostHold && !e.2.returning && (e.2.prevDecode || decide (e.2.committed < e.2.log.length))) || (e.2.state = .paused && e.2.candidate)))
  match rest with
  | e :: _ => if e.2.state = .galleried then s.startReturn n e.1 else s
  | [] => s

/-! ### Step tables (11, R247, R248) -/

/-- A valid stencil entry (04, R99). -/
def stencilEntry (ix : Nat) : Nat := 2 ^ 31 + ix

/-- The row of a selection at offset `j`. -/
def State.rowWord (s : State) (n : Nat) (x : Selected) (j : Nat) : Nat :=
  let kind := if x.decode then (if j = 0 then 0 else 1) else 2
  at_ 1 63 + at_ kind 61 + at_ (s.srvBase n + x.slot) 51 + at_ x.vgroup 47 + at_ ((s.srvSlot n x.slot).committed + j) 24 + x.tokens.getD j 0

/-- The row table: 8 bytes for each row. -/
def State.rowTable (s : State) (n : Nat) (xs : List Selected) : List Nat :=
  let used := xs.flatMap fun x => (upFrom 0 x.rows).map (s.rowWord n x)
  used ++ List.replicate (s.hbRows n - used.length) 0

/-- The page stencil of a selection index. -/
def State.pageRow (s : State) (n : Nat) (xs : List Selected) (j : Nat) : List Nat :=
  match xs[j]? with
  | some x =>
    let z := s.srvSlot n x.slot
    let last := (z.committed + x.rows - 1) / 64 + 1
    let es := (z.pages.take last).map fun p => stencilEntry p.1
    es ++ List.replicate (s.pageMax n - es.length) 0
  | none => List.replicate (s.pageMax n) 0

/-- The group stencil. -/
def State.groupTable (s : State) (n : Nat) (xs : List Selected) (g : Nat) : List Nat :=
  (upFrom 0 (s.hbRows n)).map fun r => if xs.any fun x => x.vgroup = g && decide (x.first ≤ r) && decide (r < x.first + x.rows) then stencilEntry r else 0

/-- Private experts of a variant: AUX of its RES 3 entries (10, R229). -/
def State.expertsOf (s : State) (n v : Nat) : List Nat := (dedup (((s.layers n).filter fun l => l.res = 3 && l.variant = v).map Layer.aux)).take 16

/-- The variant table: 32 words for each of 16 groups. -/
def State.variantTable (s : State) (n : Nat) (groups : List Nat) : List Nat :=
  (upFrom 0 16).flatMap fun g =>
    match groups[g]? with
    | some v => let es := (s.expertsOf n v).map stencilEntry
                stencilEntry v :: (es ++ List.replicate (31 - es.length) 0)
    | none => List.replicate 32 0

/-- Bytes of the table that a serving-map entry names. -/
def State.tableBytes (s : State) (n : Nat) (p : Picks) (m : MapEnt) : List Byte :=
  match m.kind with
  | 0 => (s.rowTable n p.selected).flatMap (leBytes 8)
  | 1 => ((upFrom m.first (m.len / s.pageMax n)).flatMap (s.pageRow n p.selected)).flatMap (leBytes 4)
  | 2 => (s.groupTable n p.selected m.group).flatMap (leBytes 4)
  | _ => (s.variantTable n p.groups).flatMap (leBytes 4)

/-- Every step table of a half is written. -/
def State.writeTables (s : State) (n h : Nat) (p : Picks) : State :=
  ((s.servingMap n).filter fun m => m.half = h && decide (m.kind < 4)).foldl (fun s m => if (s.part n).st = .faultStop then s else s.putBytes n (coreOfIx m.core) m.addr (s.tableBytes n p m)) s

/-- `k` SETs of one to a flag of a core. -/
def State.addFlags (s : State) (n : Nat) (c : CoreId) (f : Nat) : Nat → State
  | 0 => s
  | k + 1 => (s.incFlag n c f []).addFlags n c f k

/-- ACT A times, then GO once, on every core of the partition. -/
def State.setGo (s : State) (n h a : Nat) : State :=
  let w := cfg s .srvFlags n 0
  let go := if h = 0 then rf w 23 18 else rf w 11 6
  let act := if h = 0 then rf w 17 12 else rf w 5 0
  (s.coresOf n).foldl (fun s c => (s.addFlags n c act a).incFlag n c go []) s

/-! ### The boundary (11, R244-R250) -/

/-- The next half-step of half `h` is selected, its tables are written and it is issued. -/
def State.issueHalf (s : State) (n h : Nat) : State :=
  let start := s.nextStart n h
  let (s, p) := s.select n h
  let s := s.pauseRest n h p.selected
  let s := s.boundaryGallery n h
  let s := s.writeTables n h p
  let s := s.updSrv n fun v => v.setHalf h { step := (v.half h).step + 1, selected := p.selected, startEdge := start }
  if (s.part n).st = .run then s.setGo n h (ceilDiv p.rows 8) else s

/-- The repaint has written its last layer: a serving partition releases at this boundary (10, R238). -/
def State.boundaryRelease (s : State) (n : Nat) : State :=
  let p := s.part n
  match p.repaint with
  | some r => if p.wt = .repainting ∧ r.first + r.count ≤ r.next then s.releaseRepaint n else s
  | none => s

/-- The output record of a half's step is read, with what the code finds in it (05, R130, R132); none stands before the first step. -/
def State.readRecord (s : State) (n h : Nat) (ecc : List EccAt) : State :=
  if (s.srvHalf n h).step = 0 then s else (s.readWait n (s.recordAt n h) (s.recordLen n)).hostRead n (s.recordAt n h) (s.recordLen n) ecc

/-- HALF_STEP_BOUNDARY: the steward reads the output record of the half's step, or builds its first one. -/
def execHalfStepBoundary (pt : Pt) (r : HalfRead) (s : State) : Res :=
  let n := pt.val
  let h := r.half.val
  let p := s.part n
  let x := s.srvHalf n h
  .next (if p.srv.isSome ∧ p.st = .run ∧ (x.step = 0 ∨ s.stepSeq n h = x.step % 2 ^ 32) then
    match s.srvLedger n with
    | some c => s.ledgerFault [n] c
    | none =>
      let s := (s.readRecord n h r.ecc).updSrv n fun v => { v with classes := s.srvClasses n, tbts := s.srvTbts n }
      let cancelled := (s.opsOf n h).filterMap fun d => if d.op = 0x25 then s.slotOf n d else none
      let s := x.selected.foldl (fun s y => s.takeRows n h cancelled y) s
      let s := s.updSrv n fun v => v.setHalf h { v.half h with selected := [] }
      let s := ((s.postPending n).applyOps n h).boundaryRelease n
      if (s.part n).st = .run then s.issueHalf n h else s
  else s)

/-! ### The host's operations (11, R260) -/

/-- R252: a variant may be admitted. -/
def State.variantOk (s : State) (n v : Nat) : Bool :=
  let ls := if (s.part n).tableLoaded then (s.layers n).filter fun l => (l.res = 2 || l.res = 3) && l.variant = v else []
  v = 0 || (!ls.isEmpty && ls.all fun l => l.wgen = (s.part n).wgen)

/-- Half of an admitted slot: the one with fewer slots that are not free, else the one whose next step starts first (11, R251). -/
def State.admitHalf (s : State) (n : Nat) : Nat :=
  let busy (h : Nat) : Nat := ((s.srvSlots n).filter fun e => e.2.state ≠ .free && e.2.half = h).length
  if busy 0 < busy 1 then 0 else if busy 1 < busy 0 then 1 else if s.nextStart n 1 < s.nextStart n 0 then 1 else 0

/-- SRV_ADMIT. -/
def execSrvAdmit (pt : Pt) (tag : BitVec 16) (s : State) : Res :=
  .next (s.descRow pt tag (fun d => d.op = 0x20) fun s n d =>
    let limit := wf d.w3 63 41
    match (s.srvSlots n).find? fun e => e.2.state = .free with
    | none => s.finish n d stNOSLOT
    | some e =>
      s.finishIf n d (firstBad [badIf (!s.variantOk n (wf d.w1 44 35)) stNOVARIANT,
        badIf (d.ntok = 0 || decide (16368 < d.ntok) || decide (64 * s.pageMax n < limit) || decide (limit ≤ d.ntok)) stEXTENT]) fun s =>
        let z : SrvSlot :=
          { SrvSlot.free with state := .prefill, cls := wf d.w1 47 45, variant := wf d.w1 44 35, half := s.admitHalf n, wgen := (s.part n).wgen, reqId := wf d.w1 63 48,
                              deadline := d.w2.toNat, prompt := d.ntok, more := wb d.w1 34, limit := limit, stopEn := wb d.w1 33, stop := wf d.w1 23 0, log := d.tokens }
        (s.putSlot n e.1 z).complete n d { d.record n stOK with w3 := BitVec.ofNat 64 (s.srvBase n + e.1) })

/-- SRV_APPEND of prompt tokens: on arrival. -/
def execSrvAppendPrompt (pt : Pt) (tag : BitVec 16) (s : State) : Res :=
  .next (s.descRow pt tag (fun d => d.op = 0x21 && !wb d.w1 37) fun s n d =>
    match s.slotOf n d with
    | none => s.finish n d stEXTENT
    | some i =>
      let z := s.srvSlot n i
      s.finishIf n d (badIf (z.state = .free || !z.more || d.ntok = 0 || decide (16368 < d.ntok) || decide (z.limit < z.prompt + d.ntok)) stEXTENT) fun s =>
        (s.putSlot n i { z with log := z.log ++ d.tokens, prompt := z.prompt + d.ntok, more := wb d.w1 34 }).finish n d stOK)

/-- SRV_APPEND of drafts. -/
def execSrvAppendDraft (pt : Pt) (tag : BitVec 16) (s : State) : Res :=
  .next (s.descRow pt tag (fun d => d.op = 0x21 && wb d.w1 37) fun s n d =>
    s.finishIf n d (badIf (d.ntok = 0 || decide (s.draftMax n < d.ntok)) stEXTENT) fun s => s.srvOp n d)

/-- SRV_DEADLINE. -/
def execSrvDeadline (pt : Pt) (tag : BitVec 16) (s : State) : Res := .next (s.descRow pt tag (fun d => d.op = 0x22) fun s n d => s.srvOp n d)

/-- SRV_PAUSE. -/
def execSrvPause (pt : Pt) (tag : BitVec 16) (s : State) : Res := .next (s.descRow pt tag (fun d => d.op = 0x23) fun s n d => s.srvOp n d)

/-- SRV_RESUME. -/
def execSrvResume (pt : Pt) (tag : BitVec 16) (s : State) : Res := .next (s.descRow pt tag (fun d => d.op = 0x24) fun s n d => s.srvOp n d)

/-- SRV_CANCEL. -/
def execSrvCancel (pt : Pt) (tag : BitVec 16) (s : State) : Res := .next (s.descRow pt tag (fun d => d.op = 0x25) fun s n d => s.srvOp n d)

/-- The slot is selected in a half-step whose delivery is predicted later than its deadline (11, R251). -/
def State.atRisk (s : State) (n i : Nat) : Bool :=
  let z := s.srvSlot n i
  z.deadline ≠ 0 && (upFrom 0 2).any fun h =>
    let x := s.srvHalf n h
    x.selected.any (fun y => y.slot = i) && decide (z.deadline < x.startEdge + s.halfBeats n * (s.part n).beatLen + s.lateNow n)

/-- SRV_QUERY: the entries in-band, and the at-risk bitmap. -/
def execSrvQuery (pt : Pt) (tag : BitVec 16) (s : State) : Res :=
  .next (s.descRow pt tag (fun d => d.op = 0x26) fun s n d =>
    let k := wf d.w1 4 0
    match s.slotOf n d with
    | none => s.finish n d stEXTENT
    | some i =>
      s.finishIf n d (badIf (k = 0 || decide (16 < k) || decide (s.srvCount n < i + k)) stEXTENT) fun s =>
        let risk := (upFrom 0 k).foldl (fun a j => a + at_ (b2n (s.atRisk n (i + j))) j) 0
        s.complete n d { d.record n stOK with w3 := BitVec.ofNat 64 risk, payload := (upFrom i k).flatMap fun j => (s.srvSlot n j).bytes })

end Sys2Proof.Machine
end

