-- ==== Sys2Proof/Machine/Beats.lean ====
section
/-! DEFINITION. Beat edges, holds, releases, starts and handovers (01, R17-R39; 04, R113; 10, R236), the lamp audit (07, R171), operating
points (01, R28-R31; 07, R172), and the wait-cycle detector (06, R156). -/

namespace Sys2Proof.Machine

/-! ### Wait cycles (06, R156) -/

/-- The sequencer of a core stands at a command that the stalled head of engine queue `q` keeps from passing: one for that queue while it is full, a PACE on it,
or a BEAT, which waits for every queue (04, R88, R111, R112). -/
def State.heldBy (s : State) (c : CoreId) (q : Nat) : Bool :=
  let k := s.core c
  let x := s.streamCmd c k.pc
  k.segOpen && !k.ended &&
    ((x.opcode = 0x51 && wf x.w0 22 20 = q && decide (wf x.w0 19 12 < (k.queue q).length)) || x.opcode = 0x50 ||
      (x.queue = q && decide (queueDepth q ≤ (k.queue q).length)))

/-- Commands that the sequencer's local queue may hold, from a stream index on (04, R87). -/
def State.localQueue (s : State) (c : CoreId) (i : Nat) : List Cmd :=
  (upFrom i (Nat.min 32 ((s.core c).streamLen - i))).map (s.streamCmd c)

/-- Commands that stand behind a stalled head: those of its queue, and those of the sequencer's local queue when the head, or the sequencer's own command,
holds them. Places 5 and 6 are passes in the cubes of M0 and M1 (log 76). -/
def State.waitingBehind (s : State) (c : CoreId) (q : Nat) : List Cmd :=
  let k := s.core c
  if q = 4 then s.localQueue c (k.pc + 1)
  else
    let e := if q < 4 then q else q - 5
    ((if q < 4 then (k.queue e).drop 1 else k.queue e).map (·.cmd)) ++ (if s.heldBy c e then s.localQueue c k.pc else [])

/-- Core whose flag or slot a stall waits for: that of the queue, or the destination of a SEND that waits for its credit on the mesh (04, R103). -/
def State.stallCore (s : State) (c : CoreId) (q : Nat) (x : Stall) : Option CoreId :=
  if x.kind = 2 then
    match (s.core c).queue q with
    | y :: _ => if y.cmd.sendRoute = 0 then some y.cmd.dest else none
    | [] => none
  else some c

/-- A command of core `src` feeds a flag or a slot of core `dst` (ITEM): a SET, a SEND, the flag of a FETCH or STORE; and for the credit of a slot its
release (04, R103, R105). -/
def Cmd.feeds (x : Cmd) (src dst : CoreId) (item : Nat) (credit : Bool) : Bool :=
  match x.opcode with
  | 0x38 => !credit && ((x.setRoute = 0 && decide (src = dst) && x.setFlag = item) || (x.setRoute = 1 && decide (x.dest = dst) && x.setFlag = item))
  | 0x30 => !credit && x.sendRoute = 0 && decide (x.dest = dst) && ((x.sendDfen && x.sendFlag = item) || slotItem x.sendSlot = item)
  | 0x28 | 0x29 => !credit && decide (src = dst) && x.memFlag = item
  | 0x31 => credit && x.recvRelease && decide (src = dst) && slotItem x.recvSlot = item
  | _ => false

/-- Queues of the partition stalled on a flag or slot across at least two beat edges. -/
def State.stalledQueues (s : State) (n : Nat) : List (CoreId × Nat × Stall) :=
  (s.coresOf n).flatMap fun c => ((s.core c).stalls.filter fun e => decide (2 ≤ e.2.edges)).map fun (e : Nat × Stall) => (c, e.1, e.2)

/-- Queue `a` waits for a command behind the stalled head of `b`. -/
def State.waitsFor (s : State) (a b : CoreId × Nat × Stall) : Bool :=
  match s.stallCore a.1 a.2.1 a.2.2 with
  | some dst => (s.waitingBehind b.1 b.2.1).any fun x => x.feeds b.1 dst a.2.2.item (a.2.2.kind = 2)
  | none => false

/-- Queues reached from `from_` in at most `fuel` steps of the relation. -/
def State.reach (s : State) (all : List (CoreId × Nat × Stall)) : Nat → List (CoreId × Nat × Stall) → List (CoreId × Nat × Stall)
  | 0, seen => seen
  | fuel + 1, seen => s.reach all fuel (seen ++ all.filter fun b => !seen.contains b && seen.any fun a => s.waitsFor a b)

/-- The queue lies in a cycle. -/
def State.inCycle (s : State) (all : List (CoreId × Nat × Stall)) (a : CoreId × Nat × Stall) : Bool :=
  (s.reach all all.length (all.filter (s.waitsFor a))).contains a

/-- Queues in a wait cycle are reported, one record for each stall, before any of them times out (06, R156, R159). QUEUE is the engine queue of a pass that
stalls in the cubes. -/
def State.reportCycles (s : State) (n : Nat) : State :=
  if s.assayChk n 3 then
    let all := s.stalledQueues n
    (all.filter fun b => !b.2.2.seen && s.inCycle all b).foldl (fun t b =>
      let k := s.core b.1
      let q := if b.2.1 < 5 then b.2.1 else b.2.1 - 5
      let cmd := if b.2.1 < 4 then (match k.queue b.2.1 with | x :: _ => x.idx | [] => 0)
        else if b.2.1 = 4 then k.pc else (match Tab.find k.run (2 * q) with | some r => r.q.idx | none => 0)
      (t.updCore b.1 fun k => { k with stalls := k.stalls.map fun (e : Nat × Stall) => (e.1, if e.1 = b.2.1 then { e.2 with seen := true } else e.2) }).report n
        { kind := 4, core := b.1, queue := q, cmd := cmd }) s
  else s

/-! ### Beat edges (01, R17-R22; 04, R108) -/

/-- A core's stalls count the edge, when they began before it. -/
def Core.countEdge (k : Core) (t : Count) : Core :=
  { k with stalls := k.stalls.map fun (e : Nat × Stall) => (e.1, if e.2.since < t then { e.2 with edges := e.2.edges + 1 } else e.2) }

/-- A beat edge of a partition: stalls count it, due segments start. In Hold nothing counts it (01, R33). -/
def State.beatEdge (s : State) (n : Nat) (t : Count) : State :=
  let cs := (s.coresOf n).filter fun c => t % (s.core c).beatNs = 0
  let s := s.updPart n fun p => { p with lastEdge := t }
  if (s.part n).st = .run then
    let s := cs.foldl (fun s c => s.updCore c fun k => k.countEdge t) s
    let s := s.reportCycles n
    cs.foldl (fun s c => if s.segmentDue n c then s.startSegment n c else s) s
  else s

/-- BEAT_EDGE: the count reaches a beat edge of the partition, in an overlap of either canvas (01, R17, R19). -/
def execBeatEdge (pt : Pt) (t : Count) (s : State) : Res :=
  let s := (s.advance t).catchUp
  let n := pt.val
  let p := s.part n
  let edge : Bool := t % p.beatLen = 0 || (s.coresOf n).any fun c => t % (s.core c).beatNs = 0
  .next (if s.atCount t ∧ (p.st = .run ∨ p.st = .hold) ∧ edge ∧ p.lastEdge ≠ t then s.beatEdge n t else s)

/-! ### The lamp audit (07, R171) -/

/-- Lamps of the commands a core's engines are running. -/
def Core.counted (k : Core) : Nat := (k.run.map fun e => e.2.lamps).foldl (· + ·) 0

/-- D of a partition on a die as its cores give it. -/
def State.countedOn (s : State) (n d : Nat) : Nat :=
  ((s.cores.filter fun e => e.1 / 88 = d && s.ownsClu n (e.1 / 8)).map fun e => e.2.counted).foldl (· + ·) 0

/-- The die total: base charges and every D, as the cores give them. -/
def State.countedDie (s : State) (d : Nat) : Nat :=
  8 * (s.clusters.filter fun e => e.1 / 11 = d).length + ((s.parts.map fun e => s.countedOn e.1 d).foldl (· + ·) 0)

/-- A core or a partition disagrees with its ledger on a die. -/
def State.partDiffers (s : State) (d : Nat) : Bool :=
  s.parts.any (fun e => e.2.notAbsent && decide (s.countedOn e.1 d ≠ e.2.heldOn d)) ||
    s.cores.any fun e => e.1 / 88 = d && decide (e.2.counted ≠ e.2.held)

/-- The audit of one core. -/
def State.auditCore (s : State) (n : Nat) (c : CoreId) : State :=
  let k := s.core c
  if k.counted = k.held then s
  else s.ledgerFault [n] { code := cLEDGER, ledger := 4, core := some c, recorded := k.held, counted := k.counted }

/-- The audit of one partition on one die. -/
def State.auditPart (s : State) (n d : Nat) : State :=
  let rec_ := (s.part n).heldOn d
  let cnt := s.countedOn n d
  let s := if cnt = rec_ then s else s.ledgerFault [n] { code := cLEDGER, ledger := 5, die := d, recorded := rec_, counted := cnt }
  s.updPart n fun p => { p with lampStat := Tab.put p.lampStat d rec_ }

/-- Partitions that are not Absent and have a cluster on a die. -/
def State.partsOnDie (s : State) (d : Nat) : List Nat := (s.parts.filter fun e => e.2.notAbsent && s.onDie e.1 d).map (·.1)

/-- The audit of one die's total: it stops partitions only when no core's and no partition's ledger on the die disagrees. -/
def State.auditDie (s : State) (d : Nat) : State :=
  if s.countedDie d = s.drawn d ∨ s.partDiffers d then s
  else s.ledgerFault (s.partsOnDie d)
    { code := cLEDGER, ledger := 6, die := d, recorded := s.drawn d, counted := s.countedDie d }

/-- A hardware error in a ledger's own logic is a break of that ledger (13, R298). Both values of the record are free (log 85). -/
def State.ledgerHardware (s : State) (e : LedgerErr) : State :=
  let f := s.fresh
  let a := (Config.ledgerWord f).toNat
  let b := (Config.ledgerWord (f + 1)).toNat
  let s : State := { s with fresh := f + 2 }
  match e.ledger.val with
  | 0 => s
  | 1 | 2 => s.linkLedger e.port.val e.ledger.val none a b
  | 6 => s.ledgerFault (s.partsOnDie e.die.val) { code := cLEDGER, ledger := 6, die := e.die.val, recorded := a, counted := b }
  | l => s.ledgerFault [e.part.val] { code := cLEDGER, ledger := l, recorded := a, counted := b }

/-- LAMP_AUDIT: at every multiple of 512, with the hardware errors that the ledgers' own logic shows by then (log 85). -/
def execLampAudit (a : AuditCount) (s : State) : Res :=
  let s := s.advance a.t
  .next (if s.atCount a.t ∧ a.t % 512 = 0 then
    let ps := (s.parts.filter fun e => e.2.notAbsent).map (·.1)
    let s := ps.foldl (fun s n => (s.coresOf n).foldl (fun s c => s.auditCore n c) s) s
    let s := ps.foldl (fun s n => (upFrom 0 6).foldl (fun s d => s.auditPart n d) s) s
    a.errs.foldl State.ledgerHardware ((upFrom 0 6).foldl (fun s d => s.auditDie d) s)
  else s)

/-! ### Operating points (01, R27-R31; 07, R172) -/

/-- Partitions in Armed, Run or Hold. -/
def State.active (s : State) : List Nat := (s.parts.filter fun e => e.2.st = .armed || e.2.st = .run || e.2.st = .hold).map (·.1)

/-- The longest beat of those partitions, 512 ns without any. -/
def State.longestBeat (s : State) : Nat := (s.active.flatMap fun n => (s.part n).beats).foldl Nat.max 512

/-- A change meets R28. -/
def State.opOk (s : State) (target count : Nat) : Bool :=
  if s.active.isEmpty then count % 512 = 0 && decide (s.now + 64 * 512 ≤ count)
  else s.active.all fun n =>
    let p := s.part n
    (p.beats.all fun b => count % b = 0 && decide (s.now + 64 * b ≤ count)) && p.canvases.all fun c => decide (c.op ≤ target)

/-- A pending change lies far enough ahead to be replaced or cancelled (01, R30). -/
def State.opFar (s : State) : Bool :=
  match s.op.pend with
  | some x => decide (s.now + 64 * s.longestBeat ≤ x.2)
  | none => true

/-- An announcement: its status. A target of 5 to 7 is no point (log 21). -/
def State.announce (s : State) (target count : Nat) : State × List Word :=
  if !s.tb.running then (s, status stSTATE)
  else if 4 < target then (s, status stEXTENT)
  else if target = s.op.cur then
    (if s.opFar then ({ s with op := { s.op with pend := none } }, status stOK) else (s, status stEXTENT))
  else if s.opOk target count ∧ s.opFar then ({ s with op := { s.op with pend := some (target, count) } }, status stOK)
  else (s, status stEXTENT)

/-- OP_ANNOUNCE (01, R28, R30; 14, R316): what is refused answers EXTENT, or STATE while the count does not run (log 104). -/
def execOpAnnounce (seq : W32) (target : BitVec 3) (count : Count) (s : State) : Res :=
  .next (s.tree seq fun s => s.announce target.toNat count)

/-- Length of a slew between two rail voltages in ns, at 12 mV/µs (07, R172). -/
def slewNs (a b : Nat) : Nat := ceilDiv (1000 * (if a < b then b - a else a - b)) 12

/-- RAIL_RAISE_START (01, R31): a change to a faster point raises the rail so that the raise ends at the count. -/
def execRailRaiseStart (t : Count) (s : State) : Res :=
  let s := s.advance t
  .next (match s.op.pend with
  | some (target, count) =>
    if s.atCount t ∧ target < s.op.cur ∧ !s.op.railBusy ∧ t = count - slewNs (opMv s.op.cur) (opMv target) then
      { s with op := { s.op with railBusy := true, railTo := opMv target, railEnd := count } }
    else s
  | none => s)

/-- OP_CHANGE_COUNT (01, R31): the compute regions take the new frequency; a lowering of the rail begins. -/
def execOpChangeCount (t : Count) (s : State) : Res :=
  let s := s.advance t
  .next (match s.op.pend with
  | some (target, count) =>
    if s.atCount t ∧ t = count then
      let o := { s.op with cur := target, pend := none }
      let lower : Bool := decide (opMv target < s.op.railMv)
      { s with op := if lower then { o with railBusy := true, railTo := opMv target, railEnd := t + slewNs s.op.railMv (opMv target) } else o }
    else s
  | none => s)

/-- RAIL_SLEW_DONE (07, R172): the slew ends. -/
def execRailSlewDone (t : Count) (s : State) : Res :=
  let s := s.advance t
  .next (if s.atCount t ∧ s.op.railBusy ∧ s.op.railEnd ≤ t then { s with op := { s.op with railBusy := false, railMv := s.op.railTo } } else s)

/-! ### Hold and release (01, R32-R34) -/

/-- A count is a beat edge of the partition at least `k` beats ahead, in an overlap of both its canvases (log 34). -/
def State.edgeAhead (s : State) (n k count : Nat) : Bool :=
  let p := s.part n
  (if p.overlap then p.beats else [p.beatLen]).all fun b => count % b = 0 && decide (s.now + k * b ≤ count)

/-- A hold is accepted, or refused with a status: STATE outside Run or while a hold is pending, EXTENT for a count that breaks R32. -/
def State.askHold (s : State) (n count : Nat) (tag : Option Nat) : State × Nat :=
  let p := s.part n
  if p.st ≠ .run ∨ p.holdAt.isSome then (s, stSTATE)
  else if !s.edgeAhead n 8 count then (s, stEXTENT)
  else (s.setPart n { p with holdAt := some count, holdTag := tag }, stOK)

/-- A release is accepted, or refused in the same way (01, R34). -/
def State.askRelease (s : State) (n count : Nat) (tag : Option Nat) : State × Nat :=
  let p := s.part n
  if p.st ≠ .hold ∨ p.releaseAt.isSome then (s, stSTATE)
  else if !s.edgeAhead n 8 count then (s, stEXTENT)
  else (s.setPart n { p with releaseAt := some count, releaseTag := tag }, stOK)

/-- HOLD, of the management tree. -/
def execHold (seq : W32) (pt : Pt) (count : Count) (s : State) : Res :=
  .next (s.tree seq fun s => let r := s.askHold pt.val count none; (r.1, status r.2))

/-- RELEASE, of the management tree. -/
def execRelease (seq : W32) (pt : Pt) (count : Count) (s : State) : Res :=
  .next (s.tree seq fun s => let r := s.askRelease pt.val count none; (r.1, status r.2))

/-- Beat length of the canvas that a handover leads to. -/
def Part.nextBeat (p : Part) : Nat := match p.nextCanvas with | some c => 2 ^ c.beatExp | none => p.beatLen

/-- A core has finished every segment of an earlier beat than the hold count (01, R32). -/
def Core.stoppedFor (k : Core) (p : Part) (h : Count) : Bool :=
  match k.handover with
  | some x => decide (h + x.d * p.nextBeat ≤ x.h)
  | none => k.ended || (!k.segOpen && decide ((h : Int) ≤ k.edge k.segNo))

/-- Nothing of a core is under way (01, R32). -/
def Core.quiet (k : Core) : Bool := k.idle && k.memq.isEmpty && k.inject.isEmpty && k.run.isEmpty

/-- Mesh increments in flight. -/
def State.meshInFlight (s : State) (n : Nat) : Nat :=
  (s.mesh.filter fun m => m.pt = n && m.dfen).length + (s.meshSets.filter fun m => m.pt = n).length

/-- A descriptor's record becomes ready with OK, when one waits. -/
def State.finishTag (s : State) (n : Nat) (tag : Option Nat) : State :=
  match tag.bind (s.part n).desc with
  | some d => s.finish n d stOK
  | none => s

/-- HOLD_ENTRY (01, R32): the partition enters Hold once its mesh increments have arrived (log 75); ledger 7 compares those sent with those applied (13, R296). -/
def execHoldEntry (pt : Pt) (s : State) : Res :=
  let n := pt.val
  let p := s.part n
  .next (match p.holdAt with
  | some h =>
    if p.st = .run ∧ h ≤ s.now ∧ (s.coresOf n).all (fun c => (s.core c).stoppedFor p h && (s.core c).quiet) ∧ s.meshInFlight n = 0 then
      let s := (((s.setPart n { p with st := .hold, holdTag := none }).finishTag n p.holdTag).event n 6 0).holdOps n
      if p.meshSent = p.meshApplied then s else s.ledgerFault [n] { code := cLEDGER, ledger := 7, recorded := p.meshSent, counted := p.meshApplied }
    else s
  | none => s)

/-- A core resumes at the release count `q` after the hold count `h`: its held segment starts at `q` with zero lateness, and later ones belong to
renumbered beats (01, R34). -/
def State.resumeCore (s : State) (n : Nat) (c : CoreId) (h q : Count) : State :=
  let k := s.core c
  match k.handover with
  | some x => s.setCore c { k with handover := some { x with h := x.h + (q - h) } }
  | none => if k.ended then s else (s.setCore c { k with base := (q : Int) - (k.segNo * k.beatNs : Nat), lateness := 0 }).startSegment n c

/-- The start edges of a steward's half-steps move with the beats (01, R34; 11, R251). -/
def Srv.shift (v : Srv) (d : Nat) : Srv :=
  { v with half0 := { v.half0 with startEdge := v.half0.startEdge + d }, half1 := { v.half1 with startEdge := v.half1.startEdge + d } }

/-- RELEASE_COUNT: the partition leaves Hold. A handover that waits moves with the beats: its H, and the ports' switch, by the length of the Hold
(log 61). -/
def execReleaseCount (pt : Pt) (t : Count) (s : State) : Res :=
  let s := s.advance t
  let n := pt.val
  let p := s.part n
  .next (if s.atCount t ∧ p.st = .hold ∧ p.releaseAt = some t then
    let h := p.holdAt.getD t
    let s := s.setPart n { p with st := .run, holdAt := none, releaseAt := none, releaseTag := none, lastEdge := t,
                                  switchAt := p.switchAt.map fun x => if h ≤ x then x + (t - h) else x
                                  srv := p.srv.map fun v => v.shift (t - h) }
    (((s.coresOf n).foldl (fun s c => s.resumeCore n c h t) s).finishTag n p.releaseTag).event n 7 0
  else s)

/-! ### The gate and the start (10, R236; 12, R279) -/

/-- GATE_OPEN (10, R236): refused with STATE for a partition that is not Armed and Confirmed, with EXTENT for a count that is no edge 16 beats
ahead. -/
def execGateOpen (seq : W32) (pt : Pt) (count : Count) (s : State) : Res :=
  .next (s.tree seq fun s =>
    let p := s.part pt.val
    if p.st ≠ .armed ∨ p.wt ≠ .confirmed ∨ p.startAt.isSome then (s, status stSTATE)
    else if !s.edgeAhead pt.val 16 count then (s, status stEXTENT)
    else (s.setPart pt.val { p with startAt := some count }, status stOK))

/-- START_COUNT: the partition enters Run, and every core starts segment 0 (01, R19; 10, R236; 12, R279). STATE of PT_WT_STAT is not tested again (log 98). -/
def execStartCount (pt : Pt) (t : Count) (s : State) : Res :=
  let s := s.advance t
  let n := pt.val
  let p := s.part n
  .next (if s.atCount t ∧ p.st = .armed ∧ p.startAt = some t then
    let s := s.setPart n { p with st := .run, startAt := none, startTag := none, confirmedAt := none, lastEdge := t,
                                  srv := p.srv.map fun v => { v with running := true } }
    (((s.coresOf n).foldl (fun s c => (s.updCore c fun k => { k with base := (t : Int), segNo := 0 }).startSegment n c) s).finishTag n p.startTag).event n 5 0
  else s)

/-- The start is called off: the partition stays Armed with its weights, Confirmed if it was (log 98), and the abort is reported (10, R236). A PART_CTL start
that waits ends with ABORTED. -/
def State.abortStart (s : State) (n : Nat) : State :=
  let p := s.part n
  let s := s.setPart n { p with startAt := none, startTag := none, confirmedAt := none }
  let s := match p.startTag.bind p.desc with
    | some d => s.finish n d stABORTED
    | none => s
  (s.platform .startAborted n).event n 3 0

/-- START_ABORT (10, R236): STATE for a partition that is not Armed (log 103). -/
def execStartAbort (seq : W32) (pt : Pt) (s : State) : Res :=
  .next (s.tree seq fun s => if (s.part pt.val).st = .armed then (s.abortStart pt.val, status stOK) else (s, status stSTATE))

/-- GATE_TIMEOUT (10, R236): GATE_OPEN has not arrived GATE_TMO ms after confirmation. -/
def execGateTimeout (pt : Pt) (t : Count) (s : State) : Res :=
  let s := s.advance t
  let n := pt.val
  let p := s.part n
  .next (match p.confirmedAt with
  | some c => if s.atCount t ∧ p.st = .armed ∧ p.startAt.isNone ∧ c + 1000000 * cf s .ptWtCfg n 0 15 0 ≤ t then s.abortStart n else s
  | none => s)

/-! ### Handover (01, R35-R39; 04, R113) -/

/-- The staged canvas at an address. -/
def Part.stagedAt (p : Part) (addr : Nat) : Option Canvas := p.staged.find? fun c => c.addr = addr

/-- HANDOVER issues (04, R113): H is an edge of both canvases, the canvas has passed staging and the comparisons of R149; then the core waits
for its head. A refused one's record names the canvas: its address in ADDR and its generation in GEN_NEW. -/
def State.handOver (s : State) (n : Nat) (c : CoreId) (q : Cmd) : State :=
  let k := s.core c
  let h := q.w1.toNat
  let addr := wf q.w2 63 24
  let p := s.part n
  let canvasFault (g : Option Nat) : Cause := { code := cCANVAS, core := some c, queue := 4, cmd := k.pc, addr := addr, genNew := g }
  match p.stagedAt addr with
  | none => s.faultStop n (canvasFault none)
  | some cv =>
    let img := s.stagedImg n addr
    if h % k.beatNs ≠ 0 ∨ h % 2 ^ cv.beatExp ≠ 0 then s.refuse n c q 2
    else if (s.sigCheck n img (some (s.portsOf n img))).isSome then s.faultStop n (canvasFault (some cv.gen))
    else
      let claims := s.claimsOf n img
      let s := if p.nextClaims = claims then s else (s.clearClaims p.nextClaims true).putClaims n cv.gen claims true
      let s := s.updPart n fun p => { p with nextCanvas := some cv, genNew := cv.gen, nextClaims := claims, switchAt := some h }
      s.setCore c { (s.core c).next with handover := some { h := h, d := wf q.w0 22 20, canvas := addr }, segOpen := false, ended := false }

/-- HANDOVER reads its canvas in the region: it waits in the sequencer while a stack there serves no request, and what the code finds there is counted and
poisoned (05, R130, R132). -/
def State.handOverRead (s : State) (n : Nat) (c : CoreId) (hbm : List EccAt) (q : Cmd) : State :=
  let addr := wf q.w2 63 24
  let len := s.imageLen n addr
  let ks := s.stacksIn n addr len
  if ks.any s.stackShut then (s.noteWait ks (192 + n, c.ix)).updCore c fun k => k.beginWait 4 s.now
  else ((s.hostRead n addr len hbm).updCore c fun k => k.endWait 4 7 s.now).handOver n c q

/-- HANDOVER. -/
def execHandover (r : IssueRead) (s : State) : Res :=
  .next (s.issueRow r.core r.ecc (fun q => q.opcode = 0x58) fun s n q => s.handOverRead n r.core r.hbm q)

/-- The tables a core is leaving. -/
def Core.genTab (k : Core) : GenTab :=
  { gen := k.gen, shapes := k.shapes, slots := k.slots, roles := k.roles, sends := k.sends, lists := k.lists }

/-- Role entries that no tag matches: those of a core that the new canvas has no entry for (04, R104). -/
def noRoles : Tab Nat := (upFrom 0 64).map fun i => (i, 1024)

/-- The head of the new canvas begins on a core (01, R35, R37, R39; 07, R166): its tables, stream and templates are the new ones; its flags,
queues, lamps and running commands stay; predicates and scalars are at their load values (log 18). What it waited for the old canvas's work is lost to
HANDOVER (01, R22). -/
def State.beginHead (s : State) (n : Nat) (c : CoreId) (x : Handover) : State :=
  let img := s.stagedImg n x.canvas
  let cv := headCanvas img x.canvas
  let k := s.core c
  let wait := s.lateBy ((x.h : Int) - (x.d * 2 ^ cv.beatExp : Nat))
  let s := s.updPart n fun p => { p with overlap := true }
  let j := k.addLost 9 (1000 * wait)
  let kept (e : Core) : Core :=
    { j with streamBase := e.streamBase, streamLen := e.streamLen, pc := 0, ahead := [], gen := cv.gen, ended := e.ended, handover := none, old := some k.genTab,
             shapes := e.shapes, slots := e.slots, roles := e.roles, preds := 0, sc := [], loops := [], grants := e.grants, grant := e.grant,
             base := (x.h : Int) - (x.d * 2 ^ cv.beatExp : Nat), beatNs := 2 ^ cv.beatExp, op := cv.op, segNo := 0, segOpen := false,
             headSegs := x.d, headBanks := [], sends := e.sends, lists := e.lists }
  match (dirOf img).find? fun e => decide (e.id = c) with
  | some e => ((((s.setCore c (kept (e.core0 img))).copyEntry n img e).startSegment n c).retire n c)
  | none => (s.setCore c (kept { Core.reset with ended := true, roles := noRoles })).retire n c

/-- A moment lies before a hold count, when there is one. -/
def beforeHold (h : Option Count) (x : Int) : Bool := match h with | some h => decide (x < (h : Int)) | none => true

/-- HEAD_START: at the later of the HANDOVER's issue and H − D × B_new, and not in a segment that a hold keeps back (01, R32, R35). -/
def execHeadStart (c : CoreId) (s : State) : Res :=
  .next (match s.partOf c, (s.core c).handover with
  | some n, some x =>
    let p := s.part n
    let at_ : Int := (x.h : Int) - (x.d * p.nextBeat : Nat)
    if p.st = .run ∧ at_ ≤ (s.now : Int) ∧ beforeHold p.holdAt at_ then s.beginHead n c x else s
  | _, _ => s)

/-! ### Port tables at a handover (01, R38) -/

/-- A VL0 flit of the partition's old generation waits to leave by a port: a local one, or one that another port's queue forwards to it by the table of its own
generation. -/
def State.oldFlitsFor (s : State) (n p gen : Nat) : Bool :=
  (s.port p).shaftq.any (fun f => f.pt = n && f.gen = gen) ||
    s.ports.any fun (e : Nat × FPort) => (Tab.get [] e.2.outq 0).any fun f =>
      f.flit.key = s.keyOf n && tagGen f.flit.role = gen &&
        (match s.ingress e.1 f.flit with | some w => rf w 31 30 = 1 && rf w 29 26 = p | none => false)

/-- PORT_TABLE_SWITCH: the port takes the next copies of the partition's entries at H or later, once no flit of the old generation waits, and once the current
calendar keeps 4 loose entries beside those of other partitions (09, R211; log 95). -/
def execPortTableSwitch (p : Port) (pt : Pt) (s : State) : Res :=
  let n := pt.val
  let q := s.part n
  let old := q.claims.filter fun c => c.port = p.val
  let new := q.nextClaims.filter fun c => c.port = p.val
  .next (match q.switchAt, q.nextCanvas with
  | some h, some cv =>
    if (q.st = .run ∨ q.st = .hold) ∧ h ≤ s.now ∧ !(old ++ new).isEmpty ∧ !((s.port p.val).switched.any fun w => w.1 = n) ∧ !s.oldFlitsFor n p.val q.gen then
      let t := (s.clearClaims old false).putClaims n cv.gen new false
      if t.looseEntries p.val false < 4 then s
      else (t.updPort p.val fun f => { f with switched := (n, s.now) :: f.switched }).endOverlap n
    else s
  | _, _ => s)

end Sys2Proof.Machine
end

