-- ==== Sys2Proof/Machine/Clocks.lean ====
section
/-! DEFINITION. Clock domains, their monitors, the droop-tracking oscillators and the crossings (07, R162, R173-R181). -/

namespace Sys2Proof

/-! ### What the droop detector saw (07, R173, R175) -/

/-- Stretch code of a sag: its percentage of the voltage of the point in force, rounded up, and 6 at most (07, R173). -/
def Sag.code (g : Sag) : Nat :=
  let v := 1000 * Machine.opMv g.point.val
  Nat.min 6 (Machine.ceilDiv (100 * (v - g.railUv)) v)

/-- Extra length of its cycles, each lengthened by 2.5 × k %: in thousandths of a cycle, and in ps at the point's frequency (07, R173). -/
def Sag.extraMilli (g : Sag) : Nat := 25 * g.code * g.cycles
def Sag.extraPs (g : Sag) : Nat := 1000 * g.extraMilli / Machine.opMHz g.point.val

/-- Cycles stretched, their extra length, and those at code 4 or above (07, R175). -/
def StretchReport.stretched (r : StretchReport) : Nat := ((r.sags.filter fun g => g.code ≠ 0).map (·.cycles)).foldl (· + ·) 0
def StretchReport.extraMilli (r : StretchReport) : Nat := (r.sags.map Sag.extraMilli).foldl (· + ·) 0
def StretchReport.extraPs (r : StretchReport) : Nat := (r.sags.map Sag.extraPs).foldl (· + ·) 0
def StretchReport.code4 (r : StretchReport) : Nat := ((r.sags.filter fun g => decide (4 ≤ g.code)).map (·.cycles)).foldl (· + ·) 0

end Sys2Proof

namespace Sys2Proof.Machine

/-! ### Lost clocks and undervoltage (07, R175, R181) -/

/-- The partition has a cluster in a compute region, numbered 2 × die, plus 1 for region B (07, "Droop-tracking oscillators"). -/
def State.inRegion (s : State) (n r : Nat) : Bool :=
  if r % 2 = 0 then (upFrom (11 * (r / 2)) 6).any (s.ownsClu n) else (upFrom (11 * (r / 2) + 6) 5).any (s.ownsClu n)

/-- Partitions not Absent that a test names. -/
def State.partsWith (s : State) (f : Nat → Bool) : List Nat := (s.parts.filter fun e => e.2.notAbsent && f e.1).map (·.1)

/-- An edge die's ports and host links fail (08, R204; 12, R268). -/
def State.edgeDieLost (s : State) (first : Nat) (a b : Link) : State :=
  let s := (upFrom first 8).foldl (fun s p => if (s.port p).st = .disabled then s else s.failPort p .failed) s
  ((s.hostReset fun f => f.link = a || f.link = b).linkDown a).linkDown b

/-- CLOCK_LOSS (07, R181): LOSS is set, and what ran on the domain fails. `die` says on which die KT was lost. With HF both headframe controllers
stop (13, R311). -/
def execClockLoss (d : Dom) (die : Fin 8) (s : State) : Res :=
  let before := s.alarm
  let s := s.updDomain d.val fun x => { x with lost := true, lossBit := true }
  let cause : Cause := { code := cCLOCKLOSS, item := d.val, die := if d.val = 0 then die.val else (d.val - 2) / 2 }
  .next (if d.val = 0 then s.faultStopAll (s.partsWith fun n => decide (die.val < 6) && s.onDie n die.val) cause
  else if d.val = 1 then ({ s with hf := { s.hf with e0Up := false, e1Up := false }, update := none }).alarmEdge before
  else if d.val < 14 then s.faultStopAll (s.partsWith fun n => s.inRegion n (d.val - 2)) cause
  else if d.val < 16 then s.edgeDieLost 0 .h0a .h0b
  else s.edgeDieLost 8 .h1a .h1b)

/-- REGION_UNDERVOLTAGE (07, R175): a sag of more than 10 % for 64 cycles stops every partition with a cluster in the region. -/
def execRegionUndervoltage (die : Die) (regionB : Bool) (s : State) : Res :=
  let r := 2 * die.val + b2n regionB
  let s := s.platform .undervoltage r
  .next (s.faultStopAll (s.partsWith fun n => s.inRegion n r) { code := cUNDERVOLT, die := die.val, item := b2n regionB })

/-! ### Monitors (07, R180, R181) -/

/-- Periods of a window outside the accepted bins. -/
def outsideBins (lo hi : Nat) (ps : List (Fin 32 × Nat)) : Nat :=
  ((ps.filter fun x => decide (x.1.val < lo) || decide (hi < x.1.val)).map (·.2)).foldl (· + ·) 0

/-- JITTER_WINDOW: an aligned 1 ms window ends; `periods` counts its unstretched periods by bin. -/
def execJitterWindow (d : Dom) (periods : List (Fin 32 × Nat)) (s : State) : Res :=
  let w := cfg s .clkMonCfg d.val 0
  let x := s.domain d.val
  if x.lost then .next s
  else
    let hist := periods.foldl (fun h bp => Tab.write 0 h bp.1.val (Nat.min (2 ^ 32 - 1) (Tab.get 0 h bp.1.val + bp.2))) x.hist
    let s := s.updDomain d.val fun x => { x with hist := hist }
    .next (if rf w 31 16 < outsideBins (rf w 10 6) (rf w 15 11) periods then
      let s := s.updDomain d.val fun x => { x with jitAlm := true }
      ((s.platform .clockAlarm d.val).count .jitAlarm (.die 6) none).canInput (canDomain d.val) 2 1
    else s)

/-- DUTY_WINDOW: an aligned 1 µs window ends with the measured duty. -/
def execDutyWindow (d : Dom) (duty : BitVec 8) (s : State) : Res :=
  let w := cfg s .clkDutyCfg d.val 0
  if (s.domain d.val).lost then .next s
  else
    let s := s.updDomain d.val fun x => { x with duty := duty.toNat }
    .next (if duty.toNat < rf w 7 0 ∨ rf w 15 8 < duty.toNat then
      let s := s.updDomain d.val fun x => { x with dutyAlm := true }
      ((s.platform .clockAlarm (256 + d.val)).count .dutyAlarm (.die 6) none).canInput (canDomain d.val) 3 1
    else s)

/-- A write of CLK_MON_STAT: ones clear LOSS, JIT_ALM, DUTY_ALM, and HIST_CLR clears every bin (07, R180). -/
def State.putMonStat (s : State) (d : Nat) (v : W32) : State :=
  s.updDomain d fun x =>
    { x with lossBit := x.lossBit && !rb v 31, jitAlm := x.jitAlm && !rb v 30, dutyAlm := x.dutyAlm && !rb v 29, hist := if rb v 20 then [] else x.hist }

/-! ### Stretching and crossings (07, R173-R178) -/

/-- The segments in progress on a region's cores lose the extra time to STRETCH (01, R22). -/
def State.stretchCores (s : State) (r ps : Nat) : State :=
  { s with cores := s.cores.map fun (e : Nat × Core) =>
      if regionOf (coreOfIx e.1) = r ∧ e.2.segOpen then (e.1, e.2.addLost 1 ps) else e }

/-- OSC_TRIM_WINDOW: an aligned window of 1,024 ns ends, and the oscillator has trimmed its unstretched period only (01, R25; 07, R174). The region
counts what stretched in it (07, R175); its cycle count falls short of the unstretched one by the extra length. -/
def execOscTrimWindow (die : Die) (regionB : Bool) (r : StretchReport) (s : State) : Res :=
  let n := 2 * die.val + b2n regionB
  let s := s.updRegion n fun x =>
    { x with lostMilli := x.lostMilli + r.extraMilli, stretched := x.stretched + r.stretched, extraPs := x.extraPs + r.extraPs, code4 := x.code4 + r.code4 }
  let x := s.region n
  let s := s.countN .stretchCycles (.die die.val) none r.stretched
  let s := s.countN .stretchTime (.die die.val) none (x.extraPs / 1000 - (x.extraPs - r.extraPs) / 1000)
  let s := s.countN .code4 (.die die.val) none r.code4
  .next ((s.canInput (canDomain (2 + n)) 0 r.code4).stretchCores n r.extraPs)

/-- CROSSING_RECENTRE (07, R178): a FIFO that has held no valid entry for eight cycles goes back to distance 8. -/
def execCrossingRecentre (x : Nat) (s : State) : Res :=
  .next (if x < 26 then
    let s := s.updCrossing x fun y => { y with distance := 8000, recentres := y.recentres + 1 }
    let s := s.count .recentre (.die (crossingDie x)) none
    if x < 12 then s else s.canInput (46 + (x - 12) / 2) 2 1
  else s)

/-! ### Cluster clocks (07, R162) -/

/-- CLUSTER_START: a waiting cluster starts its clocks, 100 ns or more after the last one, and its cores draw their base charge. -/
def execClusterStart (k : Clu) (s : State) : Res :=
  let ready : Bool := match s.lastCluStart with | some t => decide (t + 100 ≤ s.now) | none => true
  .next (if s.cluStart.contains k.val ∧ ready then
    { s with
      clusters := Tab.put s.clusters k.val ()
      cluStart := s.cluStart.filter fun j => j ≠ k.val
      lastCluStart := some s.now
      lampRoom := Tab.put s.lampRoom (k.val / 11) (s.drawn (k.val / 11) + 8) }
  else s)

end Sys2Proof.Machine
end

