-- ==== Sys2Proof/Machine/Gallery.lean ====
section
/-! DEFINITION. Gallery objects (05, R138, R139; 12, R281, R285): their registration, renewal, expiry, closing and reclaim notices. -/

namespace Sys2Proof.Machine

/-! ### The gallery (05, R138, R139; 12, R285) -/

/-- A request through an object that its decoupling queue has not yet issued. -/
def heldOn (q : List MemReq) (ix : Nat) : Option MemReq :=
  (upFrom 0 q.length).findSome? fun i => match q[i]? with
    | some r => if r.gallery ∧ r.handle % 4096 = ix ∧ overlapsEarlier q i r then some r else none
    | none => none

/-- The object of an index closes: slots galleried in it end, and requests not yet issued to the host link are bounds violations (05, R139; 11, R257). -/
def State.closeObject (s : State) (n ix reason : Nat) : State :=
  match Tab.find (s.part n).gal ix with
  | some o =>
    let mine : Bool := cf s .srvGal n 0 31 16 = 4096 * Tab.get 0 (s.part n).galTags ix + ix && cf s .srvGal n 0 31 16 ≠ 0
    let gone : List Nat := if reason = 0 then [4096 * Tab.get 0 (s.part n).galTags ix + ix] else []
    let s := s.updPart n fun p => { p with gal := Tab.put p.gal ix (o.close reason), galExpired := gone ++ p.galExpired }
    let s := if mine then s.galleryGone n else s
    (s.coresOf n).foldl (fun s c => match heldOn (s.core c).memq ix with
      | some r => s.faultStop n { code := cBOUNDS, core := some c, queue := 3, addr := (r.mem.headD 0) % 2 ^ 40, counted := r.handle }
      | none => s) s
  | none => s

/-- GALLERY_EXPIRY: at its expiry count an object closes. -/
def execGalleryExpiry (pt : Pt) (ix : Fin 4096) (t : Count) (s : State) : Res :=
  let s := s.advance t
  .next (match Tab.find (s.part pt.val).gal ix.val with
    | some o =>
      if s.atCount t ∧ o.expiry ≤ t ∧ !o.closed then s.closeObject pt.val ix.val 0 else s
    | none => s)

/-- A CANVAS_LOAD under way reads an image from the object (12, R277). -/
def Part.loadReads (p : Part) (ix : Nat) : Bool := p.imageReads.any fun o => o.2 = ix

/-- Requests already issued through an object's handle, the read of an image, and the steward's copies, that have not completed, those of a partition that has
stopped or been reset included (05, R139; 11, R256; 12, R277, R279). -/
def State.objectBusy (s : State) (n ix : Nat) : Bool :=
  (s.part n).loadReads ix || (s.part n).orphans.any (fun o => o.2 = ix) ||
  (s.cores.any fun e => s.ownerOf (coreOfIx e.1) = n && e.2.memq.any fun r => r.gallery && decide (r.handle % 4096 = ix)) ||
    (s.copies n).any fun o => o.2 = ix

/-- A reclaim notice of the partition waits to be written. -/
def State.noticeWaits (s : State) (n : Nat) : Bool :=
  let is (r : Rec) : Bool := r.opcode = 0x81 && r.pt = n
  (s.part n).evq.any is || s.rings.any fun e => e.2.ready.any is

/-- A PART_CTL reset completes once every notice of the objects that it closed has been written (12, R279). -/
def State.finishReset (s : State) (n : Nat) : State :=
  if ((s.part n).gal.any fun e => e.2.closed) || s.noticeWaits n then s
  else match (s.part n).flight.find? fun d => d.op = 0x0B && wf d.w1 1 0 = 3 && d.progress = .started with
    | some d => s.finish n d stOK
    | none => s

/-- GALLERY_RECLAIM_NOTICE: once the last issued request of a closed object has completed, the notice is written and the object is gone. -/
def execGalleryReclaimNotice (pt : Pt) (ix : Fin 4096) (s : State) : Res :=
  let n := pt.val
  .next (match Tab.find (s.part n).gal ix.val with
    | some o =>
      if o.closed ∧ !s.objectBusy n ix.val then
        let handle := 4096 * Tab.get 0 (s.part n).galTags ix.val + ix.val
        let s := s.updPart n fun p => { p with gal := Tab.erase p.gal ix.val }
        let s := if o.notice then
          s.unsolicited n { opcode := 0x81, status := stOK, sq := 0, tag := 0xFFFF, detail := 0, w3 := BitVec.ofNat 64 (handle + 65536 * o.reason), w4 := 0,
                            w5 := 0, w6 := 0, payload := [], ends := false, pt := n }
        else s
        s.finishReset n
      else s
    | none => s)

/-! ### Registration (05, R138, R139; 12, R281) -/

/-- The lowest index without an object. -/
def Part.freeIx (p : Part) : Option Nat := (upFrom 0 4096).find? fun i => (Tab.find p.gal i).isNone

/-- Tag of the next object at an index: it advances each time the index is reused. -/
def Part.nextTag (p : Part) (ix : Nat) : Nat := match Tab.find p.galTags ix with | some t => (t + 1) % 16 | none => 0

/-- A time-to-live in seconds is allowed. -/
def ttlOk (t : Nat) : Bool := decide (1 ≤ t) && decide (t ≤ 86400)

/-- GAL_REG. -/
def execGalReg (pt : Pt) (tag : BitVec 16) (s : State) : Res :=
  .next (s.descRow pt tag (fun d => d.op = 0x18) fun s n d =>
    let pages := wf d.w2 28 0
    let ttl := wf d.w3 16 0
    match (s.part n).freeIx with
    | some ix =>
      if pages = 0 ∨ 268435456 < pages ∨ !ttlOk ttl then s.finish n d stEXTENT
      else
        let t := (s.part n).nextTag ix
        let expiry := s.now + 1000000000 * ttl
        let o : GalObj := { base := 4096 * wf d.w1 63 12, pages := pages, rd := wb d.w2 30, wr := wb d.w2 31, expiry := expiry, closed := false, reason := 0, notice := true }
        let s := s.updPart n fun p => 
          { p with gal := Tab.put p.gal ix o, galTags := Tab.put p.galTags ix t, galExpired := p.galExpired.filter fun h => decide (h % 4096 ≠ ix) }
        s.complete n d { d.record n stOK with w3 := BitVec.ofNat 64 (4096 * t + ix), w4 := BitVec.ofNat 64 expiry }
    | none => s.finish n d stEXTENT)

/-- The handle names an object that is open, but for its expiry count. -/
def Part.openHandle (p : Part) (h : Nat) : Bool :=
  Tab.find p.galTags (h % 4096) = some (h / 4096) && (match Tab.find p.gal (h % 4096) with | some o => !o.closed | none => false)

/-- GAL_RENEW: RECLAIMED at the expiry count or later, also when the object is gone; any other stale handle is refused with EXTENT. -/
def execGalRenew (pt : Pt) (tag : BitVec 16) (s : State) : Res :=
  .next (s.descRow pt tag (fun d => d.op = 0x19) fun s n d =>
    let h := wf d.w1 15 0
    let ttl := wf d.w3 16 0
    let p := s.part n
    if !ttlOk ttl ∨ !(p.openHandle h || p.galExpired.contains h) then s.finish n d stEXTENT
    else match Tab.find p.gal (h % 4096) with
      | some o =>
        if o.closed ∨ o.expiry ≤ s.now ∨ p.galExpired.contains h then s.finish n d stRECLAIMED
        else
          let expiry := s.now + 1000000000 * ttl
          let s := s.updPart n fun p => { p with gal := Tab.put p.gal (h % 4096) { o with expiry := expiry } }
          s.complete n d { d.record n stOK with w4 := BitVec.ofNat 64 expiry }
      | none => s.finish n d stRECLAIMED)

/-- GAL_DEREG: completes when the object is closed; its notice follows. -/
def execGalDereg (pt : Pt) (tag : BitVec 16) (s : State) : Res :=
  .next (s.descRow pt tag (fun d => d.op = 0x1A) fun s n d =>
    let h := wf d.w1 15 0
    if s.handleCurrent n h then (s.closeObject n (h % 4096) 1).finish n d stOK else s.finish n d stEXTENT)

end Sys2Proof.Machine
end

