-- ==== Sys2Proof/Machine/Access.lean ====
section
/-! DEFINITION. What a register of the setup window reads as (16, R354-R361), who sees it, and the record of writes that are not applied
(16, R356, R358). -/

namespace Sys2Proof.Machine

/-! ### Values (16, and the field maps it names) -/

def w32 (n : Nat) : W32 := BitVec.ofNat 32 n

/-- Code of a partition's state (16, PT_STATE). -/
def PtState.code : PtState → Nat
  | .absent => 0 | .armed => 1 | .run => 2 | .hold => 3 | .faultStop => 4

/-- Code of STATE in PT_WT_STAT (10, R229). -/
def WtState.code : WtState → Nat
  | .empty => 0 | .loading => 1 | .loaded => 2 | .confirmed => 3 | .barrier => 4 | .repainting => 5 | .failed => 6

/-- Code of STATE in FRT_STAT (08, R207). -/
def PortState.code : PortState → Nat
  | .disabled => 0 | .training => 1 | .up => 2 | .resetting => 3 | .failed => 4

/-- ST_STATUS (14, R316). -/
def State.stStatus (s : State) : W32 :=
  w32 (at_ s.modState 30 + at_ (s.startup.stage % 16) 26 + at_ (s.startup.failStep % 16) 22 + at_ (s.startup.failPart % 128) 15 +
    at_ (s.startup.failCode % 16) 11 + at_ (s.startup.lastReset % 8) 8 + at_ (b2n s.tb.running) 7)

/-- OP_STATUS (07, R172). -/
def State.opStatus (s : State) : W32 :=
  let p := match s.op.pend with | some x => at_ x.1 4 + 8 | none => 0
  w32 (at_ (b2n s.op.railBusy) 7 + p + s.op.cur)

/-- PWR_STAT (15, R337). PIN is measured while the converter runs: no command brings it, and it is free then (log 87). -/
def State.pwrStat (s : State) : W32 :=
  let p := s.power
  w32 (at_ (b2n p.hvilClosed) 31 + at_ (b2n p.precharged) 30 + at_ (b2n p.convOn) 29 + at_ (b2n p.stbyOk) 28 + at_ p.vbus.toNat 16 +
    (if p.convOn ∨ (s.starting ∧ s.startup.stage = 2) then (Config.inputPower s.fresh).toNat else 0))

def Power.evtWord (p : Power) : W32 := w32 (at_ (b2n p.evtDieTrip) 4 + at_ (b2n p.evtOv) 3 + at_ (b2n p.evtUv) 2 + at_ (b2n p.evtHvil) 1)

/-- FW_STAT_c (14, R329). -/
def FwComp.statWord (c : FwComp) : W32 :=
  w32 (at_ (b2n c.unconf) 31 + at_ (b2n c.pent.isSome) 30 + at_ (b2n c.pending.isSome) 29 + at_ (b2n c.reverted) 28 + at_ (c.fails % 4) 26 +
    at_ (c.lastResult % 16) 22)

/-- CLK_MON_STAT_d (07, R181). -/
def Domain.statWord (d : Domain) : W32 := w32 (at_ (b2n d.lossBit) 31 + at_ (b2n d.jitAlm) 30 + at_ (b2n d.dutyAlm) 29 + at_ (d.duty % 256) 21)

/-- CAN_SCORE_n (13, R301). -/
def Canary.word (c : Canary) : W32 := w32 (at_ (b2n c.alarm) 31 + at_ (b2n c.warn) 30 + c.score % 1024)

/-- FRT_STAT_p (08, R207). -/
def FPort.statWord (f : FPort) : W32 :=
  w32 (at_ f.st.code 29 + at_ (f.width % 4) 27 + at_ (f.rate % 4) 25 + at_ (f.lanes % 256) 17 + at_ (f.peerDevid % 8192) 4 + f.peerPort % 16)

/-- FRT_REPLAY_p (08, R207). -/
def FPort.replayWord (f : FPort) : W32 :=
  w32 (at_ f.replay.length 17 + at_ (f.replay.filter (·.tailings)).length 2 + at_ (b2n (decide (16384 ≤ f.replay.length))) 1)

/-- PT_STATE (16). -/
def Part.stateWord (p : Part) : W32 :=
  w32 (at_ p.st.code 29 + at_ (p.gen % 64) 23 + at_ ((if p.overlap then p.genNew else p.gen) % 64) 17 + at_ (b2n p.overlap) 16)

/-- PT_WT_STAT (10, R229). -/
def Part.wtWord (p : Part) : W32 := w32 (at_ p.wt.code 29 + at_ (p.wgen % 256) 21 + p.lastLayer.getD 0xFFFF % 65536)

/-- PT_SRV_STAT (11, R242). BARRIER reads 1 until the repaint releases: new steps are held till then (10, R238). -/
def Part.srvWord (p : Part) : W32 :=
  match p.srv with
  | some v =>
    let n (x : SlotState) : Nat := (v.slots.filter fun (e : Nat × SrvSlot) => e.2.state = x).length
    w32 (at_ (n .free) 21 + at_ (n .galleried) 10 + at_ (b2n p.repaint.isSome) 1 + b2n v.running)
  | none => 0

/-- The eight words of a fault record (13, R293). -/
def FaultRec.words (r : FaultRec) : List Nat :=
  let beat (b : Option Nat) : Nat := b.getD 0xFFFFFFFF % 2 ^ 32
  [r.w0.toNat, r.time % 2 ^ 64, at_ (r.recorded % 2 ^ 32) 32 + r.counted % 2 ^ 32, at_ (r.addr % 2 ^ 40) 24 + at_ (r.port % 16) 20 + at_ (r.stack % 16) 16,
   at_ (r.genOld % 64) 58 + at_ (r.genNew % 64) 52 + at_ (r.key % 2 ^ 20) 32, at_ (beat r.beatOld) 32 + beat r.beatNew, at_ (r.secondary % 65536) 48, 2 ^ 63]

/-- PT_FREC_m: without a record, each field at its reset value (13, R293). -/
def Part.frecWord (p : Part) (m : Nat) : W32 :=
  match p.frec with
  | some r => w32 (r.words.getD (m / 2) 0 / 2 ^ (32 * (m % 2)))
  | none => if m / 2 = 5 then 0xFFFFFFFF else 0

/-- A 48-bit counter's word: CNT, or CNT [47:32] with OVF (13, R304). -/
def countWord (v j : Nat) : W32 := if j % 2 = 0 then w32 v else w32 (at_ (v / 2 ^ 48 % 2) 31 + v / 2 ^ 32 % 65536)

/-- The value of a register as a caller that sees it whole reads it. -/
def State.regValue (s : State) (r : Reg) : W32 :=
  let i := r.i
  let j := r.j
  match r.kind with
  | .idPart => 0x880
  | .idRev => s.flash.idRev
  | .idSerialLo => w32 s.flash.serial.toNat
  | .idSerialHi => w32 (s.flash.serial.toNat / 2 ^ 32)
  | .idDev => s.flash.idDev
  | .stStatus => s.stStatus
  | .bootPorts => s.flash.bootPorts
  | .hostCfg => w32 (at_ (rf s.startup.hostCur 1 0) 10 + rf s.flash.hostCfg 3 0)
  | .opStatus => s.opStatus
  | .opPendLo => match s.op.pend with | some x => w32 x.2 | none => 0
  | .opPendHi => match s.op.pend with | some x => w32 (x.2 / 2 ^ 32) | none => 0
  | .idTimingRev => w32 s.flash.fw3.running.timingRev
  | .tbCountLo => w32 s.tb.count
  | .tbCountHi => w32 (s.tb.count / 2 ^ 32)
  | .pwrStat => s.pwrStat
  | .pwrEvt => s.power.evtWord
  | .setupErr => s.setupErr
  | .fwStat => (s.flash.comp i).statWord
  | .fwVerLo => w32 (s.flash.comp i).running.version
  | .fwVerHi => w32 ((s.flash.comp i).running.version / 2 ^ 32)
  | .fwKeyrev => w32 s.flash.keyRev.toNat
  | .lampRoom => w32 (at_ (s.drawn i) 16 + (1400 - s.drawn i))
  | .clkMonStat => (s.domain i).statWord
  | .clkHist => w32 (Tab.get 0 (s.domain i).hist j)
  | .canScore => (s.can i).word
  | .canAcc => w32 (Tab.get 0 s.canAcc.settled (4 * i + j) / 256)
  | .frtStat => (s.port i).statWord
  | .frtDelay => w32 ((s.port i).delay16 % 2 ^ 18)
  | .frtReplay => (s.port i).replayWord
  | .wtTapN => (cfg s .wtTapN i j &&& 0xFFFF0000) ||| w32 ((s.port i).tap.done % 65536)
  | .evcnt | .frtEvcnt => countWord (Tab.get 0 s.counts (r.off - 4 * (j % 2))) j
  | .evsnap => countWord (Tab.get 0 s.shadows (r.off - 0x200 - 4 * (j % 2))) j
  | .frtEvsnap => countWord (Tab.get 0 s.shadows (r.off - 0x40 - 4 * (j % 2))) j
  | .cevcnt => w32 (Tab.get 0 s.counts r.off)
  | .cevsnap => w32 (Tab.get 0 s.shadows (r.off - 0x10))
  | .ptState => (s.part i).stateWord
  | .ptSlack => w32 (unsigned 24 (s.part i).slack)
  | .ptSlackSnap => w32 (unsigned 24 (s.part i).slackSnap)
  | .ptCxlDrop => w32 (s.part i).cxlDrop
  | .ptSetupErr => (s.part i).setupErr
  | .ptLampStat => w32 (Tab.get 0 (s.part i).lampStat j % 2048)
  | .ptWtStat => (s.part i).wtWord
  | .ptWtGal => w32 (s.part i).galMib
  | .srvStat => (s.part i).srvWord
  | .ptFrec => (s.part i).frecWord j
  | .sqCfg => (cfg s .sqCfg i 0 &&& 0xBFFFFFFF) ||| w32 (at_ (b2n (s.ring i).sqErr) 30)
  | .ringPtr => w32 (at_ ((s.ring i).sqHead % 65536) 16 + (s.ring i).cqTail % 65536)
  | k => cfg s k i j

/-! ### Who sees a register (12, R266; 16, R353, R354) -/

/-- The partition whose submission or completion range holds a ring. -/
def State.sqPart (s : State) (q : Nat) : Option Nat := (upFrom 0 32).find? fun n => s.ownsSq n q
def State.cqPart (s : State) (q : Nat) : Option Nat := (upFrom 0 32).find? fun n => s.ownsCq n q

/-- The record of ring q lies in some partition's ring range. -/
def State.ringHeld (s : State) (q : Nat) : Bool := (s.sqPart q).isSome || (s.cqPart q).isSome

/-- A partition belongs to a function. -/
def State.ownedBy (s : State) (f : Func) (n : Nat) : Bool := s.owner n = some f

/-- The partition among an optional one that the function owns. -/
def State.mine (s : State) (f : Func) (n : Option Nat) : Option Nat :=
  match n with
  | some m => if s.ownedBy f m then some m else none
  | none => none

/-- The partition through which a function sees an offset of the setup window, if it sees it. -/
def State.seenBy (s : State) (f : Func) (off : Nat) : Option Nat :=
  if 0x100000 ≤ off ∧ off < 0x120000 then s.mine f (some ((off - 0x100000) / 0x1000))
  else if 0x120000 ≤ off ∧ off < 0x122000 then
    let q := (off - 0x120000) / 0x20
    let o := (off - 0x120000) % 0x20
    if o < 0xC then s.mine f (s.sqPart q)
    else if o < 0x10 then (match s.mine f (s.sqPart q) with | some n => some n | none => s.mine f (s.cqPart q))
    else if o < 0x1C then s.mine f (s.cqPart q)
    else none
  else none

/-- The caller sees an offset. -/
def State.sees (s : State) (c : Caller) (off : Nat) : Bool :=
  match c with
  | .tree => decide (off < 0x122000)
  | .host f => (s.seenBy f off).isSome

/-- A caller's view of a register: RING_PTR shows a function the halves that it sees (16, R354). -/
def State.readReg (s : State) (c : Caller) (off : Nat) : W32 :=
  if s.sees c off then
    match Reg.at off with
    | none => 0
    | some r =>
      match c, r.kind with
      | .host f, .ringPtr =>
        (if (s.mine f (s.sqPart r.i)).isSome then s.regValue r &&& 0xFFFF0000 else 0) |||
          (if (s.mine f (s.cqPart r.i)).isSome then s.regValue r &&& 0x0000FFFF else 0)
      | _, _ => s.regValue r
  else 0

/-- An access of `n` bytes at an offset covers whole aligned registers, or lies within one (16, R356). -/
def accessAligned (off n : Nat) : Bool :=
  if n = 8 then off % 8 = 0 else if n = 4 then off % 4 = 0 else decide (n < 4) && decide (off % 4 + n ≤ 4)

/-- The value that a read returns (16, R356, R357). -/
def State.readAccess (s : State) (c : Caller) (off n : Nat) : Nat :=
  if !accessAligned off n then 0
  else if n = 8 then (s.readReg c off).toNat + 2 ^ 32 * (s.readReg c (off + 4)).toNat
  else (s.readReg c (off - off % 4)).toNat / 2 ^ (8 * (off % 4)) % 2 ^ (8 * n)

/-- Address of the module on the I3C and SMBus sideband (15, R345). -/
def State.sidebandAddr (s : State) : Nat := 0x40 + s.startup.geo.toNat

/-- A read of the sideband: a register of the module block from 0x000 to 0x0FF, low byte first (16, R355). Without a headframe controller nothing answers
(13, R311), and there is no write. -/
def State.sidebandRead (s : State) (addr off : Nat) : Option (List Byte) :=
  if s.managed ∧ addr = s.sidebandAddr ∧ off < 0x100 ∧ off % 4 = 0 then some (leBytes 4 (s.readReg .tree off).toNat) else none

/-! ### Writes that are not applied (16, R358) -/

/-- SETUP_ERR after one more write that was not applied. -/
def errWord (old : W32) (reason off : Nat) (db : Bool) : W32 :=
  w32 (at_ (Nat.min 127 (rf old 30 24 + 1)) 24 + at_ reason 21 + at_ (off / 4 % 2 ^ 19) 2 + at_ (b2n db) 1)

/-- A write that was not applied is recorded: the tree's in SETUP_ERR, a host's in the PT_SETUP_ERR of the partition that it addresses. -/
def State.setupFault (s : State) (c : Caller) (reason off : Nat) : State :=
  match c with
  | .tree => { s with setupErr := errWord s.setupErr reason off false }
  | .host f =>
    match s.seenBy f off with
    | some n => s.updPart n fun p => { p with setupErr := errWord p.setupErr reason off false }
    | none => s

/-- A doorbell write of a partition that is not applied is recorded with its reason (16, R356, R358). -/
def State.doorbellErr (s : State) (n reason off : Nat) : State := s.updPart n fun p => { p with setupErr := errWord p.setupErr reason off true }

/-- A doorbell write that R270 refuses is recorded and counted (12, R270). -/
def State.doorbellFault (s : State) (n off : Nat) : State :=
  (s.doorbellErr n 3 off).count .doorbellRefused (.die (s.linkDie n)) (some n)

end Sys2Proof.Machine
end

