-- ==== Sys2Proof/Machine/Rings.lean ====
section
/-! DEFINITION. The descriptor rings (12, R269-R273, R283-R285): ring registers, doorbells, the fetch of descriptors, the writing of completion
records and their interrupts, and the CXL.mem window (12, R265). -/

namespace Sys2Proof.Machine

/-! ### Ring registers (12, R269) -/

/-- Entries from `a` up to `b` in a ring. -/
def ringDist (a b size : Nat) : Nat := (b + size - a) % size

def State.sqSize (s : State) (q : Nat) : Nat := 2 ^ cf s .sqCfg q 0 29 25

/-- Ring q is enabled as a submission ring, or as a completion ring. -/
def State.sqOn (s : State) (q : Nat) : Bool := rb (cfg s .sqCfg q 0) 31
def State.cqOn (s : State) (q : Nat) : Bool := rb (cfg s .cqCfg q 0) 31

/-- A completion ring is in use: an enabled submission ring names it, or a descriptor that completes to it is in flight. -/
def State.cqBusy (s : State) (q : Nat) : Bool :=
  ((upFrom 0 256).any fun x => s.sqOn x && decide (cf s .sqCfg x 0 24 17 = q)) || s.parts.any fun e => e.2.flight.any fun d => d.cq = q

def sizeExpOk (v : W32) : Bool := decide (6 ≤ rf v 29 25) && decide (rf v 29 25 ≤ 16)

/-- The bits of a mask do not change. -/
def sameBits (a b mask : W32) : Bool := (a ^^^ b) &&& mask = 0

/-- A write of a ring register breaks no condition of R269. -/
def State.ringOk (s : State) (r : Reg) (v : W32) : Bool :=
  let q := r.i
  let old := cfg s r.kind q 0
  match r.kind with
  | .sqAddrLo | .sqAddrHi => (s.sqPart q).isSome && (!s.sqOn q || old = v)
  | .cqAddrLo | .cqAddrHi => (s.cqPart q).isSome && (!s.cqOn q || old = v)
  | .sqCfg =>
    (match s.sqPart q with | some n => s.ownsCq n (rf v 24 17) | none => false) && sizeExpOk v && (!s.sqOn q || sameBits old v 0x3FFE0000)
  | .cqCfg =>
    (s.cqPart q).isSome && sizeExpOk v && (!s.cqOn q || sameBits old v 0x3FFFF800) && (rb v 31 || !s.cqOn q || !s.cqBusy q)
  | _ => s.ringHeld q

/-- Unsolicited records of a partition that no ring has taken yet wait for a ring again, before those that came later (12, R284; log 45). -/
def State.recallEvq (s : State) (n q : Nat) : State :=
  let mine (r : Rec) : Bool := decide (0x80 ≤ r.opcode) && decide (r.pt = n)
  let back := (s.ring q).ready.filter mine
  (s.updRing q fun g => { g with ready := g.ready.filter fun r => !mine r }).updPart n fun p => { p with evq := back ++ p.evq }

/-- A write of a ring register takes effect: setting EN starts the ring afresh. The interval since its last signal goes on (12, R285). -/
def State.putRing (s : State) (r : Reg) (v : W32) : State :=
  let q := r.i
  let wasSq := s.sqOn q
  let wasCq := s.cqOn q
  let s := setCfg s r.kind q 0 v
  match r.kind with
  | .sqCfg => if rb v 31 ∧ !wasSq then s.updRing q fun g => { g with sqHead := 0, sqTail := 0, sqErr := false } else s
  | .cqCfg =>
    match s.cqPart q with
    | some n =>
      if rb v 31 ∧ !wasCq then
        (s.updRing q fun g => { g with cqTail := 0, cqHead := 0, held := 0, pass := true }).flushEvq n
      else if !rb v 31 ∧ wasCq then s.recallEvq n q
      else s
    | none => s
  | _ => s

/-! ### Doorbells (12, R270) -/

/-- SQ_TAIL of a partition's ring: more entries become available. -/
def State.putSqTail (s : State) (n q x : Nat) : State :=
  let size := s.sqSize q
  let r := s.ring q
  if s.sqOn q ∧ x < size ∧ ringDist r.sqHead r.sqTail size ≤ ringDist r.sqHead x size then s.updRing q fun g => { g with sqTail := x }
  else s.doorbellFault n (0x1000 * q)

/-- A function's read of a register of doorbell page q: SQ_TAIL at offset 0 and CQ_HEAD at offset 4 as last written, each for the half of the ring that it
sees, and zero anywhere else (12, R266, R270). -/
def State.doorbellWord (s : State) (f : Func) (q off : Nat) : W32 :=
  if off = 0 ∧ (s.mine f (s.sqPart q)).isSome then w32 ((s.ring q).sqTail % 65536)
  else if off = 4 ∧ (s.mine f (s.cqPart q)).isSome then w32 ((s.ring q).cqHead % 65536)
  else 0

/-- A read of `n` bytes in a doorbell page (16, R356). -/
def State.readDoorbell (s : State) (f : Func) (q off n : Nat) : Nat :=
  if !accessAligned off n then 0
  else if n = 8 then (s.doorbellWord f q off).toNat + 2 ^ 32 * (s.doorbellWord f q (off + 4)).toNat
  else (s.doorbellWord f q (off - off % 4)).toNat / 2 ^ (8 * (off % 4)) % 2 ^ (8 * n)

/-- Ledger 8 (13, R296): entries held and entries free make up the ring; the pointers give the held ones again. -/
def State.ringLedger (s : State) (n q : Nat) : State :=
  let r := s.ring q
  let size := s.cqSize q
  let counted := if r.held = size ∧ r.cqTail = r.cqHead then size else ringDist r.cqHead r.cqTail size
  if counted = r.held then s else s.ledgerFault [n] { code := cLEDGER, ledger := 8, recorded := r.held, counted := counted }

/-- CQ_HEAD of a partition's ring: held entries return, and deliveries that waited may be posted (11, R259). -/
def State.putCqHead (s : State) (n q x : Nat) : State :=
  let size := s.cqSize q
  let r := s.ring q
  let back := ringDist r.cqHead x size
  if s.cqOn q ∧ x < size ∧ back ≤ r.held then
    ((s.updRing q fun g => { g with cqHead := x, held := g.held - back }).ringLedger n q).postPending n
  else s.doorbellFault n (0x1000 * q + 4)

/-- The partition that a function addresses by an offset of doorbell page q, through the half of the ring that it sees (12, R266, R270). -/
def State.doorbellPart (s : State) (f : Func) (q off : Nat) : Option Nat :=
  if off < 4 then s.mine f (s.sqPart q) else if off < 8 then s.mine f (s.cqPart q) else none

/-- The 32 bits at offset 0 or 4 of a doorbell page are written. -/
def State.putDoorbell (s : State) (f : Func) (q off x : Nat) : State :=
  match s.doorbellPart f q off with
  | some n => if off < 4 then s.putSqTail n q x else s.putCqHead n q x
  | none => s

/-- A function's write in doorbell page q: 32 bits aligned on 4 bytes, or 64 on 8, which write the lower register first; a narrower or an unaligned one is not
applied and recorded (12, R270; 16, R356, R358). -/
def State.writeDoorbell (s : State) (f : Func) (q : Nat) (d : Doorbell) : State :=
  if d.bytes = 8 ∧ d.off % 8 = 0 then (s.putDoorbell f q d.off (wf d.value 15 0)).putDoorbell f q (d.off + 4) (wf d.value 47 32)
  else if d.bytes = 4 ∧ d.off % 4 = 0 then s.putDoorbell f q d.off (wf d.value 15 0)
  else match s.doorbellPart f q d.off with
    | some n => s.doorbellErr n 1 (0x1000 * q + d.off)
    | none => s

/-- SQ_TAIL: a write in a doorbell page that begins in its first register. -/
def execSqTail (f : Caller) (q : RingNo) (d : Doorbell) (s : State) : Res :=
  .next (match f with
    | .tree => s
    | .host g => if d.off < 4 then s.writeDoorbell g q.val d else s)

/-- CQ_HEAD: a write in a doorbell page that begins in its second register. -/
def execCqHead (f : Caller) (q : RingNo) (d : Doorbell) (s : State) : Res :=
  .next (match f with
    | .tree => s
    | .host g => if 4 ≤ d.off ∧ d.off < 8 then s.writeDoorbell g q.val d else s)

/-! ### Fetch (12, R271-R274) -/

/-- Entries that a submission ring has available. -/
def State.available (s : State) (q : Nat) : Nat := ringDist (s.ring q).sqHead (s.ring q).sqTail (s.sqSize q)

/-- Submission rings of a partition that are fetched, in ascending order. -/
def State.fetchable (s : State) (n : Nat) : List Nat :=
  (upFrom 0 256).filter fun q => s.ownsSq n q && s.sqOn q && !(s.ring q).sqErr && decide (0 < s.available q)

/-- The ring whose turn it is. -/
def State.nextRing (s : State) (n : Nat) : Option Nat :=
  let qs := s.fetchable n
  match qs.find? fun q => decide ((s.part n).turn < q) with
  | some q => some q
  | none => qs.head?

/-- Descriptors of the module in flight. -/
def State.inFlight (s : State) : Nat := (s.parts.map fun e => e.2.flight.length).foldl (· + ·) 0

/-- A ring stops with ERR, and its record goes to its completion ring (12, R272, R273). -/
def State.stopRing (s : State) (n q opcode tag status : Nat) : State :=
  (s.updRing q fun g => { g with sqErr := true }).pushRec (cf s .sqCfg q 0 24 17)
    { opcode := opcode, status := status, sq := q, tag := tag, detail := 0, w3 := 0, w4 := 0, w5 := 0, w6 := 0, payload := [], ends := false, pt := n }

/-- A descriptor whose entries have been read: it is in flight, and refused at once when a check fails (12, R271, R274). -/
def State.takeDesc (s : State) (n q : Nat) (f : Func) (bytes : List Byte) (entries : Nat) : State :=
  let h := slice bytes 0 64
  let d := descOf q (cf s .sqCfg q 0 24 17) f h (slice bytes 64 (64 * (entries - 1)))
  let bad := s.descCheck n d h entries
  let s := s.updRing q fun g => { g with sqHead := (g.sqHead + entries) % s.sqSize q }
  match bad with
  | none => s.updPart n fun p => { p with flight := p.flight ++ [d] }
  | some (st, k) =>
    (s.updPart n fun p => { p with flight := p.flight ++ [{ d with progress := .ready }] }).pushRec d.cq
      { d.record n st with detail := BitVec.ofNat 64 k }

/-- DESCRIPTOR_FETCH: the next ring in turn is read at its head. An ENTRIES that no descriptor can have stops the ring. -/
def execDescriptorFetch (pt : Pt) (r : HostRead) (s : State) : Res :=
  let n := pt.val
  .next (match s.nextRing n, s.owner n with
    | some q, some f =>
      if 512 ≤ (s.part n).flight.length ∨ 4096 ≤ s.inFlight then s
      else
        let s := s.updPart n fun p => { p with turn := q }
        match r with
        | .error => s.stopRing n q 0 0xFFFF stHOSTERR
        | .data bytes =>
          let w0 := wordAt bytes 0
          let entries := wf w0 55 45
          if entries = 0 ∨ 1024 < entries ∨ s.sqSize q ≤ entries then s.stopRing n q (wf w0 63 56) (wf w0 15 0) stEXTENT
          else if s.available q < entries then s
          else s.takeDesc n q f bytes entries
    | _, _ => s)

/-! ### Completion records (12, R283-R285) -/

/-- Payload of a record in entries of 63 bytes, `k` of them. -/
def payloadEntries : Nat → List Byte → List (List Byte)
  | 0, _ => []
  | k + 1, bs => slice bs 0 63 :: payloadEntries k (bs.drop 63)

/-- The entries of a record without their last bytes: 63 bytes each. -/
def Rec.bodies (r : Rec) (now : Count) : List (List Byte) :=
  let k := ceilDiv r.payload.length 63
  let w0 := at_ (r.opcode % 256) 56 + at_ (r.status % 256) 48 + at_ (k % 256) 40 + at_ (r.pt % 32) 35 + at_ (r.sq % 256) 27 + r.tag % 65536
  let head := [w0, now % 2 ^ 64, r.detail.toNat, r.w3.toNat, r.w4.toNat, r.w5.toNat, r.w6.toNat, 0].flatMap (leBytes 8)
  slice head 0 63 :: payloadEntries k r.payload

/-- Base address of a completion ring. -/
def State.cqBase (s : State) (q : Nat) : Nat := (cfg s .cqAddrLo q 0).toNat + 2 ^ 32 * (cfg s .cqAddrHi q 0).toNat

/-- One entry is written at the tail, with PHASE in byte 63; the pass changes at the wrap. -/
def State.writeEntry (s : State) (f : Func) (q : Nat) (body : List Byte) : State :=
  let r := s.ring q
  let next := (r.cqTail + 1) % s.cqSize q
  (s.emit (.hostWrite f (s.cqBase q + 64 * r.cqTail) (body ++ [BitVec.ofNat 8 (b2n r.pass)]))).updRing q fun g =>
    { g with cqTail := next, held := g.held + 1, pass := if next = 0 then !g.pass else g.pass }

/-- The interval since the last signal of a ring is over. -/
def State.maySignal (s : State) (q : Nat) : Bool :=
  match (s.ring q).lastSignal with
  | some t => decide (t + 1000 * cf s .cqCfg q 0 18 11 ≤ s.now)
  | none => true

/-- The ring's vector is signalled. -/
def State.signal (s : State) (f : Func) (q : Nat) : State :=
  (s.emit (.interrupt f (cf s .cqCfg q 0 24 19))).updRing q fun g => { g with lastSignal := some s.now, signalDue := false }

/-- The first descriptor in flight that a record ends is no longer in flight. -/
def dropDesc (r : Rec) : List Desc → List Desc
  | [] => []
  | d :: l => if d.sq = r.sq ∧ d.tag = r.tag ∧ d.progress = .ready then l else d :: dropDesc r l

/-- An event record as it is written: LOST counts the events that have not been queued since the last one (12, R284, R285). -/
def State.withLost (s : State) (r : Rec) : Rec :=
  if r.opcode = 0x82 then { r with w3 := r.w3 + BitVec.ofNat 64 (65536 * Nat.min 65535 (s.part r.pt).evLost) } else r

/-- COMPLETION_RECORD_WRITE: the first ready record of a ring is written once its entries are free. -/
def execCompletionRecordWrite (q : RingNo) (s : State) : Res :=
  let x := q.val
  .next (match (s.ring x).ready with
    | [] => s
    | r :: rest =>
      match s.owner r.pt with
      | none => s
      | some f =>
        if s.cqOn x ∧ (s.ring x).held + r.entries ≤ s.cqSize x then
          let s := s.updRing x fun g => { g with ready := rest }
          let r := s.withLost r
          let s := if r.opcode = 0x82 then s.updPart r.pt fun p => { p with evLost := 0 } else s
          let s := (r.bodies s.now).foldl (fun s b => s.writeEntry f x b) s
          let s := if r.ends then s.updPart r.pt fun p => { p with flight := dropDesc r p.flight } else s
          let s := if r.opcode = 0x81 then s.finishReset r.pt else s
          let s := s.ringLedger r.pt x
          if rb (cfg s .cqCfg x 0) 30 then (if s.maySignal x then s.signal f x else s.updRing x fun g => { g with signalDue := true })
          else s
        else s)

/-- MSIX_INTERRUPT: a signal that was held back is given at the end of the interval. -/
def execMsixInterrupt (q : RingNo) (s : State) : Res :=
  .next (match (s.cqPart q.val).bind s.owner with
    | some f => if (s.ring q.val).signalDue ∧ s.maySignal q.val then s.signal f q.val else s
    | none => s)

/-! ### The CXL.mem window (12, R265) -/

/-- The partition's range exists on a link and holds the bytes. -/
def State.cxlRange (s : State) (l : Link) (n a len : Nat) : Bool :=
  (s.link l).trained && (s.link l).cxl && (match s.owner n with | some f => f.link = l | none => false) && (s.part n).st ≠ .absent &&
    decide (a + len ≤ s.regionSize n)

/-- CXL_MEM_WRITE: discarded and counted in Run, and in every state where it meets what no host writes (11, R243); a tripped stack takes no request (05,
R134). -/
def execCxlMemWrite (l : Link) (pt : Pt) (addr : Nat) (w : SpanWrite) (s : State) : Res :=
  let n := pt.val
  let len := w.bytes.length
  .next (if !s.cxlRange l n addr len then s
    else if (s.part n).st = .run ∨ s.guarded n addr len then
      (s.updPart n fun p => { p with cxlDrop := Nat.min (2 ^ 32 - 1) (p.cxlDrop + 1) }).count .cxlDrop (.die (s.linkDie n)) (some n)
    else if (s.trippedIn n addr len).isSome then s
    else s.whenServed n addr len (64 + n, addr) fun s => s.putRegion n addr w.bytes w.ecc)

/-- CXL_MEM_READ: the region's bytes, with what the code found in the sectors read (05, R130). -/
def execCxlMemRead (l : Link) (pt : Pt) (addr : Nat) (span : SpanRead) (s : State) : Res :=
  let len := span.len
  .next (if s.cxlRange l pt.val addr len ∧ (s.trippedIn pt.val addr len).isNone then
      s.whenServed pt.val addr len (64 + pt.val, addr) fun s =>
        let s := s.hostRead pt.val addr len span.ecc
        s.emit (.readData (s.hostView pt.val addr len))
    else s)

end Sys2Proof.Machine
end

