-- ==== Sys2Proof/Machine/Canvas.lean ====
section
/-! DEFINITION. The descriptors of memory and of canvases (12, R276-R279, R364; 13, R295): HBM_WRITE and HBM_READ, the load of a canvas in its
steps, staging, arming, the start, hold, release and reset of a partition, NOP, and the management tree's CANVAS_ARM (13, R310). -/

namespace Sys2Proof.Machine

/-! ### HBM_WRITE and HBM_READ (12, R276) -/

/-- ADDR of a descriptor. -/
def Desc.addr (d : Desc) : Nat := wf d.w1 39 0

/-- HBM_WRITE: a staged image that the bytes meet leaves the staging list. `r` tells what the code found in the sectors that the bytes cover in part (05, R129,
R130). -/
def execHbmWrite (pt : Pt) (r : DescRead) (s : State) : Res :=
  .next (s.servedRow pt r.tag (fun d => d.op = 0x01) fun s n d =>
    let len := wf d.w2 15 0
    if len = 0 ∨ 65472 < len ∨ s.regionSize n < d.addr + len then s.finish n d stEXTENT
    else s.whenServed n d.addr len (n, d.tag) fun s =>
      let s := s.putRegion n d.addr (slice d.payload 0 len) r.ecc
      (s.updPart n fun p => { p with staged := p.staged.filter fun c => !meets (d.addr, len) (c.addr, c.total) }).finish n d stOK)

/-- HBM_READ, with what the code found in the sectors read (05, R130). -/
def execHbmRead (pt : Pt) (r : DescRead) (s : State) : Res :=
  .next (s.servedRow pt r.tag (fun d => d.op = 0x02) fun s n d =>
    let len := wf d.w2 13 0
    if len = 0 ∨ 16065 < len ∨ s.regionSize n < d.addr + len then s.finish n d stEXTENT
    else s.whenServed n d.addr len (n, d.tag) fun s =>
      let s := s.hostRead n d.addr len r.ecc
      s.complete n d { d.record n stOK with payload := s.hostView n d.addr len })

/-! ### CANVAS_LOAD (12, R277, R364) -/

/-- The descriptor of the load under way. -/
def Part.loadDesc (p : Part) : Option Desc :=
  match p.loading with
  | some l => p.flight.find? fun d => d.op = 0x08 && d.tag = l.tag && d.progress = .started
  | none => none

/-- A load is refused: the partition is Absent, and the record tells why. -/
def State.refuseCanvas (s : State) (n : Nat) (d : Desc) (b : Bad) : State :=
  (s.refuseLoad n).complete n d { d.record n b.status with detail := b.detail }

/-- A load ends with a plain status. -/
def State.failLoad (s : State) (n : Nat) (d : Desc) (status : Nat) : State := (s.refuseLoad n).finish n d status

/-- Bytes of an object from an offset to its end. -/
def GalObj.room (o : GalObj) (off : Nat) : Nat := 4096 * o.pages - off

/-- The object that a load reads. -/
def State.loadObject (s : State) (n : Nat) (d : Desc) : Option GalObj :=
  if s.handleCurrent n (wf d.w1 15 0) then Tab.find (s.part n).gal (wf d.w1 11 0) else none

/-- CANVAS_LOAD: the partition begins to load, its clusters to start (07, R162). While the count does not run it is refused with STATE, whatever its handle (14,
R316). -/
def execCanvasLoad (pt : Pt) (tag : BitVec 16) (s : State) : Res :=
  .next (s.descRow pt tag (fun d => d.op = 0x08) fun s n d =>
    let off := d.w2.toNat
    if !s.tb.running then s.finish n d stSTATE
    else match s.loadObject n d with
    | none => s.finish n d stEXTENT
    | some o =>
      if off % 64 ≠ 0 ∨ o.room off < 256 then s.finish n d stEXTENT
      else (s.updPart n fun p => { p with loading := some { tag := d.tag, phase := .header, header := [] } }).startClusters n)

/-- A tripped stack under an extent of the partition (05, R134). -/
def State.trippedUnder (s : State) (n : Nat) : Option Nat := s.trippedIn n 0 (s.regionSize n)

/-- A load goes on, unless a stack under one of its extents has tripped: it then fails with ACCESS, and DETAIL names the stack (05, R134; 12, R276; log 47). -/
def State.loadOn (s : State) (n : Nat) (d : Desc) (act : State → State) : State :=
  match s.trippedUnder n with
  | some k => (s.refuseLoad n).complete n d { d.record n stACCESS with detail := BitVec.ofNat 64 k }
  | none => act s

/-- One phase of the load under way: its read ends, on an object that is still open. A read that a load had issued before its partition was reset only ends
(12, R279). -/
def State.loadStep (s : State) (n : Nat) (ph : LoadPhase) (r : HostRead) (act : State → Loading → Desc → GalObj → List Byte → State) : State :=
  if (s.part n).hasOrphan 0 then s.updPart n fun p => p.dropOrphan 0
  else match (s.part n).loading, (s.part n).loadDesc with
  | some l, some d =>
    if l.phase ≠ ph then s
    else match r with
      | .error => s.failLoad n d stHOSTERR
      | .data bs =>
        match s.loadObject n d with
        | some o => s.loadOn n d fun s => act s l d o bs
        | none => s.failLoad n d stEXTENT
  | _, _ => s

/-- CANVAS_HEADER_READ_DONE: the first five checks, before anything is zeroed. -/
def execCanvasHeaderReadDone (pt : Pt) (r : HostRead) (s : State) : Res :=
  let n := pt.val
  .next (s.loadStep n .header r fun s l d o bs =>
    let h := slice bs 0 256
    match s.headCheck n (imgOf h) none (o.room d.w2.toNat) with
    | some b => s.refuseCanvas n d b
    | none => s.updPart n fun p => { p with loading := some { l with phase := .zeroing, header := h } })

/-- PARTITION_ZEROING_DONE (05, R121, R136): not before the partition's clusters run (07, R162). -/
def execPartitionZeroingDone (pt : Pt) (s : State) : Res :=
  let n := pt.val
  .next (match (s.part n).loading, (s.part n).loadDesc with
    | some l, some d =>
      if l.phase = .zeroing ∧ !s.clustersWait n then
        s.loadOn n d fun s => ((s.zeroStores n).zeroExtents n).updPart n fun p => { p with loading := some { l with phase := .image } }
      else s
    | _, _ => s)

/-- CANVAS_IMAGE_READ_DONE: `r` holds the bytes after the header. With every check passed the partition is Armed. -/
def execCanvasImageReadDone (pt : Pt) (r : HostRead) (s : State) : Res :=
  let n := pt.val
  .next (s.loadStep n .image r fun s l d o bs =>
    let img := imgOf (l.header ++ bs)
    match s.imageCheck n img (o.room d.w2.toNat) false with
    | some b => s.refuseCanvas n d b
    | none => ((s.updPart n fun p => { p with loading := none }).install n img 0 false).finish n d stOK)

/-! ### Staging and arming (12, R277; 13, R295, R310) -/

/-- The state as the checks of an image to be staged see it: the port entries of the image staged before are free again. -/
def State.forStaging (s : State) (n : Nat) : State :=
  if (s.part n).overlap then s else s.clearClaims (s.part n).nextClaims true

/-- The state as the checks of an image to be armed see it: the port entries of the canvas that it replaces are free again. -/
def State.forArming (s : State) (n : Nat) : State := s.clearPorts n

/-- The checks of an image in the region. -/
def State.regionCheck (s : State) (n addr : Nat) (next : Bool) : Option Bad :=
  if s.regionSize n < addr + 256 then some { status := stEXTENT, check := 5, arg := 0 }
  else s.imageCheck n (s.stagedImg n addr) (s.regionSize n - addr) next

/-- Place of a staged image in the list. -/
def Part.stagedIndex (p : Part) (addr : Nat) : Nat := p.staged.findIdx fun c => c.addr = addr

/-- CANVAS_STAGE: a checked image enters the staging list of eight. `r` tells what the code found in the image (05, R130). -/
def execCanvasStage (pt : Pt) (r : DescRead) (s : State) : Res :=
  .next (s.servedRow pt r.tag (fun d => d.op = 0x09) fun s n d =>
    let others := (s.part n).staged.filter fun c => c.addr ≠ d.addr
    if d.addr % 256 ≠ 0 ∨ 8 ≤ others.length then s.finish n d stEXTENT
    else s.readFor n d d.addr (s.imageLen n d.addr) r.ecc fun s => match (s.forStaging n).regionCheck n d.addr true with
      | some b => s.complete n d { d.record n b.status with detail := b.detail }
      | none =>
        let s := s.stage n (s.stagedImg n d.addr) d.addr
        s.complete n d { d.record n stOK with w3 := BitVec.ofNat 64 ((s.part n).stagedIndex d.addr) })

/-- Why an image at an address may not be armed, if it may not. -/
def State.armCheck (s : State) (n addr : Nat) : Option Bad :=
  if ((s.part n).stagedAt addr).isNone then some { status := stNOTSTAGED, check := 0, arg := 0 }
  else (s.forArming n).regionCheck n addr false

/-- A staged image takes effect without zeroing; in Fault-stop this is the re-arm (13, R295). -/
def State.arm (s : State) (n addr : Nat) : State := s.install n (s.stagedImg n addr) addr ((s.part n).st = .faultStop)

/-- DETAIL of a refused arm: NOT_STAGED has none. -/
def Bad.armDetail (b : Bad) : Word := if b.status = stNOTSTAGED then 0 else b.detail

/-- CANVAS_ARM, with what the code found in the image (05, R130). -/
def execCanvasArm (pt : Pt) (r : DescRead) (s : State) : Res :=
  .next (s.servedRow pt r.tag (fun d => d.op = 0x0A) fun s n d =>
    s.readFor n d d.addr (s.imageLen n d.addr) r.ecc fun s => match s.armCheck n d.addr with
    | some b => s.complete n d { d.record n b.status with detail := b.armDetail }
    | none => (s.arm n d.addr).finish n d stOK)

/-- TREE_CANVAS_ARM (13, R310), with what the code found in the image (05, R130): PT_JOB_CFG and PT_JOB_TOPO take the command's values, JOB_MODULES one of at most 32,768 only (06, R148), and their
old ones again when the arm is refused. -/
def execTreeCanvasArm (seq : W32) (pt : Pt) (addr : Nat) (jobModules : BitVec 16) (topo : TopoRead) (s : State) : Res :=
  .next (s.tree seq fun s =>
    let n := pt.val
    let p := s.part n
    if p.st ≠ .armed ∧ p.st ≠ .faultStop then (s, [BitVec.ofNat 64 stSTATE, 0])
    else match s.trippedIn n addr (s.imageLen n addr) with
      | some k => (s, [BitVec.ofNat 64 stACCESS, BitVec.ofNat 64 k])
      | none =>
        let s := (s.readWait n addr (s.imageLen n addr)).hostRead n addr (s.imageLen n addr) topo.ecc
        let t := setCfg (if jobModules.toNat ≤ 32768 then setCfg s .ptJobCfg n 0 (BitVec.ofNat 32 (at_ jobModules.toNat 16)) else s) .ptJobTopo n 0 topo.topo
        match t.armCheck n addr with
        | some b => (s, [BitVec.ofNat 64 b.status, b.armDetail])
        | none => (t.arm n addr, [BitVec.ofNat 64 stOK, 0]))

/-! ### PART_CTL and NOP (12, R279) -/

/-- PART_CTL_START: accepted while STATE is Loaded, for a beat edge at least 16 beats ahead. -/
def execPartCtlStart (pt : Pt) (tag : BitVec 16) (s : State) : Res :=
  .next (s.descRow pt tag (fun d => d.op = 0x0B && wf d.w1 1 0 = 0) fun s n d =>
    let p := s.part n
    if p.wt ≠ .loaded ∨ p.startAt.isSome then s.finish n d stSTATE
    else if !s.edgeAhead n 16 d.w2.toNat then s.finish n d stEXTENT
    else s.updPart n fun p => { p with startAt := some d.w2.toNat, startTag := some d.tag })

/-- PART_CTL_HOLD. -/
def execPartCtlHold (pt : Pt) (tag : BitVec 16) (s : State) : Res :=
  .next (s.descRow pt tag (fun d => d.op = 0x0B && wf d.w1 1 0 = 1) fun s n d =>
    let r := s.askHold n d.w2.toNat (some d.tag)
    if r.2 = stOK then r.1 else s.finish n d r.2)

/-- PART_CTL_RELEASE. -/
def execPartCtlRelease (pt : Pt) (tag : BitVec 16) (s : State) : Res :=
  .next (s.descRow pt tag (fun d => d.op = 0x0B && wf d.w1 1 0 = 2) fun s n d =>
    let r := s.askRelease n d.w2.toNat (some d.tag)
    if r.2 = stOK then r.1 else s.finish n d r.2)

/-- Every other descriptor of the partition in flight ends with ABORTED. -/
def State.abortOthers (s : State) (n : Nat) (d : Desc) : State :=
  ((s.part n).flight.filter fun e => e.progress ≠ .ready && !(e.tag = d.tag && e.sq = d.sq)).foldl (fun s e => s.finish n e stABORTED) s

/-- PART_CTL_RESET: the partition goes to Absent from any state; its own completion follows the last reclaim notice. -/
def execPartCtlReset (pt : Pt) (tag : BitVec 16) (s : State) : Res :=
  .next (s.descRow pt tag (fun d => d.op = 0x0B && wf d.w1 1 0 = 3) fun s n d => ((s.abortOthers n d).resetPart n false).finishReset n)

/-- NOP completes when it starts. -/
def execNop (pt : Pt) (tag : BitVec 16) (s : State) : Res :=
  .next (s.descRow pt tag (fun d => d.op = 0x3F) fun s n d => s.finish n d stOK)

end Sys2Proof.Machine
end

