-- ==== Sys2Proof/Machine/Transmit.lean ====
section
/-! DEFINITION. What leaves a port: the calendar entry in force (09, R208), the pick of a flit (08, R191, R193, R194; 09, R209, R210, R221), and the
unit sent at a unit boundary (08, R184, R191, R195). -/

namespace Sys2Proof.Machine

/-! ### The calendar (09, R208) -/

/-- The entry that begins at the unit boundary in the tick of the count in force. -/
def State.entryNow (s : State) (p : Nat) : Nat := s.boundaryNo p % 64

/-! ### Picks (08, R191, R193, R194; 09, R209, R210) -/

/-- Stack of a port's tailings slot (05, R137). -/
def tailStack (p : Nat) : Nat :=
  if p < 6 then p else if p = 6 then 1 else if p = 7 then 4 else if p < 14 then p - 2 else if p = 14 then 7 else 10

/-- A full replay buffer spills its oldest 1,024 entries on the die to tailings (08, R193). -/
def spill : Nat → List Replay → List Replay
  | _, [] => []
  | 0, rs => rs
  | n + 1, r :: rs => if r.tailings then r :: spill (n + 1) rs else { r with tailings := true, readBack := false } :: spill n rs

/-- Stack address of a sequence's entry in a port's tailings slot: slot A or B of 4 MiB above the partitions' granules (05, R123, R137), at the
place of its SEQ modulo 16,384 (log 84). -/
def tailAddr (p seq : Nat) : Nat := granule * (36860 + (if p = 6 ∨ p = 7 ∨ 14 ≤ p then 2 else 0)) + 256 * (seq % 16384)

/-- Bytes of a stack outside any partition. -/
def State.writeStack (s : State) (k a : Nat) (bs : List Byte) : State :=
  { s with hbm := Tab.put s.hbm k ((upFrom 0 bs.length).foldl (fun m i => Mem.write m (a + i) (bs.getD i 0)) (Tab.get [] s.hbm k)) }

/-- Bytes of a stack outside any partition. -/
def State.readStack (s : State) (k a len : Nat) : List Byte := (upFrom a len).map fun i => Mem.read (Tab.get [] s.hbm k) i

/-- The buffer on the die is full (08, R193). -/
def FPort.bufferFull (f : FPort) : Bool := decide (2048 ≤ f.onDie)

/-- A full buffer copies its oldest 1,024 entries on the die to the port's tailings slot (08, R193). -/
def State.spillOut (s : State) (p : Nat) : State :=
  let f := s.port p
  if !f.bufferFull then s
  else
    let out := (f.replay.filter fun r => !r.tailings).take 1024
    (out.foldl (fun s r => s.writeStack (tailStack p) (tailAddr p r.flit.seq) r.flit.bytes) s).setPort p { f with replay := spill 1024 f.replay }

/-- Partitions of the cores whose flits lie at the port, once for each core: 32 × core + partition. -/
def FPort.senders (f : FPort) : List Nat := dedup (f.shaftq.filterMap fun x => x.src.map fun c => 32 * c.ix + x.pt)

/-- The count of outstanding flits has just reached 16,384: each SEND and SET whose flits still wait at the port begins to wait for it (08, R194). -/
def State.noteFull (s : State) (p : Nat) : State :=
  if (s.port p).outstanding = 16384 then (s.port p).senders.foldl (fun s x => s.replayFull (x % 32) p) s else s

/-- A picked flit takes the next SEQ and enters the replay buffer. -/
def State.pick (s : State) (p : Nat) (f : Flit) : State :=
  ((s.spillOut p).updPort p fun q =>
    { q with replay := q.replay ++ [{ flit := { f with seq := q.seqNext }, sentAt := none, tailings := false, readBack := false, resend := false }],
             seqNext := seqAdd q.seqNext 1 }).noteFull p

/-- A forwarded flit's generation is one that the port has left (01, R38). -/
def State.lateFlit (s : State) (p : Nat) (f : Flit) : Bool :=
  (s.port p).switched.any fun w => decide (s.keyOf w.1 = f.key) && s.lateGen w.1 p (tagGen f.role)

/-- A flit that came at count `a` is eligible on port `p`: a + 95 ns − τ of the port is not after the present boundary (09, R212). -/
def State.eligible (s : State) (p : Nat) (a : Count) : Bool := decide (25 * (a + 95) ≤ s.boundary25 p + (s.port p).unitTime25)

/-- The head VL0 flit of a port, when its ingress entry forwards it to port `p`: with the entry it is to be picked on. -/
def State.forwardTo (s : State) (p q : Nat) : Option (RxFlit × Nat) :=
  match (s.port q).lane 0 with
  | x :: _ =>
    match s.ingress q x.flit with
    | some w => if rf w 31 30 = 1 ∧ rf w 29 26 = p then some (x, rf w 25 20) else none
    | none => none
  | [] => none

/-- A forwarded flit leaves the output queue of its in-port, which retires it, and is picked. -/
def State.takeForward (s : State) (p q entry : Nat) (x : RxFlit) : State :=
  (s.pick p { x.flit with vlx := entry }).updPort q (fun f => (f.popLane 0).retire 0) |>.drain q

/-- The first port whose head flit is eligible and may be forwarded on an entry of `p`; the lowest in-port goes first (log 40). -/
def State.firstForward (s : State) (p : Nat) (ok : RxFlit → Nat → Bool) : Option (Nat × RxFlit × Nat) :=
  (upFrom 0 16).findSome? fun q => match s.forwardTo p q with
    | some (x, e) => if ok x e && s.eligible p x.came then some (q, x, e) else none
    | none => none

/-- A local flit of a partition as it is picked on an entry. -/
def State.localFlit (s : State) (x : ShaftFlit) (entry : Nat) : Flit :=
  { seq := 0, vl := 0, key := s.keyOf x.pt, role := x.role, vlx := entry, payload := x.payload }

/-- Local flit `i` of a port is picked. -/
def State.takeLocal (s : State) (p i entry : Nat) (x : ShaftFlit) : State :=
  (s.updPort p fun f => { f with shaftq := dropAt f.shaftq i }).pick p (s.localFlit x entry)

/-- A pick on an entry of TYPE shaft: a forwarded flit before a local one (09, R209). -/
def State.pickShaft (s : State) (p e : Nat) : Option State :=
  let w := cfg s .fabCalc p e
  if rf w 31 30 ≠ 1 ∨ s.ethMode p then none
  else match s.firstForward p fun x o => decide (o = e) && !s.lateFlit p x.flit with
    | some (q, x, _) => some (s.takeForward p q e x)
    | none =>
      let l := (s.port p).shaftq
      let ok (x : ShaftFlit) : Bool := decide (x.shaft = rf w 29 24) && decide (s.keyAt p (rf w 23 18) = some (s.keyOf x.pt)) &&
        (!rb w 11 || x.gen = rf w 17 12) && !s.lateGen x.pt p x.gen
      match l.findIdx? ok with
      | some i => (l[i]?).map fun x => s.takeLocal p i e x
      | none => none

/-- Entry of the calendar that a partition has left, for a shaft of it. -/
def State.oldEntry (s : State) (n p shaft : Nat) : Nat :=
  (((s.part n).claims.find? fun c => !c.ingress && c.port = p && fld c.image 29 24 = shaft).map (·.entry)).getD 0

/-- VL0 flits of a generation that the port has left travel on loose and management entries, in order, under their old entries (01, R38; log 41). -/
def State.pickLate (s : State) (p : Nat) : Option State :=
  match s.firstForward p fun x _ => s.lateFlit p x.flit with
  | some (q, x, e) => some (s.takeForward p q e x)
  | none =>
    let l := (s.port p).shaftq
    match l.findIdx? fun x => s.lateGen x.pt p x.gen with
    | some i => (l[i]?).map fun x => (s.takeLocal p i (s.oldEntry x.pt p x.shaft) x).endOverlap x.pt
    | none => none

/-- A loose flit is marked when the loose queue of its port holds more than MARK_THRESH flits (09, R221). -/
def State.marks (s : State) (p : Nat) : Bool := decide (cf s .fabLooseCfg 0 0 9 0 < (s.port p).looseCount)

/-- A pick from VL1 or VL2: a credit of the lane is reserved, and fewer than 64 flits are unsent (08, R191; 09, R210, R221). -/
def State.pickLoose (s : State) (p v : Nat) : Option State :=
  let f := s.port p
  match if v = 1 then f.loose1 else f.loose2 with
  | [] => none
  | x :: _ =>
    if f.hasCredit v ∧ f.unsent < 64 then
      let mark := s.marks p
      let vlx := if mark ∧ x.vlx < 32 then x.vlx + 32 else x.vlx
      let s := if mark then s.count .marked (.port p) none else s
      let s := s.updPort p fun f => if v = 1 then { f with loose1 := f.loose1.drop 1 } else { f with loose2 := f.loose2.drop 1 }
      some ((s.pick p { seq := 0, vl := v, key := x.key, role := x.role, vlx := vlx, payload := x.payload }).leftLoose v x)
    else none

/-- A pick from VL3 (09, R210). -/
def State.pickMgmt (s : State) (p : Nat) : Option State :=
  let f := s.port p
  match f.mgmt with
  | [] => none
  | x :: _ =>
    if f.hasCredit 3 ∧ f.unsent < 64 then
      some ((s.updPort p fun f => { f with mgmt := f.mgmt.drop 1 }).pick p { seq := 0, vl := 3, key := 0, role := 0, vlx := 0, payload := x.payload })
    else none

/-- The pick of a unit time; none at 16,384 outstanding (08, R194), and none while a full buffer has no stack to spill to (08, R193; 05, R134). -/
def State.pickNow (s : State) (p : Nat) : State :=
  if 16384 ≤ (s.port p).outstanding ∨ ((s.port p).bufferFull ∧ (s.stack (tailStack p)).tripped) then s
  else
    (((((s.pickShaft p (s.entryNow p)).orElse fun _ => s.pickMgmt p).orElse fun _ => s.pickLate p).orElse fun _ => s.pickLoose p 2).orElse
      fun _ => s.pickLoose p 1).getD s

/-! ### The unit of a boundary (08, R184, R191, R195) -/

/-- An ACK: the sequences it names need no further ACK at once (08, R188, R195). -/
def State.sendAck (s : State) (p : Nat) : State :=
  let f := s.port p
  let s := s.sendOs p { typ := 0x02, body := f.ackBody }
  s.updPort p fun g => { g with altNack := !g.altNack, ackDue := false, named := g.named ++ (f.nacked f.ackBase).filter fun q => !g.named.contains q } |>.noteMissing s.now

/-- An entry may leave: it lies on the die, or has been read back from tailings (08, R193). -/
def Replay.ready (r : Replay) : Bool := !r.tailings || r.readBack

/-- An entry has been sent as the unit of the present count. -/
def Replay.sent (r : Replay) (units : Nat) : Replay := { r with sentAt := some units, resend := false, readBack := false }

/-- An entry leaves as a unit. -/
def State.sendFlit (s : State) (p : Nat) (r : Replay) : State :=
  let f := s.port p
  (s.setPort p { f with replay := f.replay.map fun e => if e.flit.seq = r.flit.seq then e.sent f.txUnits else e }).sendUnit p false false r.flit.bytes

/-- The next resend: the lowest SEQ first (08, R191, R196). -/
def FPort.nextResend (f : FPort) : Option Replay := (f.replay.find? fun r => r.resend).bind fun r => if r.ready then some r else none

/-- The flit due for its first transmission, when its credit can be spent (08, R190, R191). -/
def FPort.nextLaunch (f : FPort) : Option Replay :=
  (f.replay.find? fun r => r.flit.seq = f.seqTx).bind fun r => if f.unsent ≠ 0 ∧ r.ready ∧ f.mayLaunch r.flit.vl then some r else none

/-- An ACK must leave now, or more than 128 units would pass without one (08, R195): before a JOB_STOP begins, its three copies are counted, since they are
consecutive units (R187; log 80). -/
def FPort.ackForced (f : FPort) : Bool :=
  match f.osq with
  | o :: _ =>
    if o.typ = 0x0B then decide ((f.osq.takeWhile fun x => x = o).length % 3 = 0) && decide (125 ≤ f.sinceAck) else decide (127 ≤ f.sinceAck)
  | [] => decide (127 ≤ f.sinceAck)

/-- A queued ordered set leaves; a DELAY_RSP takes the time of its departure as it leaves (08, R198). -/
def State.sendQueued (s : State) (p : Nat) (o : OsOut) : State :=
  s.sendOs p (if o.typ = 0x05 then { o with body := o.body ++ leBytes 8 (s.leaves16 p) } else o)

/-- The first unit due on an Up port. A periodic ACK stands in the last class from 64 units after the last ACK on, and goes first only where R195's
128 units would pass without one (log 80). -/
def State.sendUp (s : State) (p : Nat) : State :=
  let f := s.port p
  if f.ackForced then s.sendAck p
  else match f.osq with
  | o :: os => (s.setPort p { f with osq := os }).sendQueued p o
  | [] =>
    if f.ackDue then s.sendAck p
    else if f.markDue then (s.setPort p { f with markDue := false }).sendOs p { typ := 0x03, body := s.markBody p }
    else match f.nextResend with
      | some r => ((s.sendFlit p r).count .resend (.port p) none).canInput (canPort p) 1 1
      | none => match f.nextLaunch with
        | some r =>
          let v := r.flit.vl
          (s.setPort p { f with seqTx := seqAdd f.seqTx 1, spent := Tab.put f.spent v ((f.spentOn v + 1) % 2 ^ 32) }).sendFlit p r
        | none =>
          if 63 ≤ f.sinceAck then s.sendAck p
          else if f.auditDue then (s.setPort p { f with auditDue := false }).sendOs p { typ := 0x0A, body := f.auditBody }
          else s.sendOs p { typ := 0x01, body := [] }

/-- Ordered sets that travel while a port trains or resets: a JOB_STOP waits for the end (08, "When things meet"). -/
def OsOut.inReset (o : OsOut) : Bool := o.typ ≠ 0x0B

/-- The unit of a port that trains or resets: a queued ordered set, a TRAIN of its phase, a DELAY_REQ, or IDLE (08, R187, R198, R202). -/
def State.sendTraining (s : State) (p : Nat) : State :=
  let f := s.port p
  match f.osq.findIdx? OsOut.inReset with
  | some i => match f.osq[i]? with
    | some o => (s.setPort p { f with osq := dropAt f.osq i }).sendQueued p o
    | none => s
  | none =>
    if s.ethMode p then s.sendOs p { typ := 0x01, body := [] }
    else if 1 ≤ f.resetPhase ∧ f.resetPhase ≤ 3 then s.sendOs p { typ := 0x08, body := trainBody f.resetPhase }
    else if f.resetPhase = 4 ∧ f.delayReqs < 64 then
      (s.setPort p { f with delayReqs := f.delayReqs + 1 }).sendOs p { typ := 0x04, body := leBytes 8 (s.leaves16 p) }
    else s.sendOs p { typ := 0x01, body := [] }

/-- UNIT_BOUNDARY (08, R191): the port sends the first unit due, and its calendar entry picks a flit. Picks go on while a port resets (R203); a
Disabled or Failed port's transmitter is squelched. -/
def execUnitBoundary (p : Port) (s : State) : Res :=
  .next (match (s.port p.val).st with
  | .up => (s.sendUp p.val).pickNow p.val
  | .resetting => (s.sendTraining p.val).pickNow p.val
  | .training => s.sendTraining p.val
  | _ => s)

end Sys2Proof.Machine
end

