-- ==== Sys2Proof/Machine/Link.lean ====
section
/-! DEFINITION. The control of a Fretur link: acknowledgements and proven losses (08, R196), tailings (R193, R197), delay measurement (R198),
resets, training and RESUME (R200-R205), audits (R206), JOB_STOP (13, R291), and Ethernet-mode ports (09, R225-R227). -/

namespace Sys2Proof.Machine

/-! ### Acknowledgements (08, R190, R196) -/

/-- Entries up to and including a sequence are freed, those in tailings without a read (08, R193, R203). -/
def FPort.free (f : FPort) (cumAck : Nat) : FPort :=
  let n := seqDist f.seqOldest (seqAdd cumAck 1)
  if n ≤ seqDist f.seqOldest f.seqTx then { f with replay := f.replay.drop n, seqOldest := seqAdd f.seqOldest n } else f

/-- Credit returns: the low 16 bits of each retirement total move on from the last one received (08, R190). -/
def FPort.credit (f : FPort) (cret : List Nat) : FPort :=
  (upFrom 0 4).foldl (fun f v =>
    let new := cret.getD v 0 % 65536
    let d := (new + 65536 - Tab.get 0 f.lastCret v % 65536) % 65536
    { f with returned := Tab.put f.returned v ((f.returnedOn v + d) % 2 ^ 32), lastCret := Tab.put f.lastCret v new }) f

/-- A transmission is proven lost: its NACK bit is set, and RX_UNITS is above the unit count of the latest one (08, R196). -/
def Replay.lost (r : Replay) (b : AckBody) : Bool :=
  b.nack.contains r.flit.seq && (match r.sentAt with | some u => unitAbove b.rxUnits u | none => false)

/-- ACK (08, R196). -/
def execAck (p : Port) (b : AckBody) (s : State) : Res :=
  let f := s.port p.val
  .next (if f.st ≠ .up then s
  else
    let g := (f.free b.cumAck).credit b.cret
    s.setPort p.val { g with lastAck := s.now, replay := g.replay.map fun r => if r.lost b then { r with resend := true } else r })

/-- ACK_TIMEOUT (08, R200): no intact ACK for 16 µs + 2c. -/
def execAckTimeout (p : Port) (s : State) : Res :=
  let f := s.port p.val
  .next (if f.st = .up ∧ f.lastAck + 16000 + f.delay16 / 8 ≤ s.now then s.askRetrain p.val else s)

/-! ### Tailings (08, R193, R197) -/

/-- The entry that the port reads back: the lowest one in tailings that it must send. -/
def FPort.wantsRead (f : FPort) : Option Replay :=
  f.replay.find? fun r => r.tailings && !r.readBack && (r.resend || r.flit.seq = f.seqTx)

/-- TAILINGS_READ_DONE: the entry may be sent, as its slot holds it; an uncorrectable error fails the port at once. A tripped stack takes no read
(05, R134). -/
def execTailingsReadDone (p : Port) (ecc : Ecc) (s : State) : Res :=
  .next (match (s.port p.val).wantsRead with
  | none => s
  | some r => if (s.stack (tailStack p.val)).tripped then s else
    let s := s.count .tailingsRead (.port p.val) none
    let k := tailStack p.val
    let x := flitOf (s.readStack k (tailAddr p.val r.flit.seq) 256)
    let done := s.updPort p.val fun f =>
      { f with replay := f.replay.map fun e => if e.flit.seq = r.flit.seq then { e with flit := x, readBack := true } else e }
    match ecc with
    | .clean => done
    | .corrected => (done.count .sectorCorrected (.die (k / 2)) none).canInput (canStack k) 0 1
    | .uncorrectable => s.failPort p.val .failed)

/-! ### Resets and training (08, R200-R205) -/

/-- Lanes of a width code from a first lane on. -/
def laneMask (base width : Nat) : Nat := (2 ^ 2 ^ width - 1) * 2 ^ base

/-- The lane group is aligned and lies on the port. -/
def groupOk (base width : Nat) : Bool := base % 2 ^ width = 0 && decide (base + 2 ^ width ≤ 8)

/-- A reset begins: everything that R203 names is kept; training starts with the second phase, on an Ethernet-mode port with the RESUME exchange
(08, R202, R203; 09, R226). -/
def State.beginReset (s : State) (p : Nat) (b : ResetBody) : State :=
  let f := s.port p
  let eth := s.ethMode p
  let keep := f.osq.filter fun o => o.typ = 0x07 || o.typ = 0x0B
  let s := s.setPort p { f with st := if f.st = .training then .training else .resetting, want := none, agreed := some b,
                                resetPhase := if eth then 5 else 1, resetAt := if f.st = .training then f.resetAt else s.now, resumed := false,
                                identified := false, delayReqs := 0, blocks := [], delaySum := 0, delayNum := 0, uncorr := 0, markDue := false, ackDue := false, auditDue := false,
                                osq := if eth then keep ++ [{ typ := 0x09, body := f.resumeBody }] else keep }
  if f.st = .training then s
  else
    let s := if b.full then s else s.count .retrain (.port p) none
    s.canInput (canPort p) 2 1

/-- The port is Up: unit counts start again, and each partition with a shaft of it compares the cable delay (08, R203; 06, R150). -/
def State.goUp (s : State) (p : Nat) : State :=
  let s := (s.flushEth p).updPort p fun f =>
    { f with st := .up, txUnits := 0, rxUnits := 0, lastAck := s.now, sinceAck := 0, uncorr := 0, want := none, agreed := none, resetPhase := 0, named := [],
             resumed := false }
  (s.parts.filter fun e => e.2.notAbsent).foldl (fun s e => match e.2.canvas with
    | some c => s.checkCables e.1 c.cable [p]
    | none => s) s

/-- Training begins from the empty state (08, R205, R207). An Ethernet-mode port asks for a reset, reads x4 at 212.5 Gb/s, and knows its peer
(09, R226). -/
def State.startTraining (s : State) (p : Nat) : State :=
  let f := s.port p
  let w := cfg s .frtCtl p 0
  let b : ResetBody := { allowNarrow := rb w 22, laneBase := BitVec.ofNat 3 (rf w 25 23), reqNo := BitVec.ofNat 8 f.reqNo, full := true,
                         width := BitVec.ofNat 2 (rf w 29 28), rate := BitVec.ofNat 2 (rf w 27 26) }
  let g := { FPort.reset with st := .training, resetAt := s.now, resetPhase := 1, agreed := some b, switched := f.switched, tap := f.tap,
                              auditSkips := f.auditSkips, reqNo := f.reqNo, shaftq := f.shaftq }
  if s.ethMode p then
    let b := { b with width := 2, rate := 0, laneBase := 0, allowNarrow := false }
    s.setPort p { g with width := 2, rate := 0, lanes := 0x0F, peerDomain := cf s .ethPeer p 0 14 13, peerDevid := cf s .ethPeer p 0 12 0, agreed := some b,
                         resetPhase := 0, want := some { body := b, since := s.now }, reqNo := (f.reqNo + 1) % 256, osq := [reqOs b] }
  else s.setPort p g

/-- A request may be answered: on an Up port, or on an Ethernet-mode port in its first training (08, R200; 09, R226). -/
def State.answers (s : State) (p : Nat) : Bool :=
  (s.port p).st = .up || ((s.port p).st = .training && s.ethMode p && (s.port p).resetPhase = 0)

/-- RESET_REQ (08, R200, R201): ignored while the port resets; when both ends have asked, the end with the lower device id leads. -/
def execResetReq (p : Port) (from_ : OsSender) (b : ResetBody) (s : State) : Res :=
  let f := s.port p.val
  .next (if !s.answers p.val ∨ b.rate = 3 ∨ (f.want.isSome ∧ s.devid < from_.devid.toNat) then s
  else
    let s := if s.ethMode p.val then s.updPort p.val fun g => { g with peerPort := from_.port.toNat } else s
    (s.updPort p.val fun g => { g with osq := (g.osq.filter fun o => o.typ ≠ 0x06) ++ [ackOs b] }).beginReset p.val b)

/-- RESET_ACK (08, R201): the phases begin with the agreed values. -/
def execResetAck (p : Port) (from_ : OsSender) (b : ResetBody) (s : State) : Res :=
  .next (if s.answers p.val ∧ (s.port p.val).want.isSome ∧ b.rate ≠ 3 then
    (if s.ethMode p.val then s.updPort p.val fun g => { g with peerPort := from_.port.toNat } else s).beginReset p.val b
  else s)

/-- RESET_REQ_REPEAT (08, R201): a pending request is sent again. -/
def execResetReqRepeat (p : Port) (s : State) : Res :=
  let f := s.port p.val
  .next (match f.want with
  | some w => if s.answers p.val then s.setPort p.val { f with osq := f.osq ++ [reqOs w.body] } else s
  | none => s)

/-- RESET_ACK_TIMEOUT (08, R201): no RESET_ACK within 100 µs; the requester begins the reset alone. -/
def execResetAckTimeout (p : Port) (s : State) : Res :=
  .next (match (s.port p.val).want with
  | some w => if (s.port p.val).st = .up ∧ w.since + 100000 ≤ s.now then s.beginReset p.val w.body else s
  | none => s)

/-- UNIT_LOCK_LOSS (08, R201): the peer has begun a reset alone, and this end follows with its own request's values, or with the present ones. -/
def execUnitLockLoss (p : Port) (s : State) : Res :=
  let f := s.port p.val
  .next (if f.st = .up ∧ !s.ethMode p.val then s.beginReset p.val (match f.want with | some w => w.body | none => f.retrainBody) else s)

/-- TRAIN (08, R202): in the identity phase, a peer in another domain or with this module's device id stops training. Phase 7 is stopped training. -/
def execTrain (p : Port) (from_ : OsSender) (_phase : BitVec 3) (s : State) : Res :=
  let f := s.port p.val
  .next (if (f.st = .training ∨ f.st = .resetting) ∧ !s.ethMode p.val ∧ f.resetPhase = 3 then
    if from_.domain.toNat = s.domainNo ∧ from_.devid.toNat ≠ s.devid then
      s.setPort p.val { f with peerDomain := from_.domain.toNat, peerDevid := from_.devid.toNat, peerPort := from_.port.toNat, identified := true }
    else s.setPort p.val { f with resetPhase := 7 }
  else s)

/-- DELAY_REQ (08, R198): answered with its stamp and its arrival, the count and sixteenths of a tick beyond it; the departure of the answer joins them when it
leaves. -/
def execDelayReq (p : Port) (t1 : Nat) (came : Count) (came16 : BitVec 4) (s : State) : Res :=
  let f := s.port p.val
  .next (if (f.st = .training ∨ f.st = .resetting) ∧ !s.ethMode p.val then
    s.setPort p.val { f with osq := f.osq ++ [{ typ := 0x05, body := leBytes 8 t1 ++ leBytes 8 ((16 * came + came16.toNat) % 2 ^ 64) }] }
  else s)

/-- DELAY_RSP (08, R198): one of 64 exchanges. The sum holds (T4 − T1) − (T3 − T2) of each. -/
def execDelayRsp (p : Port) (t1 t2 t3 t4 : Nat) (s : State) : Res :=
  let f := s.port p.val
  .next (if (f.st = .training ∨ f.st = .resetting) ∧ f.resetPhase = 4 ∧ f.delayNum < 64 then
    s.setPort p.val { f with delaySum := f.delaySum + ((t4 : Int) - t1 - ((t3 : Int) - t2)), delayNum := f.delayNum + 1 }
  else s)

/-- Lane group that the lanes which trained allow: the requested width, or with ALLOW_NARROW the widest one, the lowest group of it (08, R202). -/
def chooseGroup (b : ResetBody) (trained : Nat) : Option (Nat × Nat) :=
  let fits (w base : Nat) : Bool := groupOk base w && trained &&& laneMask base w = laneMask base w
  if b.allowNarrow then
    [3, 2, 1, 0].findSome? fun w => ((upFrom 0 8).find? fun base => fits w base).map fun base => (w, base)
  else if fits b.width.toNat b.laneBase.toNat then some (b.width.toNat, b.laneBase.toNat)
  else none

/-- The mean of the 64 exchanges, each half its difference, rounded to sixteenths of a ns (08, R198). -/
def FPort.meanDelay (f : FPort) : Nat := ((f.delaySum + 64) / 128).toNat

/-- RESET_PHASE_DONE (08, R202): phases 1 equalisation (a retrain keeps width, rate and lanes, R200), 2 lock,
3 identity, 4 delay, 5 RESUME. A phase whose condition fails stays, and the port
fails at its 50 ms mark. First training ends after the delay measurement, except on an Ethernet-mode port. -/
def execResetPhaseDone (p : Port) (r : PhaseReport) (s : State) : Res :=
  let f := s.port p.val
  .next (if f.st ≠ .training ∧ f.st ≠ .resetting then s
  else match f.resetPhase, f.agreed with
  | 1, some b =>
    if !b.full then (if r.trainedLanes.toNat &&& f.lanes = f.lanes then s.setPort p.val { f with resetPhase := 2 } else s)
    else match chooseGroup b r.trainedLanes.toNat with
    | some (w, base) => s.setPort p.val { f with width := w, rate := b.rate.toNat, lanes := laneMask base w, resetPhase := 2 }
    | none => s
  | 2, _ => s.setPort p.val { f with resetPhase := 3 }
  | 3, _ => if f.identified then s.setPort p.val { f with resetPhase := 4 } else s
  | 4, _ =>
    if f.delayNum < 64 then s
    else if 160000 < f.meanDelay then s.setPort p.val { f with resetPhase := 7 }
    else if f.st = .training then (s.setPort p.val { f with delay16 := f.meanDelay }).goUp p.val
    else s.setPort p.val { f with delay16 := f.meanDelay, resetPhase := 5, osq := f.osq ++ [{ typ := 0x09, body := f.resumeBody }] }
  | 5, _ => if f.resumed ∧ f.osq.all (fun o => o.typ ≠ 0x09) then s.goUp p.val else s
  | _, _ => s)

/-- Sequences that the peer has sent and this end has not seen, by SEQ_TX of its RESUME: they are missing since the reset began (06, R146; 08, R203). -/
def FPort.lostInReset (f : FPort) (seqTx : Nat) : Tab Count :=
  if seqDist f.rxHi seqTx ≤ 16384 then (upFrom 0 (seqDist f.rxHi seqTx)).map fun o => (seqAdd f.rxHi o, f.resetAt) else []

/-- RESUME (08, R203): a CUM_ACK outside the send window breaks ledger 2; otherwise the entries up to it are freed, credits return, and every flit
below the old SEQ_TX goes again as a resend. -/
def execResume (p : Port) (b : ResumeBody) (s : State) : Res :=
  let f := s.port p.val
  .next (if (f.st = .resetting ∨ (f.st = .training ∧ s.ethMode p.val)) ∧ 4 ≤ f.resetPhase ∧ f.resetPhase ≤ 5 ∧ !f.resumed then
    if seqDist f.seqOldest f.seqTx < seqDist f.seqOldest (seqAdd b.cumAck 1) then s.linkLedger p.val 2 none f.seqTx b.cumAck
    else
      let g := (f.free b.cumAck).credit b.cret
      s.setPort p.val { g with resumed := true, missedAt := f.missedAt ++ f.lostInReset b.seqTx, replay := g.replay.map fun r => { r with resend := decide (2 ^ 19 ≤ seqDist f.seqTx r.flit.seq) } }
  else s)

/-- PORT_FAILURE (08, R204): the port is not Up 50 ms after its reset or its first training began. While the count does not run the command itself says that
the 50 ms have passed (log 105). -/
def execPortFailure (p : Port) (s : State) : Res :=
  let f := s.port p.val
  .next (if (f.st = .training ∨ f.st = .resetting) ∧ (!s.tb.running ∨ f.resetAt + 50000000 ≤ s.now) then s.failPort p.val .failed else s)

/-! ### FRT_CTL (08, R207) -/

/-- The target fields may be applied: TGT_RATE 3 and a first lane that is no multiple of the width may not. -/
def targetsOk (v : W32) : Bool := rf v 27 26 ≠ 3 && rf v 25 23 % 2 ^ rf v 29 28 = 0

/-- The value breaks no rule of its fields; the request of a retrain ignores the target fields. -/
def frtCtlOk (v : W32) : Bool := targetsOk v || (rb v 31 && !rb v 30)

/-- The write of FRT_CTL as it is stored: ETH_MODE changes with access S only, and target fields that may not be applied stay. -/
def State.frtCtlWord (s : State) (p : Nat) (v : W32) : W32 :=
  let v := if targetsOk v then v else (v &&& 0xC07FFFFF) ||| (cfg s .frtCtl p 0 &&& 0x3F800000)
  let eth : W32 := if 12 ≤ p then (if s.sModule then v else cfg s .frtCtl p 0) &&& 0x00200000 else 0
  (v &&& 0x7FC00001) ||| eth

/-- A cold or a module reset runs still: a link reset asked for meanwhile is not applied (14, R319). A start-up after a loss of the main bus is no reset
(00, R7; 14, LAST_RESET 3). -/
def State.resetRuns (s : State) : Bool := !s.startup.ready && s.startup.cause ≠ 3

/-- A write of FRT_CTL takes effect: EN starts first training, or fails and disables the port; RESET_GO requests a reset, and starts a Failed port's
training when it asks for a full one (08, R200, R204, R205). -/
def State.putFrtCtl (s : State) (p : Nat) (v : W32) : State :=
  let s := setCfg s .frtCtl p 0 (s.frtCtlWord p v)
  let st := (s.port p).st
  if !rb v 0 then (if st = .disabled then s else s.failPort p .disabled)
  else if st = .disabled then s.startTraining p
  else if !rb v 31 ∨ s.resetRuns then s
  else if st = .failed then (if rb v 30 then s.startTraining p else s)
  else if rb v 30 then
    s.askReset p { allowNarrow := rb v 22, laneBase := BitVec.ofNat 3 (rf v 25 23), reqNo := 0, full := true, width := BitVec.ofNat 2 (rf v 29 28),
                   rate := BitVec.ofNat 2 (rf v 27 26) } true
  else s.askReset p (s.port p).retrainBody true

/-! ### Audit (08, R206; 13, R296) -/

/-- Sequences from E to SEQ_TX − 1 that are not stored. -/
def FPort.notStored (f : FPort) (seqTx : Nat) : Nat :=
  ((upFrom 0 (seqDist f.rxE seqTx)).filter fun o => (Tab.find f.window (seqAdd f.rxE o)).isNone).length

/-- Flits of a lane that the receiver stores: in the window, in its output queue, or waiting in a port's loose queue. -/
def State.storedOn (s : State) (p v : Nat) : Nat :=
  let f := s.port p
  let waiting (g : FPort) : Nat := ((if v = 1 then g.loose1 else if v = 2 then g.loose2 else []).filter fun x => x.from_ = some p).length
  (f.window.filter fun (e : Nat × RxFlit) => e.2.flit.vl = v).length + (f.lane v).length + (s.ports.map fun (e : Nat × FPort) => waiting e.2).foldl (· + ·) 0

/-- The first lane whose CSPENT − R − D does not lie from 0 to M. -/
def State.badLane (s : State) (p m : Nat) (cspent : List Nat) : Option Nat :=
  (upFrom 0 4).find? fun v => decide (m < (2 * 2 ^ 32 + cspent.getD v 0 - (s.port p).retiredOn v - s.storedOn p v) % 2 ^ 32)

/-- AUDIT (08, R206): the four conditions; a failure is ledger 2 for the sequences and ledger 1 for the credits. -/
def execAudit (p : Port) (b : AuditBody) (s : State) : Res :=
  let f := s.port p.val
  .next (if f.st ≠ .up then s
  else
    let s := s.setPort p.val { f with auditSeen := true }
    let e := seqDist b.seqOldest f.rxE
    let tx := seqDist b.seqOldest b.seqTx
    let next := seqDist b.seqOldest b.seqNext
    if tx < e ∨ next < tx ∨ 16384 < next then s.linkLedger p.val 2 none f.rxE b.seqTx
    else
      let m := f.notStored b.seqTx
      match s.badLane p.val m b.cspent with
      | some v => s.linkLedger p.val 1 (some v) (b.cspent.getD v 0) (f.retiredOn v + s.storedOn p.val v)
      | none =>
        let sum := (b.cspent.foldl (· + ·) 0) % 2 ^ 32
        let held := ((upFrom 0 4).map fun v => f.retiredOn v + s.storedOn p.val v).foldl (· + ·) m % 2 ^ 32
        if sum = held then s else s.linkLedger p.val 1 none sum held)

/-- One end's own check at an audit count: credits in use lie within the pool of each lane; an AUDIT of the peer that did not come is counted. -/
def State.auditOwn (s : State) (p : Nat) : State :=
  let f := s.port p
  match (upFrom 0 4).find? fun v => decide (pool v < f.inUse v) with
  | some v => s.linkLedger p 1 (some v) (pool v) (f.inUse v)
  | none =>
    let s := s.setPort p { f with auditDue := true, auditSeen := false, auditSkips := f.auditSkips + b2n (!f.auditSeen) }
    if f.auditSeen then s else s.count .auditSkip (.port p) none

/-- AUDIT_SEND (08, R206): at each multiple of 10^9, every Up port. -/
def execAuditSend (t : Count) (s : State) : Res :=
  let s := s.advance t
  .next (if s.atCount t ∧ t % 1000000000 = 0 then (upFrom 0 16).foldl (fun s p => if (s.port p).st = .up then s.auditOwn p else s) s else s)

/-! ### JOB_STOP (08, R187; 13, R291) -/

/-- JOB_STOP: partitions of the key stop, and each pair of ORIGIN and STOP_TIME is forwarded once, on every Up port with a shaft of the key. Later copies
for the same key are the same stop and stop nothing again (log 44). Discarded in Ethernet mode (09, R226). -/
def execJobStop (p : Port) (b : JobStopBody) (s : State) : Res :=
  .next (if (s.port p.val).st ≠ .up ∨ s.ethMode p.val ∨ s.stopSeen b then s
  else (s.stopKey b.key.toNat (jobStopCause b.reason.toNat b.domain.toNat b.origin.toNat)).flood b true)

/-! ### Ethernet mode (09, R225-R227) -/

/-- A datagram is from the configured peer and well formed (09, R226): its source is the next hop's MAC, the destination IPv6 address, and the
peer's domain and device id (log 82). -/
def State.datagramOk (s : State) (p : Nat) (d : EthDatagram) : Bool :=
  d.frameOk && decide (d.srcMac.toNat = s.mac p 2) && decide (d.srcIp.toNat = s.ip .ethIpDst p) &&
    decide (d.dstMac.toNat = s.mac p 0) && decide (d.dstIp.toNat = s.ip .ethIpSrc p) && decide (d.udpPort.toNat = cf s .ethUdp p 0 15 0) &&
    d.magic = 0xF7E2 && d.version = 1 && decide (1 ≤ d.units) && decide (d.units ≤ 16) && d.units = d.payload.length &&
    decide (d.srcDomain.toNat = cf s .ethPeer p 0 14 13) && decide (d.srcDevid.toNat = cf s .ethPeer p 0 12 0)

/-- One unit of a datagram, whose operand says whether it is a flit or an ordered set (log 94): TIME_MARK, TRAIN, DELAY_REQ, DELAY_RSP and JOB_STOP have no
effect here, as no other ordered set has. -/
def State.ethUnit (s : State) (p : Nat) (ce : Bool) (u : RawUnit) : State :=
  if crcOk u.bytes then s.intactUnit p (u.controlBits = 0xFF) u.bytes ce
  else (s.count .corrupted (.port p) none).canInput (canPort p) 0 1

/-- ETH_DATAGRAM: its units are taken in while the port is Up, trains or resets (08, R203; 09, R227); the unit count is one above the highest UNIT_CNT received. -/
def execEthDatagram (p : Port) (d : EthDatagram) (s : State) : Res :=
  let f := s.port p.val
  .next (if !s.ethMode p.val ∨ f.st = .disabled ∨ f.st = .failed then s
  else if !s.datagramOk p.val d then s.count .ethDrop (.port p.val) none
  else
    let last := (d.unitCnt + d.units) % 2 ^ 24
    let s := s.setPort p.val { f with rxUnits := if unitAbove last f.rxUnits then last else f.rxUnits }
    d.payload.foldl (fun s u => s.ethUnit p.val d.ce u) s)

/-- ETH_LINK_LOSS: loss of PHY link requests a retrain. -/
def execEthLinkLoss (p : Port) (s : State) : Res := .next (if s.ethMode p.val then s.askRetrain p.val else s)

end Sys2Proof.Machine
end

