-- ==== Sys2Proof/Machine/Fabric.lean ====
section
/-! DEFINITION. The commands of the loose class at its destination (09, R219, R220), the injection limiters (09, R222), response timeouts (09, R220)
and the switch of transit entries (09, R211). -/

namespace Sys2Proof.Machine

/-! ### Packets for this module (09, R218-R220) -/

/-- The packet at the head of a port's output queue of its lane is this one, for this module. -/
def State.headIs (s : State) (p : Nat) (k : LoosePkt) : Bool :=
  let v := LooseType.lane k.typ
  match (s.port p).lane v with
  | x :: _ => decide (loosePacket v x.flit = some k) && s.isMe k.dstDomain.toNat k.dstDevid.toNat
  | [] => false

/-- The packet leaves its queue and is retired; what stood behind it moves on. -/
def State.takeHead (s : State) (p : Nat) (k : LoosePkt) (act : State → State) : State :=
  let v := LooseType.lane k.typ
  (act (s.updPort p fun f => (f.popLane v).retire v)).drainLoose p v ((s.port p).lane v).length

/-- LOOSE_DATA: a DATA packet is reassembled into its slot. The passes in the cubes go on to the present cycle first (02, R43). -/
def execLooseData (p : Port) (k : LoosePkt) (s : State) : Res :=
  .next (if k.typ = .data ∧ s.headIs p.val k then s.catchUp.takeHead p.val k fun t => t.takeRequest k none else s)

/-- LOOSE_SET: a SET packet applies one increment. -/
def execLooseSet (p : Port) (k : LoosePkt) (s : State) : Res :=
  .next (if k.typ = .set ∧ s.headIs p.val k then s.catchUp.takeHead p.val k fun t => t.takeRequest k none else s)

/-- DELIVERED: the message completes, and ECHO makes its group back off. -/
def execDelivered (p : Port) (k : LoosePkt) (s : State) : Res :=
  .next (if k.typ = .delivered ∧ s.headIs p.val k then s.takeHead p.val k fun t => t.takeResponse k else s)

/-- CREDIT: a slot credit returns to the core addressed. -/
def execCredit (p : Port) (k : LoosePkt) (s : State) : Res :=
  .next (if k.typ = .credit ∧ s.headIs p.val k then s.takeHead p.val k fun t => t.takeResponse k else s)

/-- LOOSE_TIMEOUT (09, R220): tracked message `i` has waited TMO × 65,536 ns. -/
def execLooseTimeout (i : Nat) (s : State) : Res :=
  .next (match s.loose[i]? with
  | some t => if t.since + 65536 * cf s .fabLooseCfg 0 0 31 20 ≤ s.now then s.linkLost t .linkLostTimeout else s
  | none => s)

/-! ### Limiters (09, R222) -/

/-- The limiter at an interval edge: an interval without a halving adds RATE_INC up to RATE_MAX, which a lowered RATE_MAX also bounds. -/
def Limiter.edge (l : Limiter) (inc max : Nat) : Limiter :=
  let r := Nat.min max (if l.halved then l.rate else l.rate + inc)
  { rate := r, tokens := Nat.min l.tokens r, halved := false }

/-- LIMITER_INTERVAL_EDGE: at each multiple of 2^CC_EXP. A limiter that is not listed stands at RATE_MAX. -/
def execLimiterIntervalEdge (t : Count) (s : State) : Res :=
  let s := s.advance t
  let w := cfg s .fabCcCfg 0 0
  .next (if s.atCount t ∧ t % 2 ^ rf w 31 28 = 0 then
    { s with limiters := s.limiters.map fun (e : Nat × Limiter) => (e.1, e.2.edge (rf w 15 8) (rf w 27 16)) }
  else s)

/-- LIMITER_TOKEN_GAIN: every 1,024 ns each bucket gains RATE tokens up to a depth of RATE; packets that waited leave. -/
def execLimiterTokenGain (t : Count) (s : State) : Res :=
  let s := s.advance t
  .next (if s.atCount t ∧ t % 1024 = 0 then
    { s with limiters := s.limiters.map fun (e : Nat × Limiter) => (e.1, { e.2 with tokens := e.2.rate }) }.catchUp.injectWaiting
  else s)

/-! ### Transit entries (09, R211) -/

/-- A VL0 flit of the port's transit tables waits: in its own output queue under a transit entry, or in another's for one of its transit entries. -/
def State.transitWaits (s : State) (p : Nat) : Bool :=
  let transit (q : Nat) (f : Flit) : Bool := match s.ingress q f with | some w => !rb w 1 | none => false
  ((s.port p).lane 0).any (fun x => transit p x.flit) ||
    (upFrom 0 16).any fun q => match s.forwardTo p q with
      | some (x, _) => transit q x.flit
      | none => false

/-- Entries of a port that no canvas of this module wrote take their next copies; fewer than 4 loose ones in the current copy are not left (09, R211). -/
def State.switchTransit (s : State) (p : Nat) : State :=
  let t := (upFrom 0 64).foldl (fun s e =>
    let s := if rb (cfg s .fabCalc p e) 11 ∨ rb (cfg s .fabCal p e) 11 then s else setCfg s .fabCalc p e (cfg s .fabCal p e)
    if rb (cfg s .fabInc p e) 1 ∨ rb (cfg s .fabIn p e) 1 then s else setCfg s .fabInc p e (cfg s .fabIn p e)) s
  if t.looseEntries p false < 4 then s else t

/-- TRANSIT_SWITCH: at FAB_XSW or later, once no VL0 flit of the old transit tables waits. A count already passed serves for next copies written later too
(log 95). -/
def execTransitSwitch (p : Port) (s : State) : Res :=
  let at_ := (cfg s .fabXswLo p.val 0).toNat + 2 ^ 32 * (cfg s .fabXswHi p.val 0).toNat
  .next (if at_ ≤ s.now ∧ !s.transitWaits p.val then s.switchTransit p.val else s)

end Sys2Proof.Machine
end

