-- ==== Sys2Proof/Machine/Health.lean ====
section
/-! DEFINITION. Canary scores (13, R299-R302), snapshots of the counters (13, R305), and the commands JOB_STOP and CATALOGUE of the management
tree (13, R306, R309). -/

namespace Sys2Proof.Machine

/-! ### Canary scores (13, R299-R302) -/

/-- Parts that have a score. -/
def canParts : Nat := 67

/-- Kind of a part (13, table of parts). -/
def canKind (n : Nat) : Nat := if n < 16 then 0 else if n < 28 then 1 else if n < 46 then 2 else if n < 59 then 3 else 4

/-- 2^(−2^(−HL)) with 32 fraction bits, rounded down, for HL 0 to 20. -/
def decayFactors : List Nat :=
  [2147483648, 3037000499, 3611622602, 3938502375, 4112874773, 4202935003, 4248701964, 4271771996, 4283353945, 4289156690, 4292061009, 4293513906,
   4294240539, 4294603902, 4294785595, 4294876444, 4294921870, 4294944583, 4294955939, 4294961617, 4294964456]

/-- An accumulator decays with the half-life of its input; values are in units of 2^-16. -/
def decayed (hl a : Nat) : Nat := a * decayFactors.getD hl 0 / 2 ^ 32

/-- CANARY_DECAY: once at each multiple of 10^9, before the events of that tick (R301). -/
def execCanaryDecay (t : Count) (s : State) : Res :=
  let s := s.advance t
  .next (if s.atCount t ∧ t % 1000000000 = 0 then
    { s with canAcc := s.canAcc.decay t fun k a => decayed (cf s .canCfg (canKind (k / 4)) (k % 4) 20 16) a }
  else s)

/-- S_n. -/
def State.canScore (s : State) (n : Nat) : Nat :=
  let k := canKind n
  let sum := ((upFrom 0 4).map fun i => cf s .canCfg k i 31 24 * Tab.get 0 s.canAcc.settled (4 * n + i)).foldl (· + ·) 0
  Nat.min 1023 (sum / (16 * 65536))

/-- A latch of a score: its bit, whether it may latch, after the score has gone from `old` to `new`. Every rise to the threshold uses the
leave up, also one that finds the bit latched; a fall below the threshold minus 32 gives it back (R302; log 55). -/
def latch (bit ready : Bool) (thr old new : Nat) : Bool × Bool × Bool :=
  let ready := ready || decide (new + 32 < thr)
  let rises := decide (old < thr) && decide (thr ≤ new)
  let fires := !bit && ready && rises
  (bit || fires, ready && !rises, fires)

/-- A part's score is recomputed; a new latch sends a platform event, and ALARM asserts the alarm line. -/
def State.updateScore (s : State) (n : Nat) : State :=
  let c := s.can n
  let x := s.canScore n
  let thr := cfg s .canThr (canKind n) 0
  let w := latch c.warn c.warnReady (rf thr 9 0) c.score x
  let a := latch c.alarm c.alarmReady (rf thr 25 16) c.score x
  let before := s.alarm
  let c' : Canary := { score := x, warn := w.1, alarm := a.1, warnReady := w.2.1, alarmReady := a.2.1 }
  let s := if c' = c then s else s.updCan n fun _ => c'
  let s := if w.2.2 then s.platform .warn n else s
  let s := if a.2.2 then s.platform .alarm n else s
  s.alarmEdge before

/-- CANARY_SCORE_UPDATE: every 1,024 ns. -/
def execCanaryScoreUpdate (t : Count) (s : State) : Res :=
  let s := s.advance t
  .next (if s.atCount t ∧ t % 1024 = 0 then (upFrom 0 canParts).foldl State.updateScore s else s)

/-- Latched bits of a score are cleared. -/
def State.clearScore (s : State) (n : Nat) (alarm warn : Bool) : State :=
  let before := s.alarm
  (s.updCan n fun c => { c with alarm := c.alarm && !alarm, warn := c.warn && !warn }).alarmEdge before

/-- CANARY_ACK. -/
def execCanaryAck (seq : W32) (n : Fin 67) (s : State) : Res := .next (s.tree seq fun s => (s.clearScore n.val true true, status stOK))

/-! ### Snapshots (13, R305) -/

/-- The snapshot count. -/
def State.snapCount (s : State) : Nat := (cfg s .snapLo 0 0).toNat + 2 ^ 32 * (cfg s .snapHi 0 0).toNat

/-- ARM may be set for a count. -/
def State.snapOk (s : State) (count : Nat) : Bool := s.tb.running && count % 512 = 0 && decide (s.now < count)

/-- SNAPSHOT_COUNT: every counter and every partition's slack is copied, DONE is set and ARM cleared. -/
def execSnapshotCount (t : Count) (s : State) : Res :=
  let s := s.advance t
  .next (if s.atCount t ∧ rb (cfg s .snapCtl 0 0) 1 ∧ s.snapCount = t then
    let s := setCfg s .snapCtl 0 0 1
    { s with shadows := s.counts, parts := s.parts.map fun (e : Nat × Part) => (e.1, { e.2 with slackSnap := e.2.slack }) }
  else s)

/-- SNAPSHOT: the count is written, and ARM is set where R305 lets it be. -/
def execSnapshot (seq : W32) (count : Count) (s : State) : Res :=
  .next (s.tree seq fun s =>
    let s := setCfg (setCfg s .snapLo 0 0 (w32 count)) .snapHi 0 0 (w32 (count / 2 ^ 32))
    if s.snapOk (count % 2 ^ 64) then (setCfg s .snapCtl 0 0 (cfg s .snapCtl 0 0 ||| 2), status stOK) else (s, status stEXTENT))

/-! ### JOB_STOP and CATALOGUE (13, R306, R309) -/

/-- JOB_STOP_COMMAND: one flood with this module as ORIGIN, and the stop of R291. -/
def execJobStopCommand (seq : W32) (key : BitVec 20) (reason : BitVec 8) (s : State) : Res :=
  .next (s.tree seq fun s =>
    ((s.flood (s.ownStop key.toNat reason.toNat) false).stopKey key.toNat (jobStopCause reason.toNat s.domainNo s.devid), status stOK))

/-- CATALOGUE: 1 to 64 entries from a code on; their bytes follow the status (log 14). -/
def execCatalogue (seq : W32) (first : BitVec 12) (n : Nat) (s : State) : Res :=
  .next (s.tree seq fun s =>
    if n = 0 ∨ 64 < n then (s, status stEXTENT)
    else (s, status stOK ++ (upFrom 0 n).flatMap fun i => (Config.catalogueEntry (first + BitVec.ofNat 12 i)).map fun b => b.setWidth 64))

end Sys2Proof.Machine
end

