-- ==== Sys2Proof/Machine/Registers.lean ====
section
/-! DEFINITION. Writes of the setup window (16, R353-R361): the condition that each register's own rule sets on a write, what the write does, and
the access rules around both. Every row that writes a register ends here. -/

namespace Sys2Proof.Machine

/-! ### The write word (00, table "Access codes"; 16, R358) -/

/-- The register lies in a partition's block. -/
def Reg.inPart (r : Reg) : Bool := decide (0x100000 ≤ r.off) && decide (r.off < 0x120000)

/-- S fields of the register are writable now (00, R7). -/
def State.sOpenFor (s : State) (r : Reg) : Bool := if r.inPart then (s.part r.i).sOpen else s.sModule

/-- A field that a write may touch. -/
def Field.takes (f : Field) (open_ : Bool) : Bool :=
  match f.acc with
  | .ro => false
  | .s => open_
  | _ => true

/-- The write as the register's rule sees it: each field that the write may touch as written, any other as it stands, reserved bits zero. -/
def Reg.merge (r : Reg) (open_ : Bool) (old v : W32) : W32 :=
  w32 ((r.fields.map fun f => f.place (f.of (if f.takes open_ then v else old))).foldl (· + ·) 0)

/-- The write would have changed an S field that is not writable. -/
def Reg.blocked (r : Reg) (open_ : Bool) (old v : W32) : Bool := !open_ && r.fields.any fun f => f.acc = .s && f.of old ≠ f.of v

/-- No field of the register may be written in this state. -/
def Reg.shut (r : Reg) (open_ : Bool) : Bool := r.fields.all fun f => !f.takes open_

/-! ### Conditions (16, R358, reason 3) -/

/-- STK_REF (05, R131). -/
def stkRefOk (v : W32) : Bool :=
  let p := 2 ^ rf v 31 28
  decide (13 ≤ rf v 31 28) && decide (rf v 31 28 ≤ 16) && decide (p ≤ 16 * (512 * rf v 27 21)) && decide (512 * rf v 20 14 + 512 * rf v 27 21 ≤ p) &&
    decide (75 ≤ rf v 13 7) && decide (rf v 13 7 ≤ 95)

/-- PT_OWN (12, R267). -/
def State.ownOk (s : State) (v : W32) : Bool :=
  let l : Link := match rf v 30 29 with | 0 => .h0a | 1 => .h0b | 2 => .h1a | _ => .h1b
  let k := s.link l
  decide (rf v 28 24 ≤ 16) && (!rb v 31 || (k.trained && decide (rf v 28 24 ≤ k.vfs) && !k.vfOff.contains (rf v 28 24)))

/-- PT_RINGS: neither range meets that of another partition (12, R267). -/
def State.ringsOk (s : State) (n : Nat) (v : W32) : Bool :=
  (upFrom 0 32).all fun m =>
    let w := cfg s .ptRings m 0
    m = n || (!meets (rf v 31 24, rf v 23 20) (rf w 31 24, rf w 23 20) && !meets (rf v 19 12, rf v 11 8) (rf w 19 12, rf w 11 8))

/-- LOCAL stands in the current or the next copy of an entry (09, R211). -/
def State.calLocal (s : State) (p e : Nat) : Bool := rb (cfg s .fabCalc p e) 11 || rb (cfg s .fabCal p e) 11
def State.inLocal (s : State) (p e : Nat) : Bool := rb (cfg s .fabInc p e) 1 || rb (cfg s .fabIn p e) 1

/-- FAB_CAL (09, R211). -/
def State.calOk (s : State) (p e : Nat) (v : W32) : Bool :=
  decide (rf v 31 30 ≤ 1) && !s.calLocal p e && (rf v 31 30 = 0 || !s.ethMode p) && decide (4 ≤ (setCfg s .fabCal p e v).looseEntries p true)

/-- A current or next entry of the port that is in use names a key index (09, R224). -/
def State.keyNamed (s : State) (p i : Nat) : Bool :=
  let cal (w : W32) : Bool := rf w 31 30 ≠ 0 && rf w 23 18 = i
  let ing (w : W32) : Bool := rf w 31 30 ≠ 0 && rf w 13 8 = i
  (upFrom 0 64).any fun e => cal (cfg s .fabCalc p e) || cal (cfg s .fabCal p e) || ing (cfg s .fabInc p e) || ing (cfg s .fabIn p e)

/-- FAB_KEY (09, R224). -/
def State.keyOk (s : State) (p i : Nat) (v : W32) : Bool :=
  rf v 19 0 ≠ 0 && !s.keyNamed p i && (!rb v 31 || (upFrom 0 64).all fun j => j = i || s.keyAt p j ≠ some (rf v 19 0))

/-- FAB_CC_CFG (09, R222). -/
def ccOk (v : W32) : Bool :=
  decide (9 ≤ rf v 31 28) && rf v 27 16 ≠ 0 && rf v 15 8 ≠ 0 && rf v 7 0 ≠ 0 && decide (rf v 7 0 ≤ rf v 27 16)

/-- The condition that a register's own rule sets on a write. -/
def State.regOk (s : State) (r : Reg) (v : W32) : Bool :=
  match r.kind with
  | .stkRef => stkRefOk v
  | .ptOwn => s.ownOk v
  | .ptRings => s.ringsOk r.i v
  | .ptJobCfg => decide (rf v 31 16 ≤ 32768)
  | .frtCtl => frtCtlOk v
  | .fabCal => s.calOk r.i r.j v
  | .fabIn => rf v 31 30 ≠ 3 && !s.inLocal r.i r.j
  | .fabKey => s.keyOk r.i r.j v
  | .fabLooseCfg => rf v 31 20 ≠ 0 && decide (6 ≤ rf v 19 16) && decide (rf v 19 16 ≤ 13) && rf v 9 0 ≠ 0
  | .fabCcCfg => ccOk v
  | .ethCfg => rf v 25 18 ≠ 0 && decide (1 ≤ rf v 15 11) && decide (rf v 15 11 ≤ 16)
  | .ptWtCfg => rf v 30 16 ≠ 0 && rf v 15 0 ≠ 0
  | .wtTap => !rb (cfg s .wtTap r.i 0) 31 || !rb v 31
  | .wtTapN => !rb (cfg s .wtTap r.i 0) 31 && decide (1 ≤ rf v 31 16) && decide (rf v 31 16 ≤ 4096)
  | .srvClass => decide (1 ≤ rf v 19 3) && decide (rf v 19 3 ≤ 86400)
  | .canCfg => decide (rf v 20 16 ≤ 20)
  | .snapCtl => !rb v 1 || rb (cfg s .snapCtl 0 0) 1 || s.snapOk s.snapCount
  | .tbSyncCfg => s.syncCfgOk v
  | .sqAddrLo | .sqAddrHi | .sqCfg | .cqAddrLo | .cqAddrHi | .cqCfg => s.ringOk r v
  | _ => true

/-! ### Effects -/

/-- The pair takes the staged LO value with the HI value (16, R357). -/
def State.putPair (s : State) (lo hi : RegKind) (i : Nat) (v : W32) : State :=
  let r : Reg := ⟨lo, i, 0⟩
  let s := match Tab.find s.loStage r.off with | some w => setCfg s lo i 0 w | none => s
  setCfg { s with loStage := Tab.erase s.loStage r.off } hi i 0 v

/-- Every limiter stands in the table, at the rate that it has now: a new RATE_MAX takes effect at its next edge (09, R222). -/
def State.listLimiters (s : State) : State :=
  let k := 2 ^ (13 - cf s .fabLooseCfg 0 0 19 16)
  (upFrom 0 4).foldl (fun s d => (upFrom 0 k).foldl (fun s j => s.setLimiter (8192 * d + j) (s.limiter (8192 * d + j))) s) s

/-- A write of a selection register clears its counter, at the offset `c` (13, R304). -/
def State.putSelect (s : State) (r : Reg) (c : Nat) (v : W32) : State :=
  let s := setCfg s r.kind r.i r.j v
  { s with counts := Tab.erase s.counts c }

/-- A write of PT_RINGS: records that wait for the old EVQ ring wait for the new one (12, R284). -/
def State.putRings (s : State) (n : Nat) (v : W32) : State :=
  let old := s.evqRing n
  let t := setCfg s .ptRings n 0 v
  let t := match old with | some q => if t.evqRing n = old then t else t.recallEvq n q | none => t
  t.flushEvq n

/-- What a write that is applied does; `v` is the write word. -/
def State.regPut (s : State) (r : Reg) (v : W32) : State :=
  let i := r.i
  let j := r.j
  match r.kind with
  | .idDev => { s with flash := { s.flash with idDev := v } }
  | .bootPorts => { s with flash := { s.flash with bootPorts := v } }
  | .hostCfg => { s with flash := { s.flash with hostCfg := v &&& 0xF } }
  | .tbCfg => s.putTbCfg v
  | .tbSyncCfg => s.putSyncCfg v
  | .tbPresetLo | .snapLo | .fabXswLo => { s with loStage := Tab.put s.loStage r.off v }
  | .tbPresetHi => s.putPair .tbPresetLo .tbPresetHi 0 v
  | .snapHi => s.putPair .snapLo .snapHi 0 v
  | .fabXswHi =>
    let s := s.putPair .fabXswLo .fabXswHi i v
    if (cfg s .fabXswLo i 0).toNat + 2 ^ 32 * v.toNat ≤ s.now ∧ !s.transitWaits i then s.switchTransit i else s
  | .pwrEvt =>
    { s with power := { s.power with evtDieTrip := s.power.evtDieTrip && !rb v 4, evtOv := s.power.evtOv && !rb v 3,
                                     evtUv := s.power.evtUv && !rb v 2, evtHvil := s.power.evtHvil && !rb v 1 } }
  | .snapCtl => setCfg s .snapCtl 0 0 ((v &&& 2) ||| (cfg s .snapCtl 0 0 &&& 1 &&& ~~~v))
  | .setupErr => if rb v 31 then { s with setupErr := 0 } else s
  | .ptSetupErr => if rb v 31 then s.updPart i fun p => { p with setupErr := 0 } else s
  | .fwStat => if rb v 28 then { s with flash := s.flash.setComp i { s.flash.comp i with reverted := false } } else s
  | .stkRef => s.putCalendar i v
  | .clkMonStat => s.putMonStat i v
  | .canScore => s.clearScore i (rb v 31) (rb v 30)
  | .frtCtl => if 9 ≤ s.startup.stage then s.putFrtCtl i v else setCfg s .frtCtl i 0 (s.frtCtlWord i v)
  | .wtTap =>
    let s := if rb v 31 then s.updPort i fun f => { f with tap := Tap.reset } else s
    setCfg s .wtTap i 0 v
  | .wtTapN => setCfg s .wtTapN i 0 (v &&& 0xFFFF0000)
  | .fabCcCfg => setCfg (if rf v 27 16 = cf s .fabCcCfg 0 0 27 16 then s else s.listLimiters) .fabCcCfg 0 0 v
  | .evsel => s.putSelect r (0x30200 + 0x1000 * i + 8 * j) v
  | .frtEvsel => s.putSelect r (0x100C0 + 0x2000 * i + 8 * j) v
  | .cevsel => s.putSelect r (0x40010 + 0x100 * i + 4 * j) v
  | .ptSlack => if rb v 31 then s.updPart i fun p => { p with slack := slackNone } else s
  | .ptFrec => if j = 15 ∧ rb v 31 then s.updPart i fun p => { p with frec := none } else s
  | .ptRings => s.putRings i v
  | .srvGal => setCfg (if rf v 31 16 = cf s .srvGal i 0 31 16 then s else s.galleryGone i) .srvGal i 0 v
  | .sqAddrLo | .sqAddrHi | .sqCfg | .cqAddrLo | .cqAddrHi | .cqCfg => s.putRing r v
  | k => setCfg s k i j v

/-- PT_FREC_15 holds VALID, which a one clears (13, R293); no other word of the record is written. -/
def Reg.writeFields (r : Reg) (open_ : Bool) : Bool := !r.shut open_ || (r.kind = .ptFrec && r.j = 15)

/-- The write word of a register: the merge of R358, and VALID of the fault record as written. -/
def State.writeWord (s : State) (r : Reg) (v : W32) : W32 :=
  if r.kind = .ptFrec then v else r.merge (s.sOpenFor r) (s.regValue r) v

/-- A caller may write a register at all: the tree any, a host those that are not the tree's (16, R358). -/
def mayWrite (c : Caller) (k : RegKind) : Bool := match c with | .tree => true | .host _ => !k.treeOnly

/-- A 32-bit write of a register (16, R356, R358). -/
def State.writeReg (s : State) (c : Caller) (off : Nat) (v : W32) : State :=
  if !s.sees c off then s
  else match Reg.at off with
    | none => s
    | some r =>
      let open_ := s.sOpenFor r
      let old := s.regValue r
      if !mayWrite c r.kind then s.setupFault c 4 off
      else if !r.writeFields open_ then (if r.blocked open_ old v then s.setupFault c 2 off else s)
      else
        let w := s.writeWord r v
        if !s.regOk r w then s.setupFault c 3 off
        else if r.blocked open_ old v then (s.regPut r w).setupFault c 2 off
        else s.regPut r w

/-- A write of `n` bytes at an offset: 32 bits, or 64 bits as two registers, the lower first. No narrower or unaligned write is applied. -/
def State.writeAccess (s : State) (c : Caller) (off n : Nat) (v : Word) : State :=
  if c = .tree ∧ !s.managed then s
  else if n = 4 ∧ off % 4 = 0 then s.writeReg c off (v.setWidth 32)
  else if n = 8 ∧ off % 8 = 0 then (s.writeReg c off (v.setWidth 32)).writeReg c (off + 4) (BitVec.ofNat 32 (v.toNat / 2 ^ 32))
  else if s.sees c (off - off % 4) then s.setupFault c 1 (off - off % 4)
  else s

/-- A 32-bit write of a named register. -/
def State.writeNamed (s : State) (c : Caller) (k : RegKind) (i j : Nat) (v : W32) : State :=
  let r : Reg := ⟨k, i, j⟩
  s.writeAccess c r.off 4 (v.setWidth 64)

/-! ### The rows -/

/-- REGISTER_WRITE. -/
def execRegisterWrite (f : Caller) (off bytes : Nat) (v : Word) (s : State) : Res := .next (s.writeAccess f off bytes v)

/-- REG_WRITE (13, R309). -/
def execRegWrite (seq : W32) (off bytes : Nat) (v : Word) (s : State) : Res :=
  .next (s.tree seq fun s => (s.writeAccess .tree off bytes v, status stOK))

/-- REG_READ (13, R309): the value, with no side effect. -/
def execRegRead (seq : W32) (off bytes : Nat) (s : State) : Res :=
  .next (s.tree seq fun s => (s, [BitVec.ofNat 64 (s.readAccess .tree off bytes)]))

/-- ID_DEV_WRITE (16, R359). -/
def execIdDevWrite (v : W32) (s : State) : Res := .next (s.writeNamed .tree .idDev 0 0 v)

/-- PT_SLACK_CLR (01, R24): a write of PT_SLACK with CLR set. -/
def execPtSlackClr (f : Caller) (pt : Pt) (s : State) : Res := .next (s.writeNamed f .ptSlack pt.val 0 0x80000000)

/-- SETUP_ERR_CLR: a write of SETUP_ERR, or of a partition's PT_SETUP_ERR, with CLR set. -/
def execSetupErrClr (f : Caller) (pt : Option Pt) (s : State) : Res :=
  .next (match pt with
    | none => s.writeNamed f .setupErr 0 0 0x80000000
    | some n => s.writeNamed f .ptSetupErr n.val 0 0x80000000)

/-- A register held as the LO half of a pair that is written (16, R357). -/
def isLo (k : RegKind) : Bool := k = .tbPresetLo || k = .snapLo || k = .fabXswLo

/-- A selection register (13, R304). -/
def isSelect (k : RegKind) : Bool := k = .evsel || k = .frtEvsel || k = .cevsel

/-- LO_STAGE_WRITE: the tree's write of the LO half of a pair. -/
def execLoStageWrite (off : Nat) (v : W32) (s : State) : Res :=
  .next (match Reg.at off with
    | some r => if isLo r.kind then s.writeAccess .tree off 4 (v.setWidth 64) else s
    | none => s)

/-- EVENT_SELECT_WRITE: the tree's write of a selection register. -/
def execEventSelectWrite (off : Nat) (v : W32) (s : State) : Res :=
  .next (match Reg.at off with
    | some r => if isSelect r.kind then s.writeAccess .tree off 4 (v.setWidth 64) else s
    | none => s)

/-- SNAP_ARM: the tree's write of SNAP_CTL with ARM set. -/
def execSnapArm (v : W32) (s : State) : Res := .next (if rb v 1 then s.writeNamed .tree .snapCtl 0 0 v else s)

/-- FAULT_RECORD_CLEAR: a write of one to VALID. -/
def execFaultRecordClear (f : Caller) (pt : Pt) (s : State) : Res := .next (s.writeNamed f .ptFrec pt.val 15 0x80000000)

/-- RING_ENABLE: a write of SQ_CFG or CQ_CFG with EN set. -/
def execRingEnable (f : Caller) (q : RingNo) (submission : Bool) (v : W32) (s : State) : Res :=
  .next (if rb v 31 then s.writeNamed f (if submission then .sqCfg else .cqCfg) q.val 0 v else s)

/-- RING_DISABLE: a write of SQ_CFG or CQ_CFG with EN clear. -/
def execRingDisable (f : Caller) (q : RingNo) (submission : Bool) (v : W32) (s : State) : Res :=
  .next (if rb v 31 then s else s.writeNamed f (if submission then .sqCfg else .cqCfg) q.val 0 v)

/-- TB_SYNC_ARM (15, R348): the tree's write of TB_SYNC_CFG that sets ARM. -/
def execTbSyncArm (v : W32) (s : State) : Res := .next (if rb v 31 then s.writeNamed .tree .tbSyncCfg 0 0 v else s)

/-- TB_MASTER_SET (14, R316): the tree's write of TB_CFG that sets MASTER. -/
def execTbMasterSet (v : W32) (s : State) : Res := .next (if rb v 31 then s.writeNamed .tree .tbCfg 0 0 v else s)

/-- PORT_ENABLE (08, R205): the tree's write of FRT_CTL that sets EN of a Disabled port. -/
def execPortEnable (p : Port) (v : W32) (s : State) : Res :=
  .next (if rb v 0 ∧ (s.port p.val).st = .disabled then s.writeNamed .tree .frtCtl p.val 0 v else s)

/-- PORT_DISABLE (08, R204): the tree's write of FRT_CTL that clears EN. -/
def execPortDisable (p : Port) (v : W32) (s : State) : Res := .next (if rb v 0 then s else s.writeNamed .tree .frtCtl p.val 0 v)

/-- RESET_GO (08, R200): the tree's write of FRT_CTL with RESET_GO set. -/
def execResetGo (p : Port) (v : W32) (s : State) : Res := .next (if rb v 31 then s.writeNamed .tree .frtCtl p.val 0 v else s)

/-- HIST_CLR (07, R180): the tree's write of CLK_MON_STAT with HIST_CLR set. -/
def execHistClr (d : Dom) (v : W32) (s : State) : Res := .next (if rb v 20 then s.writeNamed .tree .clkMonStat d.val 0 v else s)

end Sys2Proof.Machine
end

