-- ==== Sys2Proof/Machine/Firmware.lean ====
section
/-! DEFINITION. Firmware update, activation, confirmation and revert (14, R320-R329), and attestation (14, R330). Command and completion codes of
PLDM and SPDM are those of their standards (PRESUMED, log 24). -/

namespace Sys2Proof.Machine

/-! ### Paths (14, R320, R330) -/

/-- Number of a management path. -/
def pathNo : MgmtPath → Nat
  | .ma => 0
  | .mb => 1
  | .vdm l => 2 + l.ix
  | .doe l => 6 + l.ix

/-- A path that PLDM uses reaches a controller that answers: MA, MB, or VDM of a trained host link. -/
def State.pldmPath (s : State) (m : MgmtPath) : Bool :=
  s.managed && (match m with | .ma | .mb => true | .vdm l => (s.link l).trained | .doe _ => false)

/-- The same for SPDM, which the DOE mailboxes carry too. -/
def State.spdmPath (s : State) (m : MgmtPath) : Bool :=
  s.managed && (match m with | .ma | .mb => true | .vdm l | .doe l => (s.link l).trained)

/-- A PLDM command: an answer of words, to a command that the module takes on its path. -/
def State.pldm (s : State) (m : MgmtPath) (cmd : Nat) (run : State → State × List Nat × List Byte) : State :=
  if s.pldmPath m then
    let r := run s
    r.1.emit (.pldm (some m) cmd r.2.1 r.2.2)
  else s

/-- A request or report of the module to its update agent. -/
def State.toAgent (s : State) (cmd : Nat) (words : List Nat) : State := s.emit (.pldm none cmd words [])

/-! ### Codes (DSP0267; PRESUMED, log 24) -/

def ccSuccess : Nat := 0x00
def ccNotInUpdate : Nat := 0x80
def ccInUpdate : Nat := 0x81
def ccInvalidState : Nat := 0x84

/-- Results of an update (14, table "Update results"). -/
def upBlockCrc : Nat := 1
def upFormat : Nat := 2
def upPart : Nat := 3
def upComponent : Nat := 4
def upKeyRevoked : Nat := 5
def upBase : Nat := 6
def upVersion : Nat := 7
def upUnconfirmed : Nat := 8
def upSize : Nat := 9
def upRecord : Nat := 10
def upDigest : Nat := 11
def upSignature : Nat := 12
def upAborted : Nat := 13

/-! ### Blocks (14, R321) -/

def blockBytes : Nat := 65536

/-- The CRC in a block's last four bytes is right. -/
def blockOk (b : List Byte) : Bool := b.length = blockBytes && leAt b 65532 4 = crc32c (b.take 65532)

/-- Slot size of a component in bytes (14, table of components). -/
def slotSize (c : Nat) : Nat := 1048576 * (match c with | 1 => 32 | 2 => 16 | 3 => 4 | _ => 8)

/-- Bytes `lo` up to `hi` of a block are zero. -/
def zeros (b : List Byte) (lo hi : Nat) : Bool := (slice b lo (hi - lo)).all (· = 0)

/-- Block k is requested: in one request when the agent's transfer size allows it, otherwise in pieces (14, R323). -/
def State.requestBlock (s : State) (max k : Nat) : State :=
  let size := Nat.min blockBytes (Nat.max 32 max)
  (upFrom 0 (ceilDiv blockBytes size)).foldl (fun s i =>
    s.toAgent 0x15 [k * blockBytes + i * size, Nat.min size (blockBytes - i * size)]) s

/-- The nine checks of R322 on block 0 for a component; `size` is the PLDM component image size. -/
def State.headerCheck (s : State) (c size : Nat) (b : List Byte) : Option Nat :=
  let cur := s.flash.comp c
  let comp := leAt b 0x06 2
  let blocks := leAt b 0x84 4
  let newSize := leAt b 0x80 4
  firstBad [
    badIf (!blockOk b) upBlockCrc,
    badIf (leAt b 0 4 ≠ 0x44574642 || leAt b 4 2 ≠ 1 || leAt b 0x8A 1 / 4 ≠ 0 || !zeros b 0x8B 0x100 || !zeros b 0x160 0x200 || !zeros b 0x1413 65532)
      upFormat,
    badIf (leAt b 0x08 4 ≠ 0x880) upPart,
    badIf (comp = 0 || decide (4 < comp) || comp ≠ c || (comp ≠ 3 && leAt b 0x0C 4 ≠ 0)) upComponent,
    badIf (s.flash.keyRev.getLsbD (leAt b 0x8A 1 % 4)) upKeyRevoked,
    badIf cur.unconf upUnconfirmed,
    badIf (leAt b 0x18 8 ≠ cur.running.version || slice b 0x20 48 ≠ sha384 cur.running.bytes) upBase,
    badIf (decide (leAt b 0x10 8 ≤ cur.running.version)) upVersion,
    badIf (newSize = 0 || decide (slotSize c < newSize) || decide (blocks < 2) || decide (4096 < blocks) || size ≠ blocks * blockBytes) upSize]

/-! ### Records (14, R323) -/

/-- Bytes that the records of a block produce, from position `p` of `body` on; `none` when one of them is not allowed. -/
def records (base body : List Byte) : Nat → Nat → Option (List Byte)
  | 0, _ => none
  | k + 1, p =>
    if body.length < p + 8 then (if (body.drop p).all (· = 0) then some [] else none)
    else
      let h := leAt body p 8
      let op := fld h 63 56
      let len := fld h 55 32
      if fld h 31 0 ≠ 0 then none
      else match op with
        | 0 => if len = 0 ∧ (body.drop (p + 8)).all (· = 0) then some [] else none
        | 1 =>
          let from_ := leAt body (p + 8) 8
          if len = 0 ∨ body.length < p + 16 ∨ base.length < from_ + len then none
          else (records base body k (p + 16)).map fun t => slice base from_ len ++ t
        | 2 =>
          let pad := 8 * ceilDiv len 8
          if len = 0 ∨ body.length < p + 8 + pad then none else (records base body k (p + 8 + pad)).map fun t => slice body (p + 8) len ++ t
        | 3 => if len = 0 then none else (records base body k (p + 8)).map fun t => List.replicate len 0 ++ t
        | _ => none

/-- Records of a block: at most 8,192 of them fit. -/
def blockRecords (base b : List Byte) : Option (List Byte) := records base (b.take 65532) 8193 0

/-! ### An update (14, R320-R324) -/

/-- The transfer of a component ends with a result, which the agent hears; the rebuild slot is discarded. -/
def State.endTransfer (s : State) (u : Update) (c result cmd : Nat) : State :=
  let s := { s with update := some { u with component := none, next := 0, header := [], out := [] },
                    flash := s.flash.setComp c { s.flash.comp c with lastResult := result } }
  s.toAgent cmd [if result = 0 then 0 else 0x70 + result]

/-- QUERY_DEVICE_IDENTIFIERS. -/
def execQueryDeviceIdentifiers (m : MgmtPath) (s : State) : Res := .next (s.pldm m 0x01 fun s => (s, [ccSuccess], Config.pldmBytes 0x01))

/-- GET_FIRMWARE_PARAMETERS: the running and the pending version of each component. -/
def execGetFirmwareParameters (m : MgmtPath) (s : State) : Res :=
  .next (s.pldm m 0x02 fun s =>
    (s, ccSuccess :: (upFrom 1 4).flatMap fun c =>
      let x := s.flash.comp c
      [x.running.version, (x.pending.map (·.version)).getD 0], Config.pldmBytes 0x02))

/-- REQUEST_UPDATE: the module accepts one update at a time. -/
def execRequestUpdate (m : MgmtPath) (maxTransfer : Nat) (s : State) : Res :=
  .next (s.pldm m 0x10 fun s =>
    if s.update.isSome then (s, [ccInUpdate], [])
    else ({ s with update := some { maxTransfer := maxTransfer, tabled := false, component := none, imageSize := 0, next := 0, blocks := 0, retries := 0, header := [], out := [] } },
      [ccSuccess], []))

/-- PASS_COMPONENT_TABLE: after it components may be updated. -/
def execPassComponentTable (m : MgmtPath) (_comps : List Nat) (s : State) : Res :=
  .next (s.pldm m 0x13 fun s =>
    match s.update with
    | none => (s, [ccNotInUpdate], [])
    | some u => if u.component.isSome then (s, [ccInvalidState], []) else ({ s with update := some { u with tabled := true } }, [ccSuccess], []))

/-- UPDATE_COMPONENT, once the component table is passed: block 0 alone is requested first. -/
def execUpdateComponent (m : MgmtPath) (comp imageSize : Nat) (s : State) : Res :=
  let asked : Bool := match s.update with | some u => u.tabled && u.component.isNone | none => false
  let t := s.pldm m 0x14 fun s =>
    match s.update with
    | none => (s, [ccNotInUpdate], [])
    | some u =>
      if !u.tabled ∨ u.component.isSome then (s, [ccInvalidState], [])
      else ({ s with update := some { u with component := some comp, imageSize := imageSize, next := 0, retries := 0, header := [], out := [] } }, [ccSuccess], [])
  .next (match s.update with
    | some u => if s.pldmPath m ∧ asked then t.requestBlock u.maxTransfer 0 else t
    | none => t)

/-- FIRMWARE_HEADER_BLOCK: block 0 and its nine checks. A pending image of the component gives up the rebuild slot. -/
def execFirmwareHeaderBlock (bytes : List Byte) (s : State) : Res :=
  .next (match s.update with
    | some u =>
      match u.component with
      | some c =>
        if u.next ≠ 0 ∨ !s.managed then s
        else match s.headerCheck c u.imageSize bytes with
          | some r => s.endTransfer u c r 0x16
          | none =>
            let s := { s with update := some { u with next := 1, blocks := leAt bytes 0x84 4, retries := 0, header := bytes, out := [] },
                              flash := s.flash.setComp c { s.flash.comp c with pending := none, activated := false } }
            s.requestBlock u.maxTransfer 1
      | none => s
    | none => s)

/-- The rebuilt image of an update. -/
def Update.image (u : Update) (out : List Byte) : Image :=
  { version := leAt u.header 0x10 8, timingRev := leAt u.header 0x0C 4, settingsFmt := leAt u.header 0x88 2, bytes := out }

/-- Both signatures verify over header bytes 0x00 to 0xFF with the named key pair (14, R324). -/
def Update.signed (u : Update) : Bool :=
  let key := leAt u.header 0x8A 1 % 4
  let head := slice u.header 0 256
  Config.verifies 0 key head (slice u.header 0x100 96) && Config.verifies 1 key head (slice u.header 0x200 4627)

/-- The last block has been applied: the transfer is complete, and the image is verified (14, R324). -/
def State.finishImage (s : State) (u : Update) (c : Nat) (out : List Byte) : State :=
  let s := s.toAgent 0x16 [0]
  if sha384 out ≠ slice u.header 0x50 48 then s.endTransfer u c upDigest 0x17
  else if !u.signed then s.endTransfer u c upSignature 0x17
  else
    let s := { s with flash := s.flash.setComp c { s.flash.comp c with pending := some (u.image out), activated := false } }
    (s.endTransfer u c 0 0x17).toAgent 0x18 [0]

/-- FIRMWARE_BLOCK: the block's CRC, its records, and after the last one the checks of R324. -/
def execFirmwareBlock (bytes : List Byte) (s : State) : Res :=
  .next (match s.update with
    | some u =>
      match u.component with
      | some c =>
        if u.next = 0 ∨ !s.managed then s
        else if !blockOk bytes then
          (if 3 ≤ u.retries then s.endTransfer u c upBlockCrc 0x16
           else { s with update := some { u with retries := u.retries + 1 } }.requestBlock u.maxTransfer u.next)
        else
          let size := leAt u.header 0x80 4
          match blockRecords (s.flash.comp c).running.bytes bytes with
          | none => s.endTransfer u c upRecord 0x16
          | some add =>
            let out := u.out ++ add
            let last := decide (u.blocks ≤ u.next + 1)
            if size < out.length ∨ (last ∧ out.length ≠ size) then s.endTransfer u c upRecord 0x16
            else if last then s.finishImage u c out
            else { s with update := some { u with next := u.next + 1, retries := 0, out := out } }.requestBlock u.maxTransfer (u.next + 1)
      | none => s
    | none => s)

/-- GET_STATUS: 0 idle, 1 waiting for the component table, 2 ready for a transfer, 3 in a transfer, with the component's last result. -/
def execGetStatus (m : MgmtPath) (s : State) : Res :=
  .next (s.pldm m 0x1B fun s =>
    match s.update with
    | none => (s, [ccSuccess, 0], [])
    | some u => match u.component with
      | none => (s, [ccSuccess, if u.tabled then 2 else 1], [])
      | some c => (s, [ccSuccess, 3, (s.flash.comp c).lastResult], []))

/-- CANCEL_UPDATE_COMPONENT: the transfer ends with ABORTED. -/
def execCancelUpdateComponent (m : MgmtPath) (s : State) : Res :=
  .next (s.pldm m 0x1C fun s =>
    match s.update with
    | none => (s, [ccNotInUpdate], [])
    | some u => match u.component with
      | none => (s, [ccInvalidState], [])
      | some c =>
        ({ s with update := some { u with component := none, next := 0, header := [], out := [] },
                  flash := s.flash.setComp c { s.flash.comp c with lastResult := upAborted } }, [ccSuccess], []))

/-- CANCEL_UPDATE. -/
def execCancelUpdate (m : MgmtPath) (s : State) : Res :=
  .next (s.pldm m 0x1D fun s => if s.update.isNone then (s, [ccNotInUpdate], []) else (s.abortUpdate, [ccSuccess], []))

/-! ### Activation, confirmation, revert (14, R325-R328) -/

/-- The headframe controllers restart one after the other: E1 takes over, every event not acknowledged is repeated, and a transfer under way ends with
ABORTED (13, R307; 14, R325, R329). -/
def State.restartHeadframes (s : State) : State :=
  let s := s.abortUpdate
  if s.hf.e0Up ∧ s.hf.e1Up then
    let s := { s with hf := { s.hf with primaryE1 := true } }
    (s.hf.events.foldl (fun s e => s.emit (.platform e)) s).platform .takeover 1
  else s

/-- The pending headframe image starts: a new settings format converts the settings into a new area (14, R326). -/
def State.startHeadframe (s : State) : State :=
  let c := s.flash.fw1
  match c.pending with
  | none => s
  | some i =>
    let f := { s.flash with fw1 := { c with activated := true }.start }
    let f := if i.settingsFmt = c.running.settingsFmt then f
      else { f with settingsOld := f.settings, settings := Config.convertSettings i.settingsFmt f.settings }
    { s with flash := f }.restartHeadframes

/-- A pending image is to start at the next module or cold reset. -/
def FwComp.activate (c : FwComp) : FwComp := if c.pending.isSome then { c with activated := true } else c

/-- ACTIVATE_FIRMWARE ends the update: the headframe image starts at once, the others at the next reset. -/
def execActivateFirmware (m : MgmtPath) (s : State) : Res :=
  .next (s.pldm m 0x1A fun s =>
    match s.update with
    | none => (s, [ccNotInUpdate], [])
    | some u =>
      if u.component.isSome then (s, [ccInvalidState], [])
      else
        let f := s.flash
        let s := { s with update := none, flash := { f with fw2 := f.fw2.activate, fw3 := f.fw3.activate, fw4 := f.fw4.activate } }
        (s.startHeadframe, [ccSuccess], []))

/-- A mask names a component by the bit of its code. -/
def named (mask : BitVec 5) (c : Nat) : Bool := mask.getLsbD c

/-- An unconfirmed component is confirmed: FAILS clears and the pentimento slot is free. -/
def FwComp.confirm (c : FwComp) : FwComp := if c.unconf then { c with unconf := false, fails := 0, pent := none } else c

/-- FW_CONFIRM. -/
def execFwConfirm (m : MgmtPath) (mask : BitVec 5) (s : State) : Res :=
  .next (s.pldm m 0x3F01 fun s =>
    let f := s.flash
    let freed := named mask 1 && f.fw1.unconf
    let f := (upFrom 1 4).foldl (fun f c => if named mask c then f.setComp c (f.comp c).confirm else f) f
    ({ s with flash := if freed then { f with settingsOld := [] } else f }, [ccSuccess], []))

/-- One component goes back to its pentimento image, the headframe with its settings area (14, R326, R328). -/
def Flash.revertComp (f : Flash) (c : Nat) : Flash :=
  let x := f.comp c
  let g := f.setComp c x.revert
  if c = 1 ∧ (x.pent.map (·.settingsFmt)).getD x.running.settingsFmt ≠ x.running.settingsFmt then
    { g with settings := f.settingsOld, settingsOld := [] }
  else g

/-- Components revert: each sends a platform event, the headframe controllers restart, and any other component takes a module reset. -/
def State.revertComps (s : State) (cs : List Nat) : State :=
  let s := cs.foldl (fun s c => { s with flash := s.flash.revertComp c }.platform .reverted c) s
  let s := if cs.contains 1 then s.restartHeadframes else s
  if cs.any fun c => decide (2 ≤ c) then s.moduleReset 2 else s

/-- FW_REVERT: on MA and MB only. -/
def execFwRevert (m : MgmtPath) (mask : BitVec 5) (s : State) : Res :=
  .next (if m = .ma ∨ m = .mb then
    let cs := (upFrom 1 4).filter fun c => named mask c && (s.flash.comp c).unconf
    let t := s.pldm m 0x3F02 fun s => (s, [ccSuccess], [])
    if s.managed then t.revertComps cs else t
  else s)

/-- The boot-good point of a component falls in the start-up step that runs; that of the headframe also after an activation. -/
def State.bootPoint (s : State) (c : Nat) : Bool :=
  match c with
  | 1 => s.flash.fw1.unconf || s.startup.stage = 1
  | 2 | 3 => s.stepRuns && s.startup.stage = 8
  | 4 => s.stepRuns && s.startup.stage = 9
  | _ => false

/-- BOOT_GOOD_MISS: a failed boot of an unconfirmed image, the third of which reverts it; a confirmed image stops start-up. -/
def execBootGoodMiss (comp : Nat) (s : State) : Res :=
  .next (if !s.bootPoint comp then s
    else
      let x := s.flash.comp comp
      if !x.unconf then s.startupStop 0x7F 6
      else if 3 ≤ x.fails + 1 then s.revertComps [comp]
      else
        let s := { s with flash := s.flash.setComp comp { x with fails := x.fails + 1 } }
        if comp = 1 then s else s.moduleReset 1)

/-! ### Attestation (14, R330) -/

def State.spdmOf (s : State) (m : MgmtPath) : Spdm := Tab.get Spdm.reset s.spdm (pathNo m)

/-- An SPDM request: answered when the exchange has come far enough, otherwise with ERROR (0x7F), UnexpectedRequest. -/
def State.spdmRow (s : State) (m : MgmtPath) (code : Nat) (ready : Spdm → Bool) (next : Spdm → Spdm) (payload : List Byte) : State :=
  if !s.spdmPath m then s
  else
    let x := s.spdmOf m
    if ready x then { s with spdm := Tab.put s.spdm (pathNo m) (next x) }.emit (.spdm m code payload)
    else s.emit (.spdm m 0x7F [0x04])

/-- VERSION: one entry, 1.3. -/
def spdmVersion : List Byte := [0x00, 0x01, 0x00, 0x13]

/-- CAPABILITIES: CERT_CAP, CHAL_CAP and MEAS_CAP with signature; no other flag, but for CACHE_CAP, MEAS_FRESH_CAP and ALIAS_CERT_CAP, of which R330 says
nothing. CTExponent and the transfer sizes are free values (log 7). -/
def spdmCapabilities : List Byte :=
  let free := (Config.spdmBytes 0xE1 []) ++ List.replicate 10 (0 : Byte)
  [0x00, free.getD 0 0, 0x00, 0x00] ++ [0x16 ||| (free.getD 1 0 &&& 0x21), 0x00, free.getD 1 0 &&& 0x04, 0x00] ++ slice free 2 8

/-- ALGORITHMS: DMTF measurement blocks hashed with SHA-384, ECDSA on P-384, SHA-384; no extended algorithm. -/
def spdmAlgorithms : List Byte :=
  leBytes 2 36 ++ [0x01, (Config.spdmBytes 0xE3 []).getD 0 0] ++ leBytes 4 0x04 ++ leBytes 4 0x80 ++ leBytes 4 0x02 ++ List.replicate 16 0

/-- GET_VERSION begins the exchange. -/
def execGetVersion (m : MgmtPath) (s : State) : Res :=
  .next (s.spdmRow m 0x84 (fun _ => true) (fun _ => { Spdm.reset with versioned := true }) spdmVersion)

/-- GET_CAPABILITIES. -/
def execGetCapabilities (m : MgmtPath) (s : State) : Res :=
  .next (s.spdmRow m 0xE1 (·.versioned) (fun x => { x with capable := true }) spdmCapabilities)

/-- NEGOTIATE_ALGORITHMS. -/
def execNegotiateAlgorithms (m : MgmtPath) (s : State) : Res :=
  .next (s.spdmRow m 0xE3 (·.capable) (fun x => { x with negotiated := true }) spdmAlgorithms)

/-- GET_DIGESTS. -/
def execGetDigests (m : MgmtPath) (s : State) : Res := .next (s.spdmRow m 0x81 (·.negotiated) id (Config.spdmBytes 0x81 []))

/-- GET_CERTIFICATE. -/
def execGetCertificate (m : MgmtPath) (offset length : Nat) (s : State) : Res :=
  .next (s.spdmRow m 0x82 (·.negotiated) id (Config.spdmBytes 0x82 [offset, length]))

/-- CHALLENGE. -/
def execChallenge (m : MgmtPath) (nonce : List Byte) (s : State) : Res :=
  .next (s.spdmRow m 0x83 (·.negotiated) id (Config.spdmBytes 0x83 (nonce.map (·.toNat))))

/-- A measurement (14, table "Measurement indices"): of the running images, never of a pending one. -/
def State.measurement (s : State) (i : Nat) : List Byte :=
  let f := s.flash
  match i with
  | 1 => Config.spdmBytes 0xE0 [1]
  | 2 | 3 | 4 | 5 => sha384 (f.comp (i - 1)).running.bytes
  | 6 => (upFrom 1 4).flatMap fun c =>
      let x := f.comp c
      leBytes 8 x.running.version ++ [BitVec.ofNat 8 (b2n x.unconf + 2 * b2n x.pent.isSome + 4 * b2n x.pending.isSome)]
  | 7 => sha384 (f.settings ++ leBytes 4 f.hostCfg.toNat ++ leBytes 4 f.bootPorts.toNat)
  | _ => []

/-- GET_MEASUREMENTS: index 0 asks for the number of blocks, 0xFF for all of them; the signature follows. -/
def execGetMeasurements (m : MgmtPath) (index : Nat) (nonce : List Byte) (s : State) : Res :=
  let blocks : Option (List Byte) :=
    if index = 0 then some [7]
    else if index = 0xFF then some ((upFrom 1 7).flatMap s.measurement)
    else if index ≤ 7 then some (s.measurement index)
    else none
  .next (match blocks with
    | some b => s.spdmRow m 0xE0 (·.negotiated) id (b ++ Config.spdmBytes 0xE0 (index :: nonce.map (·.toNat)))
    | none => if s.spdmPath m then s.emit (.spdm m 0x7F [0x01]) else s)

end Sys2Proof.Machine
end

