-- ==== Sys2Proof/Machine/Dispatch.lean ====
section
/-! DEFINITION. Which meaning each command has. -/

namespace Sys2Proof.Machine

/-- The effect of one command on everything but the queue. -/
def exec (i : Instr) (s : State) : Host.Outcome State Fault Refusal :=
  match i with
  | .coldReset => Sys2Proof.Machine.execColdReset s
  | .standbyLoss => Sys2Proof.Machine.execStandbyLoss s
  | .mainBusReturn vbus => Sys2Proof.Machine.execMainBusReturn vbus s
  | .mainBusLoss => Sys2Proof.Machine.execMainBusLoss s
  | .converterStop e vbus => Sys2Proof.Machine.execConverterStop e vbus s
  | .hvilOpen => Sys2Proof.Machine.execHvilOpen s
  | .prechargeBypassClose vbus => Sys2Proof.Machine.execPrechargeBypassClose vbus s
  | .dieTrip r => Sys2Proof.Machine.execDieTrip r s
  | .startupStepComplete geo => Sys2Proof.Machine.execStartupStepComplete geo s
  | .startupStepLimit part selfTest e1 => Sys2Proof.Machine.execStartupStepLimit part selfTest e1 s
  | .moduleReset seq => Sys2Proof.Machine.execModuleReset seq s
  | .perstAssert l => Sys2Proof.Machine.execPerstAssert l s
  | .perstRelease l => Sys2Proof.Machine.execPerstRelease l s
  | .flr f => Sys2Proof.Machine.execFlr f s
  | .vfEnableClear f => Sys2Proof.Machine.execVfEnableClear f s
  | .hostLinkDown l => Sys2Proof.Machine.execHostLinkDown l s
  | .headframeTakeover => Sys2Proof.Machine.execHeadframeTakeover s
  | .platformEventRepeat acked => Sys2Proof.Machine.execPlatformEventRepeat acked s
  | .accumulatorSave => Sys2Proof.Machine.execAccumulatorSave s
  | .tbRefLoss => Sys2Proof.Machine.execTbRefLoss s
  | .tbSyncEdge heldNs => Sys2Proof.Machine.execTbSyncEdge heldNs s
  | .tbSyncPulse t => Sys2Proof.Machine.execTbSyncPulse t s
  | .tbSyncArm v => Sys2Proof.Machine.execTbSyncArm v s
  | .tbMasterSet v => Sys2Proof.Machine.execTbMasterSet v s
  | .timeMarkSend t => Sys2Proof.Machine.execTimeMarkSend t s
  | .timeMark p txTime16 arrival16 locked stratum master => Sys2Proof.Machine.execTimeMark p txTime16 arrival16 locked stratum master s
  | .timebaseUnlock => Sys2Proof.Machine.execTimebaseUnlock s
  | .timingPortFailover => Sys2Proof.Machine.execTimingPortFailover s
  | .beatEdge pt t => Sys2Proof.Machine.execBeatEdge pt t s
  | .lampAudit a => Sys2Proof.Machine.execLampAudit a s
  | .opAnnounce seq target count => Sys2Proof.Machine.execOpAnnounce seq target count s
  | .railRaiseStart t => Sys2Proof.Machine.execRailRaiseStart t s
  | .opChangeCount t => Sys2Proof.Machine.execOpChangeCount t s
  | .railSlewDone t => Sys2Proof.Machine.execRailSlewDone t s
  | .hold seq pt count => Sys2Proof.Machine.execHold seq pt count s
  | .holdEntry pt => Sys2Proof.Machine.execHoldEntry pt s
  | .release seq pt count => Sys2Proof.Machine.execRelease seq pt count s
  | .releaseCount pt t => Sys2Proof.Machine.execReleaseCount pt t s
  | .gateOpen seq pt count => Sys2Proof.Machine.execGateOpen seq pt count s
  | .startCount pt t => Sys2Proof.Machine.execStartCount pt t s
  | .startAbort seq pt => Sys2Proof.Machine.execStartAbort seq pt s
  | .gateTimeout pt t => Sys2Proof.Machine.execGateTimeout pt t s
  | .headStart c => Sys2Proof.Machine.execHeadStart c s
  | .portTableSwitch p pt => Sys2Proof.Machine.execPortTableSwitch p pt s
  | .mpass r => Sys2Proof.Machine.execMpass r s
  | .wload r => Sys2Proof.Machine.execWload r s
  | .add r => Sys2Proof.Machine.execAdd r s
  | .sub r => Sys2Proof.Machine.execSub r s
  | .mul r => Sys2Proof.Machine.execMul r s
  | .fma r => Sys2Proof.Machine.execFma r s
  | .div r => Sys2Proof.Machine.execDiv r s
  | .sqrt r => Sys2Proof.Machine.execSqrt r s
  | .min r => Sys2Proof.Machine.execMin r s
  | .max r => Sys2Proof.Machine.execMax r s
  | .neg r => Sys2Proof.Machine.execNeg r s
  | .abs r => Sys2Proof.Machine.execAbs r s
  | .conv r => Sys2Proof.Machine.execConv r s
  | .rsum r => Sys2Proof.Machine.execRsum r s
  | .rmax r => Sys2Proof.Machine.execRmax r s
  | .exp2 r => Sys2Proof.Machine.execExp2 r s
  | .vcomb r => Sys2Proof.Machine.execVcomb r s
  | .move r => Sys2Proof.Machine.execMove r s
  | .split r => Sys2Proof.Machine.execSplit r s
  | .gather r => Sys2Proof.Machine.execGather r s
  | .scatter r => Sys2Proof.Machine.execScatter r s
  | .fetch r => Sys2Proof.Machine.execFetch r s
  | .store r => Sys2Proof.Machine.execStore r s
  | .send r => Sys2Proof.Machine.execSend r s
  | .recvAcquire r => Sys2Proof.Machine.execRecvAcquire r s
  | .recvRelease r => Sys2Proof.Machine.execRecvRelease r s
  | .set r => Sys2Proof.Machine.execSet r s
  | .wait r => Sys2Proof.Machine.execWait r s
  | .loop r => Sys2Proof.Machine.execLoop r s
  | .endloop r => Sys2Proof.Machine.execEndloop r s
  | .pset r => Sys2Proof.Machine.execPset r s
  | .sset r => Sys2Proof.Machine.execSset r s
  | .beat r => Sys2Proof.Machine.execBeat r s
  | .pace r => Sys2Proof.Machine.execPace r s
  | .handover r => Sys2Proof.Machine.execHandover r s
  | .engineCommandStart c q ecc => Sys2Proof.Machine.execEngineCommandStart c q ecc s
  | .engineCommandComplete c u => Sys2Proof.Machine.execEngineCommandComplete c u s
  | .waitTimeout c q => Sys2Proof.Machine.execWaitTimeout c q s
  | .meshMessage a => Sys2Proof.Machine.execMeshMessage a s
  | .meshSetDelivery a => Sys2Proof.Machine.execMeshSetDelivery a s
  | .slotCreditReturn a => Sys2Proof.Machine.execSlotCreditReturn a s
  | .fetchLanded c a hostBytes ecc => Sys2Proof.Machine.execFetchLanded c a hostBytes ecc s
  | .storeWritten c w => Sys2Proof.Machine.execStoreWritten c w s
  | .scrubRead store word ecc => Sys2Proof.Machine.execScrubRead store word ecc s
  | .refreshWindowOpen stk t scrub => Sys2Proof.Machine.execRefreshWindowOpen stk t scrub s
  | .refreshWindowClose stk t => Sys2Proof.Machine.execRefreshWindowClose stk t s
  | .stackThermalRead stk celsius => Sys2Proof.Machine.execStackThermalRead stk celsius s
  | .emergencyRefreshEnd stk t => Sys2Proof.Machine.execEmergencyRefreshEnd stk t s
  | .galleryExpiry pt ix t => Sys2Proof.Machine.execGalleryExpiry pt ix t s
  | .galleryReclaimNotice pt ix => Sys2Proof.Machine.execGalleryReclaimNotice pt ix s
  | .galleryHostError c ix => Sys2Proof.Machine.execGalleryHostError c ix s
  | .unitReceived p u => Sys2Proof.Machine.execUnitReceived p u s
  | .unitBoundary p => Sys2Proof.Machine.execUnitBoundary p s
  | .tailingsReadDone p ecc => Sys2Proof.Machine.execTailingsReadDone p ecc s
  | .ack p b => Sys2Proof.Machine.execAck p b s
  | .delayReq p t1 came came16 => Sys2Proof.Machine.execDelayReq p t1 came came16 s
  | .delayRsp p t1 t2 t3 t4 => Sys2Proof.Machine.execDelayRsp p t1 t2 t3 t4 s
  | .resetReq p from_ b => Sys2Proof.Machine.execResetReq p from_ b s
  | .resetAck p from_ b => Sys2Proof.Machine.execResetAck p from_ b s
  | .train p from_ phase => Sys2Proof.Machine.execTrain p from_ phase s
  | .resume p b => Sys2Proof.Machine.execResume p b s
  | .audit p b => Sys2Proof.Machine.execAudit p b s
  | .auditSend t => Sys2Proof.Machine.execAuditSend t s
  | .jobStop p b => Sys2Proof.Machine.execJobStop p b s
  | .ackTimeout p => Sys2Proof.Machine.execAckTimeout p s
  | .resetReqRepeat p => Sys2Proof.Machine.execResetReqRepeat p s
  | .resetAckTimeout p => Sys2Proof.Machine.execResetAckTimeout p s
  | .resetPhaseDone p r => Sys2Proof.Machine.execResetPhaseDone p r s
  | .portFailure p => Sys2Proof.Machine.execPortFailure p s
  | .portEnable p v => Sys2Proof.Machine.execPortEnable p v s
  | .portDisable p v => Sys2Proof.Machine.execPortDisable p v s
  | .resetGo p v => Sys2Proof.Machine.execResetGo p v s
  | .ethDatagram p d => Sys2Proof.Machine.execEthDatagram p d s
  | .ethLinkLoss p => Sys2Proof.Machine.execEthLinkLoss p s
  | .looseData p k => Sys2Proof.Machine.execLooseData p k s
  | .looseSet p k => Sys2Proof.Machine.execLooseSet p k s
  | .delivered p k => Sys2Proof.Machine.execDelivered p k s
  | .credit p k => Sys2Proof.Machine.execCredit p k s
  | .looseTimeout ix => Sys2Proof.Machine.execLooseTimeout ix s
  | .limiterIntervalEdge t => Sys2Proof.Machine.execLimiterIntervalEdge t s
  | .limiterTokenGain t => Sys2Proof.Machine.execLimiterTokenGain t s
  | .transitSwitch p => Sys2Proof.Machine.execTransitSwitch p s
  | .wtTable pt r => Sys2Proof.Machine.execWtTable pt r s
  | .wtLoad pt tag => Sys2Proof.Machine.execWtLoad pt tag s
  | .wtLoadGallery pt tag r => Sys2Proof.Machine.execWtLoadGallery pt tag r s
  | .wtDrift pt tag => Sys2Proof.Machine.execWtDrift pt tag s
  | .wtDriftStart pt tag => Sys2Proof.Machine.execWtDriftStart pt tag s
  | .repaint pt tag => Sys2Proof.Machine.execRepaint pt tag s
  | .repaintBarrierClear pt => Sys2Proof.Machine.execRepaintBarrierClear pt s
  | .barrierTimeout pt => Sys2Proof.Machine.execBarrierTimeout pt s
  | .halfStepBoundary pt h => Sys2Proof.Machine.execHalfStepBoundary pt h s
  | .pauseTtlExpiry pt slot => Sys2Proof.Machine.execPauseTtlExpiry pt slot s
  | .galleryMoveDone pt r => Sys2Proof.Machine.execGalleryMoveDone pt r s
  | .slotGalExpiry pt slot => Sys2Proof.Machine.execSlotGalExpiry pt slot s
  | .galleryReturnDone pt slot r => Sys2Proof.Machine.execGalleryReturnDone pt slot r s
  | .srvAdmit pt tag => Sys2Proof.Machine.execSrvAdmit pt tag s
  | .srvAppendPrompt pt tag => Sys2Proof.Machine.execSrvAppendPrompt pt tag s
  | .srvAppendDraft pt tag => Sys2Proof.Machine.execSrvAppendDraft pt tag s
  | .srvDeadline pt tag => Sys2Proof.Machine.execSrvDeadline pt tag s
  | .srvPause pt tag => Sys2Proof.Machine.execSrvPause pt tag s
  | .srvResume pt tag => Sys2Proof.Machine.execSrvResume pt tag s
  | .srvCancel pt tag => Sys2Proof.Machine.execSrvCancel pt tag s
  | .srvQuery pt tag => Sys2Proof.Machine.execSrvQuery pt tag s
  | .sqTail f q d => Sys2Proof.Machine.execSqTail f q d s
  | .cqHead f q d => Sys2Proof.Machine.execCqHead f q d s
  | .descriptorFetch pt r => Sys2Proof.Machine.execDescriptorFetch pt r s
  | .completionRecordWrite q => Sys2Proof.Machine.execCompletionRecordWrite q s
  | .msixInterrupt q => Sys2Proof.Machine.execMsixInterrupt q s
  | .hbmWrite pt r => Sys2Proof.Machine.execHbmWrite pt r s
  | .hbmRead pt r => Sys2Proof.Machine.execHbmRead pt r s
  | .canvasLoad pt tag => Sys2Proof.Machine.execCanvasLoad pt tag s
  | .canvasHeaderReadDone pt r => Sys2Proof.Machine.execCanvasHeaderReadDone pt r s
  | .partitionZeroingDone pt => Sys2Proof.Machine.execPartitionZeroingDone pt s
  | .canvasImageReadDone pt r => Sys2Proof.Machine.execCanvasImageReadDone pt r s
  | .canvasStage pt r => Sys2Proof.Machine.execCanvasStage pt r s
  | .canvasArm pt r => Sys2Proof.Machine.execCanvasArm pt r s
  | .partCtlStart pt tag => Sys2Proof.Machine.execPartCtlStart pt tag s
  | .partCtlHold pt tag => Sys2Proof.Machine.execPartCtlHold pt tag s
  | .partCtlRelease pt tag => Sys2Proof.Machine.execPartCtlRelease pt tag s
  | .partCtlReset pt tag => Sys2Proof.Machine.execPartCtlReset pt tag s
  | .galReg pt tag => Sys2Proof.Machine.execGalReg pt tag s
  | .galRenew pt tag => Sys2Proof.Machine.execGalRenew pt tag s
  | .galDereg pt tag => Sys2Proof.Machine.execGalDereg pt tag s
  | .nop pt tag => Sys2Proof.Machine.execNop pt tag s
  | .cxlMemWrite l pt addr w => Sys2Proof.Machine.execCxlMemWrite l pt addr w s
  | .cxlMemRead l pt addr span => Sys2Proof.Machine.execCxlMemRead l pt addr span s
  | .ringEnable f q submission v => Sys2Proof.Machine.execRingEnable f q submission v s
  | .ringDisable f q submission v => Sys2Proof.Machine.execRingDisable f q submission v s
  | .faultRecordClear f pt => Sys2Proof.Machine.execFaultRecordClear f pt s
  | .jobStopCommand seq key reason => Sys2Proof.Machine.execJobStopCommand seq key reason s
  | .canaryDecay t => Sys2Proof.Machine.execCanaryDecay t s
  | .canaryScoreUpdate t => Sys2Proof.Machine.execCanaryScoreUpdate t s
  | .canaryAck seq n => Sys2Proof.Machine.execCanaryAck seq n s
  | .eventSelectWrite off v => Sys2Proof.Machine.execEventSelectWrite off v s
  | .snapArm v => Sys2Proof.Machine.execSnapArm v s
  | .snapshotCount t => Sys2Proof.Machine.execSnapshotCount t s
  | .snapshot seq count => Sys2Proof.Machine.execSnapshot seq count s
  | .catalogue seq first n => Sys2Proof.Machine.execCatalogue seq first n s
  | .regWrite seq off bytes v => Sys2Proof.Machine.execRegWrite seq off bytes v s
  | .regRead seq off bytes => Sys2Proof.Machine.execRegRead seq off bytes s
  | .treeCanvasArm seq pt addr jobModules topo => Sys2Proof.Machine.execTreeCanvasArm seq pt addr jobModules topo s
  | .clockLoss d die => Sys2Proof.Machine.execClockLoss d die s
  | .jitterWindow d periods => Sys2Proof.Machine.execJitterWindow d periods s
  | .dutyWindow d duty => Sys2Proof.Machine.execDutyWindow d duty s
  | .histClr d v => Sys2Proof.Machine.execHistClr d v s
  | .regionUndervoltage die regionB => Sys2Proof.Machine.execRegionUndervoltage die regionB s
  | .oscTrimWindow die regionB r => Sys2Proof.Machine.execOscTrimWindow die regionB r s
  | .crossingRecentre x => Sys2Proof.Machine.execCrossingRecentre x s
  | .queryDeviceIdentifiers m => Sys2Proof.Machine.execQueryDeviceIdentifiers m s
  | .getFirmwareParameters m => Sys2Proof.Machine.execGetFirmwareParameters m s
  | .requestUpdate m maxTransfer => Sys2Proof.Machine.execRequestUpdate m maxTransfer s
  | .passComponentTable m comps => Sys2Proof.Machine.execPassComponentTable m comps s
  | .updateComponent m comp imageSize => Sys2Proof.Machine.execUpdateComponent m comp imageSize s
  | .firmwareHeaderBlock bytes => Sys2Proof.Machine.execFirmwareHeaderBlock bytes s
  | .firmwareBlock bytes => Sys2Proof.Machine.execFirmwareBlock bytes s
  | .activateFirmware m => Sys2Proof.Machine.execActivateFirmware m s
  | .getStatus m => Sys2Proof.Machine.execGetStatus m s
  | .cancelUpdateComponent m => Sys2Proof.Machine.execCancelUpdateComponent m s
  | .cancelUpdate m => Sys2Proof.Machine.execCancelUpdate m s
  | .fwConfirm m mask => Sys2Proof.Machine.execFwConfirm m mask s
  | .fwRevert m mask => Sys2Proof.Machine.execFwRevert m mask s
  | .bootGoodMiss comp => Sys2Proof.Machine.execBootGoodMiss comp s
  | .getVersion m => Sys2Proof.Machine.execGetVersion m s
  | .getCapabilities m => Sys2Proof.Machine.execGetCapabilities m s
  | .negotiateAlgorithms m => Sys2Proof.Machine.execNegotiateAlgorithms m s
  | .getDigests m => Sys2Proof.Machine.execGetDigests m s
  | .getCertificate m offset length => Sys2Proof.Machine.execGetCertificate m offset length s
  | .challenge m nonce => Sys2Proof.Machine.execChallenge m nonce s
  | .getMeasurements m index nonce => Sys2Proof.Machine.execGetMeasurements m index nonce s
  | .idDevWrite v => Sys2Proof.Machine.execIdDevWrite v s
  | .ptSlackClr f pt => Sys2Proof.Machine.execPtSlackClr f pt s
  | .setupErrClr f pt => Sys2Proof.Machine.execSetupErrClr f pt s
  | .loStageWrite off v => Sys2Proof.Machine.execLoStageWrite off v s
  | .registerWrite f off bytes v => Sys2Proof.Machine.execRegisterWrite f off bytes v s
  | .unitLockLoss p => Sys2Proof.Machine.execUnitLockLoss p s
  | .tbRefReturn => Sys2Proof.Machine.execTbRefReturn s
  | .hvilClose => Sys2Proof.Machine.execHvilClose s
  | .hostLinkTrained l rate width cxl cfg => Sys2Proof.Machine.execHostLinkTrained l rate width cxl cfg s
  | .clusterStart k => Sys2Proof.Machine.execClusterStart k s

end Sys2Proof.Machine
end

