-- ==== Sys2Proof/Safety.lean ====
section
/-! DEFINITION. What claims about the module say: the canonical form of its memories and its register table, and what "nothing else changes"
means for one part of the state among many. -/

namespace Sys2Proof.Machine

/-! ### The canonical form -/

/-- A byte memory in its canonical form: rising addresses, no listed byte equal to the default. -/
def Memory.wf (m : Tab Byte) : Bool := Tab.wf memDefault m

/-- Every core store, every cluster store and every stack in its canonical form. -/
def State.memoryWf (s : State) : Prop :=
  (∀ k, Memory.wf (Tab.get [] s.coreMem k) = true) ∧ (∀ k, Memory.wf (Tab.get [] s.cluMem k) = true) ∧
    ∀ k, Memory.wf (Tab.get [] s.hbm k) = true

/-- The stored registers are listed once each, in the order of their offsets. -/
def State.regsRise (s : State) : Prop := Tab.rising none s.regs = true

/-! ### Frames -/

/-- Every partition but one is as it was. -/
def State.otherParts (s t : State) (n : Nat) : Prop := ∀ m, m ≠ n → t.part m = s.part m

/-- Every core but one is as it was. -/
def State.otherCores (s t : State) (c : CoreId) : Prop := ∀ d : CoreId, d.ix ≠ c.ix → t.core d = s.core d

/-- Every port but one is as it was. -/
def State.otherPorts (s t : State) (p : Nat) : Prop := ∀ q, q ≠ p → t.port q = s.port q

/-- Every ring but one is as it was. -/
def State.otherRings (s t : State) (q : Nat) : Prop := ∀ r, r ≠ q → t.ring r = s.ring r

/-- Every host link but one is as it was. -/
def State.otherLinks (s t : State) (l : Link) : Prop := ∀ k : Link, k ≠ l → t.link k = s.link k

/-- Every stack but one is as it was. -/
def State.otherStacks (s t : State) (n : Nat) : Prop := ∀ m, m ≠ n → t.stack m = s.stack m

/-! ### Issue of a command -/

/-- The bytes of the next command of a core's stream. -/
def State.cmdBytes (s : State) (c : CoreId) : List Int :=
  (upFrom 0 32).map fun (i : Nat) => (((s.core c).streamBase + 32 * (s.core c).pc : Nat) : Int) + (i : Int)

/-- The reads of a command found no error (05, R117). -/
def cleanReads (ecc : List EccAt) : Prop := ∀ e ∈ ecc, e.ecc = .clean

/-- The next command of a core is `q`, and every condition of its issue holds (04, R87, R89, R90): the core can issue, the 32 bytes are free of
poison and are read without error, the command's offset has come, its checks pass, its partition runs and its predicate lets it act. -/
def State.issues (s : State) (c : CoreId) (ecc : List EccAt) (n : Nat) (q : Cmd) : Prop :=
  s.partOf c = some n ∧ s.canIssue n c = true ∧ (s.part n).st = .run ∧ s.nextCmd c = q ∧ s.poisonedAt c (s.cmdBytes c) = none ∧ cleanReads ecc ∧
    (s.core c).segCyc + q.notBefore ≤ s.cycles c ∧ q.check (s.core c) c.core.val (s.ownsClu n) = none ∧ (s.core c).predicate q = true

/-- The rows of engine commands, each with the commands of its kind (04, R88). -/
def engineRows (c : CoreId) (ecc hbm : List EccAt) : List (Instr × (Cmd → Bool)) :=
  [(.mpass ⟨c, ecc, hbm⟩, fun q => q.opcode = 0x01), (.wload ⟨c, ecc, hbm⟩, fun q => q.opcode = 0x02), (.add ⟨c, ecc, hbm⟩, isVop 0x01), (.sub ⟨c, ecc, hbm⟩, isVop 0x02), (.mul ⟨c, ecc, hbm⟩, isVop 0x03),
   (.fma ⟨c, ecc, hbm⟩, isVop 0x04), (.div ⟨c, ecc, hbm⟩, isVop 0x05), (.sqrt ⟨c, ecc, hbm⟩, isVop 0x06), (.min ⟨c, ecc, hbm⟩, isVop 0x07), (.max ⟨c, ecc, hbm⟩, isVop 0x08), (.neg ⟨c, ecc, hbm⟩, isVop 0x09),
   (.abs ⟨c, ecc, hbm⟩, isVop 0x0A), (.conv ⟨c, ecc, hbm⟩, isVop 0x0B), (.rsum ⟨c, ecc, hbm⟩, isVop 0x0C), (.rmax ⟨c, ecc, hbm⟩, isVop 0x0D), (.exp2 ⟨c, ecc, hbm⟩, isVop 0x0E),
   (.vcomb ⟨c, ecc, hbm⟩, fun q => q.opcode = 0x12), (.move ⟨c, ecc, hbm⟩, fun q => q.opcode = 0x20), (.split ⟨c, ecc, hbm⟩, fun q => q.opcode = 0x21), (.gather ⟨c, ecc, hbm⟩, fun q => q.opcode = 0x22),
   (.scatter ⟨c, ecc, hbm⟩, fun q => q.opcode = 0x23), (.fetch ⟨c, ecc, hbm⟩, fun q => q.opcode = 0x28), (.store ⟨c, ecc, hbm⟩, fun q => q.opcode = 0x29)]

/-- The rows of SEND, RECV, SET and WAIT (04, R88, R107). -/
def flowRows (c : CoreId) (ecc hbm : List EccAt) : List (Instr × (Cmd → Bool)) :=
  [(.send ⟨c, ecc, hbm⟩, fun q => q.opcode = 0x30), (.recvAcquire ⟨c, ecc, hbm⟩, fun q => q.opcode = 0x31 && !q.recvRelease),
   (.recvRelease ⟨c, ecc, hbm⟩, fun q => q.opcode = 0x31 && q.recvRelease), (.set ⟨c, ecc, hbm⟩, fun q => q.opcode = 0x38), (.wait ⟨c, ecc, hbm⟩, fun q => q.opcode = 0x39)]

/-- A SEND on a shaft issues only once its port has switched to the canvas's calendar (01, R36). -/
def State.portSwitched (s : State) (c : CoreId) (n : Nat) (q : Cmd) : Prop :=
  q.opcode = 0x30 → q.sendRoute = 1 → ∀ p shaft, (s.core c).sends[q.shaftIx]? = some (p, shaft) → s.calendarHas n p shaft (s.core c).gen = true

/-- The core after the issue of one command, but for what `f` sets: issue has moved on by one command, and the wait that ended has been
timed (01, R22; 04, R87, R114). -/
def Core.after (k j : Core) : Core :=
  { k with pc := k.pc + 1, ended := decide (k.streamLen ≤ k.pc + 1), ahead := j.ahead, lampWait := j.lampWait, stalls := j.stalls, lost := j.lost,
           retryItems := j.retryItems, refreshItems := j.refreshItems }

/-! ### The start of an engine command -/

/-- The command `x` at the head of queue `q` of a core may start, in assay mode or outside it, and nothing it would read is missing, poisoned or in error (02, R43,
R50, R53; 04, R92, R102, R103; 05, R117; 07, R168-R170): its unit is free, it breaks no bound, nothing it needs is pending, and its lamps fit or are kept from the
unit's last command. -/
def State.mayStartCmd (s : State) (c : CoreId) (n : Nat) (q : Queue) (x : QCmd) (rest : List QCmd) : Prop :=
  s.partOf c = some n ∧ (s.part n).st = .run ∧ q ≠ .seq ∧ (s.core c).queue q.code = x :: rest ∧
    x.cmd.opcode ≠ 0x31 ∧ x.cmd.opcode ≠ 0x38 ∧ x.cmd.opcode ≠ 0x39 ∧ Tab.find (s.core c).run x.cmd.unit = none ∧
    s.grantCause c q.code x = none ∧ (s.core c).emptySlot x.gen x.stencilAddrs = none ∧ s.startCause n c x (s.effectOf c x) = none ∧
    (s.core c).bankBusy x.cmd = false ∧ (s.core c).writesPending x = false ∧ (s.core c).owesReads x = false ∧
    (x.cmd.opcode = 0x28 ∨ x.cmd.opcode = 0x29 → (s.core c).memq.length < 32) ∧ (s.core c).emptySlot x.gen (x.startReads (s.effectOf c x)) = none ∧
    s.lampsFit n c x.cmd.unit x.cmd.lamps = true ∧ (x.cmd.lamps ≤ s.keptBy c x.cmd.unit ∨ s.passedOver n c q.code = false) ∧
    s.poison = []

/-- It may start, and its partition is not in assay mode. -/
def State.starts (s : State) (c : CoreId) (n : Nat) (q : Queue) (x : QCmd) (rest : List QCmd) : Prop := s.mayStartCmd c n q x rest ∧ s.assayEn n = false

/-- Where a store byte lies: the store and the offset in it; none outside core stores and cluster stores (04, R92). -/
def byteOf (c : CoreId) (a : Int) : Option (StoreId × Nat) :=
  match spotOf a with
  | .core o => some (.core c, o)
  | .cluster o => some (.cluster ⟨c.cluIx % 66, Nat.mod_lt _ (by decide)⟩, o)
  | _ => none

/-- Every byte of the core stores and cluster stores is as it was, but for those at the given addresses of a core. -/
def State.storesKept (s t : State) (c : CoreId) (as : List Int) : Prop :=
  ∀ (d : CoreId) (a : Int), storeOk a = true → (∀ b ∈ as, byteOf c b ≠ byteOf d a) → t.readSt d a = s.readSt d a

/-! ### Values of vector operands (03, R64-R67, R74) -/

/-- Element `i` of an operand of `n` elements at a store address, with its block's scale where the format has one. -/
def State.elem (s : State) (c : CoreId) (f : Nat) (a : Int) (n i : Nat) : Val :=
  let v := decodeElem f (elemAt f (s.readStN c a (fmtBytes f n)) i)
  if isMx f then v.scaled (s.readSt c (a + (fmtBytes f n : Nat) + (i / 32 : Nat))).toNat else v

/-- A source element as the compute format of a VOP takes it. -/
def Cmd.convert (q : Cmd) (f : Nat) (v : Val) : Val :=
  let m := convMode f (computeFmt q.fmtD) q.rnd q.sat
  (toCompute (computeFmt q.fmtD) m.1 m.2 v).1

/-! ### Descriptors -/

/-- The descriptor `d` that waits under a tag in a partition may start: those before it in its ring have, and checks 4 and 5 hold (12, R271, R274). A tag in
flight is one descriptor's (check 3). -/
def State.descStarts (s : State) (pt : Pt) (tag : BitVec 16) (d : Desc) : Prop :=
  (s.part pt.val).flight.find? (fun e => e.tag = tag.toNat && e.progress = .waiting) = some d ∧
    (∀ e ∈ (s.part pt.val).flight, e.tag = tag.toNat → e.progress = .waiting) ∧ (s.part pt.val).mayStart d = true ∧
    s.accessBad pt.val d = none ∧ s.stateOk pt.val d = true

/-- The descriptor `d` of a type has started under a tag and waits at a stack (05, R132). -/
def State.descWaits (s : State) (pt : Pt) (tag : BitVec 16) (op : Nat) (d : Desc) : Prop :=
  (s.part pt.val).flight.find? (fun e => e.tag = tag.toNat && e.progress = .started && decide (e.op = op)) = some d

/-- It may go on: checks 4 and 5 still hold (12, R274). -/
def State.descServed (s : State) (pt : Pt) (tag : BitVec 16) (op : Nat) (d : Desc) : Prop :=
  s.descWaits pt tag op d ∧ s.accessBad pt.val d = none ∧ s.stateOk pt.val d = true

/-- No stack that region bytes reach is shut: none refreshes, and none has tripped (05, R132-R134). -/
def State.stacksServe (s : State) (n a len : Nat) : Prop := ∀ k ∈ s.stacksIn n a len, s.stackShut k = false

/-- A descriptor in flight is ready to leave: its record waits for its ring (12, R271, R284). -/
def markReady (d : Desc) (l : List Desc) : List Desc := l.map fun e => if e.tag = d.tag ∧ e.sq = d.sq then { e with progress := .ready } else e

/-- A record has become ready for the ring of a descriptor, behind those before it, and the descriptor is ready to leave. -/
def State.posts (s t : State) (n : Nat) (d : Desc) (r : Rec) : Prop :=
  t.ring d.cq = { s.ring d.cq with ready := (s.ring d.cq).ready ++ [r] } ∧ s.otherRings t d.cq ∧ (t.part n).flight = markReady d (s.part n).flight

/-- That, and nothing else. -/
def State.onlyPosts (s t : State) (n : Nat) (d : Desc) (r : Rec) : Prop :=
  s.posts t n d r ∧ t.part n = { s.part n with flight := markReady d (s.part n).flight } ∧ s.otherParts t n ∧ t = { s with parts := t.parts, rings := t.rings }

/-- Bytes written into a partition's region, and no other byte of the stacks changed. -/
def State.regionTakes (s t : State) (n a : Nat) (bs : List Byte) : Prop :=
  (∀ j (h : j < bs.length), t.readHbm n (a + j) = bs[j]) ∧
    ∀ m b, (∀ j, j < bs.length → locate (s.extents m) b ≠ locate (s.extents n) (a + j)) → t.readHbm m b = s.readHbm m b

/-! ### The assay log (06, R153, R159) -/

/-- Region address of the next record of the log. -/
def State.logAt (s : State) (n : Nat) : Nat := (s.shadow n).1 + 32 * ((s.part n).assayPos % 65536)

/-- Assay mode is on, a report does not stop the partition, and the log's next `k` records can be written now. -/
def State.logOpen (s : State) (n k : Nat) : Prop :=
  s.assayEn n = true ∧ rb (cfg s .ptAssayCtl n 0) 5 = false ∧ (s.part n).assayPos + k ≤ 65536 ∧ s.ownWaits n (s.logAt n) (32 * k) = false ∧
    s.trippedIn n (s.logAt n) (32 * k) = none ∧ s.logAt n + 32 * k ≤ s.regionSize n ∧ s.memoryWf

/-- The log has taken these reports, one after the other, at the present count. -/
def State.logged (s t : State) (n : Nat) (rs : List Report) : Prop :=
  s.regionTakes t n (s.logAt n) (rs.flatMap fun r => r.bytes s.now) ∧ (t.part n).assayPos = ((s.part n).assayPos + rs.length) % 65536 ∧
    (t.part n).assayCount = Nat.min 65536 ((s.part n).assayCount + rs.length)

/-! ### Doorbells -/

/-- A doorbell write of a partition was not applied: PT_SETUP_ERR names its reason and its offset in BAR2 and counts it, and nothing else of the partition, and no
ring, has changed (12, R270; 16, R358). -/
def State.doorbellRefused (s t : State) (n reason off : Nat) : Prop :=
  rf (t.part n).setupErr 23 21 = reason ∧ rf (t.part n).setupErr 20 2 = off / 4 ∧ rb (t.part n).setupErr 1 = true ∧
    rf (t.part n).setupErr 30 24 = Nat.min 127 (rf (s.part n).setupErr 30 24 + 1) ∧ t.part n = { s.part n with setupErr := (t.part n).setupErr } ∧
    s.otherParts t n ∧ t = { s with parts := t.parts, events := t.events, counts := t.counts }

/-! ### Slots of a steward -/

/-- The region address `a` lies in the entry, the page list or the token log of slot `i`, which holds `old` before and `new` after (11, R243). -/
def State.slotArea (s : State) (n i : Nat) (old new : SrvSlot) (a : Nat) : Prop :=
  let row := 4 * s.pageMax n
  let entry := s.pstAt n + s.srvCount n * row + 64 * i
  let list := s.pstAt n + row * i
  let log := s.tlogAt n + 64 * row * i
  (entry ≤ a ∧ a < entry + 64) ∨ (list ≤ a ∧ a < list + 4 * Nat.max old.pages.length new.pages.length) ∨ (log ≤ a ∧ a < log + 4 * new.log.length)

/-- Slot `i` of a partition's steward becomes `z`, and its records in the region follow; every other slot, every other partition, and every byte of the
stacks outside those records is as it was. -/
def State.slotBecomes (s t : State) (n i : Nat) (z : SrvSlot) : Prop :=
  t.srvSlot n i = z ∧ (∀ j, j ≠ i → t.srvSlot n j = s.srvSlot n j) ∧ s.otherParts t n ∧
    t.part n = { s.part n with srv := (t.part n).srv, flight := (t.part n).flight } ∧
    (∀ v, (s.part n).srv = some v → ∃ w, (t.part n).srv = some { v with slots := w }) ∧
    ∀ m b, (∀ a, s.slotArea n i (s.srvSlot n i) z a → locate (s.extents m) b ≠ locate (s.extents n) a) → t.readHbm m b = s.readHbm m b

end Sys2Proof.Machine
end

