-- ==== Sys2Proof/Certificates/Slice0/Obligations.lean ====
section
/-! DEFINITION. The statements for the provers, from the specification's rules. Each names the rules it rests on; where a clause is the model's own
choice its docstring names the log entry. -/

open Sys2Proof Sys2Proof.Machine

/-! ### The queue (the block's form) and the tick -/

/-- A step takes the command at the front of the queue and runs it with the queue's rest. -/
def Obligations.StepRunsFront : Prop :=
  ∀ (s : State) (c : Instr) (rest : List Instr), step { s with pending := c :: rest } = exec c { s with pending := rest }

/-- With nothing waiting, a step is one KT tick (the model's choice, log 2): while the count runs and no correction is due it goes up by one,
and nothing but the count, the cycles of the compute regions and the note of a converter stop changes (01, R13); while it does not run, only that note changes. -/
def Obligations.IdleStepTicks : Prop :=
  ∀ s : State, s.pending = [] →
    (s.tb.running = true → s.tb.pending = 0 → s.tb.count + 1 < 2 ^ 64 →
      step s = .next { s with
        tb := { s.tb with count := s.tb.count + 1, jumped := false }
        op := { s.op with milliCyc := s.op.milliCyc + opMHz s.op.cur }
        power := { s.power with stopping := false } }) ∧
    (s.tb.running = false → step s = .next { s with power := { s.power with stopping := false } })

/-! ### Reset (00, R7; 14, R312, R317; 16) -/

/-- What the specification gives of the state after a cold reset: Standby before step 1, no step failed, every partition Absent with nothing
loaded, every port Disabled, every stored register at its reset value, the count stopped, no command waiting. -/
def Obligations.ResetValues : Prop :=
  State.reset.modState = 0 ∧ State.reset.startup.stage = 0 ∧ State.reset.startup.failPart = 0x7F ∧ State.reset.startup.failStep = 0 ∧
    (∀ n, (State.reset.part n).st = .absent ∧ (State.reset.part n).wt = .empty ∧ (State.reset.part n).slack = 0x7FFFFF) ∧
    (∀ p, (State.reset.port p).st = .disabled) ∧ (∀ r : Reg, cfg State.reset r.kind r.i r.j = r.reset) ∧
    State.reset.tb.running = false ∧ State.reset.op.cur = 0 ∧ State.reset.pending = []

/-- Reset has every memory and the register table in canonical form. -/
def Obligations.ResetCanonical : Prop := State.reset.memoryWf ∧ State.reset.regsRise

/-- Every step keeps every memory and the register table in canonical form. -/
def Obligations.StepKeepsCanonical : Prop :=
  ∀ s t : State, s.memoryWf → s.regsRise → step s = .next t → t.memoryWf ∧ t.regsRise

/-! ### Power, start-up and resets (00, R7, R8; 14; 15) -/

/-- COLD_RESET: start-up stands before step 1, partitions are Absent, ports Disabled, registers at their reset values, on-module flash keeps its
identity words and settings, and the report of the last start-up stays (00, R8; 14, R316, R317; 16, R359). The queue is not touched.
Completes: COLD_RESET. -/
def Obligations.ColdResetEffect : Prop :=
  ∀ s : State, ∃ t, exec .coldReset s = .next t ∧ t.startup.ready = false ∧ t.startup.stage = 0 ∧ t.startup.stopped = false ∧
    t.startup.failStep = s.startup.failStep ∧ t.startup.failPart = s.startup.failPart ∧ t.startup.failCode = s.startup.failCode ∧
    t.startup.lastReset = s.startup.lastReset ∧
    (∀ n, t.part n = Part.reset) ∧ (∀ p, (t.port p).st = .disabled) ∧ (∀ r : Reg, cfg t r.kind r.i r.j = r.reset) ∧
    t.tb.running = false ∧ t.power.convOn = false ∧ t.update = none ∧
    t.flash.idDev = s.flash.idDev ∧ t.flash.hostCfg = s.flash.hostCfg ∧ t.flash.bootPorts = s.flash.bootPorts ∧ t.flash.accs = s.flash.accs ∧
    t.flash.serial = s.flash.serial ∧ t.flash.idRev = s.flash.idRev ∧ t.pending = s.pending

/-- The converter turns off (00, R7; 15, R332, R334, R337, R338, R351). STANDBY_LOSS in any state: no partition is left, the count stands, both headframe
controllers stop and a transfer ends with ABORTED. With the module Ready: MAIN_BUS_LOSS, and with the converter on HVIL_OPEN, DIE_TRIP at 120 °C or more and
CONVERTER_STOP with an input the specification gives an effect, take the module to Standby before step 3 with no partition left; flash is as it was. From step 3 of a
start-up on they stop it (14, R313); FAIL_CODE 0 with the die in FAIL_PART for a DIE_TRIP is the model's choice (log 15). PWR_EVT names the cause of a stop: DIE_TRIP,
HVIL, OV and UV, a loss of the main bus as UV with VBUS below 360 V (log 87). Where the converter is off and no start-up runs from step 3 on, HVIL_OPEN only notes the open loop; a
reading of a die below 120 °C is kept, and one with the converter off does nothing; MAIN_BUS_LOSS does nothing before Ready.
Beyond the absolute maximum ratings the module does not operate: the model stops, with a fault of its own name (15, R349).
Completes: STANDBY_LOSS, MAIN_BUS_LOSS, CONVERTER_STOP, HVIL_OPEN, DIE_TRIP. -/
def Obligations.ConverterTurnsOff : Prop :=
  ((∀ s : State,
      (∃ t, exec .standbyLoss s = .next t ∧ t.power.convOn = false ∧ t.power.precharged = false ∧ t.power.stbyOk = false ∧ t.startup.ready = false ∧ t.startup.stage = 0 ∧
        t.hf.e0Up = false ∧ t.hf.e1Up = false ∧ t.update = none ∧ (∀ n, (t.part n).st = .absent) ∧ t.tb.running = false ∧ t.flash = s.abortUpdate.flash ∧ t.pending = s.pending) ∧
      (s.startup.ready = true → ∀ i, (i = .mainBusLoss ∨ (s.power.convOn = true ∧ (i = .hvilOpen ∨ (∃ d, i = .dieTrip d ∧ 120 ≤ d.celsius) ∨
          ∃ e v, i = .converterStop e v ∧ e ≠ .aboveAbsoluteMax))) →
        ∃ t, exec i s = .next t ∧ t.power.convOn = false ∧ t.power.precharged = false ∧ t.startup.ready = false ∧ t.startup.stage = 2 ∧ t.startup.cause = 3 ∧
          t.startup.stopped = s.startup.stopped ∧ (∀ n, (t.part n).st = .absent) ∧ t.tb.running = false ∧ t.flash = s.flash ∧ t.pending = s.pending) ∧
      (s.startup.ready = true → ∃ t, exec .mainBusLoss s = .next t ∧ t.power.evtUv = true ∧ t.power.vbus.toNat < 720 ∧ t.starting = false) ∧
      (s.starting = true → ∀ i code part,
        ((i = .hvilOpen ∧ code = 4 ∧ part = 0x7F) ∨ (∃ d : DieReading, i = .dieTrip d ∧ 120 ≤ d.celsius ∧ s.power.convOn = true ∧ code = 0 ∧ part = canDie d.die.val) ∨
          ∃ e v, i = .converterStop e v ∧ e ≠ .aboveAbsoluteMax ∧ code = 3 ∧ part = 0x7F) →
        ∃ t, exec i s = .next t ∧ t.power.convOn = false ∧ t.startup.stopped = true ∧ t.startup.ready = false ∧ t.startup.failStep = s.startup.stage + 1 ∧
          t.startup.failCode = code ∧ t.startup.failPart = part ∧ (∀ n, (t.part n).st = .absent) ∧ t.flash = s.flash ∧ t.pending = s.pending) ∧
      (s.startup.ready = false → exec .mainBusLoss s = .next s) ∧
      (s.power.convOn = false → (∀ d, exec (.dieTrip d) s = .next s) ∧
        (s.startup.ready = false → s.starting = false → s.power.stopping = false →
          exec .hvilOpen s = .next { s with power := { s.power with hvilClosed := false, precharged := false } }))) ∧
   (∀ s : State, s.power.convOn = true →
      (∀ d, (120 ≤ d.celsius → ∃ t, exec (.dieTrip d) s = .next t ∧ t.power.evtDieTrip = true) ∧
        (d.celsius < 120 → exec (.dieTrip d) s = .next { s with dieTemps := Tab.put s.dieTemps d.die.val d.celsius })) ∧
      (∃ t, exec .hvilOpen s = .next t ∧ t.power.evtHvil = true ∧ t.power.hvilClosed = false) ∧
      (∀ e v, e = .below300 ∨ e = .lowRideThrough → ∃ t, exec (.converterStop e v) s = .next t ∧ t.power.evtUv = true ∧ t.power.vbus = v) ∧
      ∀ e v, e = .highRideThrough ∨ e = .above440 → ∃ t, exec (.converterStop e v) s = .next t ∧ t.power.evtOv = true ∧ t.power.vbus = v)) ∧
  (∀ (s : State) (v : BitVec 10), exec (.converterStop .aboveAbsoluteMax v) s = .fault .absoluteMaximumExceeded)

/-- The way back to step 3 (00, R7; 14, R312; 15, R332-R334). HVIL_CLOSE in any state notes the closed loop. MAIN_BUS_RETURN notes the bus voltage, unless it lies outside
the range while the converter runs, and no step is skipped: a start-up that has come to step 3 runs on where the loop is closed and the bus in its range.
PRECHARGE_BYPASS_CLOSE notes the voltage; in step 3 with the converter off, the loop closed and the bus in its range the bypass has closed. Nothing else changes.
Completes: MAIN_BUS_RETURN, PRECHARGE_BYPASS_CLOSE, HVIL_CLOSE. -/
def Obligations.PowerComesBack : Prop :=
  ∀ (s : State) (v : BitVec 10) (on : Prop) (p : Power),
    (on ↔ s.startup.ready = false ∧ s.startup.stopped = false ∧ s.power.stbyOk = true ∧ s.startup.stage = 2 ∧ s.power.hvilClosed = true ∧ 720 ≤ v.toNat ∧ v.toNat ≤ 840) →
    p = (if s.power.convOn = true ∧ ¬ (720 ≤ v.toNat ∧ v.toNat ≤ 840) then s.power else { s.power with vbus := v, stopping := false }) →
    exec .hvilClose s = .next { s with power := { s.power with hvilClosed := true } } ∧
    exec (.mainBusReturn v) s = .next { s with power := p } ∧ (on → ({ s with power := p } : State).starting = true) ∧
    (on ∧ s.power.convOn = false → exec (.prechargeBypassClose v) s = .next { s with power := { s.power with vbus := v, stopping := false, precharged := true } }) ∧
    (¬ (on ∧ s.power.convOn = false) → exec (.prechargeBypassClose v) s = .next { s with power := p })

/-- The steps of start-up (14, R312, R313; 15, R345). STARTUP_STEP_COMPLETE of each step 1 to 12: STAGE reads the step just completed. Step 1 notes the standby input, step 2 the controllers and the straps,
step 3, once the bypass has closed, the converter; step 7, with TB_REF, starts the count of the domain master; the last step makes the module Ready. Partitions, cores and flash are as they were. After both headframe
controllers have failed no later step completes.
STARTUP_STEP_LIMIT: in step 2 E1 boots as primary, or neither controller answers; in steps 3 to 9 start-up stops, the converter turns off, and ST_STATUS names the step and the part; steps 10 and 11 are passed
over; in steps 1 and 12 nothing changes, nor does it after both controllers have failed.
Completes: STARTUP_STEP_COMPLETE, STARTUP_STEP_LIMIT. -/
def Obligations.StartupSteps : Prop :=
  (∀ (s : State) (geo : BitVec 3), s.startup.ready = false → s.startup.stopped = false → s.startup.stage < 12 → (1 ≤ s.startup.stage → s.power.stbyOk = true) →
     (s.startup.stage = 2 → s.power.hvilClosed = true ∧ 720 ≤ s.power.vbus.toNat ∧ s.power.vbus.toNat ≤ 840 ∧ s.power.precharged = true) →
     (3 ≤ s.startup.stage → s.power.convOn = true) → (s.startup.stage = 6 → s.tb.refOk = true) →
     (s.hf.bothFailed = true → 1 ≤ s.startup.stage → exec (.startupStepComplete geo) s = .next s) ∧
     ((1 ≤ s.startup.stage → s.hf.bothFailed = false) → ∃ t, exec (.startupStepComplete geo) s = .next t ∧ t.startup.stage = s.startup.stage + 1 ∧ (t.startup.ready = true ↔ s.startup.stage = 11) ∧
       (s.startup.stage = 0 → t.power.stbyOk = true) ∧ (s.startup.stage = 1 → t.startup.geo = geo ∧ t.hf.e0Up = true ∧ t.hf.e1Up = true) ∧
       (s.startup.stage = 2 → t.power.convOn = true ∧ t.startup.failStep = 0 ∧ t.startup.failPart = 0x7F) ∧
       (s.startup.stage = 6 → t.tb.running = rb (cfg s .tbCfg 0 0) 31) ∧ (s.startup.stage = 11 → t.canAcc = Accs.of s.flash.accs) ∧
       t.parts = s.parts ∧ t.cores = s.cores ∧ t.flash = s.flash ∧ t.pending = s.pending)) ∧
  (∀ (s : State) (part : BitVec 7) (selfTest e1 : Bool) (geo : BitVec 3), s.startup.ready = false → s.startup.stopped = false → s.power.stbyOk = true →
     (s.startup.stage = 2 → s.power.hvilClosed = true ∧ 720 ≤ s.power.vbus.toNat ∧ s.power.vbus.toNat ≤ 840) → (3 ≤ s.startup.stage → s.power.convOn = true) →
     (s.hf.bothFailed = true → exec (.startupStepLimit part selfTest ⟨e1, geo⟩) s = .next s) ∧ (s.hf.bothFailed = false →
     (s.startup.stage = 1 → e1 = true → exec (.startupStepLimit part selfTest ⟨e1, geo⟩) s =
       .next { s with startup := { s.startup with stage := 2, geo := geo }, hf := { s.hf with e1Up := true, primaryE1 := true } }) ∧
     (s.startup.stage = 1 → e1 = false → ∃ t, exec (.startupStepLimit part selfTest ⟨e1, geo⟩) s = .next t ∧ t.hf = { s.hf with bothFailed := true } ∧
       t = { s with hf := t.hf, outbox := t.outbox }) ∧
     (2 ≤ s.startup.stage → s.startup.stage < 9 →
       ∃ t, exec (.startupStepLimit part selfTest ⟨e1, geo⟩) s = .next t ∧ t.startup.stopped = true ∧ t.startup.ready = false ∧
         t.startup.failStep = s.startup.stage + 1 ∧ t.startup.failPart = part.toNat ∧
         t.startup.failCode = (if s.startup.stage = 6 then (if s.tb.refOk then 1 else 5) else if selfTest then 2 else 1) ∧
         t.power.convOn = false ∧ t.flash = s.flash ∧ t.pending = s.pending) ∧
     (s.startup.stage = 9 ∨ s.startup.stage = 10 →
       exec (.startupStepLimit part selfTest ⟨e1, geo⟩) s = .next { s with startup := { s.startup with stage := s.startup.stage + 1 } }) ∧
     (s.startup.stage = 0 ∨ s.startup.stage = 11 → exec (.startupStepLimit part selfTest ⟨e1, geo⟩) s = .next s)))

/-- MODULE_RESET as a new command of the tree: answered with OK, the accumulators saved when the module was Ready, every partition Absent, and start-up
runs from step 4, or from step 3 with the converter off (13, R303; 14, R318). That a module which was not Ready, and so has restored nothing, keeps the accumulators of its flash is the
model's choice (log 102).
Completes: MODULE_RESET. -/
def Obligations.ModuleResetEffect : Prop :=
  ∀ (s : State) (seq : W32), s.managed = true → s.hf.lastSeq ≠ some seq →
    ∃ t, exec (.moduleReset seq) s = .next t ∧ t.startup.ready = false ∧ t.startup.stopped = false ∧ t.startup.stage = (if s.power.convOn then 3 else 2) ∧
      (∀ n, t.part n = Part.reset) ∧ t.flash.accs = (if s.startup.ready then s.canAcc.settled else s.flash.accs) ∧ t.flash.idDev = s.flash.idDev ∧ t.update = none ∧
      t.outbox.getLast? = some (.answer seq [0]) ∧ t.power = s.power ∧ t.pending = s.pending

/-- Host links (12, R262-R264; 14, R315): HOST_LINK_TRAINED from step 11 on records and reports what was trained, never wider than the port allows nor CXL without its bit;
PERST_ASSERT and HOST_LINK_DOWN leave nothing trained, PERST_RELEASE releases the line. The other links are as they were.
A host-link reset (12, R268; 16, R361): FLR, VF_ENABLE_CLEAR, HOST_LINK_DOWN and PERST_ASSERT take every partition of the functions concerned to
Absent with nothing in flight, and leave PT_OWN.
Completes: PERST_ASSERT, PERST_RELEASE, FLR, VF_ENABLE_CLEAR, HOST_LINK_DOWN, HOST_LINK_TRAINED. -/
def Obligations.HostLinks : Prop :=
  (∀ (s : State) (l : Link),
     (∀ rate width cxl vfs payload readReq w c, s.startup.ready = true ∨ (10 ≤ s.startup.stage ∧ s.startup.stopped = false) → s.linkExists l = true → (s.link l).perst = false →
       w = Nat.min (2 ^ width.val) (if s.split l then 8 else 16) → c = (cxl && rb s.startup.hostCur (if l.ix < 2 then 2 else 3)) →
       ∃ t, exec (.hostLinkTrained l rate width cxl ⟨vfs, payload, readReq⟩) s = .next t ∧
         t.link l = { trained := true, rate := linkRate rate, width := w, payload := 128 * 2 ^ payload.val, readReq := 128 * 2 ^ readReq.val, cxl := c,
                      vfs := Nat.min vfs 16, vfOff := [], perst := false } ∧
         s.otherLinks t l ∧ t = { s with links := t.links, outbox := s.outbox ++ [.linkTrained l (linkRate rate) w c] }) ∧
     (∃ t, exec (.perstRelease l) s = .next t ∧ t.link l = { s.link l with perst := false } ∧ s.otherLinks t l ∧ t = { s with links := t.links }) ∧
     (∃ t, exec (.perstAssert l) s = .next t ∧ (t.link l).perst = true ∧ (s.linkExists l = true → t.link l = { HostLink.reset with perst := true }) ∧ s.otherLinks t l ∧
       t.pending = s.pending ∧ t.flash = s.flash ∧ (s.linkExists l = false → t = { s with links := t.links })) ∧
     ∃ t, exec (.hostLinkDown l) s = .next t ∧ t.link l = { HostLink.reset with perst := (s.link l).perst } ∧ s.otherLinks t l ∧ t.pending = s.pending ∧ t.flash = s.flash) ∧
  (∀ (s : State) (f : Func),
     (∃ t, exec (.flr f) s = .next t ∧ t.links = s.links ∧ t.pending = s.pending ∧ t.flash = s.flash) ∧
     (∃ t, exec (.vfEnableClear f) s = .next t ∧ (f.fn.val ≠ 0 → f.fn.val ∈ (t.link f.link).vfOff) ∧ s.otherLinks t f.link ∧ t.pending = s.pending ∧ t.flash = s.flash) ∧
     ∀ n i, n < 32 → s.owner n = some f → s.regsRise →
       (i = .flr f ∨ i = .vfEnableClear f ∨ i = .hostLinkDown f.link ∨ (i = .perstAssert f.link ∧ s.linkExists f.link = true)) →
       ∃ t, exec i s = .next t ∧ (t.part n).st = .absent ∧ (t.part n).flight = [] ∧ (t.part n).gal = [] ∧ t.owner n = some f ∧ t.pending = s.pending)

/-- HEADFRAME_TAKEOVER with a standby that runs (13, R307): the standby becomes primary, every event not acknowledged goes out again, then the
takeover's own; partitions, cores and ports are not affected; without one the primary stops and nothing else changes.
PLATFORM_EVENT_REPEAT sends again, in order, every event that has not been acknowledged (13, R308); ACCUMULATOR_SAVE writes the accumulators to flash
(13, R303).
A command of the tree whose SEQ repeats the last one is answered as that one was, and has no second effect (13, R309).
Completes: HEADFRAME_TAKEOVER, PLATFORM_EVENT_REPEAT, ACCUMULATOR_SAVE. -/
def Obligations.HeadframeControllers : Prop :=
  ((∀ s : State, s.update = none →
      ((if s.hf.primaryE1 then s.hf.e0Up else s.hf.e1Up) = true → s.power.stbyOk = true → (s.domain 1).lost = false →
        ∃ t, exec .headframeTakeover s = .next t ∧ t.hf.primaryE1 = !s.hf.primaryE1 ∧ (if s.hf.primaryE1 then t.hf.e1Up else t.hf.e0Up) = false ∧
          t.outbox = s.outbox ++ s.hf.events.map Out.platform ++ [.platform { id := s.hf.nextEvent, kind := .takeover, arg := b2n (!s.hf.primaryE1) }] ∧
          t = { s with hf := t.hf, outbox := t.outbox }) ∧
      ((if s.hf.primaryE1 then s.hf.e0Up else s.hf.e1Up) = false →
        exec .headframeTakeover s = .next { s with hf := (if s.hf.primaryE1 then { s.hf with e1Up := false } else { s.hf with e0Up := false }) })) ∧
   (∀ s : State, s.managed = true →
      (∀ acked, exec (.platformEventRepeat acked) s = .next { s with
        hf := { s.hf with events := s.hf.events.filter fun e => !acked.contains e.id }
        outbox := s.outbox ++ (s.hf.events.filter fun e => !acked.contains e.id).map Out.platform }) ∧
      exec .accumulatorSave s = .next { s with flash := { s.flash with accs := s.canAcc.settled } })) ∧
  (∀ (s : State) (seq : W32) (i : Instr), s.managed = true → s.hf.lastSeq = some seq →
     (i = .moduleReset seq ∨ (∃ a b, i = .opAnnounce seq a b) ∨ (∃ a b, i = .hold seq a b) ∨ (∃ a b, i = .release seq a b) ∨ (∃ a b, i = .gateOpen seq a b) ∨
       (∃ a, i = .startAbort seq a) ∨ (∃ a b, i = .jobStopCommand seq a b) ∨ (∃ a, i = .canaryAck seq a) ∨ (∃ a, i = .snapshot seq a) ∨
       (∃ a b, i = .catalogue seq a b) ∨ (∃ a b c, i = .regWrite seq a b c) ∨ (∃ a b, i = .regRead seq a b) ∨ ∃ a b c d, i = .treeCanvasArm seq a b c d) →
     exec i s = .next (s.emit (.answer seq s.hf.lastAnswer)))
/-! ### The timebase (01, R13-R16; 08, R199; 15, R347, R348) -/

/-- Loss and return of TB_REF (15, R347). On the domain master the marks say LOCKED 0, and again LOCKED 1; the count goes on. On any other module, or before the count runs, the reference and
the alarm alone change. R347 speaks of the loss on the domain master; that any module raises its alarm at once on loss of its own TB_REF, and what the return undoes, are the model's
choice (log 89). Partitions, cores, ports and registers are as they were.
TB_SYNC_EDGE on an armed domain master with no partition Armed, in Run or in Hold (15, R348; 01, R15): the count is loaded from the preset, ARM clears
and LOADED is set, and a pending operating-point change is cancelled; a shorter edge, or one that is not armed, changes nothing. The stores are as they were, and where no write of the module's own waits at a stack (log 63) so are the cores but for the age
of their memory requests, and the stacks' bytes.
Completes: TB_REF_LOSS, TB_REF_RETURN, TB_SYNC_EDGE. -/
def Obligations.ReferenceInputs : Prop :=
  (∀ s : State, s.isMaster = true → s.tb.running = true →
     (∃ t, exec .tbRefLoss s = .next t ∧ t.tb.locked = false ∧ t.tb.refOk = false ∧ t.tb.alarm = true ∧ t.tb.count = s.tb.count ∧
       t = { s with tb := t.tb, hf := t.hf, outbox := t.outbox, events := t.events, counts := t.counts }) ∧
     ∃ t, exec .tbRefReturn s = .next t ∧ t.tb.locked = true ∧ t.tb.refOk = true ∧ t.tb.alarm = false ∧ t.tb.count = s.tb.count ∧
       t = { s with tb := t.tb, hf := t.hf, outbox := t.outbox, events := t.events, counts := t.counts }) ∧
  (∀ s : State, ¬ (s.isMaster = true ∧ s.tb.running = true) →
     exec .tbRefLoss s = .next { s with tb := { s.tb with refOk := false, alarm := true } } ∧
     exec .tbRefReturn s = .next { s with tb := { s.tb with refOk := true, alarm := !s.tb.locked && s.tb.running } }) ∧
  (∀ (s : State) (held : Nat), held < 8 ∨ rb (cfg s .tbSyncCfg 0 0) 31 = false → exec (.tbSyncEdge held) s = .next s) ∧
  (∀ (s : State) (held : Nat), s.regsRise → s.isMaster = true → s.tb.running = true → s.anyActive = false → 8 ≤ held →
     rb (cfg s .tbSyncCfg 0 0) 31 = true → rb (cfg s .tbSyncCfg 0 0) 30 = false →
     ∃ t, exec (.tbSyncEdge held) s = .next t ∧
       t.tb.count = (cfg s .tbPresetLo 0 0).toNat + 2 ^ 32 * (cfg s .tbPresetHi 0 0).toNat ∧ t.op.pend = none ∧
       rb (cfg t .tbSyncCfg 0 0) 31 = false ∧ rb (cfg t .tbSyncCfg 0 0) 24 = true ∧
       (s.ownq = [] → (∀ c, t.core c = { s.core c with memq := (t.core c).memq } ∧ (t.core c).memq.length = (s.core c).memq.length) ∧ t.hbm = s.hbm) ∧
       t.coreMem = s.coreMem ∧ t.cluMem = s.cluMem ∧ t.pending = s.pending)

/-- At its counts the module sends (15, R348; 08, R199): TB_SYNC_PULSE gives a pulse at a multiple of 2^OUT_EXP when TB_SYNC is an output, TIME_MARK_SEND
makes a mark due on every Up port outside Ethernet mode at a multiple of 4,096. Nothing else changes but with the passing of time.
A TIME_MARK with LOCKED 0, or of another MASTER, that the timing port delivers is ignored and counted; nothing else changes (08, R199).
Completes: TB_SYNC_PULSE, TIME_MARK_SEND. -/
def Obligations.MarksSentAndIgnored : Prop :=
  (∀ (s : State) (t : Count), s.tb.running = true → s.tb.count ≤ t → t < 2 ^ 64 →
     (rb (cfg s .tbSyncCfg 0 0) 30 = true → t % 2 ^ rf (cfg s .tbSyncCfg 0 0) 29 25 = 0 →
       exec (.tbSyncPulse t) s = .next ((s.advance t).emit (.syncPulse t))) ∧
     (t % 4096 = 0 → ∃ u, exec (.timeMarkSend t) s = .next u ∧ u = { s.advance t with ports := u.ports } ∧
       ∀ p, (Tab.find s.ports p).isSome = true → (u.port p).markDue = (s.timingOk p || (s.port p).markDue) ∧ (u.port p).st = (s.port p).st)) ∧
  (∀ (s : State) (p : Port) (tx : Nat) (ar : BitVec 4) (locked : Bool) (st : BitVec 8) (master : BitVec 13),
     s.isMaster = false → s.timingOk p.val = true → p.val = s.primaryPort ∨ (p.val = s.alternatePort ∧ s.tb.useAlternate = true) →
     (locked = false ∨ master.toNat ≠ s.masterDevid) →
     ∃ t, exec (.timeMark p tx ar locked st master) s = .next t ∧ t.tb = { s.tb with ignored := s.tb.ignored + 1 } ∧
       t = { s with tb := t.tb, events := t.events, counts := t.counts })

/-- Time marks (01, R15, R16; 08, R199; 14, R316). The first valid one from step 7 on sets the count going, unless start-up has stopped: the mark's time with the cable's delay added, and the module locks, one
stratum below its sender. Later ones correct it by slewing, and lock the module where the error is at most 2 ns, unless the error is above 65,536 ns with no partition Armed, in Run or in Hold.
Without them: TIMEBASE_UNLOCK after more than 16 mark intervals without a valid mark, and TIMING_PORT_FAILOVER after more than four, or with the primary port not Up: the module
unlocks and raises the timebase alarm, and takes its marks from the alternate port. Neither touches partitions or cores.
Completes: TIME_MARK, TIMEBASE_UNLOCK, TIMING_PORT_FAILOVER. -/
def Obligations.TimeMarks : Prop :=
  (∀ (s : State) (p : Port) (tx : Nat) (ar : BitVec 4) (st : BitVec 8) (err16 : Int),
     s.isMaster = false → s.timingOk p.val = true → p.val = s.primaryPort →
     err16 = ((restore16 s.tb.count tx + (s.port p.val).delay16 : Nat) : Int) - ((16 * s.tb.count + ar.toNat : Nat) : Int) →
     (s.tb.running = true → err16.natAbs ≤ 65536 * 16 ∨ s.anyActive = true →
       ∃ t, exec (.timeMark p tx ar true st (BitVec.ofNat 13 s.masterDevid)) s = .next t ∧ t.tb.count = s.tb.count ∧ t.tb.running = true ∧ t.tb.pending = err16.tdiv 16 ∧
         t.tb.err = err16.tdiv 16 ∧ t.tb.stratum = st.toNat + 1 ∧ t.tb.lastMark = some s.tb.count ∧ t.tb.locked = decide (err16.natAbs ≤ 32) ∧
         t = { s with tb := t.tb, hf := t.hf, outbox := t.outbox, events := t.events, counts := t.counts }) ∧
     (s.tb.running = false → s.startup.stage < 7 ∨ s.startup.stopped = true →
       exec (.timeMark p tx ar true st (BitVec.ofNat 13 s.masterDevid)) s = .next { s with tb := { s.tb with useAlternate := false } }) ∧
     (s.tb.running = false → 7 ≤ s.startup.stage → s.startup.stopped = false →
     ∃ t, exec (.timeMark p tx ar true st (BitVec.ofNat 13 s.masterDevid)) s = .next t ∧ t.tb.running = true ∧
       t.tb.count = (restore16 s.tb.count tx + (s.port p.val).delay16) / 16 % 2 ^ 64 ∧ t.tb.locked = true ∧ t.tb.stratum = st.toNat + 1 ∧
       t.parts = s.parts ∧ t.cores = s.cores ∧ t.regs = s.regs ∧ t.pending = s.pending)) ∧
  (∀ (s : State), s.isMaster = false →
     (s.tb.running = true → (∀ m, s.tb.lastMark = some m → m + 65536 < s.tb.count) → ∃ t, exec .timebaseUnlock s = .next t ∧ t.tb.locked = false ∧ t.tb.alarm = true ∧ t.tb.count = s.tb.count ∧
       t = { s with tb := t.tb, hf := t.hf, outbox := t.outbox, events := t.events, counts := t.counts }) ∧
     (s.timingOk s.primaryPort = false ∨ (∀ m, s.tb.lastMark = some m → m + 16384 < s.tb.count) → s.alternatePort ≠ s.primaryPort →
       exec .timingPortFailover s = .next { s with tb := { s.tb with useAlternate := true } }))

/-! ### Operating points (01, R28-R31; 07, R172) -/

/-- OP_ANNOUNCE as a new command while the count runs. `ok` is R28: the count is a beat edge at least 64 beats ahead of every canvas of the partitions Armed, in Run or in Hold (with none of them, of
a beat of 512 ns), whose compiled points the target does not go below; `far` is R30: a pending change lies at least 64 of the longest beats ahead. With both, a target other than the point in force becomes the
pending change; the point in force, with `far`, leaves none pending; anything else is refused, and the pending change stands (01, R28, R30). R28 and R30 name no status for the refusal: EXTENT, and STATE
while the count does not run (14, R316), are the model's choice (log 104), as is the refusal of a point above 4 (log 21).
A pending change refuses a canvas that no other check refuses: with EXTENT where its count is no beat edge of the canvas or lies fewer than 64 of its beats ahead (01, R29), and with SIGNATURE, row 7 of R149 (06),
where the target is faster than the canvas's point (log 74).
A change of operating point (01, R31; 07, R172): to a faster point the raise of the rail begins so as to end at the count; at the count the regions
take the target's frequency, and to a slower point the rail's lowering begins; a slew ends with the rail at its target. Nothing else changes but with
the passing of time.
Completes: OP_ANNOUNCE, RAIL_RAISE_START, OP_CHANGE_COUNT, RAIL_SLEW_DONE. -/
def Obligations.OperatingPoints : Prop :=
  ((∀ (s : State) (seq : W32) (target : BitVec 3) (count : Count) (ok far : Prop), s.managed = true → s.hf.lastSeq ≠ some seq →
     (ok ↔ (s.active = [] → count % 512 = 0 ∧ s.tb.count + 32768 ≤ count) ∧
       ∀ n ∈ s.active, (∀ b ∈ (s.part n).beats, count % b = 0 ∧ s.tb.count + 64 * b ≤ count) ∧ ∀ c ∈ (s.part n).canvases, c.op ≤ target.toNat) →
     (far ↔ ∀ x, s.op.pend = some x → s.tb.count + 64 * s.longestBeat ≤ x.2) →
     (s.tb.running = false → exec (.opAnnounce seq target count) s = .next (({ s with hf := { s.hf with lastSeq := some seq, lastAnswer := [0x04] } }).emit (.answer seq [0x04]))) ∧
     (s.tb.running = true → ∃ t, exec (.opAnnounce seq target count) s = .next t ∧
       t = { s with op := t.op, hf := t.hf, outbox := t.outbox } ∧ t.op = { s.op with pend := t.op.pend } ∧
       (target.toNat = s.op.cur → target.toNat ≤ 4 → far → t.op.pend = none ∧ t.outbox = s.outbox ++ [.answer seq [0x00]]) ∧
       (target.toNat ≤ 4 → target.toNat ≠ s.op.cur → ok → far → t.op.pend = some (target.toNat, count) ∧ t.outbox = s.outbox ++ [.answer seq [0x00]]) ∧
       (4 < target.toNat ∨ ¬ far ∨ (target.toNat ≠ s.op.cur ∧ ¬ ok) → t.op.pend = s.op.pend ∧ t.outbox = s.outbox ++ [.answer seq [0x01]]))) ∧
   (∀ (s : State) (n : Nat) (img : Img) (room : Nat) (next : Bool) (x count b : Nat), s.op.pend = some (x, count) → b = 2 ^ (headCanvas img 0).beatExp →
     ({ s with op := { s.op with pend := none } } : State).imageCheck n img room next = none →
     (x < (headCanvas img 0).op → ∃ e, s.imageCheck n img room next = some e ∧ e.status = stSIGNATURE) ∧
     ((headCanvas img 0).op ≤ x → count % b ≠ 0 ∨ count < s.tb.count + 64 * b → ∃ e, s.imageCheck n img room next = some e ∧ e.status = stEXTENT) ∧
     ((headCanvas img 0).op ≤ x → count % b = 0 → s.tb.count + 64 * b ≤ count → s.imageCheck n img room next = none))) ∧
  (∀ (s : State) (t : Count) (target : Nat), s.tb.running = true → s.tb.count ≤ t → t < 2 ^ 64 →
     (∀ count, s.op.pend = some (target, count) → target < s.op.cur → s.op.railBusy = false → t = count - slewNs (opMv s.op.cur) (opMv target) →
       exec (.railRaiseStart t) s = .next { s.advance t with
         op := { (s.advance t).op with railBusy := true, railTo := opMv target, railEnd := count } }) ∧
     (s.op.pend = some (target, t) → ∃ u, exec (.opChangeCount t) s = .next u ∧ u.op.cur = target ∧ u.op.pend = none ∧
       (opMv target < s.op.railMv → u.op.railBusy = true ∧ u.op.railTo = opMv target ∧ u.op.railEnd = t + slewNs s.op.railMv (opMv target)) ∧
       u = { s.advance t with op := u.op }) ∧
     (s.op.railBusy = true → s.op.railEnd ≤ t →
       exec (.railSlewDone t) s = .next { s.advance t with op := { (s.advance t).op with railBusy := false, railMv := s.op.railTo } }))

/-! ### Beats, holds and starts (01, R17-R36; 10, R236) -/

/-- BEAT_EDGE at an edge of a partition's beat (01, R17, R19, R33; 04, R108), once every pass has come to the present cycle: in Hold the partition only notes the edge, and no stall counts it. In Run each core whose
edge it is, and whose next segment is due, starts it, and no other; with one core, every stall that began before the edge counts it.
LAMP_AUDIT at a multiple of 512 (07, R171; 13, R298): where every core's, every partition's and every die's ledger adds up and no ledger's own logic shows an error, the partitions not Absent note their D
and nothing else changes; a core in Run whose ledger disagrees stops its partition, and so does a hardware error in the logic of a partition's ledger, which the model learns of here (log 85); that every pass comes to the present cycle
first is the model's form (log 73).
Completes: BEAT_EDGE, LAMP_AUDIT. -/
def Obligations.BeatEdgeAndAudit : Prop :=
  (∀ (s : State) (pt : Pt) (t : Count) (w : State), s.tb.running = true → s.tb.count ≤ t → t < 2 ^ 64 → w = (s.advance t).catchUp → t % (w.part pt.val).beatLen = 0 →
     (w.part pt.val).lastEdge ≠ t →
     ((w.part pt.val).st = .hold → exec (.beatEdge pt t) s = .next (w.updPart pt.val fun p => { p with lastEdge := t })) ∧
     ((w.part pt.val).st = .run → w.assayEn pt.val = false →
       (∃ v, exec (.beatEdge pt t) s = .next v ∧ (v.part pt.val).lastEdge = t ∧ (v.part pt.val).st = .run ∧
         (∀ c ∈ w.coresOf pt.val, (v.core c).segOpen = ((w.core c).segOpen || (decide (t % (w.core c).beatNs = 0) && w.segmentDue pt.val c))) ∧
         v = { w with parts := v.parts, cores := v.cores, events := v.events, counts := v.counts, canAcc := v.canAcc }) ∧
       ∀ c u, w.coresOf pt.val = [c] → t % (w.core c).beatNs = 0 →
         u = (w.updPart pt.val fun p => { p with lastEdge := t }).updCore c (fun k => k.countEdge t) →
         exec (.beatEdge pt t) s = .next (if u.segmentDue pt.val c then u.startSegment pt.val c else u))) ∧
  (∀ (s : State) (t : Count), s.tb.running = true → s.tb.count ≤ t → t < 2 ^ 64 → t % 512 = 0 →
     ((∀ e ∈ s.parts, e.2.notAbsent = true → (∀ c ∈ s.coresOf e.1, (s.core c).counted = (s.core c).held) ∧ ∀ d, d < 6 → s.countedOn e.1 d = (s.part e.1).heldOn d) →
       (∀ d, d < 6 → s.countedDie d = s.drawn d) →
       ∃ v, exec (.lampAudit ⟨t, []⟩) s = .next v ∧ v = { s.advance t with parts := v.parts } ∧
         ∀ n, v.part n = { s.part n with lampStat := (v.part n).lampStat }) ∧
     (∀ n c, (n, s.part n) ∈ s.parts → (s.part n).st = .run → c ∈ s.coresOf n → (s.core c).counted ≠ (s.core c).held →
       ∃ v, exec (.lampAudit ⟨t, []⟩) s = .next v ∧ (v.part n).st = .faultStop) ∧
     ∀ e : LedgerErr, e.ledger.val = 3 ∨ e.ledger.val = 4 ∨ e.ledger.val = 5 ∨ e.ledger.val = 7 → (s.part e.part.val).st = .run ∨ (s.part e.part.val).st = .hold →
       ∃ v, exec (.lampAudit ⟨t, [e]⟩) s = .next v ∧ (v.part e.part.val).st = .faultStop)

/-- HOLD and RELEASE of the tree, as new commands, at a count that is a beat edge of the partition at least 8 beats ahead (01, R32, R34): the count is
pending, and the answer is OK. No other partition, no core and no register changes.
A hold of a partition in no Run, or with a hold pending, is refused with STATE, and one at a count that breaks R32 with EXTENT; so is a release of one that is not in Hold, or too near; only the answer
changes (01, R32, R34; 12, "Status codes"; STATE for a second hold or release while one waits is log 34).
HOLD_ENTRY: once the count has come, every core of the partition has stopped and is quiet, and no mesh increment is in flight (log 75), the partition is in Hold and reports it (01, R32), where its
ledger of mesh increments adds up and no operation of its steward waits. Stores, flags and the other partitions' states are as they were (01, R33).
RELEASE_COUNT: the partition is in Run again, the hold is over, and the release is reported; each core with segments left starts its held one at the count with zero lateness, and later ones belong
to beats renumbered from it; a core that waits for a handover waits longer by the length of the hold (01, R34; log 61).
Completes: HOLD, HOLD_ENTRY, RELEASE, RELEASE_COUNT. -/
def Obligations.HoldAndRelease : Prop :=
  ((∀ (s : State) (seq : W32) (pt : Pt) (count : Count), s.managed = true → s.hf.lastSeq ≠ some seq → s.edgeAhead pt.val 8 count = true →
      ((s.part pt.val).st = .run → (s.part pt.val).holdAt = none →
        ∃ t, exec (.hold seq pt count) s = .next t ∧ t.part pt.val = { s.part pt.val with holdAt := some count, holdTag := none } ∧ s.otherParts t pt.val ∧
          t.outbox = s.outbox ++ [.answer seq [0x00]] ∧ t = { s with parts := t.parts, hf := t.hf, outbox := t.outbox }) ∧
      ((s.part pt.val).st = .hold → (s.part pt.val).releaseAt = none →
        ∃ t, exec (.release seq pt count) s = .next t ∧ t.part pt.val = { s.part pt.val with releaseAt := some count, releaseTag := none } ∧
          s.otherParts t pt.val ∧ t.outbox = s.outbox ++ [.answer seq [0x00]] ∧ t = { s with parts := t.parts, hf := t.hf, outbox := t.outbox })) ∧
   (∀ (s : State) (seq : W32) (pt : Pt) (count : Count), s.managed = true → s.hf.lastSeq ≠ some seq →
      ((s.part pt.val).st ≠ .run ∨ (s.part pt.val).holdAt.isSome = true →
        exec (.hold seq pt count) s = .next (({ s with hf := { s.hf with lastSeq := some seq, lastAnswer := [0x04] } }).emit (.answer seq [0x04]))) ∧
      ((s.part pt.val).st = .run → (s.part pt.val).holdAt = none → s.edgeAhead pt.val 8 count = false →
        exec (.hold seq pt count) s = .next (({ s with hf := { s.hf with lastSeq := some seq, lastAnswer := [0x01] } }).emit (.answer seq [0x01]))) ∧
      ((s.part pt.val).st ≠ .hold ∨ (s.part pt.val).releaseAt.isSome = true →
        exec (.release seq pt count) s = .next (({ s with hf := { s.hf with lastSeq := some seq, lastAnswer := [0x04] } }).emit (.answer seq [0x04]))) ∧
      ((s.part pt.val).st = .hold → (s.part pt.val).releaseAt = none → s.edgeAhead pt.val 8 count = false →
        exec (.release seq pt count) s = .next (({ s with hf := { s.hf with lastSeq := some seq, lastAnswer := [0x01] } }).emit (.answer seq [0x01]))))) ∧
  ((∀ (s : State) (pt : Pt) (h : Count), (s.part pt.val).st = .run → (s.part pt.val).holdAt = some h → h ≤ s.tb.count → (∀ v, (s.part pt.val).srv = some v → v.ops = []) →
      (∀ c ∈ s.coresOf pt.val, (s.core c).stoppedFor (s.part pt.val) h = true ∧ (s.core c).quiet = true) →
      s.meshInFlight pt.val = 0 → (s.part pt.val).meshSent = (s.part pt.val).meshApplied →
      ∃ t, exec (.holdEntry pt) s = .next t ∧ (t.part pt.val).st = .hold ∧ (t.part pt.val).holdAt = some h ∧ (∀ m, (m ≠ pt.val) → (t.part m) = (s.part m)) ∧
        t = { s with parts := t.parts, rings := t.rings }) ∧
   (∀ (s : State) (pt : Pt) (t : Count), s.tb.running = true → s.tb.count ≤ t → t < 2 ^ 64 → (s.part pt.val).st = .hold →
      (s.part pt.val).releaseAt = some t →
      ∃ u, exec (.releaseCount pt t) s = .next u ∧ (u.part pt.val).st = .run ∧ (u.part pt.val).holdAt = none ∧ (u.part pt.val).releaseAt = none ∧
        (u.part pt.val).lastEdge = t ∧ s.otherParts u pt.val ∧
        (∀ c ∈ s.coresOf pt.val, (s.core c).handover = none → (s.core c).ended = false →
          (u.core c).segOpen = true ∧ (u.core c).segStart = t ∧ (u.core c).segNo = (s.core c).segNo ∧ (u.core c).edge (u.core c).segNo = (t : Int) ∧ (u.core c).lateness = 0) ∧
        (∀ c, c ∉ s.coresOf pt.val → u.core c = s.core c) ∧ u = { s.advance t with parts := u.parts, rings := u.rings, cores := u.cores }))

/-- The start of a partition (10, R236; 12, R279): GATE_OPEN of one that is Armed and Confirmed sets its start count, START_COUNT brings it into Run and
reports it, and every core of it begins segment 0 at that count (01, R19); START_ABORT and GATE_TIMEOUT call the start off: it stays Armed with its weights, and the abort is reported. A
START_ABORT of a partition that is not Armed is answered STATE (the model's choice, log 103).
Completes: GATE_OPEN, START_COUNT, START_ABORT, GATE_TIMEOUT. -/
def Obligations.GateAndStart : Prop :=
  (∀ (s : State) (seq : W32) (pt : Pt), s.managed = true → s.hf.lastSeq ≠ some seq → (s.part pt.val).st ≠ .armed →
    exec (.startAbort seq pt) s = .next (({ s with hf := { s.hf with lastSeq := some seq, lastAnswer := [0x04] } }).emit (.answer seq [0x04]))) ∧
  ∀ (s : State) (seq : W32) (pt : Pt) (count t : Count), s.managed = true → s.hf.lastSeq ≠ some seq → (s.part pt.val).st = .armed →
    s.tb.running = true → s.tb.count ≤ t → t < 2 ^ 64 →
    ((s.part pt.val).wt = .confirmed → (s.part pt.val).startAt = none → s.edgeAhead pt.val 16 count = true →
      ∃ u, exec (.gateOpen seq pt count) s = .next u ∧ u.part pt.val = { s.part pt.val with startAt := some count } ∧ s.otherParts u pt.val ∧
        u.outbox = s.outbox ++ [.answer seq [0x00]] ∧ u = { s with parts := u.parts, hf := u.hf, outbox := u.outbox }) ∧
    ((s.part pt.val).startAt = some t →
      ∃ u, exec (.startCount pt t) s = .next u ∧ (u.part pt.val).st = .run ∧ (u.part pt.val).startAt = none ∧ (u.part pt.val).confirmedAt = none ∧
        (u.part pt.val).wt = (s.part pt.val).wt ∧ s.otherParts u pt.val ∧
        (∀ c ∈ s.coresOf pt.val, (u.core c).segOpen = true ∧ (u.core c).segNo = 0 ∧ (u.core c).segStart = t ∧ (u.core c).base = (t : Int) ∧ (u.core c).lateness = 0) ∧
        (∀ c, c ∉ s.coresOf pt.val → u.core c = s.core c) ∧ u = { s.advance t with parts := u.parts, rings := u.rings, cores := u.cores }) ∧
    (∃ u, exec (.startAbort seq pt) s = .next u ∧ (u.part pt.val).st = .armed ∧ (u.part pt.val).startAt = none ∧ (u.part pt.val).confirmedAt = none ∧
        (u.part pt.val).wt = (s.part pt.val).wt ∧ s.otherParts u pt.val ∧ u = { s with parts := u.parts, hf := u.hf, outbox := u.outbox, rings := u.rings }) ∧
    (∀ c, (s.part pt.val).confirmedAt = some c → (s.part pt.val).startAt = none → c + cf s .ptWtCfg pt.val 0 15 0 * 1000000 ≤ t →
      ∃ u, exec (.gateTimeout pt t) s = .next u ∧ (u.part pt.val).st = .armed ∧ (u.part pt.val).startAt = none ∧ (u.part pt.val).confirmedAt = none ∧
        s.otherParts u pt.val ∧ u = { s.advance t with parts := u.parts, hf := u.hf, outbox := u.outbox, rings := u.rings })
/-! ### The sequencer (04, R87-R112; 01, R19-R24) -/

/-- Issue of the engine commands, and of SEND, RECV, SET and WAIT into a named queue (04, R87, R88, R91): the command goes to the tail of its queue with
its address fields plus the scalar registers its index fields name, and issue moves on. Nothing else of the core changes but its pending
bits and the time of a wait that ended; nothing outside the core changes. While its queue is full, or, for a SEND on a shaft, before its port has switched to the canvas's calendar (01, R36),
the command waits, and only the wait is noted. Completes: MPASS, WLOAD, ADD, SUB, MUL, FMA, DIV, SQRT, MIN, MAX, NEG, ABS, CONV, RSUM, RMAX, EXP2, VCOMB, MOVE, SPLIT, GATHER, SCATTER, FETCH,
STORE, SEND, RECV_ACQUIRE, RECV_RELEASE, SET, WAIT. -/
def Obligations.CommandsEnterQueues : Prop :=
  ∀ (s : State) (c : CoreId) (ecc hbm : List EccAt) (n : Nat) (q : Cmd) (e : Instr × (Cmd → Bool)), (e ∈ engineRows c ecc hbm ∨ e ∈ flowRows c ecc hbm) →
    s.issues c ecc n q → e.2 q = true → q.queue < 4 →
    (((s.core c).queue q.queue).length < queueDepth q.queue → s.portSwitched c n q →
      ∃ t y, exec e.1 s = .next t ∧ t = s.setCore c (t.core c) ∧
        (t.core c).queue q.queue = (s.core c).queue q.queue ++ [y] ∧ (∀ r, r ≠ q.queue → (t.core c).queue r = (s.core c).queue r) ∧
        y.cmd = q ∧ y.idx = (s.core c).pc ∧ y.gen = (s.core c).gen ∧
        y.a = (q.addrA : Int) + (if q.ixaEn then ((s.core c).scalar q.ixa).toInt else 0) ∧
        y.b = (q.addrB : Int) + (if q.ixbEn then ((s.core c).scalar q.ixb).toInt else 0) ∧
        t.core c = { (s.core c).after (t.core c) with queues := (t.core c).queues, issued := (s.core c).issued + 1, wpend := (t.core c).wpend, rpend := (t.core c).rpend }) ∧
    (queueDepth q.queue ≤ ((s.core c).queue q.queue).length ∨ ¬ s.portSwitched c n q →
      ∃ t, exec e.1 s = .next t ∧ t = s.setCore c (t.core c) ∧ (Tab.find (t.core c).lampWait 4).isSome = true ∧
        t.core c = { s.core c with lampWait := (t.core c).lampWait })

/-- What stops or skips the command at issue (04, R90, R110; 05, R117): a failed check is a fault-stop COMMAND_REFUSED whose SUB names the check; a command whose
predicate does not let it act is skipped, counted, and changes nothing else; a poisoned word of the stream is a fault-stop, and so is one that the reading finds uncorrectable; corrected errors are
counted, and the command issues as without them. QUEUE of a refusal's record (log 19), and that the checks come before the predicate (log 25), are the model's choice. -/
def Obligations.IssueStopsAndSkips : Prop :=
  ∀ (s : State) (c : CoreId) (ecc hbm : List EccAt) (n : Nat) (q : Cmd) (e : Instr × (Cmd → Bool)), (e ∈ engineRows c ecc hbm ∨ e ∈ flowRows c ecc hbm) → s.partOf c = some n →
    s.canIssue n c = true → s.nextCmd c = q → e.2 q = true → (s.core c).segCyc + q.notBefore ≤ s.cycles c →
    (∀ a, s.poisonedAt c (s.cmdBytes c) = some a →
      exec e.1 s = .next (s.faultStop n { code := cUNCORRECTED, core := some c, queue := 4, cmd := (s.core c).pc, addr := (a / 16 * 16).toNat })) ∧
    (s.poisonedAt c (s.cmdBytes c) = none → (s.part n).st = .run → ∀ x, ecc = [x] → x.ecc = .uncorrectable → (x.addr : Int) ∈ s.cmdBytes c →
      exec e.1 s = .next ((s.readError n c x).faultStop n { code := cUNCORRECTED, core := some c, queue := 4, cmd := (s.core c).pc, addr := x.addr / 16 * 16 })) ∧
    (s.poisonedAt c (s.cmdBytes c) = none → (∀ x ∈ ecc, x.ecc ≠ .uncorrectable) →
      ∀ (i : Nat) e', (engineRows c ecc hbm ++ flowRows c ecc hbm)[i]? = some e → (engineRows c [] hbm ++ flowRows c [] hbm)[i]? = some e' →
        exec e.1 s = exec e'.1 (s.readErrors n c 4 (s.core c).pc (s.cmdBytes c) true ecc)) ∧
    (s.poisonedAt c (s.cmdBytes c) = none → cleanReads ecc → ∀ sub, q.check (s.core c) c.core.val (s.ownsClu n) = some sub →
      exec e.1 s = .next (s.faultStop n { code := cREFUSED, sub := sub, core := some c, queue := q.queue, cmd := (s.core c).pc })) ∧
    (s.poisonedAt c (s.cmdBytes c) = none → cleanReads ecc → q.check (s.core c) c.core.val (s.ownsClu n) = none → (s.part n).st = .run → (s.core c).predicate q = false →
      exec e.1 s = .next ((s.setCore c (s.core c).next).count .skipped (.core c) (some n)))

/-- SET, WAIT and RECV with QUEUE 4 act in the sequencer (04, R105-R107). WAIT takes N from its flag, or stalls on it. SET of its own core's flag adds one where the flag's role is the command's,
and is counted as STRAY where it is not; past 65,535 the partition stops (04, R106). A SET for another core of the partition goes out on the mesh; one on a shaft waits at its port as a flit of zeros.
ACQUIRE of a full slot goes on, of an empty one stalls. RELEASE empties the slot and sends its credit back on the mesh, once the passes have come to the present cycle. Everything else of the core is as
it was. With QUEUE 4.
Completes: WAIT, SET, RECV_ACQUIRE, RECV_RELEASE. -/
def Obligations.FlowInSequencer : Prop :=
  ∀ (s : State) (c : CoreId) (ecc hbm : List EccAt) (n : Nat) (q : Cmd), s.issues c ecc n q → q.queue = 4 → s.assayEn n = false →
    (q.opcode = 0x39 →
      (q.waitN ≤ (s.core c).flag q.waitFlag → (s.core c).waitTurn 4 q.waitFlag q.waitN s.now = true →
        ∃ t, exec (.wait ⟨c, ecc, hbm⟩) s = .next t ∧ t = s.setCore c (t.core c) ∧ (t.core c).flag q.waitFlag = (s.core c).flag q.waitFlag - q.waitN ∧
          (∀ f, f ≠ q.waitFlag → (t.core c).flag f = (s.core c).flag f) ∧
          t.core c = { (s.core c).after (t.core c) with flags := (t.core c).flags }) ∧
      ((s.core c).flag q.waitFlag < q.waitN →
        ∃ t x, exec (.wait ⟨c, ecc, hbm⟩) s = .next t ∧ t = s.setCore c (t.core c) ∧ Tab.find (t.core c).stalls 4 = some x ∧ x.item = q.waitFlag ∧
          (Tab.find (s.core c).stalls 4 = none → x.since = s.now ∧ x.edges = 0 ∧ x.limit = s.limit n (wf q.w0 13 2)) ∧
          t.core c = { s.core c with stalls := (t.core c).stalls, lost := (t.core c).lost })) ∧
    (q.opcode = 0x38 → q.setRoute = 0 →
      ((s.core c).flagOk (roleTag (s.core c).gen q.role) q.setFlag = true → (s.core c).flag q.setFlag < 65535 →
        ∃ t, exec (.set ⟨c, ecc, hbm⟩) s = .next t ∧ t = s.setCore c (t.core c) ∧ (t.core c).flag q.setFlag = (s.core c).flag q.setFlag + 1 ∧
          (∀ f, f ≠ q.setFlag → (t.core c).flag f = (s.core c).flag f) ∧
          t.core c = { (s.core c).after (t.core c) with flags := (t.core c).flags }) ∧
      ((s.core c).flagOk (roleTag (s.core c).gen q.role) q.setFlag = true → 65535 ≤ (s.core c).flag q.setFlag →
        ∃ t, exec (.set ⟨c, ecc, hbm⟩) s = .next t ∧ (t.part n).st = .faultStop ∧ ∀ f, (t.core c).flag f = (s.core c).flag f) ∧
      ((s.core c).flagOk (roleTag (s.core c).gen q.role) q.setFlag = false →
        ∃ t, exec (.set ⟨c, ecc, hbm⟩) s = .next t ∧ t = (s.count .stray (.core c) (some n)).setCore c (t.core c) ∧ t.core c = (s.core c).after (t.core c))) ∧
    (q.opcode = 0x38 → q.setRoute = 1 →
      ∃ t, exec (.set ⟨c, ecc, hbm⟩) s = .next t ∧ t = { s.setCore c (t.core c) with parts := t.parts, meshSets := t.meshSets } ∧
        t.meshSets = s.meshSets ++ [{ pt := n, src := c, dst := q.dest, flag := q.setFlag, tag := roleTag (s.core c).gen q.role, vc := [] }] ∧
        t.part n = { s.part n with meshSent := (s.part n).meshSent + 1 } ∧ s.otherParts t n ∧ t.core c = (s.core c).after (t.core c)) ∧
    (q.opcode = 0x38 → q.setRoute = 2 → ∀ p shaft, (s.core c).sends[q.shaftIx]? = some (p, shaft) → (s.port p).outstanding < 16384 →
      ∃ t, exec (.set ⟨c, ecc, hbm⟩) s = .next t ∧ t = { s.setCore c (t.core c) with ports := t.ports } ∧
        t.port p = { s.port p with shaftq := (s.port p).shaftq ++
          [{ pt := n, gen := (s.core c).gen, shaft := shaft, role := roleTag (s.core c).gen q.role, payload := List.replicate 240 0, src := some c }] } ∧
        s.otherPorts t p ∧ t.core c = (s.core c).after (t.core c)) ∧
    (q.opcode = 0x31 → q.recvRelease = false →
      (((s.core c).slot (slotIx (s.core c).gen q.recvSlot)).full = true →
        ∃ t, exec (.recvAcquire ⟨c, ecc, hbm⟩) s = .next t ∧ t = s.setCore c (t.core c) ∧ t.core c = (s.core c).after (t.core c)) ∧
      (((s.core c).slot (slotIx (s.core c).gen q.recvSlot)).full = false →
        ∃ t x, exec (.recvAcquire ⟨c, ecc, hbm⟩) s = .next t ∧ t = s.setCore c (t.core c) ∧ Tab.find (t.core c).stalls 4 = some x ∧ x.item = slotItem q.recvSlot ∧
          t.core c = { s.core c with stalls := (t.core c).stalls, lost := (t.core c).lost })) ∧
    (q.opcode = 0x31 → q.recvRelease = true → ∀ u i, u = s.catchUp → i = slotIx (s.core c).gen q.recvSlot → (u.part n).st = .run →
      ∃ t, exec (.recvRelease ⟨c, ecc, hbm⟩) s = .next t ∧ ((t.core c).slot i).full = false ∧ (t.core c).pc = (u.core c).pc + 1 ∧
        (∀ j, j ≠ i → (t.core c).slot j = (u.core c).slot j) ∧
        (∀ src, ((u.core c).slot i).src = some (.mesh src) →
          t = { u.setCore c (t.core c) with credits := u.credits ++ [{ pt := n, src := src, dst := c, slot := i, vc := [] }] } ∧
          t.core c = { (u.core c).after (t.core c) with slotSt := (t.core c).slotSt }) ∧
        (((u.core c).slot i).src = none → t = u.setCore c (t.core c) ∧ t.core c = { (u.core c).after (t.core c) with slotSt := (t.core c).slotSt }))

/-- LOOP, ENDLOOP, PSET, SSET and PACE (04, R109-R111): LOOP latches its count, from its words or from a scalar register, and opens a frame, or with a count of zero moves past its ENDLOOP; ENDLOOP
goes back until the count is spent; PSET writes its predicate bit only and SSET its scalar register only, each from its set source; PACE goes on once the queue is short enough.
Completes: LOOP, ENDLOOP, PSET, SSET, PACE. -/
def Obligations.LoopsAndScalars : Prop :=
  ∀ (s : State) (c : CoreId) (ecc hbm : List EccAt) (n : Nat) (q : Cmd), s.issues c ecc n q →
    (q.opcode = 0x40 → ∀ count, count = (if wb q.w0 22 then ((s.core c).scalar (wf q.w0 21 18)).toNat else wf q.w1 63 48) →
      (count ≠ 0 → exec (.loop ⟨c, ecc, hbm⟩) s = .next (s.setCore c { s.core c with
        loops := { body := (s.core c).pc + 1, left := count } :: (s.core c).loops, pc := (s.core c).pc + 1,
        ahead := Tab.erase (s.core c).ahead (s.core c).pc, ended := decide ((s.core c).streamLen ≤ (s.core c).pc + 1) })) ∧
      (count = 0 → ∀ i, i = s.afterEndloop c ((s.core c).streamLen - ((s.core c).pc + 1)) ((s.core c).pc + 1) 0 →
        exec (.loop ⟨c, ecc, hbm⟩) s = .next (s.setCore c { s.core c with
          pc := i, ahead := Tab.erase (s.core c).ahead (s.core c).pc, ended := decide ((s.core c).streamLen ≤ i) }) ∧
        (s.core c).pc < i)) ∧
    (q.opcode = 0x41 → ∀ f fs, (s.core c).loops = f :: fs →
      ∃ t, exec (.endloop ⟨c, ecc, hbm⟩) s = .next t ∧ t = s.setCore c (t.core c) ∧
        (1 < f.left → (t.core c).pc = f.body ∧ (t.core c).loops = { f with left := f.left - 1 } :: fs) ∧
        (f.left ≤ 1 → (t.core c).pc = (s.core c).pc + 1 ∧ (t.core c).loops = fs) ∧
        t.core c = { s.core c with pc := (t.core c).pc, loops := (t.core c).loops, ahead := (t.core c).ahead, ended := (t.core c).ended }) ∧
    (q.opcode = 0x48 → ∃ t, exec (.pset ⟨c, ecc, hbm⟩) s = .next t ∧ t = { s.setCore c (t.core c) with fresh := t.fresh } ∧
      t.core c = { (s.core c).next with preds := (t.core c).preds } ∧
      (∀ i, i ≠ wf q.w0 22 19 → (t.core c).preds.getLsbD i = (s.core c).preds.getLsbD i) ∧
      (wf q.w0 18 16 = 0 → (t.core c).preds.getLsbD (wf q.w0 22 19) = wb q.w1 32) ∧
      (wf q.w0 18 16 = 1 → (t.core c).preds.getLsbD (wf q.w0 22 19) = compare (wf q.w0 2 0) ((s.core c).scalar (wf q.w0 15 12)).toNat (wf q.w1 63 32)) ∧
      (wf q.w0 18 16 = 2 → (t.core c).preds.getLsbD (wf q.w0 22 19) = compare (wf q.w0 2 0) ((s.core c).flag (wf q.w0 11 6)) (wf q.w1 63 32)) ∧
      (wf q.w0 18 16 = 3 → wf q.w0 5 3 < 4 →
        (t.core c).preds.getLsbD (wf q.w0 22 19) = compare (wf q.w0 2 0) ((s.core c).queue (wf q.w0 5 3)).length (wf q.w1 63 32)) ∧
      (4 ≤ wf q.w0 18 16 → (t.core c).preds.getLsbD (wf q.w0 22 19) = (s.core c).fpstat.getLsbD (wf q.w0 15 12))) ∧
    (q.opcode = 0x49 → ∃ t, exec (.sset ⟨c, ecc, hbm⟩) s = .next t ∧ t = { s.setCore c (t.core c) with fresh := t.fresh } ∧
      t.core c = { (s.core c).next with sc := (t.core c).sc } ∧
      (∀ i, i ≠ wf q.w0 22 19 → (t.core c).scalar i = (s.core c).scalar i) ∧
      (wf q.w0 18 16 = 0 → (t.core c).scalar (wf q.w0 22 19) = BitVec.ofNat 32 (wf q.w1 63 32)) ∧
      (wf q.w0 18 16 = 1 → (t.core c).scalar (wf q.w0 22 19) = (s.core c).scalar (wf q.w0 15 12) + BitVec.ofNat 32 (wf q.w1 63 32)) ∧
      (wf q.w0 18 16 = 2 → (t.core c).scalar (wf q.w0 22 19) = BitVec.ofNat 32 ((s.core c).flag (wf q.w0 11 6))) ∧
      (wf q.w0 18 16 = 3 → wf q.w0 5 3 < 4 → (t.core c).scalar (wf q.w0 22 19) = BitVec.ofNat 32 ((s.core c).queue (wf q.w0 5 3)).length) ∧
      (wf q.w0 18 16 = 4 → (t.core c).scalar (wf q.w0 22 19) = (s.core c).scalar (wf q.w0 15 12)) ∧
      (wf q.w0 18 16 = 5 → (t.core c).scalar (wf q.w0 22 19) = (s.core c).scalar (wf q.w0 22 19) + (s.core c).scalar (wf q.w0 15 12))) ∧
    (q.opcode = 0x51 → ((s.core c).queue (wf q.w0 22 20)).length ≤ wf q.w0 19 12 →
      ∃ t, exec (.pace ⟨c, ecc, hbm⟩) s = .next t ∧ t = s.setCore c (t.core c) ∧ t.core c = (s.core c).after (t.core c))

/-- PACE holds all later issue until its queue is short enough; a threshold at or above the depth of the queue is met at once, and thresholds 128 to 255 are refused with EXTENT
(04, R111): the partition fault-stops, and issue does not move on. QUEUE of the record (log 19), and the refusal whatever the predicate (log 25), are the model's choice. -/
def Obligations.PaceHolds : Prop :=
  ∀ (s : State) (c : CoreId) (ecc hbm : List EccAt) (n : Nat) (q : Cmd), q.opcode = 0x51 →
    (s.issues c ecc n q → ((s.core c).queue (wf q.w0 22 20)).length ≤ queueDepth (wf q.w0 22 20) →
      ((wf q.w0 19 12 < ((s.core c).queue (wf q.w0 22 20)).length) →
        ∃ t, exec (.pace ⟨c, ecc, hbm⟩) s = .next t ∧ t = s.setCore c (t.core c) ∧ t.core c = { s.core c with lampWait := (t.core c).lampWait } ∧ t.nextCmd c = q) ∧
      (((s.core c).queue (wf q.w0 22 20)).length ≤ wf q.w0 19 12 ∨ queueDepth (wf q.w0 22 20) ≤ wf q.w0 19 12 →
        ∃ t, exec (.pace ⟨c, ecc, hbm⟩) s = .next t ∧ t = s.setCore c (t.core c) ∧ t.core c = (s.core c).after (t.core c))) ∧
    (s.partOf c = some n → s.canIssue n c = true → s.nextCmd c = q → s.poisonedAt c (s.cmdBytes c) = none → cleanReads ecc → (s.core c).segCyc + q.notBefore ≤ s.cycles c →
      q.reservedBits = false → q.reservedValue c.core.val = false → 128 ≤ wf q.w0 19 12 → (s.part n).st = .run →
      ∃ t, exec (.pace ⟨c, ecc, hbm⟩) s = .next t ∧ t = s.faultStop n { code := cREFUSED, sub := 2, core := some c, queue := q.queue, cmd := (s.core c).pc } ∧
        (t.part n).st = .faultStop ∧ (t.core c).pc = (s.core c).pc)

/-- BEAT (01, R19-R24; 04, R112). While an engine of the core works or holds a command, it waits and nothing changes. On an idle core the segment closes and its margin to the next edge lowers the
partition's slack when it is the least so far; issue moves on, and the next segment waits for its edge: where that edge has passed it starts at once, as late as the time since the edge, and not late where the tick that went past the edge is this one (01, R17, R22).
Queues, flags, stores and the other cores are as they were. Completes: BEAT. -/
def Obligations.BeatClosesSegment : Prop :=
  ∀ (s : State) (c : CoreId) (ecc hbm : List EccAt) (n : Nat) (q : Cmd) (e : Int), s.issues c ecc n q → q.opcode = 0x50 → s.assayEn n = false →
    e = (s.core c).edge ((s.core c).segNo + 1) →
    ((s.core c).idle = false → exec (.beat ⟨c, ecc, hbm⟩) s = .next s) ∧
    ((s.core c).idle = true →
      ∃ t, exec (.beat ⟨c, ecc, hbm⟩) s = .next t ∧ (t.core c).segNo = (s.core c).segNo + 1 ∧ (t.core c).pc = (s.core c).pc + 1 ∧
        (t.part n).slack = (if e - s.now < (s.part n).slack then clampSlack (e - s.now) else (s.part n).slack) ∧
        t.part n = { s.part n with slack := (t.part n).slack } ∧ s.otherParts t n ∧
        t = { s.setCore c (t.core c) with parts := t.parts, events := t.events, counts := t.counts, canAcc := t.canAcc } ∧
        ((s.now : Int) < e → (t.core c).segOpen = false ∧ t = { s.setCore c (t.core c) with parts := t.parts } ∧
          t.core c = { (s.core c).after (t.core c) with segNo := (s.core c).segNo + 1, segOpen := false, beatOld := (t.core c).beatOld, beatNew := (t.core c).beatNew }) ∧
        (e ≤ s.now → (s.core c).pc + 1 < (s.core c).streamLen → (s.core c).handover = none → (∀ h, (s.part n).holdAt = some h → e < h) →
          (t.core c).segOpen = true ∧ (t.core c).segStart = s.now ∧ (t.core c).lateness = (if s.now - e = 1 ∧ s.tb.jumped = true then 0 else (s.now - e).toNat) ∧
          (t.core c).queues = (s.core c).queues ∧ (t.core c).flags = (s.core c).flags))
/-! ### Engines (02, 03, 04, 07) -/

/-- ENGINE_COMMAND_START (04, R87, R88, R104-R107; 07, R164), once the passes in the cubes have come to the present cycle. Where nothing runs on the module it changes nothing, and where no word is poisoned
and no assay runs it touches the cores, and beside them only what a vector command that owes its effect writes: no flag, slot or queue. A head that may start leaves its queue and runs on its unit with its
lamps; each byte that it writes reads as the last write of it, and its results go to banks, scalar registers and FPSTAT; no other store byte, no flag, no accumulator, no predicate and no byte of the stacks changes. A SEND takes the credit of its destination's slot, and its bytes leave on the mesh, or as flits that wait at the port of its
shaft; without the credit it stalls. A WAIT at a queue's head takes N from its flag and leaves the queue. That the whole effect comes at the start (log 26), and the catching up of the passes first (log 73), are the
model's choice. Completes: ENGINE_COMMAND_START. -/
def Obligations.EngineStart : Prop :=
  (∀ s : State, (∀ e ∈ s.cores, e.2.run = []) → s.catchUp = s) ∧
  (∀ s : State, s.poison = [] → (∀ n, s.assayEn n = false) →
    s.catchUp = { s with cores := s.catchUp.cores, coreMem := s.catchUp.coreMem, cluMem := s.catchUp.cluMem, events := s.catchUp.events, counts := s.catchUp.counts, fresh := s.catchUp.fresh } ∧
    (∀ c, (s.catchUp.core c).flags = (s.core c).flags ∧ (s.catchUp.core c).slotSt = (s.core c).slotSt ∧ (s.catchUp.core c).queues = (s.core c).queues ∧ (s.catchUp.core c).pc = (s.core c).pc ∧
      (s.catchUp.core c).held = (s.core c).held) ∧
    ((∀ c r, Tab.find (s.core c).run 4 = some r → r.owed = false) →
      s.catchUp = { s with cores := s.catchUp.cores } ∧
      ∀ c, ∃ l : Core, s.catchUp.core c = { s.core c with accs := l.accs, wpend := l.wpend, rpend := l.rpend, run := l.run, stalls := l.stalls, lampWait := l.lampWait, lost := l.lost, retryItems := l.retryItems, refreshItems := l.refreshItems })) ∧
  (∀ (s u : State) (c : CoreId) (n : Nat) (q : Queue) (x : QCmd) (rest : List QCmd) (ecc : List EccAt), u = s.catchUp → u.starts c n q x rest → cleanReads ecc →
    (x.cmd.opcode ≠ 0x30 →
      ∃ t, exec (.engineCommandStart c q ecc) s = .next t ∧ (t.core c).queue q.code = rest ∧
        (∃ r, Tab.find (t.core c).run x.cmd.unit = some r ∧ r.q = x ∧ r.lamps = x.cmd.lamps ∧ r.startCyc = u.cycles c ∧ r.cycles = (u.effectOf c x).cycles) ∧
        (t.core c).held = (u.core c).held + x.cmd.lamps ∧ (t.core c).fpstat = (u.core c).fpstat ||| (u.effectOf c x).fp ∧
        (t.core c).banks = (u.effectOf c x).banks.foldl (fun m b => Tab.put m b.1 b.2) (u.core c).banks ∧
        (t.core c).accs = (u.core c).accs ∧
        (t.core c).sc = (u.effectOf c x).sc.foldl (fun m b => Tab.put m b.1 b.2) (u.core c).sc ∧
        (t.core c).memq = (u.core c).memq ++ (if x.cmd.opcode = 0x28 ∨ x.cmd.opcode = 0x29 then [u.memReq c x []] else []) ∧
        (t.core c).flags = (u.core c).flags ∧ (t.core c).preds = (u.core c).preds ∧ (t.core c).pc = (u.core c).pc ∧ (t.core c).slotSt = (u.core c).slotSt ∧
        u.storesKept t c ((u.effectOf c x).writes.map (·.1)) ∧ u.otherCores t c ∧
        (u.memoryWf → ∀ (a : Int) (w : Int × Byte), storeOk a = true → ((u.effectOf c x).writes.reverse.find? fun w => decide (byteOf c w.1 = byteOf c a)) = some w → t.readSt c a = w.2) ∧
        t = { u with parts := t.parts, cores := t.cores, coreMem := t.coreMem, cluMem := t.cluMem, lampRoom := t.lampRoom, events := t.events, counts := t.counts, fresh := t.fresh }) ∧
    (x.cmd.opcode = 0x30 → x.cmd.sendRoute = 0 → ∀ i, i = slotIx x.gen x.cmd.sendSlot →
      (((u.core x.cmd.dest).slot i).creditHome = true →
        ∃ t, exec (.engineCommandStart c q ecc) s = .next t ∧ (t.core c).queue q.code = rest ∧ ((t.core x.cmd.dest).slot i).creditHome = false ∧
          t.mesh = u.mesh ++ [{ pt := n, src := c, dst := x.cmd.dest, slot := x.cmd.sendSlot, flag := x.cmd.sendFlag, dfen := x.cmd.sendDfen,
                                tag := roleTag x.gen x.cmd.role, bytes := (u.sendAddrs c x).map (u.readSt c), cmd := x.idx, vc := [] }] ∧
          (t.part n).meshSent = (u.part n).meshSent + b2n x.cmd.sendDfen ∧ u.otherParts t n ∧ (∀ d : CoreId, d.ix ≠ c.ix → d.ix ≠ x.cmd.dest.ix → t.core d = u.core d) ∧
          t = { u with parts := t.parts, cores := t.cores, mesh := t.mesh, lampRoom := t.lampRoom }) ∧
      (((u.core x.cmd.dest).slot i).creditHome = false →
        ∃ t y, exec (.engineCommandStart c q ecc) s = .next t ∧ t = u.setCore c (t.core c) ∧ Tab.find (t.core c).stalls q.code = some y ∧ y.item = slotItem x.cmd.sendSlot ∧
          t.core c = { u.core c with stalls := (t.core c).stalls, lost := (t.core c).lost, lampWait := (t.core c).lampWait })) ∧
    (x.cmd.opcode = 0x30 → x.cmd.sendRoute = 1 → ∀ p shaft, ((u.core c).sendsOf x.gen)[x.cmd.shaftIx]? = some (p, shaft) → (u.port p).outstanding < 16384 →
      u.calendarHas n p shaft x.gen = true → (∀ r ∈ (u.core c).remote, ¬ (r.shaft = some x.cmd.shaftIx ∧ r.slot = slotIx x.gen x.cmd.sendSlot)) →
      ∃ t bs, exec (.engineCommandStart c q ecc) s = .next t ∧ (t.core c).queue q.code = rest ∧ bs = (u.sendAddrs c x).map (u.readSt c) ∧
        t.port p = { u.port p with shaftq := (u.port p).shaftq ++ (pieces 240 (ceilDiv bs.length 240) bs).map fun b =>
          { pt := n, gen := x.gen, shaft := shaft, role := roleTag x.gen x.cmd.role, payload := b, src := some c } } ∧
        u.otherPorts t p ∧ u.otherCores t c ∧ t = { u with parts := t.parts, cores := t.cores, ports := t.ports, lampRoom := t.lampRoom })) ∧
  (∀ (s u : State) (c : CoreId) (n : Nat) (q : Queue) (x : QCmd) (rest : List QCmd) (ecc : List EccAt), u = s.catchUp → u.partOf c = some n → (u.part n).st = .run → q ≠ .seq →
    u.assayEn n = false → (u.core c).old = none → (u.core c).queue q.code = x :: rest → x.cmd.opcode = 0x39 → x.cmd.waitN ≤ (u.core c).flag x.cmd.waitFlag →
    (u.core c).waitTurn q.code x.cmd.waitFlag x.cmd.waitN u.now = true →
    ∃ t, exec (.engineCommandStart c q ecc) s = .next t ∧ t = u.setCore c (t.core c) ∧ (t.core c).queue q.code = rest ∧
      (t.core c).flag x.cmd.waitFlag = (u.core c).flag x.cmd.waitFlag - x.cmd.waitN ∧ (∀ f, f ≠ x.cmd.waitFlag → (t.core c).flag f = (u.core c).flag f) ∧
      t.core c = { u.core c with queues := (t.core c).queues, flags := (t.core c).flags, stalls := (t.core c).stalls, lost := (t.core c).lost, lampWait := (t.core c).lampWait, retryItems := (t.core c).retryItems, refreshItems := (t.core c).refreshItems })

/-- What two engines compute. MOVE without transposition copies (04, R97): each byte of the destination takes the source byte of its place, all of the source being read first, and
no other store byte changes; a transposing MOVE is not in this statement. That all of the source is read first (log 29) and that the copy comes at ENGINE_COMMAND_START (log 26) are the model's choice. In a pass (02, R40-R42), steps 0 to b + i + 3 take the line that each reads, and then the partial sums of row block b and output slice i are those that the cubes of the four
reduction slices have added one after the other, each to what came from the one before it; the line of a reduction slice is the block's, or the one so many lines on in a pre-skewed stripe (R60). -/
def Obligations.MoveCopies : Prop :=
  (∀ (s u : State) (c : CoreId) (n : Nat) (q : Queue) (x : QCmd) (rest : List QCmd) (ecc : List EccAt) (a b : Shape), u = s.catchUp → u.memoryWf → u.starts c n q x rest →
    x.cmd.opcode = 0x20 → cleanReads ecc → wf x.cmd.w0 6 4 = 0 → x.gen = (u.core c).gen → (u.core c).shape (wf x.cmd.w0 22 15) = some a →
    (u.core c).shape (wf x.cmd.w0 14 7) = some b → a.bytes = b.bytes → (b.addrs x.b).Nodup →
    ∃ t, exec (.engineCommandStart c q ecc) s = .next t ∧ u.storesKept t c (b.addrs x.b) ∧
      ∀ i (hs : i < (a.addrs x.a).length) (hd : i < (b.addrs x.b).length), t.readSt c (b.addrs x.b)[i] = u.readSt c (a.addrs x.a)[i]) ∧
  ∀ (p : PassRun) (bank : Bank) (line : Nat → List Byte) (b i : Nat), p.lines = [] → p.sums = [] → b < p.q.cmd.rowBlocks → i < 4 →
    Tab.get [] ((upFrom 0 (b + i + 4)).foldl (fun r t => r.stepOn bank t (if t < p.q.cmd.lines then some (line t) else none)) p).sums (4 * b + i) =
      (upFrom 0 4).foldl (fun sums j => p.q.cmd.cube bank (line (p.q.cmd.lineOf b j)) j i sums) []

/-- ENGINE_COMMAND_COMPLETE and WAIT_TIMEOUT (04, R108; 07, R163; 02, R42, R43), once the passes in the cubes have come to the present cycle. Once a command's cycles have run, or for a pass the last
step of its chain, the unit is free again and its lamps return; before, and while a vector command still owes its effect (02, R53), the
unit goes on, and a SEND whose packets wait for tokens, or whose flits wait at a full port (08, R194), only notes that wait. A stall that has seen as many edges as its limit, and that still
holds, is a fault-stop TIMEOUT with the flag or slot as ITEM: of a pass in the cubes, of the head of a queue or of the sequencer's command; with none nothing changes.
Completes: ENGINE_COMMAND_COMPLETE, WAIT_TIMEOUT. -/
def Obligations.EngineCompletes : Prop :=
  ∀ (s v : State) (c : CoreId) (n : Nat), v = s.catchUp → v.partOf c = some n → (v.part n).st = .run →
    (∀ u r, Tab.rising none (v.core c).run = true → Tab.find (v.core c).run u.code = some r →
      ((r.q.cmd.opcode ≠ 0x01 → r.owed = false ∧ r.startCyc + r.cycles ≤ v.cycles c ∧ (u = .x → (v.core c).inject = [] ∧ v.heldAtPort c = false)) → (r.q.cmd.opcode = 0x01 → r.passes = [] ∧ r.stepAt ≤ v.cycles c) →
        ∃ t, exec (.engineCommandComplete c u) s = .next t ∧ Tab.find (t.core c).run u.code = none ∧ (∀ w, w ≠ u.code → Tab.find (t.core c).run w = Tab.find (v.core c).run w) ∧
          (t.core c).held = (v.core c).held - r.lamps ∧ v.otherCores t c ∧
          ((v.core c).old = none →
            t = { v with parts := t.parts, cores := t.cores, lampRoom := t.lampRoom } ∧ v.otherParts t n ∧
            t.core c = { v.core c with run := (t.core c).run, held := (t.core c).held, kept := (t.core c).kept, rpend := (t.core c).rpend, lampWait := (t.core c).lampWait, lost := (t.core c).lost })) ∧
      (r.q.cmd.opcode ≠ 0x01 → v.cycles c < r.startCyc + r.cycles → exec (.engineCommandComplete c u) s = .next v) ∧
      (r.q.cmd.opcode ≠ 0x01 → r.owed = true → u ≠ .x → exec (.engineCommandComplete c u) s = .next v) ∧
      (r.q.cmd.opcode ≠ 0x01 → r.startCyc + r.cycles ≤ v.cycles c → u = .x → (v.core c).inject ≠ [] ∨ v.heldAtPort c = true →
        ∃ t, exec (.engineCommandComplete c u) s = .next t ∧ t = v.setCore c (t.core c) ∧ t.core c = { v.core c with lampWait := (t.core c).lampWait })) ∧
    (∀ (q : Queue) x, Tab.find (v.core c).stalls q.code = some x → x.limit ≤ x.edges → v.stallHolds n c q.code x = true →
      (q.code < 2 → (v.core c).passStalls q.code = none ∨ Tab.find (v.core c).stalls (5 + q.code) = none) →
      ∃ cmd, exec (.waitTimeout c q) s = .next (v.faultStop n { code := cTIMEOUT, core := some c, queue := q.code, cmd := cmd, item := some x.item }) ∧
        (q = .seq → cmd = (v.core c).pc) ∧ (q ≠ .seq → ∀ y rest, (v.core c).queue q.code = y :: rest → cmd = y.idx)) ∧
    (∀ (q : Queue) x i, q.code < 2 → Tab.find (v.core c).stalls (5 + q.code) = some x → x.limit ≤ x.edges → (v.core c).passStalls q.code = some i →
      exec (.waitTimeout c q) s = .next (v.faultStop n { code := cTIMEOUT, core := some c, queue := q.code, cmd := i, item := some x.item })) ∧
    (∀ q : Queue, v.timedOut n c q = none → exec (.waitTimeout c q) s = .next v)

/-! ### The mesh and memory requests (04, 05) -/

/-- Arrivals on the mesh (04, R104-R107), after the way of each (07, R177; 13, R300). A message lands in its empty slot, fills it, its bytes read back from the slot's place on, and it adds to its flag when it
carries one; one whose role reaches no slot, or whose flag is not of its role, is counted as STRAY, and its credit goes back (04, R115; 13, R296). A SET adds one to its flag, or is STRAY; a credit is home again,
one of a generation that its core no longer accepts changes nothing more (01, R37), and a second one is a LEDGER fault (13, R296). Each arrival leaves the mesh; other cores, stacks and ports are as they were. A pass
that waited for the message goes on (02, R43). That the crossings and link layers of the way come as operands of the arrival is the model's choice (log 77).
Completes: MESH_MESSAGE, MESH_SET_DELIVERY, SLOT_CREDIT_RETURN. -/
def Obligations.MeshArrivals : Prop :=
  ∀ (s : State) (i : Nat) (way : Way),
    (∀ m u, s.mesh[i]? = some m → u = s.catchUp.travel m.pt m.src way → u.takesMessages m.pt = true →
      (∀ d, (u.core m.dst).slotFor m.tag m.slot = some d →
        ((u.core m.dst).slot (slotIx (tagGen m.tag) m.slot)).full = false → m.bytes ≠ [] → m.bytes.length ≤ 256 * d.size → u.poison = [] → u.assayEn m.pt = false →
        (m.dfen = true → (u.core m.dst).flagOk m.tag m.flag = true ∧ (u.core m.dst).flag m.flag < 65535) →
        ∃ t : State, exec (.meshMessage ⟨i, way⟩) s = .next t.catchUp ∧ t.mesh = dropAt u.mesh i ∧ ((t.core m.dst).slot (slotIx (tagGen m.tag) m.slot)).full = true ∧
          ((t.core m.dst).slot (slotIx (tagGen m.tag) m.slot)).src = some (.mesh m.src) ∧
          (∀ f, (t.core m.dst).flag f = (u.core m.dst).flag f + (if m.dfen = true ∧ f = m.flag then 1 else 0)) ∧
          (∀ j, j ≠ slotIx (tagGen m.tag) m.slot → (t.core m.dst).slot j = (u.core m.dst).slot j) ∧
          t.core m.dst = { u.core m.dst with slotSt := (t.core m.dst).slotSt, flags := (t.core m.dst).flags, ahead := (t.core m.dst).ahead } ∧
          (u.memoryWf → ∀ j (h : j < m.bytes.length), storeOk ((d.base + j : Nat) : Int) = true → t.readSt m.dst ((d.base + j : Nat) : Int) = m.bytes[j]) ∧
          u.storesKept t m.dst (landAddrs d.base m.bytes.length) ∧ u.otherCores t m.dst ∧ u.otherParts t m.pt ∧
          t = { u with mesh := t.mesh, parts := t.parts, cores := t.cores, coreMem := t.coreMem, cluMem := t.cluMem, fresh := t.fresh }) ∧
      ((u.core m.dst).slotFor m.tag m.slot = none ∨ (m.dfen = true ∧ (u.core m.dst).flagOk m.tag m.flag = false) →
        ∃ t : State, exec (.meshMessage ⟨i, way⟩) s = .next t.catchUp ∧ t.mesh = dropAt u.mesh i ∧
          t.credits = u.credits ++ [{ pt := m.pt, src := m.src, dst := m.dst, slot := slotIx (tagGen m.tag) m.slot, vc := m.vc }] ∧
          Tab.get 0 t.events (Ev.num .stray) = Tab.get 0 u.events (Ev.num .stray) + 1 ∧
          t = { u with mesh := t.mesh, credits := t.credits, events := t.events, counts := t.counts })) ∧
    (∀ m u, s.meshSets[i]? = some m → u = ({ s with meshSets := dropAt s.meshSets i }).travel m.pt m.src way → u.takesMessages m.pt = true →
      ((u.core m.dst).flagOk m.tag m.flag = true → (u.core m.dst).flag m.flag < 65535 → u.assayEn m.pt = false →
        ∃ t, exec (.meshSetDelivery ⟨i, way⟩) s = .next t ∧ t.meshSets = dropAt s.meshSets i ∧ (t.core m.dst).flag m.flag = (u.core m.dst).flag m.flag + 1 ∧
          t.core m.dst = { u.core m.dst with flags := (t.core m.dst).flags } ∧ (∀ f, f ≠ m.flag → (t.core m.dst).flag f = (u.core m.dst).flag f) ∧
          t = { u.setCore m.dst (t.core m.dst) with parts := t.parts } ∧ u.otherParts t m.pt) ∧
      ((u.core m.dst).flagOk m.tag m.flag = false →
        ∃ t, exec (.meshSetDelivery ⟨i, way⟩) s = .next t ∧ t.meshSets = dropAt s.meshSets i ∧
          Tab.get 0 t.events (Ev.num .stray) = Tab.get 0 u.events (Ev.num .stray) + 1 ∧ t = { u with events := t.events, counts := t.counts })) ∧
    (∀ m u, s.credits[i]? = some m → u = ({ s with credits := dropAt s.credits i }).travel m.pt m.dst way →
      ((u.core m.dst).slotsOf (m.slot / 64) = none → exec (.slotCreditReturn ⟨i, way⟩) s = .next u) ∧
      ((u.core m.dst).slotsOf (m.slot / 64) ≠ none → ((u.core m.dst).slot m.slot).creditHome = false → u.assayEn m.pt = false →
        ∃ t, exec (.slotCreditReturn ⟨i, way⟩) s = .next t ∧ t.credits = dropAt s.credits i ∧ ((t.core m.dst).slot m.slot).creditHome = true ∧
          ((t.core m.dst).slot m.slot).full = ((u.core m.dst).slot m.slot).full ∧ (∀ j, j ≠ m.slot → (t.core m.dst).slot j = (u.core m.dst).slot j) ∧
          t = u.setCore m.dst (t.core m.dst) ∧ t.core m.dst = { u.core m.dst with slotSt := (t.core m.dst).slotSt }) ∧
      ((u.core m.dst).slotsOf (m.slot / 64) ≠ none → ((u.core m.dst).slot m.slot).creditHome = true →
        ∃ t, exec (.slotCreditReturn ⟨i, way⟩) s = .next t ∧
          t = u.ledgerFault [m.pt] { code := cLEDGER, ledger := 3, core := some m.dst, item := some (m.slot % 64), recorded := 1, counted := 2 } ∧
          ((u.part m.pt).st = .run → (t.part m.pt).st = .faultStop)))

/-- FETCH_LANDED and STORE_WRITTEN of a request that may complete, with no error, after its way (04, R102; 05, R128; 07, R177): a FETCH writes its bytes to the store, those of the stacks or, through the gallery, those the host gave,
with zeros for unused pages, and changes no byte of the stacks; a STORE writes its bytes to the stacks, but for a tripped one (05, R134), or to the host through the gallery, and changes no store byte; each leaves the decoupling queue
and adds one to its flag when it names one. A pass that waited for the bytes goes on (02, R43). A host error of a gallery FETCH is a fault-stop HOST_LINK (05, R141).
Completes: FETCH_LANDED, STORE_WRITTEN, GALLERY_HOST_ERROR. -/
def Obligations.MemoryRequests : Prop :=
  (∀ (s u w : State) (c : CoreId) (n i : Nat) (r : MemReq) (bs : List Byte) (ecc : List EccAt) (way : Way), u = s.catchUp → n = u.ownerOf c → w = (u.takeRequestOut c i).travel n c way → u.memoryWf → u.poison = [] → u.hbmPoison = [] → u.assayEn n = false →
    (r.flag < 64 → (u.core c).flag r.flag < 65535) → u.request c i false = some r → cleanReads ecc →
    ∃ t, exec (.fetchLanded c ⟨i, way⟩ bs ecc) s = .next t.catchUp ∧ (t.core c).memq = dropAt (u.core c).memq i ∧
      t.core c = { w.core c with flags := (t.core c).flags, refreshItems := (t.core c).refreshItems, ahead := (t.core c).ahead } ∧
      (∀ f, (t.core c).flag f = (u.core c).flag f + (if f < 64 ∧ f = r.flag then 1 else 0)) ∧
      w.storesKept t c (r.stAddr.map fun (a : Nat) => (a : Int)) ∧ w.otherCores t c ∧
      (r.gallery = false → r.stAddr.Nodup → ∀ (j x : Nat) a, storeOk (x : Nat) = true → r.stAddr[j]? = some x → r.memAddr[j]? = some a →
        t.readSt c (x : Nat) = match a with | some a => u.readHbm n a | none => 0) ∧
      (r.gallery = true → r.stAddr.Nodup → ∀ (j x : Nat) b, storeOk (x : Nat) = true → r.stAddr[j]? = some x → (spread r.memAddr bs)[j]? = some b → t.readSt c (x : Nat) = b) ∧
      t = { w with cores := t.cores, coreMem := t.coreMem, cluMem := t.cluMem, fresh := t.fresh }) ∧
  (∀ (s w : State) (c : CoreId) (n i : Nat) (r : MemReq) (ecc : List EccAt) (way : Way), n = s.ownerOf c → w = (s.takeRequestOut c i).travel n c way → s.memoryWf → s.hbmPoison = [] → s.assayEn n = false →
    (r.flag < 64 → (s.core c).flag r.flag < 65535) → s.request c i true = some r → cleanReads ecc →
    ∃ t, exec (.storeWritten c ⟨i, ecc, way⟩) s = .next t ∧ (t.core c).memq = dropAt (s.core c).memq i ∧
      t.core c = { w.core c with flags := (t.core c).flags, refreshItems := (t.core c).refreshItems } ∧
      (∀ f, (t.core c).flag f = (s.core c).flag f + (if f < 64 ∧ f = r.flag then 1 else 0)) ∧
      t = { w.setCore c (t.core c) with hbm := t.hbm, outbox := t.outbox } ∧
      (r.gallery = true → t.hbm = s.hbm ∧ ∀ o f, Tab.find (s.part n).gal (r.handle % 4096) = some o → s.owner n = some f →
        t.outbox = s.outbox ++ (runsOf (r.mem.zip r.data)).map fun w => .hostWrite f (o.base + w.1) w.2) ∧
      (r.gallery = false → t.outbox = s.outbox) ∧
      (∀ m a, locate (s.extents m) a ∉ (r.mem.map (locate (s.extents n))) → t.readHbm m a = s.readHbm m a) ∧
      (r.gallery = false → (r.mem.filterMap (locate (s.extents n))).Nodup →
        ∀ j (h : j < r.mem.length) (_ : j < r.data.length) (k o : Nat), locate (s.extents n) r.mem[j] = some (k, o) →
          t.readHbm n r.mem[j] = if (s.stack k).tripped then s.readHbm n r.mem[j] else r.data[j])) ∧
  (∀ (s : State) (c : CoreId) (n i : Nat) (r : MemReq), n = s.ownerOf c → (s.core c).memq[i]? = some r → r.gallery = true → r.store = false →
    ∃ link, exec (.galleryHostError c i) s = .next ((s.updCore c fun k => { k with memq := dropAt k.memq i }).faultStop n
      { code := cHOSTLINK, core := some c, item := some link, counted := r.handle }) ∧ ∀ f, s.owner n = some f → link = f.link.ix)

/-- SCRUB_READ of a store whose cluster's clocks run (05, R118): a clean word changes nothing, a corrected one is counted, an uncorrectable one is poisoned and reported.
Stores, cores and partitions are as they were. Where the clocks stand nothing is read. Completes: SCRUB_READ. -/
def Obligations.StoreScrub : Prop :=
  ∀ (s : State) (st : StoreId) (w : Nat),
    ((Tab.find s.clusters (storeClu st)).isSome = false → ∀ e, exec (.scrubRead st w e) s = .next s) ∧
    ((Tab.find s.clusters (storeClu st)).isSome = true →
      exec (.scrubRead st w .clean) s = .next s ∧
      (∃ t, exec (.scrubRead st w .corrected) s = .next t ∧ t = { s with events := t.events, counts := t.counts, canAcc := t.canAcc } ∧
        Tab.get 0 t.events (Ev.num .storeCorrected) = Tab.get 0 s.events (Ev.num .storeCorrected) + 1) ∧
      (s.poison.contains (st, w) = true → exec (.scrubRead st w .uncorrectable) s = .next s) ∧
      (s.poison.contains (st, w) = false →
        ∃ t, exec (.scrubRead st w .uncorrectable) s = .next t ∧ t.poison = (st, w) :: s.poison ∧
          t = { s with poison := t.poison, events := t.events, counts := t.counts, canAcc := t.canAcc, hf := t.hf, outbox := t.outbox }))
/-- What the vector and move engines compute (03, R64-R82; 04, R95-R100), read back after ENGINE_COMMAND_START. A VOP writes each element of its destination as the result of its operation on the elements of
its sources, converted on read into the compute format; CONV converts once, from the source's value; a reduction writes its one result; an MX destination takes each block of 32 with its scale. VCOMB writes a
tile's outputs as the combine gives them, keeps the accumulators of a phase that goes on, and counts the flagged tiles; with one K-block an output is the sum of its slices times the two exponents. SPLIT writes
each block's exponent entry and digits, and the digits make up the integer that R77 rounds to. GATHER copies the row that a stencil entry names, with zeros for an entry that is unused or clipped (R99); SCATTER copies to it. Every
source is read first (log 29), and the effect comes at the start (log 26). What a MIDDLE or LAST phase keeps is log 69. -/
def Obligations.VectorResults : Prop :=
  (∀ (s u : State) (c : CoreId) (n : Nat) (q : Queue) (x : QCmd) (rest : List QCmd) (ecc : List EccAt), u = s.catchUp → u.memoryWf → u.starts c n q x rest → cleanReads ecc →
    ∃ t, exec (.engineCommandStart c q ecc) s = .next t ∧
      (x.cmd.opcode = 0x10 → ∀ f k, f = x.cmd.fmtD → k = x.cmd.count →
        (∀ (val : Nat → Val) m, x.cmd.vopc ≠ 0x0C → x.cmd.vopc ≠ 0x0D →
          (x.cmd.vopc = 0x0B → m = convMode x.cmd.fmtA f x.cmd.rnd x.cmd.sat ∧ ∀ i, i < k → val i = u.elem c x.cmd.fmtA x.a k i) →
          (x.cmd.vopc ≠ 0x0B → m = (x.cmd.rnd, x.cmd.sat) ∧ ∀ i a b z, i < k → a = x.cmd.convert x.cmd.fmtA (u.elem c x.cmd.fmtA x.a k i) →
            b = (if vopUsesB x.cmd.vopc then x.cmd.convert x.cmd.fmtB (u.elem c x.cmd.fmtB (highAddr x.cmd.w2 : Nat) k i) else a) →
            z = (if vopUsesC x.cmd.vopc then x.cmd.convert x.cmd.fmtC (u.elem c x.cmd.fmtC (lowAddr x.cmd.w2 : Nat) k i) else a) →
            val i = (vectorOp x.cmd.vopc (computeFmt f) x.cmd.rnd a b z).1) →
          (isMx f = false → ∀ i, i < k → elemAt f (t.readStN c x.b (fmtBytes f k)) i = (toElem f m.1 m.2 (val i)).1) ∧
          (isMx f = true → ((u.effectOf c x).writes.map (·.1)).Nodup → ∀ j bl, 32 * (j + 1) ≤ k → bl = mxBlock f m.1 ((upFrom (32 * j) 32).map val) →
            t.readSt c ((if x.cmd.vopc = 0x0B then (lowAddr x.cmd.w2 : Int) else x.b + (fmtBytes f k : Nat)) + (j : Nat)) = BitVec.ofNat 8 bl.1 ∧
            ∀ i (h : i < bl.2.1.length), elemAt f (t.readStN c x.b (fmtBytes f k)) (32 * j + i) = bl.2.1[i])) ∧
        (isMx f = false → x.cmd.vopc = 0x0C ∨ x.cmd.vopc = 0x0D →
          elemAt f (t.readStN c x.b (fmtBytes f 1)) 0 = (toElem f x.cmd.rnd x.cmd.sat
            (reduce (x.cmd.vopc = 0x0C) (computeFmt f) x.cmd.rnd ((upFrom 0 k).map fun i => x.cmd.convert x.cmd.fmtA (u.elem c x.cmd.fmtA x.a k i))).1).1)) ∧
      (x.cmd.opcode = 0x12 → ((u.effectOf c x).writes.map (·.1)).Nodup → ∀ tile i j, tile < x.cmd.tiles → i < 8 → j < 32 →
        (x.cmd.phase ≠ 3 → leNat (t.readStN c (x.cmd.accAddr tile i j) 24) = unsigned 192 (u.combine c x tile i j).acc) ∧
        (x.cmd.phase = 0 ∨ x.cmd.phase = 3 → leNat (t.readStN c ((highAddr x.cmd.w3 + 2048 * tile + 256 * i + 8 * j : Nat) : Int) 8) = (u.combine c x tile i j).bits) ∧
        (∀ ea eb, x.cmd.phase = 0 → x.cmd.ktotal = 1 → x.cmd.khere = 1 → x.cmd.kfirst = 0 → ea = u.rowEntry c x (8 * tile + i) 0 → eb = u.colEntry c x j 0 →
          (ea.zero = true ∨ eb.zero = true → leNat (t.readStN c ((highAddr x.cmd.w3 + 2048 * tile + 256 * i + 8 * j : Nat) : Int) 8) = 0) ∧
          (ea.zero = false → eb.zero = false → ea.nonfinite = false → eb.nonfinite = false → ∀ z, z = wrap192 ((u.core c).slicesOf x.cmd tile 0 (32 * i + j)) →
            leNat (t.readStN c ((highAddr x.cmd.w3 + 2048 * tile + 256 * i + 8 * j : Nat) : Int) 8) =
              (toFlt 0x01 0 false (.fin (decide (z < 0)) z.natAbs (ea.exp + eb.exp + 6 - 16 * (x.cmd.scount : Int)))).1))) ∧
      (x.cmd.opcode = 0x21 → ((u.effectOf c x).writes.map (·.1)).Nodup → ∀ bs sc j bl, bs = (((u.core c).shapeAt x.gen (wf x.cmd.w0 18 11)).addrs x.a).map (u.readSt c) → sc = x.cmd.scount →
        256 * (j + 1) ≤ bs.length → bl = splitBlock sc ((upFrom (32 * j) 32).map fun i => decodeElem 0x01 (elemAt 0x01 bs i)) →
        leNat (t.readStN c ((lowAddr x.cmd.w2 + 2 * j : Nat) : Int) 2) = bl.1 ∧
        ∀ i g, i < 32 → g < sc → t.readSt c (x.b + (g * wf x.cmd.w2 63 32 + 32 * j + i : Nat)) = BitVec.ofNat 8 ((bl.2.1.getD i []).getD g 0)) ∧
      (x.cmd.opcode = 0x22 ∨ x.cmd.opcode = 0x23 → ∀ i e w, i < wf x.cmd.w0 22 6 → w = wf x.cmd.w3 63 48 →
        e = entryOf (leNat (u.readStN c ((lowAddr x.cmd.w2 + 4 * i : Nat) : Int) 4)) (wf x.cmd.w3 31 0) →
        (∀ r, x.cmd.opcode = 0x22 → e = .used r → t.readStN c (x.b + (i * w : Nat)) w = u.readStN c (x.a + (r * wf x.cmd.w2 63 32 : Nat)) w) ∧
        (x.cmd.opcode = 0x22 → (∀ r, e ≠ .used r) → t.readStN c (x.b + (i * w : Nat)) w = List.replicate w 0) ∧
        (∀ r, x.cmd.opcode = 0x23 → e = .used r → ((u.effectOf c x).writes.map (·.1)).Nodup → t.readStN c (x.a + (r * wf x.cmd.w2 63 32 : Nat)) w = u.readStN c (x.b + (i * w : Nat)) w))) ∧
  ∀ (k : Nat) (v : Int), 1 ≤ k → v.natAbs ≤ 2 ^ (8 * k - 2) → (digitsOf k v).length = k ∧ (digitsOf k v).foldl (fun (a : Int) d => 256 * a + signed 8 d) 0 = v

/-- Assay mode (06, R153-R160). A command that starts in a partition in assay mode, with STOP 0, writes the bytes, banks and registers that it writes outside it (R160). With the overlap check alone, a command whose source and
destination overlap is logged once, KIND 5, at the first such byte's granule (R157), and with STOP 1 the partition stops instead, with ASSAY and the kind, and no store byte has changed; with the format check alone, a VOP of one
source whose granules carry another tag is logged once, KIND 6, with its declared format and the tag found (R158). A mesh message that lands on a granule which an earlier access has touched that no link orders before it is logged, KIND 2 or 3, with
the earlier access as OTHER, and with nothing where one does; its bytes land (R155, R159). Two queues that wait for each other are logged with one record each at one TIME (R156). FETCH and STORE into the shadow area stop the partition,
BOUNDS (R154), and a canvas of CLASS production is not loaded (R153). Who is named for a landing is log 86, the tags of MX scales are log 93, and the log's own writes may wait for their stack (log 63). -/
def Obligations.AssayMode : Prop :=
  (∀ (s u : State) (c : CoreId) (n : Nat) (q : Queue) (x : QCmd) (rest : List QCmd) (ecc : List EccAt), u = s.catchUp → u.memoryWf → u.mayStartCmd c n q x rest → u.assayEn n = true → cleanReads ecc →
    x.cmd.opcode < 0x28 →
    (rb (cfg u .ptAssayCtl n 0) 5 = false → ∃ t, exec (.engineCommandStart c q ecc) s = .next t ∧ (t.part n).st = .run ∧ (t.core c).queue q.code = rest ∧
      (t.core c).fpstat = (u.core c).fpstat ||| (u.effectOf c x).fp ∧ (t.core c).banks = (u.effectOf c x).banks.foldl (fun m b => Tab.put m b.1 b.2) (u.core c).banks ∧
      (t.core c).sc = (u.effectOf c x).sc.foldl (fun m b => Tab.put m b.1 b.2) (u.core c).sc ∧ u.storesKept t c ((u.effectOf c x).writes.map (·.1)) ∧
      ∀ (a : Int) (w : Int × Byte), storeOk a = true → ((u.effectOf c x).writes.reverse.find? fun w => decide (byteOf c w.1 = byteOf c a)) = some w → t.readSt c a = w.2) ∧
    (∀ a r, u.assayChk n 2 = true → u.assayChk n 4 = false → u.assayChk n 1 = false → (u.effectOf c x).overlap = true → (u.effectOf c x).exempt = false →
      ((u.effectOf c x).writes.map (·.1)).find? (fun a => (u.effectOf c x).reads.contains a) = some a → r = { kind := 5, core := c, queue := q.code, cmd := x.idx, addr := (a / 32 * 32).toNat } →
      (u.logOpen n 1 → ∃ t, exec (.engineCommandStart c q ecc) s = .next t ∧ u.logged t n [r]) ∧
      (rb (cfg u .ptAssayCtl n 0) 5 = true → (u.part n).frec = none → ∃ t f, exec (.engineCommandStart c q ecc) s = .next t ∧ (t.part n).st = .faultStop ∧ (t.part n).frec = some f ∧ f.cause = cASSAY ∧ f.item = 5 ∧
        u.storesKept t c [])) ∧
    (∀ g r, u.assayChk n 1 = true → u.assayChk n 4 = false → u.assayChk n 2 = false → x.cmd.opcode = 0x10 → vopUsesB x.cmd.vopc = false → vopUsesC x.cmd.vopc = false → 0 < x.cmd.count →
      g ≠ 0 → g ≠ x.cmd.fmtA → (∀ a ∈ operandAddrs x.cmd.fmtA x.a x.cmd.count, ∃ k, granuleKey c a = some k ∧ Tab.get 0 u.assay.tags k = g) →
      r = { kind := 6, core := c, queue := q.code, cmd := x.idx, addr := x.a.toNat / 32 * 32, declared := x.cmd.fmtA, tag := g } → u.logOpen n 1 →
      ∃ t, exec (.engineCommandStart c q ecc) s = .next t ∧ u.logged t n [r])) ∧
  (∀ (s u : State) (i : Nat) (way : Way) (m : MeshMsg) (d : SlotDef) (k : Nat) (o : AssayAcc), s.mesh[i]? = some m → u = s.catchUp.travel m.pt m.src way → u.takesMessages m.pt = true → u.logOpen m.pt 1 → u.assayChk m.pt 4 = true →
    (u.core m.dst).slotFor m.tag m.slot = some d → ((u.core m.dst).slot (slotIx (tagGen m.tag) m.slot)).full = false → m.bytes ≠ [] → m.bytes.length ≤ 256 * d.size → u.poison = [] → m.dfen = false →
    dedup ((landAddrs d.base m.bytes.length).filterMap (granuleKey m.dst)) = [k] → Tab.get [] u.assay.acc k = [o] → o.thread < 2 ^ 30 →
    ∃ t : State, exec (.meshMessage ⟨i, way⟩) s = .next t.catchUp ∧ ((t.core m.dst).slot (slotIx (tagGen m.tag) m.slot)).full = true ∧ (t.part m.pt).st = (u.part m.pt).st ∧
      (∀ j (h : j < m.bytes.length), storeOk ((d.base + j : Nat) : Int) = true → t.readSt m.dst ((d.base + j : Nat) : Int) = m.bytes[j]) ∧
      (Tab.get 0 m.vc o.thread < o.clock → u.logged t m.pt [{ kind := if o.write then 3 else 2, core := m.src, queue := 3, cmd := m.cmd, addr := keyAddr k, other := some o }]) ∧
      (o.clock ≤ Tab.get 0 m.vc o.thread → t.hbm = u.hbm ∧ t.parts = u.parts)) ∧
  (∀ (s : State) (n : Nat) (a b : CoreId × Nat × Stall) (x y : QCmd) (l m : List QCmd), s.logOpen n 2 → s.assayChk n 3 = true → s.stalledQueues n = [a, b] → a.1 ≠ b.1 → a.2.2.seen = false → b.2.2.seen = false →
    s.waitsFor a b = true → s.waitsFor b a = true → a.2.1 < 4 → b.2.1 < 4 → (s.core a.1).queue a.2.1 = x :: l → (s.core b.1).queue b.2.1 = y :: m →
    s.logged (s.reportCycles n) n [{ kind := 4, core := a.1, queue := a.2.1, cmd := x.idx }, { kind := 4, core := b.1, queue := b.2.1, cmd := y.idx }]) ∧
  (∀ (s u : State) (c : CoreId) (n : Nat) (q : Queue) (x : QCmd) (rest : List QCmd) (ecc : List EccAt) (p : Int × Option Int) (a : Int), u = s.catchUp → u.partOf c = some n → (u.part n).st = .run → q ≠ .seq →
    (u.core c).queue q.code = x :: rest → x.cmd.opcode = 0x28 ∨ x.cmd.opcode = 0x29 → x.cmd.gallery = false → Tab.find (u.core c).run x.cmd.unit = none → u.grantCause c q.code x = none →
    (u.core c).emptySlot x.gen x.stencilAddrs = none → u.storeFault c x (u.effectOf c x) = none → u.assayEn n = true → (u.part n).frec = none → p ∈ u.memSides c x → p.2 = some a → 0 ≤ a →
    (u.shadow n).1 ≤ a.toNat → a.toNat < (u.shadow n).1 + (u.shadow n).2 →
    ∃ t f, exec (.engineCommandStart c q ecc) s = .next t ∧ (t.part n).st = .faultStop ∧ (t.part n).frec = some f ∧ f.cause = cBOUNDS ∧ u.storesKept t c [] ∧ t.hbm = u.hbm) ∧
  ∀ (s : State) (n : Nat) (h : Img) (ports : Option (List Nat)), s.assayEn n = true → fld (imgNat h 0x16 1) 7 5 = 0 → ∃ b, s.sigCheck n h ports = some b

/-! ### The stacks (05, R131-R135) -/

/-- Refresh windows (05, R131-R133, R135): REFRESH_WINDOW_OPEN at a count inside a window opens it and notes whether the stack is hot, and the scrubber reads one sector of each channel; a stack of which no partition in
Run has an extent scrubs at any time. REFRESH_WINDOW_CLOSE closes it, and counts the requests that waited; of a
stack that is not hot it leaves deficit and emergency refresh alone, and of one that was hot throughout it adds what the window falls short of an
eighth of the period; then the module's own writes that waited are made as far as their stacks serve them. But for those, no byte of the stacks, no partition and no core changes.
A stack's heat (05, R133, R134): above its limit it becomes hot and an emergency refresh of 480 ns begins; 3 degrees below, it is no longer hot and its
deficit is gone; between, only the reading changes; at 105 degrees it trips, and the partitions with an extent on it stop. EMERGENCY_REFRESH_END ends the refresh of a stack that is not hot, and starts the next while a
hot stack owes 480 ns; the module's own writes go on. A write of the module's own that waits alone is made once its stacks serve it. That those writes wait so, and which requests a refresh holds, is log 63.
Completes: REFRESH_WINDOW_OPEN, REFRESH_WINDOW_CLOSE, STACK_THERMAL_READ, EMERGENCY_REFRESH_END. -/
def Obligations.RefreshAndHeat : Prop :=
  (∀ (s : State) (k : Stk) (t : Count), s.tb.running = true → s.tb.count ≤ t → t < 2 ^ 64 →
     (∀ scrub, (s.stack k.val).windowOpen = false → s.inWindow k.val t = true →
       ∃ u, exec (.refreshWindowOpen k t scrub) s = .next u ∧
         u.stack k.val = { s.stack k.val with windowOpen := true, openedHot := (s.stack k.val).hot, waiters := [], scrubbed := (s.stack k.val).scrubbed + (if s.keepsCalendar k.val then onePerChannel scrub else scrub).length } ∧
         s.otherStacks u k.val ∧ u = { s.advance t with hbmStk := u.hbmStk, hbmPoison := u.hbmPoison, events := u.events, counts := u.counts, canAcc := u.canAcc }) ∧
     (∀ scrub, (s.stack k.val).windowOpen = true ∨ s.inWindow k.val t = false →
       (s.keepsCalendar k.val = true → exec (.refreshWindowOpen k t scrub) s = .next (s.advance t)) ∧
       (s.keepsCalendar k.val = false → ∃ u, exec (.refreshWindowOpen k t scrub) s = .next u ∧
         (u.stack k.val).scrubbed = (s.stack k.val).scrubbed + scrub.length ∧ (u.stack k.val).windowOpen = (s.stack k.val).windowOpen ∧ s.otherStacks u k.val ∧
         u = { s.advance t with hbmStk := u.hbmStk, hbmPoison := u.hbmPoison, events := u.events, counts := u.counts, canAcc := u.canAcc })) ∧
     ((s.stack k.val).windowOpen = true → s.inWindow k.val t = false →
       ∃ u, exec (.refreshWindowClose k t) s = .next u.drainOwn ∧ (s.ownq = [] → u.drainOwn = u) ∧ (u.stack k.val).windowOpen = false ∧ (u.stack k.val).tripped = (s.stack k.val).tripped ∧
         (u.stack k.val).windowWaits = (s.stack k.val).windowWaits + ((s.advance t).waitingAt k.val ((s.advance t).windowStart k.val) + (s.stack k.val).waiters.length) ∧
         ((s.stack k.val).hot = false → (u.stack k.val).deficit = (s.stack k.val).deficit ∧ (u.stack k.val).emergency = (s.stack k.val).emergency) ∧
         (∀ due, (s.stack k.val).hot = true →
           due = (s.stack k.val).deficit + (if (s.stack k.val).openedHot then s.period k.val / 8 - s.windowLen k.val else 0) →
           if (s.stack k.val).emergency = none ∧ 480 ≤ due then (u.stack k.val).deficit = due - 480 ∧ (u.stack k.val).emergency = some (t + 480)
           else (u.stack k.val).deficit = due ∧ (u.stack k.val).emergency = (s.stack k.val).emergency) ∧
         s.otherStacks u k.val ∧ u = { s.advance t with hbmStk := u.hbmStk, events := u.events, counts := u.counts, canAcc := u.canAcc }) ∧
     ((s.stack k.val).windowOpen = false ∨ s.inWindow k.val t = true → exec (.refreshWindowClose k t) s = .next (s.advance t))) ∧
  (∀ (s : State) (k : Stk),
     (∀ x, s.power.convOn = true → x < 105 ∨ (s.stack k.val).tripped = true → (s.stack k.val).hot = false → s.refTemp k.val < x →
       ∃ u, exec (.stackThermalRead k x) s = .next u ∧
         u.stack k.val = { s.stack k.val with tempC := x, hot := true, emergency := some (s.now + 480), heldFrom := s.holdsFrom k.val, emergencies := (s.stack k.val).emergencies + 1 } ∧
         s.otherStacks u k.val ∧ u = { s with hbmStk := u.hbmStk, events := u.events, counts := u.counts, canAcc := u.canAcc }) ∧
     (∀ x, s.power.convOn = true → x < 105 ∨ (s.stack k.val).tripped = true → (s.stack k.val).hot = true → x + 3 ≤ s.refTemp k.val →
       ∃ u, exec (.stackThermalRead k x) s = .next u ∧ u.stack k.val = { s.stack k.val with tempC := x, hot := false, deficit := 0 } ∧ s.otherStacks u k.val ∧
         u = { s with hbmStk := u.hbmStk }) ∧
     (∀ x, s.power.convOn = true → x < 105 ∨ (s.stack k.val).tripped = true → ((s.stack k.val).hot = false ∧ x ≤ s.refTemp k.val) ∨ ((s.stack k.val).hot = true ∧ s.refTemp k.val < x + 3) →
       exec (.stackThermalRead k x) s = .next (s.updStack k.val fun y => { y with tempC := x })) ∧
     (∀ x, s.power.convOn = false → exec (.stackThermalRead k x) s = .next s) ∧
     (∀ x, s.power.convOn = true → 105 ≤ x → (s.stack k.val).tripped = false →
       ∃ u, exec (.stackThermalRead k x) s = .next u ∧ (u.stack k.val).tripped = true ∧ (u.stack k.val).tempC = x ∧ (u.stack k.val).trippedAt = s.now ∧ s.otherStacks u k.val ∧
         u.hbm = s.hbm ∧ ∀ n ∈ s.partsOnStack k.val, (s.part n).st = .run ∨ (s.part n).st = .hold ∨ (s.part n).st = .armed → (u.part n).st = .faultStop) ∧
     ∀ (t : Count), s.tb.running = true → s.tb.count ≤ t → t < 2 ^ 64 →
       (∀ e, (s.stack k.val).emergency = some e → e ≤ t →
         ∃ u, exec (.emergencyRefreshEnd k t) s = .next u.drainOwn ∧ u.ownq = s.ownq ∧ s.otherStacks u k.val ∧ u.parts = s.parts ∧ u.hbm = s.hbm ∧
           ((s.stack k.val).hot = false ∨ (s.stack k.val).deficit < 480 → (u.stack k.val).emergency = none ∧ (u.stack k.val).deficit = (s.stack k.val).deficit) ∧
           ((s.stack k.val).hot = true → 480 ≤ (s.stack k.val).deficit →
             (u.stack k.val).emergency = some (e + 480) ∧ (u.stack k.val).deficit = (s.stack k.val).deficit - 480)) ∧
       ((∀ e, (s.stack k.val).emergency = some e → t < e) → exec (.emergencyRefreshEnd k t) s = .next (s.advance t))) ∧
  ∀ (s : State) (w : OwnWrite), s.ownq = [w] → s.memoryWf → s.hbmPoison = [] → w.bytes ≠ [] →
    (w.addr + w.bytes.length ≤ s.regionSize w.pt → s.stacksServe w.pt w.addr w.bytes.length → s.regionTakes s.drainOwn w.pt w.addr w.bytes ∧ s.drainOwn = { s with ownq := [], hbm := s.drainOwn.hbm }) ∧
    ((∃ k ∈ s.stacksIn w.pt w.addr w.bytes.length, s.stackShut k = true ∧ (s.stack k).tripped = false) → s.drainOwn = { s with hbmStk := s.drainOwn.hbmStk })

/-! ### The gallery (05, R138, R139; 12, R281, R285) -/

/-- GAL_REG, GAL_RENEW and GAL_DEREG that may start (12, R281): a registration gives the lowest free index (the model's choice, log 48), its tag and its expiry count, or is answered EXTENT when a field is out of range or no index is free; a renewal of an open
object moves its expiry count, and at that count or later is answered RECLAIMED; a deregistration closes the object. Each answers OK; which handles are answered RECLAIMED and which EXTENT is log 48. Other objects and other partitions are as they were.
GALLERY_EXPIRY closes an object at its expiry count (05, R139), and requests through it that have not been issued are bounds violations; GALLERY_RECLAIM_NOTICE of a closed object that nothing reads any more takes it away and owes the
host one notice with its handle and reason (12, R285), with a ring for it or until there is one. Other objects and other partitions are as they were. What the closing of a steward's own object does to galleried slots
is said elsewhere. Completes: GAL_REG, GAL_RENEW, GAL_DEREG, GALLERY_EXPIRY, GALLERY_RECLAIM_NOTICE. -/
def Obligations.Gallery : Prop :=
  (∀ (s : State) (pt : Pt) (tag : BitVec 16) (d : Desc), s.descStarts pt tag d →
     (d.op = 0x18 → (1 ≤ wf d.w2 28 0 ∧ wf d.w2 28 0 ≤ 268435456 ∧ ttlOk (wf d.w3 16 0) = true → ∀ ix, (s.part pt.val).freeIx = some ix →
         ∃ t, exec (.galReg pt tag) s = .next t ∧
           s.posts t pt.val d { d.record pt.val stOK with w3 := BitVec.ofNat 64 (4096 * (s.part pt.val).nextTag ix + ix), w4 := BitVec.ofNat 64 (s.now + 1000000000 * wf d.w3 16 0) } ∧
           Tab.find (t.part pt.val).gal ix = some
             { base := 4096 * wf d.w1 63 12, pages := wf d.w2 28 0, rd := wb d.w2 30, wr := wb d.w2 31, expiry := s.now + 1000000000 * wf d.w3 16 0, closed := false, reason := 0, notice := true } ∧
           Tab.find (t.part pt.val).galTags ix = some ((s.part pt.val).nextTag ix) ∧
           (∀ j, j ≠ ix → Tab.find (t.part pt.val).gal j = Tab.find (s.part pt.val).gal j) ∧ s.otherParts t pt.val ∧
           t = { s with parts := t.parts, rings := t.rings }) ∧
       ((s.part pt.val).freeIx = none ∨ ¬ (1 ≤ wf d.w2 28 0 ∧ wf d.w2 28 0 ≤ 268435456 ∧ ttlOk (wf d.w3 16 0) = true) →
         ∃ t, exec (.galReg pt tag) s = .next t ∧ s.onlyPosts t pt.val d (d.record pt.val stEXTENT))) ∧
     (d.op = 0x19 → ∀ h, h = wf d.w1 15 0 →
       (ttlOk (wf d.w3 16 0) = true → (s.part pt.val).openHandle h = true → (s.part pt.val).galExpired.contains h = false →
         ∀ o, Tab.find (s.part pt.val).gal (h % 4096) = some o → s.now < o.expiry →
         ∃ t, exec (.galRenew pt tag) s = .next t ∧ s.posts t pt.val d { d.record pt.val stOK with w4 := BitVec.ofNat 64 (s.now + 1000000000 * wf d.w3 16 0) } ∧
           Tab.find (t.part pt.val).gal (h % 4096) = some { o with expiry := s.now + 1000000000 * wf d.w3 16 0 } ∧
           (∀ j, j ≠ h % 4096 → Tab.find (t.part pt.val).gal j = Tab.find (s.part pt.val).gal j) ∧ s.otherParts t pt.val ∧
           t = { s with parts := t.parts, rings := t.rings }) ∧
       (ttlOk (wf d.w3 16 0) = true → (s.part pt.val).galExpired.contains h = true ∨
           ((s.part pt.val).openHandle h = true ∧ ∀ o, Tab.find (s.part pt.val).gal (h % 4096) = some o → o.expiry ≤ s.now) →
         ∃ t, exec (.galRenew pt tag) s = .next t ∧ s.onlyPosts t pt.val d (d.record pt.val stRECLAIMED)) ∧
       (ttlOk (wf d.w3 16 0) = false ∨ ((s.part pt.val).openHandle h = false ∧ (s.part pt.val).galExpired.contains h = false) →
         ∃ t, exec (.galRenew pt tag) s = .next t ∧ s.onlyPosts t pt.val d (d.record pt.val stEXTENT))) ∧
     (d.op = 0x1A → ∀ h, h = wf d.w1 15 0 →
       (s.handleCurrent pt.val h = true → cf s .srvGal pt.val 0 31 16 ≠ 4096 * Tab.get 0 (s.part pt.val).galTags (h % 4096) + h % 4096 →
         (∀ c ∈ s.coresOf pt.val, heldOn (s.core c).memq (h % 4096) = none) → ∀ o, Tab.find (s.part pt.val).gal (h % 4096) = some o →
         ∃ t, exec (.galDereg pt tag) s = .next t ∧ s.posts t pt.val d (d.record pt.val stOK) ∧
           Tab.find (t.part pt.val).gal (h % 4096) = some { o with closed := true, reason := 1 } ∧
           (∀ j, j ≠ h % 4096 → Tab.find (t.part pt.val).gal j = Tab.find (s.part pt.val).gal j) ∧ s.otherParts t pt.val ∧
           t = { s with parts := t.parts, rings := t.rings }) ∧
       (s.handleCurrent pt.val h = false → ∃ t, exec (.galDereg pt tag) s = .next t ∧ s.onlyPosts t pt.val d (d.record pt.val stEXTENT)))) ∧
  (∀ (s : State) (pt : Pt) (ix : Fin 4096) (o : GalObj), Tab.find (s.part pt.val).gal ix.val = some o →
     (∀ t, s.tb.running = true → s.tb.count ≤ t → t < 2 ^ 64 → o.expiry ≤ t → o.closed = false →
       cf s .srvGal pt.val 0 31 16 ≠ 4096 * Tab.get 0 (s.part pt.val).galTags ix.val + ix.val →
       ((∀ c ∈ s.coresOf pt.val, heldOn (s.core c).memq ix.val = none) →
         ∃ u, exec (.galleryExpiry pt ix t) s = .next u ∧ Tab.find (u.part pt.val).gal ix.val = some { o with closed := true, reason := 0 } ∧
           (∀ j, j ≠ ix.val → Tab.find (u.part pt.val).gal j = Tab.find (s.part pt.val).gal j) ∧ s.otherParts u pt.val ∧
           u = { s.advance t with parts := u.parts }) ∧
       (∀ c ∈ s.coresOf pt.val, heldOn (s.core c).memq ix.val ≠ none → (s.part pt.val).st = .run → (s.part pt.val).frec = none →
         ∃ u, exec (.galleryExpiry pt ix t) s = .next u ∧ (u.part pt.val).st = .faultStop ∧ ∃ r, (u.part pt.val).frec = some r ∧ r.cause = cBOUNDS)) ∧
     (∀ t, s.tb.running = true → s.tb.count ≤ t → t < 2 ^ 64 → t < o.expiry ∨ o.closed = true → exec (.galleryExpiry pt ix t) s = .next (s.advance t)) ∧
     (o.closed = true → o.notice = true → s.objectBusy pt.val ix.val = false → (s.part pt.val).flight = [] → Tab.rising none (s.part pt.val).gal = true →
       ∃ r : Rec, r.opcode = 0x81 ∧ r.w3 = BitVec.ofNat 64 (4096 * Tab.get 0 (s.part pt.val).galTags ix.val + ix.val + 65536 * o.reason) ∧
       (∀ q, s.evqRing pt.val = some q →
         ∃ u, exec (.galleryReclaimNotice pt ix) s = .next u ∧ Tab.find (u.part pt.val).gal ix.val = none ∧
           (∀ j, j ≠ ix.val → Tab.find (u.part pt.val).gal j = Tab.find (s.part pt.val).gal j) ∧
           (u.ring q).ready = (s.ring q).ready ++ [r] ∧ s.otherRings u q ∧ s.otherParts u pt.val ∧
           u = { s with parts := u.parts, rings := u.rings }) ∧
       (s.evqRing pt.val = none →
         ∃ u, exec (.galleryReclaimNotice pt ix) s = .next u ∧ Tab.find (u.part pt.val).gal ix.val = none ∧
           (∀ j, j ≠ ix.val → Tab.find (u.part pt.val).gal j = Tab.find (s.part pt.val).gal j) ∧
           (u.part pt.val).evq = (s.part pt.val).evq ++ [r] ∧ s.otherParts u pt.val ∧ u = { s with parts := u.parts })) ∧
     (o.closed = false ∨ s.objectBusy pt.val ix.val = true → exec (.galleryReclaimNotice pt ix) s = .next s))

/-! ### Host access to the region (12, R265, R276) -/

/-- NOP, HBM_WRITE and HBM_READ that may start, or that waited at a stack (12, R276): NOP only answers; a write of a good length puts its bytes into the region and drops staged images
that they meet; a read answers with the region's bytes; a bad length is answered with EXTENT and does nothing else. While a stack that the bytes reach is in a refresh window or refreshes,
either waits, and a write writes nothing (05, R132); one that waits at a stack that has tripped meanwhile completes with ACCESS (05, R134; 12, R287).
The CXL.mem window (12, R265): a write outside Run, off the serving areas and the output records, puts its bytes into the region; in Run, or on one of those (11, R243), it is discarded and counted; a read answers
the region's bytes and changes nothing. Either waits for a stack that does not serve, and does nothing until then (log 63). At a tripped stack (05, R134), and outside the partition's range (log 45), neither does anything. Completes: NOP, HBM_WRITE, HBM_READ, CXL_MEM_WRITE, CXL_MEM_READ. -/
def Obligations.HostMemory : Prop :=
  (∀ (s : State) (pt : Pt) (tag : BitVec 16) (d : Desc), s.memoryWf → s.hbmPoison = [] →
     (d.op = 0x3F → s.descStarts pt tag d → ∃ t, exec (.nop pt tag) s = .next t ∧ s.onlyPosts t pt.val d (d.record pt.val stOK)) ∧
     (d.op = 0x01 → s.descStarts pt tag d ∨ s.descServed pt tag 0x01 d → ∀ len ecc, len = wf d.w2 15 0 → cleanReads ecc →
       (1 ≤ len → len ≤ 65472 → d.addr + len ≤ s.regionSize pt.val → s.stacksServe pt.val d.addr len →
         ∃ t, exec (.hbmWrite pt ⟨tag, ecc⟩) s = .next t ∧ s.posts t pt.val d (d.record pt.val stOK) ∧ s.regionTakes t pt.val d.addr (slice d.payload 0 len) ∧
           t.part pt.val = { s.part pt.val with flight := (t.part pt.val).flight,
                                                staged := (s.part pt.val).staged.filter fun c => !meets (d.addr, len) (c.addr, c.total) } ∧
           s.otherParts t pt.val ∧ t = { s with parts := t.parts, rings := t.rings, hbm := t.hbm }) ∧
       (1 ≤ len → len ≤ 65472 → d.addr + len ≤ s.regionSize pt.val → ¬ s.stacksServe pt.val d.addr len →
         ∃ t, exec (.hbmWrite pt ⟨tag, ecc⟩) s = .next t ∧ t = { s with parts := t.parts, hbmStk := t.hbmStk } ∧ s.otherParts t pt.val ∧
           t.part pt.val = { s.part pt.val with flight := (t.part pt.val).flight }) ∧
       (len = 0 ∨ 65472 < len ∨ s.regionSize pt.val < d.addr + len →
         ∃ t, exec (.hbmWrite pt ⟨tag, ecc⟩) s = .next t ∧ s.onlyPosts t pt.val d (d.record pt.val stEXTENT))) ∧
     (d.op = 0x02 → s.descStarts pt tag d ∨ s.descServed pt tag 0x02 d → ∀ len ecc, len = wf d.w2 13 0 → cleanReads ecc →
       (1 ≤ len → len ≤ 16065 → d.addr + len ≤ s.regionSize pt.val → s.stacksServe pt.val d.addr len →
         ∃ t, exec (.hbmRead pt ⟨tag, ecc⟩) s = .next t ∧ s.onlyPosts t pt.val d { d.record pt.val stOK with payload := s.readHbmN pt.val d.addr len }) ∧
       (1 ≤ len → len ≤ 16065 → d.addr + len ≤ s.regionSize pt.val → ¬ s.stacksServe pt.val d.addr len →
         ∃ t, exec (.hbmRead pt ⟨tag, ecc⟩) s = .next t ∧ t = { s with parts := t.parts, hbmStk := t.hbmStk } ∧ s.otherParts t pt.val ∧
           t.part pt.val = { s.part pt.val with flight := (t.part pt.val).flight }) ∧
       (len = 0 ∨ 16065 < len ∨ s.regionSize pt.val < d.addr + len →
         ∃ t, exec (.hbmRead pt ⟨tag, ecc⟩) s = .next t ∧ s.onlyPosts t pt.val d (d.record pt.val stEXTENT))) ∧
     (∀ ecc k, s.accessBad pt.val d = some k →
       (s.descWaits pt tag 0x01 d → ∃ t, exec (.hbmWrite pt ⟨tag, ecc⟩) s = .next t ∧ s.onlyPosts t pt.val d { d.record pt.val stACCESS with detail := BitVec.ofNat 64 k }) ∧
       (s.descWaits pt tag 0x02 d → ∃ t, exec (.hbmRead pt ⟨tag, ecc⟩) s = .next t ∧ s.onlyPosts t pt.val d { d.record pt.val stACCESS with detail := BitVec.ofNat 64 k }))) ∧
  (∀ (s : State) (l : Link) (pt : Pt) (a : Nat), s.memoryWf → s.hbmPoison = [] →
     (∀ bs ecc, s.cxlRange l pt.val a bs.length = true → cleanReads ecc →
       ((s.part pt.val).st ≠ .run → s.guarded pt.val a bs.length = false → s.stacksServe pt.val a bs.length →
         ∃ t, exec (.cxlMemWrite l pt a ⟨bs, ecc⟩) s = .next t ∧ s.regionTakes t pt.val a bs ∧ t = { s with hbm := t.hbm }) ∧
       ((s.part pt.val).st = .run ∨ s.guarded pt.val a bs.length = true →
         ∃ t, exec (.cxlMemWrite l pt a ⟨bs, ecc⟩) s = .next t ∧ (t.part pt.val).cxlDrop = Nat.min (2 ^ 32 - 1) ((s.part pt.val).cxlDrop + 1) ∧
           t.part pt.val = { s.part pt.val with cxlDrop := (t.part pt.val).cxlDrop } ∧ s.otherParts t pt.val ∧
           t = { s with parts := t.parts, events := t.events, counts := t.counts }) ∧
       ((s.part pt.val).st ≠ .run → s.guarded pt.val a bs.length = false → (s.trippedIn pt.val a bs.length).isSome = true → exec (.cxlMemWrite l pt a ⟨bs, ecc⟩) s = .next s)) ∧
     (∀ len ecc, s.cxlRange l pt.val a len = true → cleanReads ecc → s.stacksServe pt.val a len →
       exec (.cxlMemRead l pt a ⟨len, ecc⟩) s = .next (s.emit (.readData (s.readHbmN pt.val a len)))) ∧
     (∀ bs len ecc, s.cxlRange l pt.val a bs.length = true → s.cxlRange l pt.val a len = true →
       ((s.part pt.val).st ≠ .run → s.guarded pt.val a bs.length = false → ¬ s.stacksServe pt.val a bs.length →
         ∃ t, exec (.cxlMemWrite l pt a ⟨bs, ecc⟩) s = .next t ∧ t = { s with hbmStk := t.hbmStk }) ∧
       ((s.trippedIn pt.val a len).isSome = true → exec (.cxlMemRead l pt a ⟨len, ecc⟩) s = .next s) ∧
       (¬ s.stacksServe pt.val a len → ∃ t, exec (.cxlMemRead l pt a ⟨len, ecc⟩) s = .next t ∧ t = { s with hbmStk := t.hbmStk })) ∧
     (∀ bs ecc, s.cxlRange l pt.val a bs.length = false → exec (.cxlMemWrite l pt a ⟨bs, ecc⟩) s = .next s) ∧
     ∀ len ecc, s.cxlRange l pt.val a len = false → exec (.cxlMemRead l pt a ⟨len, ecc⟩) s = .next s)
/-! ### Canvases (04, R85, R113; 12, R277, R364; 13, R295, R310; 01, R35-R38) -/

/-- The steps of a CANVAS_LOAD that passes its checks (12, R277, R364): the partition begins to load and its clusters are to start; its header is read; once they have started (07, R162), every
byte of the stores of the clusters that no other partition names too, and of its region where its extents are good, becomes 0 while every other store byte keeps its value (00, R10; 05, R123); with the whole image
checked it is Armed. While the count does not run it is answered STATE, whatever its handle (14, R316); one whose object or place does not serve EXTENT; a failed check or a host error ends it with its status, and so does a
stack under an extent that has tripped, with ACCESS (05, R134; log 47), and the partition does not load any more. Completes: CANVAS_LOAD, CANVAS_HEADER_READ_DONE, PARTITION_ZEROING_DONE,
CANVAS_IMAGE_READ_DONE. -/
def Obligations.CanvasLoadSteps : Prop :=
  ∀ (s : State) (pt : Pt),
    (∀ tag d, s.descStarts pt tag d → d.op = 0x08 →
      (∀ o, (s.started pt.val d).loadObject pt.val d = some o → s.tb.running = true → d.w2.toNat % 64 = 0 → 256 ≤ o.room d.w2.toNat →
        ∃ t, exec (.canvasLoad pt tag) s = .next t ∧ (t.part pt.val).loading = some { tag := d.tag, phase := .header, header := [] } ∧
          (t.part pt.val).st = (s.part pt.val).st ∧ s.otherParts t pt.val ∧ t = { s with parts := t.parts, cluStart := t.cluStart } ∧
          ∀ k, k < 66 → s.ownsClu pt.val k = true → Tab.find s.clusters k = none → k ∈ t.cluStart) ∧
      (s.tb.running = true → (s.started pt.val d).loadObject pt.val d = none → ∃ t, exec (.canvasLoad pt tag) s = .next t ∧ s.onlyPosts t pt.val d (d.record pt.val stEXTENT)) ∧
      (s.tb.running = false →
        ∃ t, exec (.canvasLoad pt tag) s = .next t ∧ s.onlyPosts t pt.val d (d.record pt.val stSTATE)) ∧
      (∀ o, (s.started pt.val d).loadObject pt.val d = some o → s.tb.running = true → (d.w2.toNat % 64 ≠ 0 ∨ o.room d.w2.toNat < 256) →
        ∃ t, exec (.canvasLoad pt tag) s = .next t ∧ s.onlyPosts t pt.val d (d.record pt.val stEXTENT))) ∧
    (∀ l d, (s.part pt.val).loading = some l → (s.part pt.val).loadDesc = some d → (s.part pt.val).hasOrphan 0 = false →
      (∀ o bs k, s.loadObject pt.val d = some o → s.trippedUnder pt.val = some k →
        (l.phase = .header → ∃ t, exec (.canvasHeaderReadDone pt (.data bs)) s = .next t ∧ (t.part pt.val).loading = none ∧ s.otherParts t pt.val ∧
          ∃ r ∈ (t.ring d.cq).ready, r.status = stACCESS ∧ r.detail = BitVec.ofNat 64 k ∧ r.tag = d.tag) ∧
        (l.phase = .image → ∃ t, exec (.canvasImageReadDone pt (.data bs)) s = .next t ∧ (t.part pt.val).loading = none ∧ s.otherParts t pt.val ∧
          ∃ r ∈ (t.ring d.cq).ready, r.status = stACCESS ∧ r.detail = BitVec.ofNat 64 k ∧ r.tag = d.tag)) ∧
      (∀ o bs, l.phase = .header → s.trippedUnder pt.val = none → s.loadObject pt.val d = some o →
        (s.headCheck pt.val (imgOf (slice bs 0 256)) none (o.room d.w2.toNat) = none →
          exec (.canvasHeaderReadDone pt (.data bs)) s =
            .next (s.updPart pt.val fun p => { p with loading := some { l with phase := .zeroing, header := slice bs 0 256 } })) ∧
        (∀ b, s.headCheck pt.val (imgOf (slice bs 0 256)) none (o.room d.w2.toNat) = some b →
          ∃ t, exec (.canvasHeaderReadDone pt (.data bs)) s = .next t ∧ (t.part pt.val).loading = none ∧ s.otherParts t pt.val ∧
            ∃ r ∈ (t.ring d.cq).ready, r.status = b.status ∧ r.detail = b.detail ∧ r.tag = d.tag)) ∧
      (l.phase = .header → ∃ t, exec (.canvasHeaderReadDone pt .error) s = .next t ∧ (t.part pt.val).loading = none ∧ s.otherParts t pt.val ∧
        ∃ r ∈ (t.ring d.cq).ready, r.status = stHOSTERR ∧ r.tag = d.tag) ∧
      (∀ o bs, l.phase = .image → s.trippedUnder pt.val = none → s.loadObject pt.val d = some o →
        (s.hbmPoison = [] → s.poison = [] → s.imageCheck pt.val (imgOf (l.header ++ bs)) (o.room d.w2.toNat) false = none →
          ∃ t, exec (.canvasImageReadDone pt (.data bs)) s = .next t ∧ (t.part pt.val).st = .armed ∧ (t.part pt.val).loading = none ∧
            (t.part pt.val).canvas = some (headCanvas (imgOf (l.header ++ bs)) 0) ∧ (t.part pt.val).gen = (headCanvas (imgOf (l.header ++ bs)) 0).gen ∧
            (∃ r ∈ (t.ring d.cq).ready, r.status = stOK ∧ r.tag = d.tag ∧ r.opcode = 0x08) ∧ s.otherParts t pt.val ∧ t.flash = s.flash ∧ t.tb = s.tb ∧ t.links = s.links) ∧
        (∀ b, s.imageCheck pt.val (imgOf (l.header ++ bs)) (o.room d.w2.toNat) false = some b →
          ∃ t, exec (.canvasImageReadDone pt (.data bs)) s = .next t ∧ (t.part pt.val).loading = none ∧ (t.part pt.val).st = (s.part pt.val).st ∧ s.otherParts t pt.val ∧
            ∃ r ∈ (t.ring d.cq).ready, r.status = b.status ∧ r.detail = b.detail ∧ r.tag = d.tag)) ∧
      (l.phase = .image → ∃ t, exec (.canvasImageReadDone pt .error) s = .next t ∧ (t.part pt.val).loading = none ∧ s.otherParts t pt.val ∧
        ∃ r ∈ (t.ring d.cq).ready, r.status = stHOSTERR ∧ r.tag = d.tag)) ∧
    (∀ l d, (s.part pt.val).loading = some l → (s.part pt.val).loadDesc = some d → l.phase = .zeroing →
      (∀ k, s.clustersWait pt.val = false → s.trippedUnder pt.val = some k →
        ∃ t, exec (.partitionZeroingDone pt) s = .next t ∧ (t.part pt.val).loading = none ∧ s.otherParts t pt.val ∧ t.coreMem = s.coreMem ∧ t.cluMem = s.cluMem ∧ t.hbm = s.hbm ∧
          ∃ r ∈ (t.ring d.cq).ready, r.status = stACCESS ∧ r.detail = BitVec.ofNat 64 k ∧ r.tag = d.tag) ∧
      (s.clustersWait pt.val = false → s.trippedUnder pt.val = none →
        ∃ t, exec (.partitionZeroingDone pt) s = .next t ∧ t.part pt.val = { s.part pt.val with loading := some { l with phase := .image } } ∧ s.otherParts t pt.val ∧
          (∀ c a, s.soleClu pt.val c.cluIx = true → storeOk a = true → t.readSt c a = 0) ∧
          (∀ c a, s.soleClu pt.val c.cluIx = false → storeOk a = true → t.readSt c a = s.readSt c a) ∧
          (∀ a k x, locate (s.extents pt.val) a = some (k, x) → (s.stack k).tripped = false → (∀ e ∈ s.extents pt.val, e.1 = k → s.extentBad pt.val e = false) → t.readHbm pt.val a = 0) ∧
          (∀ m a k x, locate (s.extents m) a = some (k, x) → (∀ e ∈ s.extents pt.val, e.1 = k → x < granule * e.2.1 ∨ granule * e.2.1 + granule * e.2.2 ≤ x) →
            t.readHbm m a = s.readHbm m a) ∧
          t = { s with parts := t.parts, coreMem := t.coreMem, cluMem := t.cluMem, hbm := t.hbm, poison := t.poison, hbmPoison := t.hbmPoison }) ∧
      (s.clustersWait pt.val = true → exec (.partitionZeroingDone pt) s = .next s))

/-- Staging and arming (12, R277; 13, R295, R310): a checked image enters the staging list, and only that changes with the next copies of its port entries; a
staged image that passes its checks arms its partition; either waits while a stack under the image serves no request (05, R132; log 63). The tree's CANVAS_ARM also writes the job's registers, and leaves them when it is refused; a tripped
stack is ACCESS (12, R276). A refused one is answered with the status and the detail of the check. That an image staged again goes to the end of the list, and that the tree's STATE comes before its ACCESS, is log 36.
Completes: CANVAS_STAGE, CANVAS_ARM, TREE_CANVAS_ARM. -/
def Obligations.StageAndArm : Prop :=
  ∀ (s : State) (pt : Pt),
    (∀ tag d v ecc, (s.descStarts pt tag d ∧ v = s.started pt.val d) ∨ (s.descServed pt tag 0x09 d ∧ v = s) → d.op = 0x09 → cleanReads ecc →
      ∀ others, others = (s.part pt.val).staged.filter (fun c => c.addr ≠ d.addr) →
      (d.addr % 256 = 0 → others.length < 8 → v.stacksServe pt.val d.addr (v.imageLen pt.val d.addr) →
        ((v.forStaging pt.val).regionCheck pt.val d.addr true = none →
          ∃ t w3, exec (.canvasStage pt ⟨tag, ecc⟩) s = .next t ∧ s.posts t pt.val d { d.record pt.val stOK with w3 := w3 } ∧
            (t.part pt.val).staged = others ++ [headCanvas (s.stagedImg pt.val d.addr) d.addr] ∧
            (t.part pt.val).st = (s.part pt.val).st ∧ s.otherParts t pt.val ∧ t = { s with parts := t.parts, rings := t.rings, regs := t.regs }) ∧
        (∀ b, (v.forStaging pt.val).regionCheck pt.val d.addr true = some b →
          ∃ t, exec (.canvasStage pt ⟨tag, ecc⟩) s = .next t ∧ s.onlyPosts t pt.val d { d.record pt.val b.status with detail := b.detail })) ∧
      (d.addr % 256 = 0 → others.length < 8 → ¬ v.stacksServe pt.val d.addr (v.imageLen pt.val d.addr) →
        ∃ t, exec (.canvasStage pt ⟨tag, ecc⟩) s = .next t ∧ t = { v with hbmStk := t.hbmStk }) ∧
      (d.addr % 256 ≠ 0 ∨ 8 ≤ others.length → ∃ t, exec (.canvasStage pt ⟨tag, ecc⟩) s = .next t ∧ s.onlyPosts t pt.val d (d.record pt.val stEXTENT))) ∧
    (∀ tag d v ecc, (s.descStarts pt tag d ∧ v = s.started pt.val d) ∨ (s.descServed pt tag 0x0A d ∧ v = s) → d.op = 0x0A → cleanReads ecc →
      (v.stacksServe pt.val d.addr (v.imageLen pt.val d.addr) →
        (s.hbmPoison = [] → s.poison = [] → v.armCheck pt.val d.addr = none →
          ∃ t, exec (.canvasArm pt ⟨tag, ecc⟩) s = .next t ∧ (t.part pt.val).st = .armed ∧
            (t.part pt.val).canvas = some (headCanvas (s.stagedImg pt.val d.addr) d.addr) ∧ (t.part pt.val).overlap = false ∧
            (∃ r ∈ (t.ring d.cq).ready, r.status = stOK ∧ r.tag = d.tag ∧ r.opcode = 0x0A) ∧ s.otherParts t pt.val ∧ t.flash = s.flash ∧ t.tb = s.tb ∧ t.links = s.links) ∧
        (∀ b, v.armCheck pt.val d.addr = some b →
          ∃ t, exec (.canvasArm pt ⟨tag, ecc⟩) s = .next t ∧ s.onlyPosts t pt.val d { d.record pt.val b.status with detail := b.armDetail })) ∧
      (¬ v.stacksServe pt.val d.addr (v.imageLen pt.val d.addr) → ∃ t, exec (.canvasArm pt ⟨tag, ecc⟩) s = .next t ∧ t = { v with hbmStk := t.hbmStk })) ∧
    ∀ seq addr jm topo ecc u w, s.managed = true → s.hf.lastSeq ≠ some seq → cleanReads ecc → w = s.readWait pt.val addr (s.imageLen pt.val addr) →
      ((s.part pt.val).st ≠ .armed ∧ (s.part pt.val).st ≠ .faultStop →
        ∃ t, exec (.treeCanvasArm seq pt addr jm ⟨topo, ecc⟩) s = .next t ∧ t = { s with hf := t.hf, outbox := t.outbox } ∧
          t.outbox = s.outbox ++ [.answer seq [BitVec.ofNat 64 stSTATE, 0]]) ∧
      (∀ k, (s.part pt.val).st = .armed ∨ (s.part pt.val).st = .faultStop → s.trippedIn pt.val addr (s.imageLen pt.val addr) = some k →
        ∃ t, exec (.treeCanvasArm seq pt addr jm ⟨topo, ecc⟩) s = .next t ∧ t = { s with hf := t.hf, outbox := t.outbox } ∧
          t.outbox = s.outbox ++ [.answer seq [BitVec.ofNat 64 stACCESS, BitVec.ofNat 64 k]]) ∧
      ((s.part pt.val).st = .armed ∨ (s.part pt.val).st = .faultStop → s.trippedIn pt.val addr (s.imageLen pt.val addr) = none →
        u = setCfg (if jm.toNat ≤ 32768 then setCfg w .ptJobCfg pt.val 0 (BitVec.ofNat 32 (at_ jm.toNat 16)) else w) .ptJobTopo pt.val 0 topo →
        (s.hbmPoison = [] → s.poison = [] → u.armCheck pt.val addr = none →
          ∃ t, exec (.treeCanvasArm seq pt addr jm ⟨topo, ecc⟩) s = .next t ∧ (t.part pt.val).st = .armed ∧
            (t.part pt.val).canvas = some (headCanvas (s.stagedImg pt.val addr) addr) ∧ t.outbox.getLast? = some (.answer seq [0, 0]) ∧ s.otherParts t pt.val) ∧
        ∀ b, u.armCheck pt.val addr = some b →
          ∃ t, exec (.treeCanvasArm seq pt addr jm ⟨topo, ecc⟩) s = .next t ∧ t = { w with hf := t.hf, outbox := t.outbox } ∧
            t.outbox = s.outbox ++ [.answer seq [BitVec.ofNat 64 b.status, b.armDetail]])

/-- A handover (01, R35-R38; 04, R113): HANDOVER of a staged canvas that passes makes it the partition's next canvas and leaves the core waiting for its head; one whose H is no edge of both canvases is refused with EXTENT,
and one whose canvas is not staged, or fails the comparisons of R149, is a fault-stop CANVAS that names it; while a stack under the image serves no request it waits in the sequencer (05, R132; log 63). QUEUE of the refusal's record
is log 19; that the head clears predicates, scalar registers and loops is log 18, and the details of the overlap log 32.
HEAD_START begins the head: the core takes the entry's stream and keeps its flags, slots, queues and running commands, and a core without entry has nothing
left to run; before its time it changes nothing. PORT_TABLE_SWITCH puts the next
copies of the partition's entries in force on its port, unless that would leave the current calendar fewer than 4 loose entries (09, R211; log 95). Completes: HANDOVER, HEAD_START, PORT_TABLE_SWITCH. -/
def Obligations.HandoverEffect : Prop :=
  ∀ s : State,
    (∀ c ecc hbm n q addr h, s.issues c ecc n q → q.opcode = 0x58 → addr = wf q.w2 63 24 → h = q.w1.toNat → ¬ s.stacksServe n addr (s.imageLen n addr) →
      ∃ t, exec (.handover ⟨c, ecc, hbm⟩) s = .next t ∧ t = { s.setCore c (t.core c) with hbmStk := t.hbmStk } ∧ t.core c = { s.core c with lampWait := (t.core c).lampWait } ∧
        (Tab.find (t.core c).lampWait 4).isSome = true) ∧
    (∀ c ecc hbm n q addr h u, s.issues c ecc n q → q.opcode = 0x58 → addr = wf q.w2 63 24 → h = q.w1.toNat → s.stacksServe n addr (s.imageLen n addr) → cleanReads hbm →
      u = (s.updCore c fun k => k.endWait 4 7 s.now) →
      ((s.part n).stagedAt addr = none →
        exec (.handover ⟨c, ecc, hbm⟩) s = .next (u.faultStop n { code := cCANVAS, core := some c, queue := 4, cmd := (s.core c).pc, addr := addr, genNew := none })) ∧
      (∀ cv, (s.part n).stagedAt addr = some cv →
        (h % (s.core c).beatNs ≠ 0 ∨ h % 2 ^ cv.beatExp ≠ 0 →
          exec (.handover ⟨c, ecc, hbm⟩) s = .next (u.faultStop n { code := cREFUSED, sub := 2, core := some c, queue := q.queue, cmd := (s.core c).pc })) ∧
        (h % (s.core c).beatNs = 0 → h % 2 ^ cv.beatExp = 0 → s.sigCheck n (s.stagedImg n addr) (some (s.portsOf n (s.stagedImg n addr))) ≠ none →
          exec (.handover ⟨c, ecc, hbm⟩) s = .next (u.faultStop n { code := cCANVAS, core := some c, queue := 4, cmd := (s.core c).pc, addr := addr, genNew := some cv.gen })) ∧
        (h % (s.core c).beatNs = 0 → h % 2 ^ cv.beatExp = 0 → s.sigCheck n (s.stagedImg n addr) (some (s.portsOf n (s.stagedImg n addr))) = none →
          ∃ t, exec (.handover ⟨c, ecc, hbm⟩) s = .next t ∧
            t.core c = { (u.core c).next with handover := some { h := h, d := wf q.w0 22 20, canvas := addr }, segOpen := false, ended := false } ∧
            (t.part n).nextCanvas = some cv ∧ (t.part n).genNew = cv.gen ∧ (t.part n).switchAt = some h ∧ (t.part n).canvas = (s.part n).canvas ∧
            s.otherParts t n ∧ t = { s.setCore c (t.core c) with parts := t.parts, regs := t.regs }))) ∧
    (∀ c n x, s.partOf c = some n → (s.core c).handover = some x → (s.part n).st = .run →
      ((x.h : Int) - (x.d * (s.part n).nextBeat : Nat) ≤ s.now → beforeHold (s.part n).holdAt ((x.h : Int) - (x.d * (s.part n).nextBeat : Nat)) = true → s.poison = [] →
        ∃ t, exec (.headStart c) s = .next t ∧ (t.core c).handover = none ∧ (t.core c).queues = (s.core c).queues ∧ (t.core c).run = (s.core c).run ∧
          (t.core c).flags = (s.core c).flags ∧ (t.core c).preds = 0 ∧ (t.core c).sc = [] ∧ (t.core c).loops = [] ∧
          (t.core c).gen = (headCanvas (s.stagedImg n x.canvas) x.canvas).gen ∧ s.otherParts t n ∧ s.otherCores t c ∧
          (∀ e, (dirOf (s.stagedImg n x.canvas)).find? (fun e => decide (e.id = c)) = some e →
            (t.core c).streamBase = e.base ∧ (t.core c).streamLen = e.len ∧ (t.core c).pc = 0 ∧ (t.core c).segOpen = true ∧ (t.core c).segNo = 0) ∧
          ((∀ e ∈ dirOf (s.stagedImg n x.canvas), e.id ≠ c) → (t.core c).ended = true) ∧
          ((∃ y ∈ (s.core c).run, y.2.q.gen = (s.core c).gen) → (t.part n).overlap = true ∧ (t.core c).slotSt = (s.core c).slotSt ∧
            ((∀ e ∈ dirOf (s.stagedImg n x.canvas), e.id ≠ c) → t = { s with parts := t.parts, cores := t.cores }))) ∧
      (s.now < (x.h : Int) - (x.d * (s.part n).nextBeat : Nat) → exec (.headStart c) s = .next s)) ∧
    ∀ (p : Port) (pt : Pt) h cv v, (s.part pt.val).switchAt = some h → (s.part pt.val).nextCanvas = some cv →
      v = (s.clearClaims ((s.part pt.val).claims.filter fun c => c.port = p.val) false).putClaims pt.val cv.gen ((s.part pt.val).nextClaims.filter fun c => c.port = p.val) false →
      ((s.part pt.val).st = .run ∨ (s.part pt.val).st = .hold → h ≤ s.now →
        (∃ c ∈ (s.part pt.val).claims ++ (s.part pt.val).nextClaims, c.port = p.val) → (∀ w ∈ (s.port p.val).switched, w.1 ≠ pt.val) →
        s.oldFlitsFor pt.val p.val (s.part pt.val).gen = false → 4 ≤ v.looseEntries p.val false →
        ∃ t, exec (.portTableSwitch p pt) s = .next t ∧ s.otherParts t pt.val ∧ t = { s with regs := t.regs, ports := t.ports, parts := t.parts } ∧
          ((s.part pt.val).overlap = false → t.parts = s.parts ∧ s.otherPorts t p.val ∧
            t.port p.val = { s.port p.val with switched := (pt.val, s.now) :: (s.port p.val).switched }) ∧
          (s.regsRise → ∀ c, (s.part pt.val).nextClaims.filter (fun c => decide (c.port = p.val)) = [c] →
            cfg t (if c.ingress then .fabInc else .fabCalc) p.val c.entry = s.claimImage pt.val cv.gen c)) ∧
      (s.now < h ∨ v.looseEntries p.val false < 4 ∨ s.oldFlitsFor pt.val p.val (s.part pt.val).gen = true → exec (.portTableSwitch p pt) s = .next s)

/-! ### PART_CTL (12, R279) -/

/-- PART_CTL_START, HOLD and RELEASE that may start take their counts and stay in flight, or are answered STATE or EXTENT; PART_CTL_RESET takes its partition to Absent from any
state, its owner kept and its stores zeroed, but for those of a cluster that another partition names too, and with no object to reclaim and no notice waiting it completes (12, R279; 16, R361). STATE for a start that is not
Loaded or already waits (log 36) and for a second hold or release (log 34) is the model's choice. Other partitions are as they were, but for the owner of a repaint that
the reset ends. Completes: PART_CTL_START, PART_CTL_HOLD, PART_CTL_RELEASE, PART_CTL_RESET. -/
def Obligations.PartitionControl : Prop :=
  ∀ (s : State) (pt : Pt) (tag : BitVec 16) (d : Desc), s.descStarts pt tag d → d.op = 0x0B →
    (wf d.w1 1 0 = 0 →
      ((s.part pt.val).wt = .loaded → (s.part pt.val).startAt = none → s.edgeAhead pt.val 16 d.w2.toNat = true →
        ∃ t, exec (.partCtlStart pt tag) s = .next t ∧
          t.part pt.val = { s.part pt.val with startAt := some d.w2.toNat, startTag := some d.tag, flight := (t.part pt.val).flight } ∧
          (t.part pt.val).flight.length = (s.part pt.val).flight.length ∧ s.otherParts t pt.val ∧ t = { s with parts := t.parts }) ∧
      ((s.part pt.val).wt ≠ .loaded ∨ (s.part pt.val).startAt ≠ none → ∃ t, exec (.partCtlStart pt tag) s = .next t ∧ s.onlyPosts t pt.val d (d.record pt.val stSTATE)) ∧
      ((s.part pt.val).wt = .loaded → (s.part pt.val).startAt = none → s.edgeAhead pt.val 16 d.w2.toNat = false →
        ∃ t, exec (.partCtlStart pt tag) s = .next t ∧ s.onlyPosts t pt.val d (d.record pt.val stEXTENT))) ∧
    (wf d.w1 1 0 = 1 → (s.part pt.val).st = .run →
      ((s.part pt.val).holdAt = none → s.edgeAhead pt.val 8 d.w2.toNat = true →
        ∃ t, exec (.partCtlHold pt tag) s = .next t ∧
          t.part pt.val = { s.part pt.val with holdAt := some d.w2.toNat, holdTag := some d.tag, flight := (t.part pt.val).flight } ∧
          s.otherParts t pt.val ∧ t = { s with parts := t.parts }) ∧
      ((s.part pt.val).holdAt ≠ none → ∃ t, exec (.partCtlHold pt tag) s = .next t ∧ s.onlyPosts t pt.val d (d.record pt.val stSTATE)) ∧
      ((s.part pt.val).holdAt = none → s.edgeAhead pt.val 8 d.w2.toNat = false →
        ∃ t, exec (.partCtlHold pt tag) s = .next t ∧ s.onlyPosts t pt.val d (d.record pt.val stEXTENT))) ∧
    (wf d.w1 1 0 = 2 → (s.part pt.val).st = .hold →
      ((s.part pt.val).releaseAt = none → s.edgeAhead pt.val 8 d.w2.toNat = true →
        ∃ t, exec (.partCtlRelease pt tag) s = .next t ∧
          t.part pt.val = { s.part pt.val with releaseAt := some d.w2.toNat, releaseTag := some d.tag, flight := (t.part pt.val).flight } ∧
          s.otherParts t pt.val ∧ t = { s with parts := t.parts }) ∧
      ((s.part pt.val).releaseAt ≠ none → ∃ t, exec (.partCtlRelease pt tag) s = .next t ∧ s.onlyPosts t pt.val d (d.record pt.val stSTATE)) ∧
      ((s.part pt.val).releaseAt = none → s.edgeAhead pt.val 8 d.w2.toNat = false →
        ∃ t, exec (.partCtlRelease pt tag) s = .next t ∧ s.onlyPosts t pt.val d (d.record pt.val stEXTENT))) ∧
    (wf d.w1 1 0 = 3 →
      ∃ t, exec (.partCtlReset pt tag) s = .next t ∧ (t.part pt.val).st = .absent ∧ (t.part pt.val).wt = .empty ∧ (t.part pt.val).loading = none ∧
        t.owner pt.val = s.owner pt.val ∧ ((s.part pt.val).repaint = none → s.otherParts t pt.val) ∧
        (∀ c a, s.soleClu pt.val c.cluIx = true → storeOk a = true → t.readSt c a = 0) ∧
        (∀ c a, s.soleClu pt.val c.cluIx = false → storeOk a = true → t.readSt c a = s.readSt c a) ∧
        ((s.part pt.val).gal = [] → s.noticeWaits pt.val = false → (∀ e ∈ (s.part pt.val).flight, e.op ≠ 0x81) → ∃ r ∈ (t.ring d.cq).ready, r.status = stOK ∧ r.tag = d.tag))
/-! ### The Fretur link (08; 09, R225-R227) -/

/-- What a port sends and takes (08, R182, R184, R185, R187, R190-R193, R195-R197, R200): a unit boundary sends exactly one unit, the first that is due: an ACK that R195 forces, a waiting ordered set, an ACK that is due,
a TIME_MARK, a resend, then the next flit; its eight blocks join the port's codeword with its 30 check symbols, or on an Ethernet-mode port it joins the datagram. An intact ordered set only counts
as a unit, and while the port trains or resets a reserved one is counted; a unit that does not decode is counted, and ten in a row ask for a retrain; a flit above a gap is stored in the window, one that came before or lies beyond the
window is counted, and a management flit in sequence is released. A tailings read makes its entry ready as the slot holds it; an ACK frees the entries up to the one it names
and brings credits back; an Ethernet-mode datagram of a stranger is dropped. The order of units and ten units for four codewords are log 43; the code's field and the dealing of symbols log 79;
the ACK at 127 units, and before three JOB_STOPs at 125, log 80. Completes: UNIT_BOUNDARY, UNIT_RECEIVED, TAILINGS_READ_DONE, ACK, ETH_DATAGRAM. -/
def Obligations.LinkUnits : Prop :=
  ∀ (s : State) (p : Port) (f : FPort), f = s.port p.val →
    (f.st = .up ∨ f.st = .resetting ∨ f.st = .training →
      ∃ u control bs, exec (.unitBoundary p) s = .next (if f.st = .training then u else u.pickNow p.val) ∧
        (u.port p.val).txUnits = (f.txUnits + 1) % 2 ^ 24 ∧ (u.port p.val).window = f.window ∧ (u.port p.val).st = f.st ∧
        s.otherPorts u p.val ∧ u = { s with ports := u.ports, outbox := u.outbox, events := u.events, counts := u.counts, canAcc := u.canAcc } ∧
        (16384 ≤ (u.port p.val).outstanding → u.pickNow p.val = u) ∧
        (s.ethMode p.val = false →
          ((f.blocks ++ unitBlocks control bs).length < 20 →
            u.outbox = s.outbox ++ [.unit p.val control bs] ∧ (u.port p.val).blocks = f.blocks ++ unitBlocks control bs) ∧
          (20 ≤ (f.blocks ++ unitBlocks control bs).length → ∀ msg, msg = messageSymbols ((f.blocks ++ unitBlocks control bs).take 20) →
            u.outbox = s.outbox ++ [.unit p.val control bs] ++
              [.codeword p.val (dealt f.activeLanes (msg ++ rsCheck msg))] ∧
            (u.port p.val).blocks = (f.blocks ++ unitBlocks control bs).drop 20)) ∧
        (s.ethMode p.val = true →
          (f.ethUnits.length + 1 < cf s .ethCfg p.val 0 15 11 → u.outbox = s.outbox ∧ (u.port p.val).ethUnits = f.ethUnits ++ [(f.txUnits, bs)]) ∧
          (cf s .ethCfg p.val 0 15 11 ≤ f.ethUnits.length + 1 →
            u.outbox = s.outbox ++ [.unit p.val true (s.datagram p.val ((f.ethUnits ++ [(f.txUnits, bs)]).head?.elim 0 (·.1)) ((f.ethUnits ++ [(f.txUnits, bs)]).map (·.2)))] ∧
            (u.port p.val).ethUnits = [])) ∧
        (f.st = .up →
          (f.ackForced = true ∨ (f.osq = [] ∧ f.ackDue = true) →
            control = true ∧ bs = s.osBytes p.val { typ := 0x02, body := f.ackBody } ∧ (u.port p.val).sinceAck = 0) ∧
          (∀ o os, f.ackForced = false → f.osq = o :: os → control = true ∧ (u.port p.val).osq = os ∧
            bs = s.osBytes p.val (if o.typ = 0x05 then { o with body := o.body ++ leBytes 8 (s.leaves16 p.val) } else o)) ∧
          (f.osq = [] → f.ackDue = false → f.ackForced = false →
            (f.markDue = true → control = true ∧ bs = s.osBytes p.val { typ := 0x03, body := s.markBody p.val } ∧ (u.port p.val).markDue = false) ∧
            (f.markDue = false →
              (∀ r, f.nextResend = some r → control = false ∧ bs = r.flit.bytes ∧ (u.port p.val).seqTx = f.seqTx ∧ (u.port p.val).spent = f.spent) ∧
              (∀ r, f.nextResend = none → f.nextLaunch = some r → control = false ∧ bs = r.flit.bytes ∧ (u.port p.val).seqTx = seqAdd f.seqTx 1 ∧
                (u.port p.val).spent = Tab.put f.spent r.flit.vl ((f.spentOn r.flit.vl + 1) % 2 ^ 32)) ∧
              (f.nextResend = none → f.nextLaunch = none → control = true)))) ∧
        (f.st ≠ .up → control = true ∧
          (s.ethMode p.val = false → f.osq = [] →
            (1 ≤ f.resetPhase → f.resetPhase ≤ 3 → bs = s.osBytes p.val { typ := 0x08, body := trainBody f.resetPhase }) ∧
            (f.resetPhase = 4 → f.delayReqs < 64 →
              bs = s.osBytes p.val { typ := 0x04, body := leBytes 8 (s.leaves16 p.val) } ∧ (u.port p.val).delayReqs = f.delayReqs + 1)))) ∧
    (f.st = .disabled ∨ f.st = .failed → exec (.unitBoundary p) s = .next s) ∧
    (∀ x g, f.st = .up → s.ethMode p.val = false → g = { f with rxUnits := (f.rxUnits + 1) % 2 ^ 24, uncorr := 0 } →
      rsDecodes x.symbolErrors = true → x.controlBits = 0xFF → crcOk x.bytes = true →
      exec (.unitReceived p x) s = .next (if osBad x.bytes then (s.setPort p.val g).count .osDiscard (.port p.val) none else s.setPort p.val g)) ∧
    (∀ x, f.st = .training ∨ f.st = .resetting → s.ethMode p.val = false → exec (.unitReceived p x) s = .next
      (if rsDecodes x.symbolErrors = true ∧ x.controlBits = 0xFF ∧ crcOk x.bytes = true ∧ osBad x.bytes = true then s.count .osDiscard (.port p.val) none else s)) ∧
    (∀ x n, f.st = .up → s.ethMode p.val = false → (rsDecodes x.symbolErrors && (x.controlBits = 0 || x.controlBits = 0xFF) && crcOk x.bytes) = false →
      n = (if rsDecodes x.symbolErrors = true then 0 else f.uncorr + 1) →
      ∃ t, exec (.unitReceived p x) s = .next t ∧ t = { s.setPort p.val (t.port p.val) with events := t.events, counts := t.counts, canAcc := t.canAcc } ∧
        (n < 10 → t.port p.val = { f with rxUnits := (f.rxUnits + 1) % 2 ^ 24, uncorr := n }) ∧
        (10 ≤ n → f.want = none → (t.port p.val).want.isSome = true)) ∧
    (∀ x y off g, f.st = .up → s.ethMode p.val = false → rsDecodes x.symbolErrors = true → x.controlBits = 0 → crcOk x.bytes = true → y = flitOf x.bytes →
      g = { f with rxUnits := (f.rxUnits + 1) % 2 ^ 24, uncorr := 0 } → off = seqDist f.rxE y.seq → f.rxE < 2 ^ 20 →
      (2 ^ 19 ≤ off → exec (.unitReceived p x) s = .next ((s.setPort p.val g).count .duplicate (.port p.val) none)) ∧
      (2048 ≤ off → off < 2 ^ 19 → ∃ t, exec (.unitReceived p x) s = .next (t.count .windowDiscard (.port p.val) none) ∧ t = s.setPort p.val (t.port p.val) ∧
        (t.port p.val).window = f.window ∧ (t.port p.val).rxE = f.rxE ∧ (t.port p.val).outq = f.outq) ∧
      (0 < off → off < 2048 → Tab.find f.window y.seq = none → Tab.find f.window f.rxE = none →
        ∃ t z, exec (.unitReceived p x) s = .next t ∧ Tab.find (t.port p.val).window y.seq = some z ∧ z.flit = y ∧ z.came = s.now ∧
          (t.port p.val).rxE = f.rxE ∧ (t.port p.val).outq = f.outq ∧
          t = (if f.overran p.val y s.now then s.count .retryOverrun (.port p.val) none else s).setPort p.val (t.port p.val)) ∧
      (off = 0 → y.vl = 3 → y.vlx = 0 → Tab.find f.window f.rxE = none → Tab.find f.window (seqAdd f.rxE 1) = none →
        ∃ t, exec (.unitReceived p x) s = .next t ∧ (t.port p.val).rxE = seqAdd f.rxE 1 ∧ t.outbox = s.outbox ++ [.mctp p.val y.payload] ∧
          (t.port p.val).retiredOn 3 = (f.retiredOn 3 + 1) % 2 ^ 32 ∧ t = { s with ports := t.ports, outbox := t.outbox, events := t.events, counts := t.counts })) ∧
    (∀ r ecc, f.wantsRead = some r →
      ((s.stack (tailStack p.val)).tripped = true → exec (.tailingsReadDone p ecc) s = .next s) ∧
      ((s.stack (tailStack p.val)).tripped = false →
        ∃ t, exec (.tailingsReadDone p ecc) s = .next t ∧
          (ecc = .uncorrectable → (t.port p.val).st = .failed) ∧
          (ecc ≠ .uncorrectable → t.port p.val = { f with
              replay := f.replay.map fun e => if e.flit.seq = r.flit.seq then
                { e with flit := flitOf (s.readStack (tailStack p.val) (tailAddr p.val r.flit.seq) 256), readBack := true } else e } ∧
            t = { s.setPort p.val (t.port p.val) with events := t.events, counts := t.counts, canAcc := t.canAcc }))) ∧
    (∀ b, f.st = .up → seqDist f.seqOldest (seqAdd b.cumAck 1) ≤ seqDist f.seqOldest f.seqTx →
      ∃ t, exec (.ack p b) s = .next t ∧ t = s.setPort p.val (t.port p.val) ∧ (t.port p.val).lastAck = s.now ∧
        (t.port p.val).seqOldest = seqAdd f.seqOldest (seqDist f.seqOldest (seqAdd b.cumAck 1)) ∧
        (t.port p.val).replay.map (·.flit) = (f.replay.drop (seqDist f.seqOldest (seqAdd b.cumAck 1))).map (·.flit) ∧
        (∀ v, v < 4 → (t.port p.val).returnedOn v = (f.returnedOn v + (b.cret.getD v 0 % 65536 + 65536 - Tab.get 0 f.lastCret v % 65536) % 65536) % 2 ^ 32) ∧
        (t.port p.val).seqTx = f.seqTx ∧ (t.port p.val).spent = f.spent ∧ (t.port p.val).window = f.window) ∧
    (∀ d, s.ethMode p.val = false ∨ f.st = .disabled ∨ f.st = .failed → exec (.ethDatagram p d) s = .next s) ∧
    (∀ d, f.st ≠ .disabled → f.st ≠ .failed → s.ethMode p.val = true → s.datagramOk p.val d = false →
      exec (.ethDatagram p d) s = .next (s.count .ethDrop (.port p.val) none)) ∧
    ∀ d, f.st ≠ .disabled → f.st ≠ .failed → s.ethMode p.val = true → s.datagramOk p.val d = true →
      (∀ x ∈ d.payload, crcOk x.bytes = true ∧ x.controlBits = 0xFF ∧ osBad x.bytes = false) →
      ∃ n, exec (.ethDatagram p d) s = .next (s.setPort p.val { f with rxUnits := n }) ∧
        n = (if unitAbove ((d.unitCnt + d.units) % 2 ^ 24) f.rxUnits then (d.unitCnt + d.units) % 2 ^ 24 else f.rxUnits)

/-- Resets and training (08, R198, R200-R203; 09, R226): a request is made, repeated, answered and taken; the phases follow one another, the identity phase only once the
peer's TRAIN has come; a retrain keeps width, rate and lanes; after 64 exchanges the mean delay stands, and one above 10,000 ns stops training; RESUME sends again what the
other end has not, and what the peer has sent and this end has not seen is noted as missing (06, R146). Everything that R203 keeps is kept, and no other port or core changes. That first training ends after the delay
measurement, and how phases are numbered, is log 43; the mean over the exchanges log 81. Completes: ACK_TIMEOUT, RESET_REQ, RESET_ACK, RESET_REQ_REPEAT, RESET_ACK_TIMEOUT,
UNIT_LOCK_LOSS, TRAIN, DELAY_REQ, DELAY_RSP, RESET_PHASE_DONE, RESUME. -/
def Obligations.LinkResets : Prop :=
  ∀ (s : State) (p : Port) (from_ : OsSender) (f : FPort), f = s.port p.val →
    (f.st = .up → f.want = none → f.lastAck + 16000 + f.delay16 / 8 ≤ s.now →
      ∃ t b, exec (.ackTimeout p) s = .next t ∧ b = { f.retrainBody with reqNo := BitVec.ofNat 8 f.reqNo } ∧
        t = s.setPort p.val { f with want := some { body := b, since := s.now }, reqNo := (f.reqNo + 1) % 256,
                                     osq := (f.osq.filter fun o => decide (o.typ ≠ 0x06)) ++ [reqOs b] }) ∧
    (∀ w, s.answers p.val = true → f.want = some w →
      exec (.resetReqRepeat p) s = .next (s.setPort p.val { f with osq := f.osq ++ [reqOs w.body] })) ∧
    (∀ i b, f.st = .up →
      ((i = .resetReq p from_ b ∧ b.rate ≠ 3 ∧ (f.want = none ∨ from_.devid.toNat ≤ s.devid)) ∨
        (i = .resetAck p from_ b ∧ b.rate ≠ 3 ∧ f.want.isSome = true) ∨
        (∃ w, i = .resetAckTimeout p ∧ f.want = some w ∧ b = w.body ∧ w.since + 100000 ≤ s.now) ∨
        (i = .unitLockLoss p ∧ s.ethMode p.val = false ∧ b = (match f.want with | some w => w.body | none => f.retrainBody))) →
      ∃ t, exec i s = .next t ∧
        t.port p.val = { f with st := .resetting, want := none, agreed := some b, resetPhase := if s.ethMode p.val then 5 else 1, resetAt := s.now, resumed := false,
                                identified := false, delayReqs := 0, blocks := [], delaySum := 0, delayNum := 0, uncorr := 0, markDue := false,
                                ackDue := false, auditDue := false, osq := (t.port p.val).osq, peerPort := (t.port p.val).peerPort } ∧
        (s.ethMode p.val = false → (t.port p.val).peerPort = f.peerPort ∧
          (t.port p.val).osq = (f.osq.filter fun o => o.typ = 0x07 || o.typ = 0x0B) ++ (if i = .resetReq p from_ b then [ackOs b] else [])) ∧
        (s.ethMode p.val = true → (t.port p.val).osq.getLast?.map (·.typ) = some 0x09) ∧
        t = { s.setPort p.val (t.port p.val) with events := t.events, counts := t.counts, canAcc := t.canAcc }) ∧
    (∀ b, s.ethMode p.val = true → f.st = .training → f.resetPhase = 0 → f.want.isSome = true → b.rate ≠ 3 →
      ∃ t, exec (.resetAck p from_ b) s = .next t ∧ t = s.setPort p.val (t.port p.val) ∧ (t.port p.val).st = .training ∧ (t.port p.val).resetPhase = 5 ∧
        (t.port p.val).agreed = some b ∧ (t.port p.val).want = none ∧ (t.port p.val).peerPort = from_.port.toNat) ∧
    (f.st = .training ∨ f.st = .resetting →
      (s.ethMode p.val = false →
        (f.resetPhase = 3 → from_.domain.toNat = s.domainNo → from_.devid.toNat ≠ s.devid → ∀ ph,
          exec (.train p from_ ph) s = .next (s.setPort p.val { f with
            peerDomain := from_.domain.toNat, peerDevid := from_.devid.toNat, peerPort := from_.port.toNat, identified := true })) ∧
        (f.resetPhase = 3 → from_.domain.toNat ≠ s.domainNo ∨ from_.devid.toNat = s.devid → ∀ ph,
          exec (.train p from_ ph) s = .next (s.setPort p.val { f with resetPhase := 7 })) ∧
        (∀ t1 came came16, exec (.delayReq p t1 came came16) s = .next (s.setPort p.val { f with
          osq := f.osq ++ [{ typ := 0x05, body := leBytes 8 t1 ++ leBytes 8 ((16 * came + came16.toNat) % 2 ^ 64) }] }))) ∧
      (∀ t1 t2 t3 t4 : Nat, f.resetPhase = 4 → f.delayNum < 64 →
        exec (.delayRsp p t1 t2 t3 t4) s = .next (s.setPort p.val { f with
          delaySum := f.delaySum + ((t4 : Int) - t1 - ((t3 : Int) - t2)), delayNum := f.delayNum + 1 })) ∧
      (∀ r b, f.resetPhase = 1 → f.agreed = some b →
        (∀ w base, b.full = true → chooseGroup b r.trainedLanes.toNat = some (w, base) →
          exec (.resetPhaseDone p r) s = .next (s.setPort p.val { f with width := w, rate := b.rate.toNat, lanes := laneMask base w, resetPhase := 2 })) ∧
        (b.full = true → chooseGroup b r.trainedLanes.toNat = none → exec (.resetPhaseDone p r) s = .next s) ∧
        (b.full = false → r.trainedLanes.toNat &&& f.lanes = f.lanes → exec (.resetPhaseDone p r) s = .next (s.setPort p.val { f with resetPhase := 2 }))) ∧
      (∀ r, f.resetPhase = 2 → exec (.resetPhaseDone p r) s = .next (s.setPort p.val { f with resetPhase := 3 })) ∧
      (∀ r, f.resetPhase = 3 → exec (.resetPhaseDone p r) s = .next (if f.identified then s.setPort p.val { f with resetPhase := 4 } else s)) ∧
      (∀ r, f.resetPhase = 4 → 64 ≤ f.delayNum → 160000 < f.meanDelay → exec (.resetPhaseDone p r) s = .next (s.setPort p.val { f with resetPhase := 7 })) ∧
      (∀ r, f.st = .resetting → f.resetPhase = 4 → 64 ≤ f.delayNum → f.meanDelay ≤ 160000 →
        exec (.resetPhaseDone p r) s = .next (s.setPort p.val { f with delay16 := f.meanDelay, resetPhase := 5, osq := f.osq ++ [{ typ := 0x09, body := f.resumeBody }] })) ∧
      (∀ r d, (f.st = .training ∧ f.resetPhase = 4 ∧ 64 ≤ f.delayNum ∧ f.meanDelay ≤ 160000 ∧ d = f.meanDelay) ∨
          (f.resetPhase = 5 ∧ f.resumed = true ∧ (∀ o ∈ f.osq, o.typ ≠ 0x09) ∧ d = f.delay16) →
        ∃ t, exec (.resetPhaseDone p r) s = .next t ∧
          t.port p.val = { f with st := .up, delay16 := d, txUnits := 0, rxUnits := 0, lastAck := s.now, sinceAck := 0, uncorr := 0, want := none, agreed := none,
                                  resetPhase := 0, named := [], resumed := false, ethUnits := [] } ∧
          s.otherPorts t p.val ∧ (∀ n, t.part n = { s.part n with timingAlarm := (t.part n).timingAlarm }) ∧
          t = { s with ports := t.ports, parts := t.parts, events := t.events, counts := t.counts, hf := t.hf, outbox := t.outbox })) ∧
    ∀ b, f.st = .resetting ∨ (f.st = .training ∧ s.ethMode p.val = true) → 4 ≤ f.resetPhase → f.resetPhase ≤ 5 → f.resumed = false →
      (seqDist f.seqOldest (seqAdd b.cumAck 1) ≤ seqDist f.seqOldest f.seqTx →
        ∃ t, exec (.resume p b) s = .next t ∧ t = s.setPort p.val (t.port p.val) ∧ (t.port p.val).resumed = true ∧
          (t.port p.val).missedAt = f.missedAt ++ f.lostInReset b.seqTx ∧ (t.port p.val).seqOldest = seqAdd f.seqOldest (seqDist f.seqOldest (seqAdd b.cumAck 1)) ∧
          (∀ r ∈ (t.port p.val).replay, r.resend = decide (2 ^ 19 ≤ seqDist f.seqTx r.flit.seq)) ∧ (t.port p.val).window = f.window) ∧
      (seqDist f.seqOldest f.seqTx < seqDist f.seqOldest (seqAdd b.cumAck 1) → ∃ t, exec (.resume p b) s = .next t ∧ (t.port p.val).st = .failed)

/-- Audits, stops and failures (08, R204, R206; 13, R291): an AUDIT that adds up only notes that it came, and one that does not fails the port; at an audit count every Up
port whose credits add up owes one, and counts a peer's that did not come; a JOB_STOP stops every partition of its key in Run or Hold, once for each key, and goes on once (that copies of one stop act once for each key is log 44);
a port not Up 50 ms after its reset or training began is Failed, where the count runs; where it does not, PORT_FAILURE itself says that the time has passed (log 105); a port whose Ethernet link is lost asks for a retrain.
Completes: AUDIT, AUDIT_SEND, JOB_STOP, PORT_FAILURE, ETH_LINK_LOSS. -/
def Obligations.LinkAuditsAndStops : Prop :=
  ∀ (s : State) (p : Port),
    (∀ b m u, (s.port p.val).st = .up → u = s.setPort p.val { s.port p.val with auditSeen := true } → m = (s.port p.val).notStored b.seqTx →
      (seqDist b.seqOldest (s.port p.val).rxE ≤ seqDist b.seqOldest b.seqTx → seqDist b.seqOldest b.seqTx ≤ seqDist b.seqOldest b.seqNext →
        seqDist b.seqOldest b.seqNext ≤ 16384 →
        (u.badLane p.val m b.cspent = none →
          (b.cspent.foldl (· + ·) 0) % 2 ^ 32 = ((upFrom 0 4).map fun v => (s.port p.val).retiredOn v + u.storedOn p.val v).foldl (· + ·) m % 2 ^ 32 →
          exec (.audit p b) s = .next u) ∧
        (u.badLane p.val m b.cspent ≠ none → ∃ t, exec (.audit p b) s = .next t ∧ (t.port p.val).st = .failed)) ∧
      (seqDist b.seqOldest b.seqTx < seqDist b.seqOldest (s.port p.val).rxE ∨ seqDist b.seqOldest b.seqNext < seqDist b.seqOldest b.seqTx ∨
        16384 < seqDist b.seqOldest b.seqNext → ∃ t, exec (.audit p b) s = .next t ∧ (t.port p.val).st = .failed)) ∧
    (∀ t, s.tb.running = true → s.tb.count ≤ t → t < 2 ^ 64 → t % 1000000000 = 0 → (∀ q, (s.port q).st = .up → ∀ v, v < 4 → (s.port q).inUse v ≤ pool v) →
      ∃ u, exec (.auditSend t) s = .next u ∧
        (∀ q, q < 16 → (s.port q).st = .up → (u.port q).auditDue = true ∧
          (u.port q).auditSkips = (s.port q).auditSkips + (if (s.port q).auditSeen then 0 else 1)) ∧
        (∀ q, (s.port q).st ≠ .up → u.port q = s.port q) ∧ u = { s.advance t with ports := u.ports, events := u.events, counts := u.counts }) ∧
    (∀ b, (s.port p.val).st ≠ .up ∨ s.ethMode p.val = true ∨ s.stopSeen b = true → exec (.jobStop p b) s = .next s) ∧
    (∀ b, (s.port p.val).st = .up → s.ethMode p.val = false → s.stopSeen b = false →
      ∃ t, exec (.jobStop p b) s = .next t ∧ t.jobStopsSeen = (b.pair.1, b.pair.2, b.key.toNat) :: s.jobStopsSeen ∧
        (∀ n, ((s.part n).st = .run ∨ (s.part n).st = .hold) → s.keyOf n = b.key.toNat → (t.part n).st = .faultStop) ∧
        (∀ n, s.keyOf n ≠ b.key.toNat → (t.part n).st = (s.part n).st) ∧
        (s.pairSeen b = false → ∀ q, q < 16 → s.jobStopPort q = true → s.portHasKey q b.key.toNat = true →
          ∃ l, (t.port q).osq = l ++ List.replicate 3 { typ := 0x0B, body := b.bytes })) ∧
    ((s.port p.val).st = .training ∨ (s.port p.val).st = .resetting → (s.tb.running = false ∨ (s.port p.val).resetAt + 50000000 ≤ s.now) →
      ∃ t, exec (.portFailure p) s = .next t ∧ (t.port p.val).st = .failed ∧ (t.port p.val).replay = [] ∧ (t.port p.val).window = [] ∧ t.flash = s.flash ∧ t.hbm = s.hbm) ∧
    (s.ethMode p.val = true → (s.port p.val).st = .up → (s.port p.val).want = none →
      ∃ t, exec (.ethLinkLoss p) s = .next t ∧ (t.port p.val).want.isSome = true ∧ s.otherPorts t p.val ∧ t = { s with ports := t.ports }) ∧
    (s.ethMode p.val = false → exec (.ethLinkLoss p) s = .next s)
/-! ### Control of ports, the loose class and the fabric (08, R200, R204, R205; 09, R211, R218-R222) -/

/-- Writes of FRT_CTL through their rows with first training open (08, R200, R204, R205): PORT_ENABLE of a Disabled port starts training from the empty
state; PORT_DISABLE leaves the port Disabled with nothing held and stops the partitions in Armed, Run or Hold that have a shaft of it; RESET_GO asks an Up port's
peer for a retrain or a full reset, also in place of a request that waits, is ignored while the port trains or resets (both log 81), and with KIND 1 starts a Failed port's training; while a cold or a module reset runs it is not
applied (14, R319). Ports train from start-up step 9 on (log 46). Other ports keep their state where no stop is due. Completes: PORT_ENABLE, PORT_DISABLE, RESET_GO. -/
def Obligations.PortControl : Prop :=
  ∀ (s : State) (p : Port) (v : W32), s.regsRise → s.managed = true → 9 ≤ s.startup.stage → frtCtlOk v = true →
    (12 ≤ p.val → rb v 21 = rb (cfg s .frtCtl p.val 0) 21) →
    (rb v 0 = true → (s.port p.val).st = .disabled →
      ∃ t, exec (.portEnable p v) s = .next t ∧ (t.port p.val).st = .training ∧ (t.port p.val).resetAt = s.now ∧ (t.port p.val).replay = [] ∧
        (t.port p.val).window = [] ∧ rb (cfg t .frtCtl p.val 0) 0 = true ∧ s.otherPorts t p.val ∧ t = { s with regs := t.regs, ports := t.ports }) ∧
    (rb v 0 = false →
      ∃ t, exec (.portDisable p v) s = .next t ∧ (t.port p.val).st = .disabled ∧ rb (cfg t .frtCtl p.val 0) 0 = false ∧
        ((s.port p.val).st = .disabled → t = { s with regs := t.regs }) ∧
        ((s.port p.val).st ≠ .disabled → (t.port p.val).replay = [] ∧ (t.port p.val).window = [] ∧
          ∀ n ∈ s.partsOnPort p.val, (s.part n).st = .run ∨ (s.part n).st = .hold ∨ (s.part n).st = .armed → (t.part n).st = .faultStop)) ∧
    (rb v 0 = true → rb v 31 = true → s.resetRuns = false → (s.port p.val).st = .up →
      ∃ t b, exec (.resetGo p v) s = .next t ∧ (t.port p.val).want = some { body := b, since := s.now } ∧ b.full = rb v 30 ∧
        (rb v 30 = true → b.width.toNat = rf v 29 28 ∧ b.rate.toNat = rf v 27 26 ∧ b.laneBase.toNat = rf v 25 23 ∧ b.allowNarrow = rb v 22) ∧
        (rb v 30 = false → b = { (s.port p.val).retrainBody with reqNo := BitVec.ofNat 8 (s.port p.val).reqNo }) ∧
        t.port p.val = { s.port p.val with want := (t.port p.val).want, reqNo := (t.port p.val).reqNo, osq := ((s.port p.val).osq.filter fun o => decide (o.typ ≠ 0x06)) ++ [reqOs b] } ∧
        s.otherPorts t p.val ∧ t = { s with regs := t.regs, ports := t.ports }) ∧
    (rb v 0 = true → rb v 31 = true → (s.port p.val).st = .training ∨ (s.port p.val).st = .resetting ∨ (s.resetRuns = true ∧ (s.port p.val).st ≠ .disabled) →
      ∃ t, exec (.resetGo p v) s = .next t ∧ t = { s with regs := t.regs }) ∧
    (rb v 0 = true → rb v 31 = true → s.resetRuns = false → (s.port p.val).st = .failed →
      ∃ t, exec (.resetGo p v) s = .next t ∧ (t.port p.val).st = (if rb v 30 = true then .training else .failed) ∧
        (rb v 30 = false → t.ports = s.ports) ∧ s.otherPorts t p.val ∧ t = { s with regs := t.regs, ports := t.ports })

/-- A packet of the loose class at its destination, with nothing behind it in its lane and its answer bound for another module (09, R219, R220): a message of one packet
lands in its empty slot, fills it, adds to its flag when it names one, and DELIVERED leaves; a SET adds one to its flag and is answered likewise; DELIVERED ends the wait
for it, and ECHO halves its group's rate; CREDIT brings a slot's credit back to the core; a packet that breaks its header's rules is counted as malformed. The packet leaves
its queue and its sequence retires. The passes in the cubes come to the present cycle before a request is taken (02, R43; log 73). Completes: LOOSE_DATA, LOOSE_SET, DELIVERED, CREDIT. -/
def Obligations.LooseClass : Prop :=
  ∀ (s v : State) (p : Port) (k : LoosePkt) (n : Nat) (x : RxFlit) (u : State),
    s.headIs p.val k = true → (k.typ = .data ∨ k.typ = .set → v = s.catchUp) → (k.typ = .delivered ∨ k.typ = .credit → v = s) →
    v.memoryWf → (v.port p.val).lane (LooseType.lane k.typ) = [x] → loosePacket (LooseType.lane k.typ) x.flit = some k → v.isMe k.dstDomain.toNat k.dstDevid.toNat = true →
    v.partOf k.dst = some n → v.keyOf n = k.key.toNat →
    u = v.updPort p.val (fun f => (f.popLane (LooseType.lane k.typ)).retire (LooseType.lane k.typ)) →
    (∀ q d b i, k.typ = .data → packetMalformed k = false → k.pktCount = 1 → k.len ≤ k.bytes.length → v.takesMessages n = true → (v.core k.dst).slotFor k.role.toNat k.slot.val = some d →
      i = slotIx (tagGen k.role.toNat) k.slot.val → k.len ≤ 256 * d.size → ((v.core k.dst).slot i).full = false → ((v.core k.dst).slot i).reasm = none →
      (k.dfen = true → (v.core k.dst).flagOk k.role.toNat k.flag.val = true ∧ (v.core k.dst).flag k.flag.val < 65535) →
      v.isMe k.srcDomain.toNat k.srcDevid.toNat = false → u.looseRoute k.srcDomain.toNat k.srcDevid.toNat = some q → v.poison = [] → v.assayEn n = false →
      b = responseTo k .delivered k.cm k.slot →
      ∃ t, exec (.looseData p k) s = .next t ∧ ((t.core k.dst).slot i).full = true ∧
        ((t.core k.dst).slot i).src = some (.remote k.srcDomain.toNat k.srcDevid.toNat k.src false) ∧ (∀ j, j ≠ i → (t.core k.dst).slot j = (v.core k.dst).slot j) ∧
        (∀ f, (t.core k.dst).flag f = (v.core k.dst).flag f + (if k.dfen = true ∧ f = k.flag.val then 1 else 0)) ∧
        t.core k.dst = { v.core k.dst with slotSt := (t.core k.dst).slotSt, flags := (t.core k.dst).flags, ahead := (t.core k.dst).ahead } ∧
        (∀ (j : Nat) (h : j < k.bytes.length), j < k.len → storeOk ((d.base + j : Nat) : Int) = true → t.readSt k.dst ((d.base + j : Nat) : Int) = k.bytes[j]) ∧
        v.storesKept t k.dst (landAddrs d.base k.len) ∧ v.otherCores t k.dst ∧ u.otherPorts t q ∧
        t.port q = { u.port q with loose2 := (u.port q).loose2 ++ [{ key := k.key.toNat, role := k.role.toNat, vlx := 0, payload := packetPayload b, from_ := none }] } ∧
        t = { v with ports := t.ports, cores := t.cores, coreMem := t.coreMem, cluMem := t.cluMem, fresh := t.fresh }) ∧
    (∀ q b, k.typ = .set → packetMalformed k = false → v.takesMessages n = true → (v.core k.dst).flagOk k.role.toNat k.flag.val = true →
      (v.core k.dst).flag k.flag.val < 65535 → v.isMe k.srcDomain.toNat k.srcDevid.toNat = false → u.looseRoute k.srcDomain.toNat k.srcDevid.toNat = some q →
      v.assayEn n = false → b = responseTo k .delivered k.cm k.slot →
      ∃ t, exec (.looseSet p k) s = .next t ∧ (t.core k.dst).flag k.flag.val = (v.core k.dst).flag k.flag.val + 1 ∧
        (∀ f, f ≠ k.flag.val → (t.core k.dst).flag f = (v.core k.dst).flag f) ∧ t.core k.dst = { v.core k.dst with flags := (t.core k.dst).flags } ∧
        v.otherCores t k.dst ∧ u.otherPorts t q ∧
        t.port q = { u.port q with loose2 := (u.port q).loose2 ++ [{ key := k.key.toNat, role := k.role.toNat, vlx := 0, payload := packetPayload b, from_ := none }] } ∧
        t = { v with ports := t.ports, cores := t.cores }) ∧
    (∀ i, packetMalformed k = true →
      (k.typ = .data ∧ i = .looseData p k) ∨ (k.typ = .set ∧ i = .looseSet p k) ∨ (k.typ = .delivered ∧ i = .delivered p k) ∨ (k.typ = .credit ∧ i = .credit p k) →
      ∃ pt, exec i s = .next (u.count .malformed (.die 6) pt)) ∧
    (∀ m, k.typ = .delivered → packetMalformed k = false →
      v.loose.find? (fun t => decide (t.src = k.dst) && decide (t.msgId = k.msgId) && decide (t.dst = k.src) && decide (t.dstDevid = k.srcDevid.toNat) &&
        decide (t.dstDomain = k.srcDomain.toNat)) = some m →
      ∃ t, exec (.delivered p k) s = .next t ∧ t.loose = v.loose.filter (fun x => !(decide (x.src = m.src) && decide (x.msgId = m.msgId))) ∧
        (k.echo = false → t = { u with loose := t.loose }) ∧
        (k.echo = true → (v.limiter (v.group m.dstDomain m.dstDevid)).halved = false →
          t = { u with loose := t.loose, limiters := t.limiters } ∧
          (t.limiter (v.group m.dstDomain m.dstDevid)).rate = Nat.max ((v.limiter (v.group m.dstDomain m.dstDevid)).rate / 2) (cf s .fabCcCfg 0 0 7 0) ∧
          (t.limiter (v.group m.dstDomain m.dstDevid)).halved = true ∧
          ∀ g, g ≠ v.group m.dstDomain m.dstDevid → t.limiter g = v.limiter g)) ∧
    ∀ y, k.typ = .credit → packetMalformed k = false → (v.core k.dst).creditBack k.srcDomain.toNat k.srcDevid.toNat k.src k.slot.val = some y →
      exec (.credit p k) s = .next (u.setCore k.dst y) ∧ y = { v.core k.dst with remote := y.remote } ∧ y.remote.length + 1 = (v.core k.dst).remote.length

/-- What time does in the fabric (09, R211, R220, R222): a message not answered in time is lost, its slot credit comes home and its partition counts it; at an interval
edge each listed limiter that was not halved gains RATE_INC up to RATE_MAX; every 1,024 ns each bucket is filled to its RATE, and a packet that waited leaves by its
route, but for one of a core whose partition has stopped (13, R290); at FAB_XSW the transit entries of a port take their next copies and the local ones do not, and nothing is switched when fewer than 4 loose entries would stay in
force (log 83); that a count already passed serves for later copies too is log 95. Completes: LOOSE_TIMEOUT, LIMITER_INTERVAL_EDGE, LIMITER_TOKEN_GAIN, TRANSIT_SWITCH. -/
def Obligations.FabricTimes : Prop :=
  ∀ (s : State),
    (∀ i m, s.loose[i]? = some m → m.since + 65536 * cf s .fabLooseCfg 0 0 31 20 ≤ s.now →
      ∃ t, exec (.looseTimeout i) s = .next t ∧ (∀ x ∈ t.loose, ¬ (x.src = m.src ∧ x.msgId = m.msgId)) ∧ (∀ x ∈ s.loose, ¬ (x.src = m.src ∧ x.msgId = m.msgId) → x ∈ t.loose) ∧
        t.part m.pt = { s.part m.pt with linkLost := (s.part m.pt).linkLost + 1 } ∧ s.otherParts t m.pt ∧ s.otherCores t m.src ∧
        t.core m.src = { s.core m.src with remote := (t.core m.src).remote, inject := (s.core m.src).inject.filter fun x => x.msgId ≠ m.msgId } ∧
        (m.slot = none → (t.core m.src).remote = (s.core m.src).remote) ∧
        (∀ slot y, m.slot = some slot → (s.core m.src).creditBack m.dstDomain m.dstDevid m.dst slot = some y → (t.core m.src).remote = y.remote) ∧
        t = { s with loose := t.loose, cores := t.cores, parts := t.parts, events := t.events, counts := t.counts }) ∧
    (∀ t, s.tb.running = true → s.tb.count ≤ t → t < 2 ^ 64 →
      (t % 2 ^ rf (cfg s .fabCcCfg 0 0) 31 28 = 0 →
        ∃ u, exec (.limiterIntervalEdge t) s = .next u ∧ u = { s.advance t with limiters := u.limiters } ∧
          ∀ g l, Tab.find s.limiters g = some l → ∃ r, Tab.find u.limiters g = some r ∧ r.halved = false ∧ r.tokens = Nat.min l.tokens r.rate ∧
            r.rate = Nat.min (rf (cfg s .fabCcCfg 0 0) 27 16) (if l.halved then l.rate else l.rate + rf (cfg s .fabCcCfg 0 0) 15 8)) ∧
      (t % 1024 = 0 →
        ∃ w : State, exec (.limiterTokenGain t) s = .next w.catchUp.injectWaiting ∧ w = { s.advance t with limiters := w.limiters } ∧
          ∀ g l, Tab.find s.limiters g = some l → Tab.find w.limiters g = some { l with tokens := l.rate })) ∧
    ((∀ e ∈ s.cores, e.2.inject = []) → s.injectWaiting = s) ∧
    (∀ c k x q l, s.cores = [(c.ix, k)] → k.inject = [x] → Tab.find s.limiters (s.group x.domain x.devid) = some l → 0 < l.tokens → s.isMe x.domain x.devid = false →
      s.looseRoute x.domain x.devid = some q →
      (s.enginesRun c = false → s.injectWaiting = s) ∧
      (s.enginesRun c = true → ∀ u, u = s.injectWaiting → u = { s with limiters := u.limiters, cores := u.cores, ports := u.ports } ∧
        u.core c = { k with inject := [] } ∧ (u.limiter (s.group x.domain x.devid)).tokens = l.tokens - 1 ∧ s.otherPorts u q ∧
        u.port q = { s.port q with loose1 := (s.port q).loose1 ++ [{ key := x.key, role := x.role, vlx := 0, payload := x.payload, from_ := none }] })) ∧
    ∀ p : Port, s.regsRise → (cfg s .fabXswLo p.val 0).toNat + 2 ^ 32 * (cfg s .fabXswHi p.val 0).toNat ≤ s.now → s.transitWaits p.val = false →
      ∀ new : Nat → W32, new = (fun e => if s.calLocal p.val e then cfg s .fabCalc p.val e else cfg s .fabCal p.val e) →
      (4 ≤ ((upFrom 0 64).filter fun e => rf (new e) 31 30 = 0).length →
        ∃ t, exec (.transitSwitch p) s = .next t ∧ t = { s with regs := t.regs } ∧
          ∀ e, e < 64 →
            cfg t .fabCalc p.val e = new e ∧ cfg t .fabInc p.val e = (if s.inLocal p.val e then cfg s .fabInc p.val e else cfg s .fabIn p.val e) ∧
            cfg t .fabCal p.val e = cfg s .fabCal p.val e ∧ cfg t .fabIn p.val e = cfg s .fabIn p.val e) ∧
      (((upFrom 0 64).filter fun e => rf (new e) 31 30 = 0).length < 4 → exec (.transitSwitch p) s = .next s)
/-! ### Weights (10, R229-R240; 12, R280) -/

/-- Weight descriptors that may start, of a partition in no repaint (10, R229-R232, R235): a table that passes its checks is loaded and nothing of it verified, one that
fails them is refused; WT_LOAD writes its bytes where the layer stands, and the bytes that end a layer make it verified when CHECK agrees, stamp its entry with WGEN, and
load the partition once all are; when CHECK disagrees the state is Failed and the answer CHECK_FAIL; WT_DRIFT also sends its bytes on its shaft; a gallery layer is verified by its
read; a start record goes out on the shaft. A feed that breaks R231 is answered EXTENT, and one whose bytes would lie past the region stops the partition. WT_TABLE waits while a stack under the table serves no
request (05, R132), and bytes whose stack serves none wait to be written (log 63). That the head of a chain takes its own start record, and EXTENT for fields that must be zero, is log 37; the count of layers, against which indices
are held, log 20. Layers whose bytes would overwrite their own table entry are left out.
Completes: WT_TABLE, WT_LOAD, WT_DRIFT, WT_LOAD_GALLERY, WT_DRIFT_START. -/
def Obligations.WeightDescriptors : Prop :=
  ∀ (s : State) (pt : Pt) (tag : BitVec 16) (d : Desc), s.memoryWf → s.descStarts pt tag d → (s.part pt.val).repaint = none →
    (∀ ecc, d.op = 0x10 → cleanReads ecc → s.stacksServe pt.val (s.tableBase pt.val) (32 * s.layerCount pt.val) → s.tableCheck pt.val = none →
      ∃ t, exec (.wtTable pt ⟨tag, ecc⟩) s = .next t ∧ s.posts t pt.val d (d.record pt.val stOK) ∧ s.otherParts t pt.val ∧ t = { s with parts := t.parts, rings := t.rings } ∧
        t.part pt.val = { s.part pt.val with tableLoaded := true, galMib := galMibOf (s.layers pt.val), wt := .loading, layers := [], lastLayer := none,
                                             confirmedAt := none, flight := (t.part pt.val).flight }) ∧
    (∀ b ecc, d.op = 0x10 → cleanReads ecc → s.stacksServe pt.val (s.tableBase pt.val) (32 * s.layerCount pt.val) → s.tableCheck pt.val = some b →
      ∃ t, exec (.wtTable pt ⟨tag, ecc⟩) s = .next t ∧ s.onlyPosts t pt.val d (d.record pt.val b)) ∧
    (∀ ecc, d.op = 0x10 → ¬ s.stacksServe pt.val (s.tableBase pt.val) (32 * s.layerCount pt.val) →
      ∃ t, exec (.wtTable pt ⟨tag, ecc⟩) s = .next t ∧ t = { s.started pt.val d with hbmStk := t.hbmStk }) ∧
    (∀ i bs, d.op = 0x11 ∨ (d.op = 0x12 ∧ (d.bytes % 240 = 0 ∨ s.endsLayer pt.val d = true)) → wb d.w1 16 = false → s.feedOk pt.val d = true → s.hbmPoison = [] →
      (∀ k, (s.stack k).tripped = false) → (s.layer pt.val d.layer).addr + d.offset + d.bytes ≤ s.regionSize pt.val →
      meets ((s.layer pt.val d.layer).addr + d.offset, d.bytes) (s.tableBase pt.val + 32 * d.layer, 32) = false →
      i = (if d.op = 0x11 then .wtLoad pt tag else .wtDrift pt tag) → bs = slice d.payload 0 d.bytes →
      (s.endsLayer pt.val d = false → s.ownWaits pt.val ((s.layer pt.val d.layer).addr + d.offset) d.bytes = true →
        ∃ t, exec i s = .next t ∧ s.posts t pt.val d (s.wtRecord pt.val d stOK false) ∧ t.hbm = s.hbm ∧
          t.ownq = s.ownq ++ [{ pt := pt.val, addr := (s.layer pt.val d.layer).addr + d.offset, bytes := bs }] ∧
          (t.part pt.val).pos d.layer = { bytes := d.offset + d.bytes, crc := crc32cRun ((s.part pt.val).posFor d.layer).crc bs, ok := false } ∧ s.otherParts t pt.val) ∧
      (s.endsLayer pt.val d = false → s.ownWaits pt.val ((s.layer pt.val d.layer).addr + d.offset) d.bytes = false →
        ∃ t, exec i s = .next t ∧ s.posts t pt.val d (s.wtRecord pt.val d stOK false) ∧ s.regionTakes t pt.val ((s.layer pt.val d.layer).addr + d.offset) bs ∧
          (t.part pt.val).pos d.layer = { bytes := d.offset + d.bytes, crc := crc32cRun ((s.part pt.val).posFor d.layer).crc bs, ok := false } ∧
          (∀ j, j ≠ d.layer → (t.part pt.val).pos j = (s.part pt.val).pos j) ∧
          t.part pt.val = { s.part pt.val with layers := (t.part pt.val).layers, flight := (t.part pt.val).flight } ∧ s.otherParts t pt.val ∧
          s.otherPorts t (wf d.w1 24 21) ∧ (d.op = 0x11 → t.ports = s.ports) ∧
          (d.op = 0x12 → t.port (wf d.w1 24 21) = { s.port (wf d.w1 24 21) with shaftq := (t.port (wf d.w1 24 21)).shaftq } ∧
            (t.port (wf d.w1 24 21)).shaftq = (s.port (wf d.w1 24 21)).shaftq ++ (pieces 240 (ceilDiv d.bytes 240) bs).map fun b =>
              { pt := pt.val, gen := (s.part pt.val).gen, shaft := wf d.w1 30 25, role := roleTag (s.part pt.val).gen 0, payload := b, src := none }) ∧
          t = { s with parts := t.parts, rings := t.rings, ports := t.ports, hbm := t.hbm, hbmPoison := t.hbmPoison, hbmStk := t.hbmStk, events := t.events, counts := t.counts }) ∧
      (s.endsLayer pt.val d = true → (s.part pt.val).st = .armed →
        ((crc32cRun ((s.part pt.val).posFor d.layer).crc bs ^^^ 0xFFFFFFFF).toNat = (s.layer pt.val d.layer).check →
          ∃ t, exec i s = .next t ∧ s.posts t pt.val d (s.wtRecord pt.val d stOK true) ∧ ((t.part pt.val).pos d.layer).ok = true ∧
            (∀ j, j ≠ d.layer → (t.part pt.val).pos j = (s.part pt.val).pos j) ∧ (t.layer pt.val d.layer).wgen = (s.part pt.val).wgen % 256 ∧
            (t.part pt.val).lastLayer = some (match (s.part pt.val).lastLayer with | some l => Nat.max l d.layer | none => d.layer) ∧
            ((t.part pt.val).wt = .loaded ∨ (t.part pt.val).wt = (s.part pt.val).wt) ∧
            ((t.part pt.val).wt = .loaded → (s.part pt.val).wt = .loaded ∨ ((s.part pt.val).wt = .loading ∧ t.allVerified pt.val = true)) ∧
            (t.part pt.val).st = .armed ∧ s.otherParts t pt.val) ∧
        ((crc32cRun ((s.part pt.val).posFor d.layer).crc bs ^^^ 0xFFFFFFFF).toNat ≠ (s.layer pt.val d.layer).check →
          ∃ t, exec i s = .next t ∧ s.posts t pt.val d (s.wtRecord pt.val d stCHECKFAIL false) ∧ (t.part pt.val).wt = .failed ∧ (t.part pt.val).st = .armed ∧
            (t.part pt.val).lastLayer = (s.part pt.val).lastLayer ∧ s.otherParts t pt.val))) ∧
    (∀ i, (d.op = 0x11 ∧ i = .wtLoad pt tag) ∨ (d.op = 0x12 ∧ (d.bytes % 240 = 0 ∨ s.endsLayer pt.val d = true) ∧ i = .wtDrift pt tag) → wb d.w1 16 = false →
      (s.feedOk pt.val d = false → ∃ t, exec i s = .next t ∧ s.onlyPosts t pt.val d (d.record pt.val stEXTENT)) ∧
      (s.feedOk pt.val d = true → s.regionSize pt.val < (s.layer pt.val d.layer).addr + d.offset + d.bytes →
        ∃ t, exec i s = .next t ∧ (t.part pt.val).st = .faultStop ∧ t.hbm = s.hbm)) ∧
    (∀ bs, d.op = 0x11 → wb d.w1 16 = true → s.hbmPoison = [] → d.offset = 0 → d.bytes = 0 → d.layer < s.layerCount pt.val → (s.layer pt.val d.layer).galleried = true →
      (s.part pt.val).takesLayer d.layer = true → s.galleryLayerOk pt.val d.layer = true →
      (crc32cRun 0xFFFFFFFF (slice bs 0 (s.layer pt.val d.layer).bytes) ^^^ 0xFFFFFFFF).toNat = (s.layer pt.val d.layer).check →
      ∃ t, exec (.wtLoadGallery pt tag (.data bs)) s = .next t ∧ s.posts t pt.val d (s.wtRecord pt.val d stOK true) ∧ ((t.part pt.val).pos d.layer).ok = true ∧
        (∀ j, j ≠ d.layer → (t.part pt.val).pos j = (s.part pt.val).pos j) ∧ (t.part pt.val).st = (s.part pt.val).st ∧ s.otherParts t pt.val ∧
        t = { s with parts := t.parts, rings := t.rings, hbm := t.hbm, ownq := t.ownq, hbmPoison := t.hbmPoison, hbmStk := t.hbmStk, events := t.events, counts := t.counts }) ∧
    (d.op = 0x11 → wb d.w1 16 = true → d.offset = 0 → d.bytes = 0 → d.layer < s.layerCount pt.val → (s.layer pt.val d.layer).galleried = true →
      (s.part pt.val).takesLayer d.layer = true → s.galleryLayerOk pt.val d.layer = true →
      ∃ t, exec (.wtLoadGallery pt tag .error) s = .next t ∧ s.onlyPosts t pt.val d (d.record pt.val stHOSTERR)) ∧
    (d.op = 0x12 → wb d.w1 16 = true → d.layer = 0 → d.offset = 0 → d.bytes = 0 → (s.part pt.val).wt ≠ .loaded →
      ∃ t, exec (.wtDriftStart pt tag) s = .next t ∧ s.posts t pt.val d (s.wtRecord pt.val d stOK false) ∧
        t.part pt.val = { s.part pt.val with flight := (t.part pt.val).flight } ∧ s.otherParts t pt.val ∧ s.otherPorts t (wf d.w1 24 21) ∧
        t.port (wf d.w1 24 21) = { s.port (wf d.w1 24 21) with shaftq := (s.port (wf d.w1 24 21)).shaftq ++
          [{ pt := pt.val, gen := (s.part pt.val).gen, shaft := wf d.w1 30 25, role := roleTag (s.part pt.val).gen 0, payload := slice d.payload 0 240, src := none }] } ∧
        t = { s with parts := t.parts, rings := t.rings, ports := t.ports }) ∧
    (d.op = 0x12 → wb d.w1 16 = true → d.layer = 0 → d.offset = 0 → d.bytes = 0 → (s.part pt.val).wt = .loaded → (s.part pt.val).st = .armed → s.allVerified pt.val = true →
      ∃ t, exec (.wtDriftStart pt tag) s = .next t ∧
        (t.part pt.val).wt = (if s.recordOk pt.val (leAt (slice d.payload 0 240) 14 2) (slice d.payload 0 240) then .confirmed else .failed) ∧
        (t.part pt.val).st = .armed ∧ s.otherParts t pt.val)

/-- A repaint (10, R238, R240; 12, R280): REPAINT takes every partition that it names to Barrier; once no step is under way STATE is Repainting and WGEN has risen by one,
modulo 256; when the steps under way outlast BARRIER_TMO, every named partition at the barrier, or past it with no byte written, returns to its old weights and its old
WGEN; that one past the barrier returns too, its WGEN lowered again, is log 38. A named partition that may not take part refuses the whole. Completes: REPAINT, REPAINT_BARRIER_CLEAR, BARRIER_TIMEOUT. -/
def Obligations.RepaintSteps : Prop :=
  ∀ (s : State) (pt : Pt),
    (∀ tag d, s.descStarts pt tag d → d.op = 0x13 → d.named ≠ [] → 1 ≤ d.layerCount → d.layerCount ≤ 4096 → (∀ m ∈ d.named, (s.part m).mayRepaint = true) →
      (∀ m ∈ d.named, s.repaintFits d m = true) →
      ∃ t, exec (.repaint pt tag) s = .next t ∧ t = { s with parts := t.parts } ∧
        (∀ m ∈ d.named, (t.part m).wt = .barrier ∧ (t.part m).st = (s.part m).st ∧ (t.part m).wgen = (s.part m).wgen ∧
          (t.part m).repaint = some { tag := d.tag, owner := pt.val, first := d.firstLayer, count := d.layerCount, next := d.firstLayer, startedAt := s.now,
                                      before := (s.part m).wt, lastBefore := (s.part m).lastLayer }) ∧
        ∀ m, m ∉ d.named → m ≠ pt.val → t.part m = s.part m) ∧
    (∀ tag d, s.descStarts pt tag d → d.op = 0x13 →
      ((∃ m ∈ d.named, (s.part m).mayRepaint = false) → ∃ t, exec (.repaint pt tag) s = .next t ∧ s.onlyPosts t pt.val d (d.record pt.val stSTATE)) ∧
      ((∀ m ∈ d.named, (s.part m).mayRepaint = true) → d.named = [] ∨ d.layerCount = 0 ∨ 4096 < d.layerCount ∨ (∃ m ∈ d.named, s.repaintFits d m = false) →
        ∃ t, exec (.repaint pt tag) s = .next t ∧ s.onlyPosts t pt.val d (d.record pt.val stEXTENT))) ∧
    (∀ r, (s.part pt.val).repaint = some r → (s.part pt.val).wt = .barrier → (s.part pt.val).stepUnderWay = false →
      ∃ t, exec (.repaintBarrierClear pt) s = .next t ∧ (t.part pt.val).wt = .repainting ∧ (t.part pt.val).wgen = ((s.part pt.val).wgen + 1) % 256 ∧
        (t.part pt.val).lastLayer = none ∧ (t.part pt.val).st = (s.part pt.val).st ∧ (t.part pt.val).repaint = some r ∧
        (∀ m, m ≠ pt.val → m ≠ r.owner → t.part m = s.part m) ∧ t = { s with parts := t.parts, rings := t.rings }) ∧
    (∀ r, (s.part pt.val).repaint = some r → (s.part pt.val).wt ≠ .barrier ∨ (s.part pt.val).stepUnderWay = true → exec (.repaintBarrierClear pt) s = .next s) ∧
    ∀ r, (s.part pt.val).repaint = some r → (s.part pt.val).wt = .barrier → (s.part pt.val).stepUnderWay = true →
      r.startedAt + 1000000 * cf s .ptWtCfg pt.val 0 30 16 ≤ s.now →
      ∃ t, exec (.barrierTimeout pt) s = .next t ∧ t = { s with parts := t.parts, rings := t.rings } ∧
        (∀ m x, (s.part m).repaint = some x → x.owner = r.owner → x.tag = r.tag → (s.part m).wt = .barrier →
          (t.part m).wt = x.before ∧ (t.part m).repaint = none ∧ (t.part m).wgen = (s.part m).wgen ∧ (t.part m).st = (s.part m).st) ∧
        (∀ m x, (s.part m).repaint = some x → x.owner = r.owner → x.tag = r.tag → (s.part m).wt = .repainting → x.next = x.first → ((s.part m).posFor x.next).bytes = 0 →
          (t.part m).wt = x.before ∧ (t.part m).repaint = none ∧ (t.part m).wgen = ((s.part m).wgen + 255) % 256 ∧ (t.part m).lastLayer = x.lastBefore) ∧
        ∀ m, (s.part m).repaint = none → m ≠ r.owner → t.part m = s.part m
/-! ### The steward (11, R241-R261) -/

/-- Descriptors of the steward that may start, of a partition with a steward (11, R244, R260; 12, R286): SRV_ADMIT fills the first free slot; SRV_APPEND adds prompt tokens,
or holds drafts for a slot in decode; SRV_DEADLINE, SRV_PAUSE and SRV_RESUME set what they name; SRV_CANCEL frees the slot with a final delivery; SRV_QUERY answers with entries. An
operation on a slot whose half has a step under way is kept for its boundary; in Hold a slot that is held by the host is paused at once, unless a step of it stands still. A resumed galleried slot starts its return.
The order of the statuses (NO_SLOT before the other checks), and an operation that arrives in Hold and stands still behind a step, are log 39; the steward's writes into its region may wait for their stack (log 63).
Completes: SRV_ADMIT, SRV_APPEND_PROMPT, SRV_APPEND_DRAFT, SRV_DEADLINE, SRV_PAUSE, SRV_RESUME, SRV_CANCEL, SRV_QUERY. -/
def Obligations.StewardDescriptors : Prop :=
  ∀ (s : State) (pt : Pt) (tag : BitVec 16) (d : Desc) (v : Srv), s.descStarts pt tag d → (s.part pt.val).srv = some v → s.hbmPoison = [] →
    (d.op = 0x20 → (∀ e ∈ v.slots, e.2.state ≠ .free) → ∃ t, exec (.srvAdmit pt tag) s = .next t ∧ s.onlyPosts t pt.val d (d.record pt.val stNOSLOT)) ∧
    (∀ i z0, d.op = 0x20 → v.slots.find? (fun (e : Nat × SrvSlot) => e.2.state = .free) = some (i, z0) → s.variantOk pt.val (wf d.w1 44 35) = true → 1 ≤ d.ntok → d.ntok ≤ 16368 →
      d.ntok < wf d.w3 63 41 → wf d.w3 63 41 ≤ 64 * s.pageMax pt.val →
      ∃ t z, exec (.srvAdmit pt tag) s = .next t ∧ s.posts t pt.val d { d.record pt.val stOK with w3 := BitVec.ofNat 64 (s.srvBase pt.val + i) } ∧
        s.slotBecomes t pt.val i z ∧ t = { s with parts := t.parts, rings := t.rings, hbm := t.hbm, hbmStk := t.hbmStk, ownq := t.ownq, events := t.events, counts := t.counts } ∧ z.state = .prefill ∧ z.cls = wf d.w1 47 45 ∧ z.variant = wf d.w1 44 35 ∧
        z.reqId = wf d.w1 63 48 ∧ z.deadline = d.w2.toNat ∧ z.committed = 0 ∧ z.prompt = d.ntok ∧ z.limit = wf d.w3 63 41 ∧ z.log = d.tokens ∧ z.pages = [] ∧
        z.half = s.admitHalf pt.val ∧ z.wgen = (s.part pt.val).wgen) ∧
    (∀ i, d.op = 0x21 → wb d.w1 37 = false → s.slotOf pt.val d = some i → (s.srvSlot pt.val i).state ≠ .free → (s.srvSlot pt.val i).more = true → 1 ≤ d.ntok →
      d.ntok ≤ 16368 → (s.srvSlot pt.val i).prompt + d.ntok ≤ (s.srvSlot pt.val i).limit →
      ∃ t, exec (.srvAppendPrompt pt tag) s = .next t ∧ s.posts t pt.val d (d.record pt.val stOK) ∧ t = { s with parts := t.parts, rings := t.rings, hbm := t.hbm, hbmStk := t.hbmStk, ownq := t.ownq, events := t.events, counts := t.counts } ∧
        s.slotBecomes t pt.val i { s.srvSlot pt.val i with
          log := (s.srvSlot pt.val i).log ++ d.tokens, prompt := (s.srvSlot pt.val i).prompt + d.ntok, more := wb d.w1 34 }) ∧
    (∀ c i z, s.slotOf pt.val d = some i → (s.srvSlot pt.val i).state ≠ .free →
      ((c = .srvAppendDraft pt tag ∧ d.op = 0x21 ∧ wb d.w1 37 = true ∧ 1 ≤ d.ntok ∧ d.ntok ≤ s.draftMax pt.val ∧ (s.srvSlot pt.val i).state = .decode ∧
          z = { s.srvSlot pt.val i with drafts := d.tokens }) ∨
        (c = .srvDeadline pt tag ∧ d.op = 0x22 ∧ z = { s.srvSlot pt.val i with deadline := d.w2.toNat, cls := wf d.w1 37 35 }) ∨
        (c = .srvPause pt tag ∧ d.op = 0x23 ∧
          z = (if (s.part pt.val).st = .hold ∧ ((s.srvSlot pt.val i).state = .prefill ∨ (s.srvSlot pt.val i).state = .decode) ∧ s.inStep pt.val i = false then
                { s.srvSlot pt.val i with hostHold := true, state := .paused, prevDecode := (s.srvSlot pt.val i).state = .decode, pausedAt := s.now, draft := 0 }
              else { s.srvSlot pt.val i with hostHold := true })) ∨
        (c = .srvResume pt tag ∧ d.op = 0x24 ∧ (s.srvSlot pt.val i).state ≠ .galleried ∧ z = { s.srvSlot pt.val i with hostHold := false }) ∨
        (∃ o, c = .srvResume pt tag ∧ d.op = 0x24 ∧ (s.srvSlot pt.val i).state = .galleried ∧ (s.srvSlot pt.val i).returning = false ∧ s.srvObject pt.val = some o ∧ o.rd = true ∧
          (lowestFree (s.heldPages pt.val) (s.kvPages pt.val) (s.srvSlot pt.val i).galGens.length).length = (s.srvSlot pt.val i).galGens.length ∧
          z = { s.srvSlot pt.val i with hostHold := false, returning := true, wantBack := false, pages :=
            (lowestFree (s.heldPages pt.val) (s.kvPages pt.val) (s.srvSlot pt.val i).galGens.length).zip (s.srvSlot pt.val i).galGens })) →
      (s.opWaits pt.val i d = false →
        ∃ t, exec c s = .next t ∧ s.posts t pt.val d (d.record pt.val stOK) ∧ s.slotBecomes t pt.val i z ∧ t = { s with parts := t.parts, rings := t.rings, hbm := t.hbm, hbmStk := t.hbmStk, ownq := t.ownq, events := t.events, counts := t.counts }) ∧
      (s.opWaits pt.val i d = true →
        ∃ t, exec c s = .next t ∧ (t.part pt.val).srv = some { v with ops := v.ops ++ [d] } ∧ t = { s with parts := t.parts } ∧ s.otherParts t pt.val ∧
          t.part pt.val = { s.part pt.val with srv := (t.part pt.val).srv, flight := (t.part pt.val).flight })) ∧
    (∀ i q, d.op = 0x25 → s.slotOf pt.val d = some i → (s.srvSlot pt.val i).state ≠ .free → s.opWaits pt.val i d = false → s.evqRing pt.val = some q →
      ∃ t r, exec (.srvCancel pt tag) s = .next t ∧ s.slotBecomes t pt.val i SrvSlot.free ∧ (t.part pt.val).flight = markReady d (s.part pt.val).flight ∧
        r.opcode = 0x80 ∧ r.status = stCANCELLED ∧ r.w4 = BitVec.ofNat 64 (s.srvSlot pt.val i).committed ∧ r ∈ (t.ring q).ready ∧
        d.record pt.val stOK ∈ (t.ring d.cq).ready ∧ t = { s with parts := t.parts, rings := t.rings, hbm := t.hbm, hbmStk := t.hbmStk, ownq := t.ownq, events := t.events, counts := t.counts }) ∧
    (∀ i, d.op = 0x25 → s.slotOf pt.val d = some i → (s.srvSlot pt.val i).state ≠ .free → s.opWaits pt.val i d = false → s.evqRing pt.val = none →
      ∃ t r, exec (.srvCancel pt tag) s = .next t ∧ t.srvSlot pt.val i = SrvSlot.free ∧ (t.part pt.val).evq = (s.part pt.val).evq ++ [r] ∧ r.opcode = 0x80 ∧ r.status = stCANCELLED ∧
        d.record pt.val stOK ∈ (t.ring d.cq).ready ∧ s.otherParts t pt.val) ∧
    (∀ c i, s.slotOf pt.val d = some i → (s.srvSlot pt.val i).state = .free →
      (c = .srvDeadline pt tag ∧ d.op = 0x22) ∨ (c = .srvPause pt tag ∧ d.op = 0x23) ∨ (c = .srvResume pt tag ∧ d.op = 0x24) ∨ (c = .srvCancel pt tag ∧ d.op = 0x25) →
      ∃ t, exec c s = .next t ∧ s.onlyPosts t pt.val d (d.record pt.val stEXTENT)) ∧
    ∀ i k, d.op = 0x26 → s.slotOf pt.val d = some i → k = wf d.w1 4 0 → 1 ≤ k → k ≤ 16 → i + k ≤ s.srvCount pt.val →
      ∃ t r, exec (.srvQuery pt tag) s = .next t ∧ s.onlyPosts t pt.val d r ∧ r.status = stOK ∧ r.tag = d.tag ∧
        r.payload = (upFrom i k).flatMap (fun j => (s.srvSlot pt.val j).bytes) ∧ ∀ j, j < k → r.w3.getLsbD j = s.atRisk pt.val (i + j)

/-- The steward's own events (11, R244-R250, R256-R258): at the boundary of a half with no step before, with every slot free, the half's first step is issued and nothing is selected; a
single slot in prefill is selected with its tokens and gets the pages it needs; ledgers that do not add up stop the partition. A pause that has lasted starts a move to the gallery, or
counts its shortfall; the move's end leaves the slot galleried with its pages written to the host; a return's end leaves it paused, and a host-link error in it stops the partition; a
galleried slot that expires ends. A copy that was under way when its steward stopped or was reset only ends (log 106). Which die counts a shortfall is log 101, the order of pages in a copy log 42; what the code finds in a
record or a page that the steward reads is an operand, clean here. Completes: HALF_STEP_BOUNDARY, PAUSE_TTL_EXPIRY, GALLERY_MOVE_DONE, SLOT_GAL_EXPIRY, GALLERY_RETURN_DONE. -/
def Obligations.StewardEvents : Prop :=
  ∀ (s : State) (pt : Pt) (v : Srv), (s.part pt.val).srv = some v → s.stewardActs pt.val = true → s.hbmPoison = [] →
    (∀ (h : Fin 2) (ecc : List EccAt), (s.part pt.val).st = .run → (s.srvHalf pt.val h.val).step = 0 →
      (∀ c, s.srvLedger pt.val = some c → ∃ t, exec (.halfStepBoundary pt ⟨h, ecc⟩) s = .next t ∧ (t.part pt.val).st = .faultStop) ∧
      (s.srvLedger pt.val = none → v.ops = [] → (s.srvHalf pt.val h.val).selected = [] → (s.part pt.val).repaint = none → s.assayEn pt.val = false → s.poison = [] →
        (∀ c f, (s.core c).flag f < 60000) → s.cores.length ≤ 528 →
        ((∀ e ∈ v.slots, e.2 = SrvSlot.free) →
          ∃ t, exec (.halfStepBoundary pt ⟨h, ecc⟩) s = .next t ∧
            t.srvHalf pt.val h.val = { step := 1, selected := [], startEdge := s.nextStart pt.val h.val } ∧ (t.part pt.val).st = .run ∧ s.otherParts t pt.val ∧
            (∀ i, t.srvSlot pt.val i = s.srvSlot pt.val i) ∧ t.rings = s.rings) ∧
        (∀ i z r, v.slots = [(i, z)] → z.state = .prefill → z.half = h.val → z.variant = 0 → z.committed = 0 → z.pages = [] → z.hostHold = false → z.returning = false →
          z.wantBack = false → z.pendingDelivery = none → r = Nat.min z.log.length (Nat.min (s.prefillMax pt.val) (s.hbRows pt.val)) → 0 < r → r ≤ 64 →
          1 ≤ s.vgMax pt.val → 1 ≤ s.kvPages pt.val →
          ∃ t, exec (.halfStepBoundary pt ⟨h, ecc⟩) s = .next t ∧
            (t.srvHalf pt.val h.val).selected = [{ slot := i, first := 0, rows := r, decode := false, vgroup := 0, tokens := z.log.take r }] ∧
            (t.srvHalf pt.val h.val).step = 1 ∧ (t.srvSlot pt.val i).state = .prefill ∧ (t.srvSlot pt.val i).pages = [(0, (s.part pt.val).wgen)] ∧
            (t.srvSlot pt.val i).log = z.log ∧ (t.part pt.val).st = .run ∧ s.otherParts t pt.val))) ∧
    (∀ i o, s.srvObject pt.val = some o → s.mayMove pt.val (s.srvSlot pt.val i) = true →
      (∀ a, firstFit (s.galSpace pt.val) (s.slotBytes pt.val (s.srvSlot pt.val i)) (4096 * o.pages) = some a → o.wr = true →
        ∃ t, exec (.pauseTtlExpiry pt i) s = .next t ∧ t = { s with parts := t.parts, hbm := t.hbm, hbmStk := t.hbmStk, ownq := t.ownq, events := t.events, counts := t.counts } ∧
          s.slotBecomes t pt.val i { s.srvSlot pt.val i with moving := true, galOff := a, galSize := s.slotBytes pt.val (s.srvSlot pt.val i) }) ∧
      (firstFit (s.galSpace pt.val) (s.slotBytes pt.val (s.srvSlot pt.val i)) (4096 * o.pages) ≠ none → o.wr = false →
        ∃ t, exec (.pauseTtlExpiry pt i) s = .next t ∧ (t.part pt.val).st = .faultStop ∧ t.hbm = s.hbm) ∧
      (firstFit (s.galSpace pt.val) (s.slotBytes pt.val (s.srvSlot pt.val i)) (4096 * o.pages) = none →
        ∃ t, exec (.pauseTtlExpiry pt i) s = .next t ∧ (t.part pt.val).srv = some { v with shortfall := v.shortfall + 1 } ∧
          t = { s with parts := t.parts, events := t.events, counts := t.counts })) ∧
    (∀ i o f z ecc, cleanReads ecc → (s.part pt.val).hasOrphan 1 = false → s.srvObject pt.val = some o → s.owner pt.val = some f → z = s.srvSlot pt.val i → z.state = .paused → z.moving = true →
      ∃ t, exec (.galleryMoveDone pt ⟨i, ecc⟩) s = .next t ∧ t.outbox = s.outbox ++ [.hostWrite f (o.base + z.galOff) (s.pageImage pt.val z.livePages)] ∧
        s.slotBecomes t pt.val i { z with state := .galleried, moving := false, galExpiry := s.now + 1000000000 * s.galTtl pt.val z.cls,
                                          galGens := z.livePages.map (·.2), pages := [] } ∧
        t = { s with parts := t.parts, hbm := t.hbm, hbmStk := t.hbmStk, ownq := t.ownq, events := t.events, counts := t.counts, outbox := t.outbox }) ∧
    (∀ i q, (s.srvSlot pt.val i).state = .galleried → (s.srvSlot pt.val i).galExpiry ≤ s.now → s.evqRing pt.val = some q →
      ∃ t r, exec (.slotGalExpiry pt i) s = .next t ∧ s.slotBecomes t pt.val i SrvSlot.free ∧ (t.ring q).ready = (s.ring q).ready ++ [r] ∧ r.opcode = 0x80 ∧
        r.status = stGALEXPIRED ∧ s.otherRings t q ∧ t = { s with parts := t.parts, rings := t.rings, hbm := t.hbm, hbmStk := t.hbmStk, ownq := t.ownq, events := t.events, counts := t.counts }) ∧
    (∀ i ecc, (s.part pt.val).hasOrphan 1 = true → ∃ t, exec (.galleryMoveDone pt ⟨i, ecc⟩) s = .next t ∧ t = s.setPart pt.val ((s.part pt.val).dropOrphan 1)) ∧
    (∀ i x, (s.part pt.val).hasOrphan 2 = true → ∃ t, exec (.galleryReturnDone pt i x) s = .next t ∧ t = s.setPart pt.val ((s.part pt.val).dropOrphan 2)) ∧
    (∀ i, (s.part pt.val).hasOrphan 2 = false → (s.srvSlot pt.val i).state = .galleried → (s.srvSlot pt.val i).returning = true →
      ∃ t, exec (.galleryReturnDone pt i .error) s = .next t ∧ (t.part pt.val).st = .faultStop ∧ t.hbm = s.hbm) ∧
    ∀ i bs z, (s.part pt.val).hasOrphan 2 = false → z = s.srvSlot pt.val i → z.state = .galleried → z.returning = true →
      ∃ t, exec (.galleryReturnDone pt i (.data bs)) s = .next t ∧ t = { s with parts := t.parts, hbm := t.hbm, hbmStk := t.hbmStk, ownq := t.ownq, events := t.events, counts := t.counts } ∧
        t.srvSlot pt.val i = { z with state := .paused, returning := false, pausedAt := s.now, galExpiry := 0, galOff := 0, galSize := 0, galGens := [] } ∧
        (∀ j, j ≠ i → t.srvSlot pt.val j = s.srvSlot pt.val j) ∧ s.otherParts t pt.val
/-! ### Rings (12, R269-R273, R283-R285) -/

/-- Ring registers and doorbells (12, R269, R270, R284; 16, R356, R358): enabling a submission ring starts it empty, enabling a completion ring starts it afresh in its first pass; disabling clears EN and
takes the partition's unsolicited records back (log 45); a tail doorbell that does not go back makes entries available, a head doorbell gives entries back. One at or above the ring size,
of a disabled ring, that goes back or that returns more than is held changes no pointer and is recorded with reason 3 and counted; a narrow or unaligned one is recorded with reason 1. A
function reads back what it last wrote, and zero at any other offset of a doorbell page. The interval since a ring's last signal goes on over a disable and an enable. Completes: RING_ENABLE, RING_DISABLE, SQ_TAIL, CQ_HEAD. -/
def Obligations.RingControl : Prop :=
  ∀ (s : State) (f : Caller) (q : RingNo) (v : W32) (n : Nat), s.regsRise →
    ((f = .tree → s.managed = true) → s.sees f (0x120008 + 0x20 * q.val) = true → s.sqPart q.val = some n → s.ownsCq n (rf v 24 17) = true → 6 ≤ rf v 29 25 → rf v 29 25 ≤ 16 →
      (rb v 31 = true → s.sqOn q.val = false →
        ∃ t, exec (.ringEnable f q true v) s = .next t ∧ t.sqOn q.val = true ∧ t.sqSize q.val = 2 ^ rf v 29 25 ∧
          t.ring q.val = { s.ring q.val with sqHead := 0, sqTail := 0, sqErr := false } ∧ s.otherRings t q.val ∧ t = { s with regs := t.regs, rings := t.rings }) ∧
      (rb v 31 = false → s.sqOn q.val = true → rf v 29 25 = cf s .sqCfg q.val 0 29 25 → rf v 24 17 = cf s .sqCfg q.val 0 24 17 →
        ∃ t, exec (.ringDisable f q true v) s = .next t ∧ t.sqOn q.val = false ∧ t = { s with regs := t.regs })) ∧
    ((f = .tree → s.managed = true) → s.sees f (0x120018 + 0x20 * q.val) = true → s.cqPart q.val = some n → 6 ≤ rf v 29 25 → rf v 29 25 ≤ 16 →
      (rb v 31 = true → s.cqOn q.val = false →
        ∃ t, exec (.ringEnable f q false v) s = .next t ∧ t.cqOn q.val = true ∧ t.cqSize q.val = 2 ^ rf v 29 25 ∧ (t.ring q.val).cqTail = 0 ∧ (t.ring q.val).cqHead = 0 ∧
          (t.ring q.val).held = 0 ∧ (t.ring q.val).pass = true ∧
          (t.ring q.val).lastSignal = (s.ring q.val).lastSignal ∧ (t.ring q.val).signalDue = (s.ring q.val).signalDue ∧ (t.evqRing n ≠ none → (t.part n).evq = []) ∧ s.otherParts t n ∧
          t = { s with regs := t.regs, rings := t.rings, parts := t.parts }) ∧
      (rb v 31 = false → s.cqOn q.val = true → s.cqBusy q.val = false → rf v 29 25 = cf s .cqCfg q.val 0 29 25 → rf v 24 19 = cf s .cqCfg q.val 0 24 19 →
        rf v 18 11 = cf s .cqCfg q.val 0 18 11 →
        ∃ t, exec (.ringDisable f q false v) s = .next t ∧ t.cqOn q.val = false ∧ (∀ r ∈ (t.ring q.val).ready, r.opcode < 0x80 ∨ r.pt ≠ n) ∧ s.otherRings t q.val ∧
          (∀ r ∈ (s.ring q.val).ready, 0x80 ≤ r.opcode → r.pt = n → r ∈ (t.part n).evq) ∧ (∀ r ∈ (s.part n).evq, r ∈ (t.part n).evq) ∧ s.otherParts t n ∧
          t = { s with regs := t.regs, rings := t.rings, parts := t.parts })) ∧
    ∀ g, f = .host g →
      (s.mine g (s.sqPart q.val) = some n →
        (s.sqOn q.val = true → rf v 15 0 < s.sqSize q.val →
          ringDist (s.ring q.val).sqHead (s.ring q.val).sqTail (s.sqSize q.val) ≤ ringDist (s.ring q.val).sqHead (rf v 15 0) (s.sqSize q.val) →
          exec (.sqTail f q ⟨0, 4, v.setWidth 64⟩) s = .next (s.updRing q.val fun r => { r with sqTail := rf v 15 0 }) ∧
            (s.updRing q.val fun r => { r with sqTail := rf v 15 0 }).readDoorbell g q.val 0 4 = rf v 15 0) ∧
        (s.sqOn q.val = false ∨ s.sqSize q.val ≤ rf v 15 0 ∨
            ringDist (s.ring q.val).sqHead (rf v 15 0) (s.sqSize q.val) < ringDist (s.ring q.val).sqHead (s.ring q.val).sqTail (s.sqSize q.val) →
          ∃ t, exec (.sqTail f q ⟨0, 4, v.setWidth 64⟩) s = .next t ∧ s.doorbellRefused t n 3 (0x1000 * q.val)) ∧
        ∀ off w x, off < 4 → (w ≠ 4 ∨ off % 4 ≠ 0) → (w ≠ 8 ∨ off % 8 ≠ 0) →
          ∃ t, exec (.sqTail f q ⟨off, w, x⟩) s = .next t ∧ s.doorbellRefused t n 1 (0x1000 * q.val) ∧ t.counts = s.counts) ∧
      (s.mine g (s.cqPart q.val) = some n →
        (s.cqOn q.val = true → rf v 15 0 < s.cqSize q.val → (s.ring q.val).cqHead < s.cqSize q.val → (s.ring q.val).cqTail < s.cqSize q.val →
          (s.ring q.val).held = ringDist (s.ring q.val).cqHead (s.ring q.val).cqTail (s.cqSize q.val) →
          ringDist (s.ring q.val).cqHead (rf v 15 0) (s.cqSize q.val) ≤ (s.ring q.val).held → (∀ e ∈ s.srvSlots n, e.2.pendingDelivery = none) →
          exec (.cqHead f q ⟨4, 4, v.setWidth 64⟩) s = .next (s.updRing q.val fun r =>
            { r with cqHead := rf v 15 0, held := r.held - ringDist r.cqHead (rf v 15 0) (s.cqSize q.val) })) ∧
        (s.cqOn q.val = false ∨ s.cqSize q.val ≤ rf v 15 0 ∨ (s.ring q.val).held < ringDist (s.ring q.val).cqHead (rf v 15 0) (s.cqSize q.val) →
          ∃ t, exec (.cqHead f q ⟨4, 4, v.setWidth 64⟩) s = .next t ∧ s.doorbellRefused t n 3 (0x1000 * q.val + 4)) ∧
        ∀ off w x, 4 ≤ off → off < 8 → (w ≠ 4 ∨ off % 4 ≠ 0) → (w ≠ 8 ∨ off % 8 ≠ 0) →
          ∃ t, exec (.cqHead f q ⟨off, w, x⟩) s = .next t ∧ s.doorbellRefused t n 1 (0x1000 * q.val + 4) ∧ t.counts = s.counts) ∧
      ∀ off, (8 ≤ off → s.readDoorbell g q.val off 4 = 0) ∧
        (s.mine g (s.cqPart q.val) = some n → s.readDoorbell g q.val 4 4 = (s.ring q.val).cqHead % 65536)

/-- Descriptors and records (12, R271-R274, R283-R285): a fetch takes the descriptor at the head of the ring whose turn it is into flight, ready at once with its status when a check
refuses it; a read that fails stops the ring. The first ready record of a ring is written at its tail, 64 bytes for each entry, and ends its descriptor; its interrupt is given at once or is due
at the end of the interval, when MSIX_INTERRUPT gives it (log 45). The last reclaim notice written lets a reset's own record follow (12, R279).
Completes: DESCRIPTOR_FETCH, COMPLETION_RECORD_WRITE, MSIX_INTERRUPT. -/
def Obligations.FetchAndCompletion : Prop :=
  ∀ (s : State),
    (∀ (pt : Pt) q f, s.nextRing pt.val = some q → s.owner pt.val = some f → (s.part pt.val).flight.length < 512 → s.inFlight < 4096 →
      (∀ bytes entries d, entries = wf (wordAt bytes 0) 55 45 → 1 ≤ entries → entries ≤ 1024 → entries < s.sqSize q → entries ≤ s.available q →
        d = descOf q (cf s .sqCfg q 0 24 17) f (slice bytes 0 64) (slice bytes 64 (64 * (entries - 1))) →
        (s.descCheck pt.val d (slice bytes 0 64) entries = none →
          ∃ t, exec (.descriptorFetch pt (.data bytes)) s = .next t ∧ t.part pt.val = { s.part pt.val with turn := q, flight := (s.part pt.val).flight ++ [d] } ∧
            t.ring q = { s.ring q with sqHead := ((s.ring q).sqHead + entries) % s.sqSize q } ∧ s.otherRings t q ∧ s.otherParts t pt.val ∧
            t = { s with parts := t.parts, rings := t.rings }) ∧
        (∀ st k, s.descCheck pt.val d (slice bytes 0 64) entries = some (st, k) →
          ∃ t, exec (.descriptorFetch pt (.data bytes)) s = .next t ∧
            t.part pt.val = { s.part pt.val with turn := q, flight := (s.part pt.val).flight ++ [{ d with progress := .ready }] } ∧
            (t.ring d.cq).ready = (s.ring d.cq).ready ++ [{ d.record pt.val st with detail := BitVec.ofNat 64 k }] ∧
            (t.ring q).sqHead = ((s.ring q).sqHead + entries) % s.sqSize q ∧ s.otherParts t pt.val ∧ t = { s with parts := t.parts, rings := t.rings })) ∧
      (∀ bytes entries, entries = wf (wordAt bytes 0) 55 45 → entries = 0 ∨ 1024 < entries ∨ s.sqSize q ≤ entries →
        ∃ t r, exec (.descriptorFetch pt (.data bytes)) s = .next t ∧ (t.ring q).sqErr = true ∧ (t.ring q).sqHead = (s.ring q).sqHead ∧
          r ∈ (t.ring (cf s .sqCfg q 0 24 17)).ready ∧ r.status = stEXTENT ∧ r.sq = q ∧ r.tag = wf (wordAt bytes 0) 15 0 ∧ s.otherParts t pt.val ∧
          t = { s with parts := t.parts, rings := t.rings }) ∧
      ∃ t r, exec (.descriptorFetch pt .error) s = .next t ∧ (t.ring q).sqErr = true ∧ r ∈ (t.ring (cf s .sqCfg q 0 24 17)).ready ∧ r.status = stHOSTERR ∧ r.sq = q ∧
        s.otherParts t pt.val ∧ t = { s with parts := t.parts, rings := t.rings }) ∧
    (∀ (q : RingNo) r rest f, (s.ring q.val).ready = r :: rest → s.owner r.pt = some f → s.cqOn q.val = true → (s.ring q.val).cqHead < s.cqSize q.val →
      (s.ring q.val).cqTail < s.cqSize q.val → (s.ring q.val).held = ringDist (s.ring q.val).cqHead (s.ring q.val).cqTail (s.cqSize q.val) →
      (s.ring q.val).held + r.entries ≤ s.cqSize q.val →
      (∀ d, r.opcode = 0x81 → r.ends = false → ((s.part r.pt).gal.any fun (e : Nat × GalObj) => e.2.closed) = false →
        (s.updRing q.val fun g => { g with ready := rest }).noticeWaits r.pt = false →
        (s.part r.pt).flight.find? (fun d => d.op = 0x0B && wf d.w1 1 0 = 3 && d.progress = .started) = some d →
        ∃ t, exec (.completionRecordWrite q) s = .next t ∧ s.otherParts t r.pt ∧ ∃ e ∈ (t.ring d.cq).ready, e.status = stOK ∧ e.tag = d.tag) ∧
      (r.opcode ≠ 0x81 ∨ (∀ d ∈ (s.part r.pt).flight, d.op ≠ 0x0B) →
      ∃ t w ws, exec (.completionRecordWrite q) s = .next t ∧
        t.outbox = s.outbox ++ w :: ws ++ (if rb (cfg s .cqCfg q.val 0) 30 && s.maySignal q.val then [.interrupt f (cf s .cqCfg q.val 0 24 19)] else []) ∧
        w = .hostWrite f (s.cqBase q.val + 64 * (s.ring q.val).cqTail) ((((s.withLost r).bodies s.now).getD 0 []) ++ [BitVec.ofNat 8 (b2n (s.ring q.val).pass)]) ∧
        ws.length + 1 = r.entries ∧ (t.ring q.val).ready = rest ∧ (t.ring q.val).cqTail = ((s.ring q.val).cqTail + r.entries) % s.cqSize q.val ∧
        (t.ring q.val).held = (s.ring q.val).held + r.entries ∧ (t.ring q.val).cqHead = (s.ring q.val).cqHead ∧
        (t.part r.pt).flight = (if r.ends = true then dropDesc r (s.part r.pt).flight else (s.part r.pt).flight) ∧ s.otherRings t q.val ∧ s.otherParts t r.pt ∧
        (rb (cfg s .cqCfg q.val 0) 30 = true → (t.ring q.val).signalDue = !s.maySignal q.val) ∧
        t.part r.pt = { s.part r.pt with flight := (t.part r.pt).flight, evLost := if r.opcode = 0x82 then 0 else (s.part r.pt).evLost } ∧
        t = { s with parts := t.parts, rings := t.rings, outbox := t.outbox })) ∧
    ∀ (q : RingNo) n f, s.cqPart q.val = some n → s.owner n = some f → (s.ring q.val).signalDue = true → s.maySignal q.val = true →
      ∃ t, exec (.msixInterrupt q) s = .next t ∧ t.outbox = s.outbox ++ [.interrupt f (cf s .cqCfg q.val 0 24 19)] ∧
        t.ring q.val = { s.ring q.val with lastSignal := some s.now, signalDue := false } ∧ s.otherRings t q.val ∧ t = { s with rings := t.rings, outbox := t.outbox }
/-! ### Registers of the setup window (16, R353-R361) -/

/-- Writes of the setup window (16, R356-R359): what the rules of a register allow is applied, and each reason for which a write is not applied is recorded with its count and offset: a narrow or an unaligned one (R356), a register of the tree's, a value that its rule refuses, or an S
field that the state keeps, beside which the other fields of the same write are applied; REG_WRITE does what the same write does, and
answers; REG_READ answers the value and changes nothing. The sideband reads the module block at its own address, low byte first, and nothing else (16, R355).
Completes: REGISTER_WRITE, REG_WRITE, REG_READ. -/
def Obligations.WindowWrites : Prop :=
  ∀ (s : State) (f : Caller) (off : Nat) (v : Word) (r : Reg), (f = .tree → s.managed = true) → s.sees f off = true → off % 4 = 0 → Reg.at off = some r →
    (mayWrite f r.kind = false → exec (.registerWrite f off 4 v) s = .next (s.setupFault f 4 off)) ∧
    (mayWrite f r.kind = true → r.writeFields (s.sOpenFor r) = false → r.blocked (s.sOpenFor r) (s.regValue r) (v.setWidth 32) = true →
      exec (.registerWrite f off 4 v) s = .next (s.setupFault f 2 off)) ∧
    (mayWrite f r.kind = true → r.writeFields (s.sOpenFor r) = true →
      (s.regOk r (s.writeWord r (v.setWidth 32)) = false → exec (.registerWrite f off 4 v) s = .next (s.setupFault f 3 off)) ∧
      (s.regOk r (s.writeWord r (v.setWidth 32)) = true → r.blocked (s.sOpenFor r) (s.regValue r) (v.setWidth 32) = false →
        exec (.registerWrite f off 4 v) s = .next (s.regPut r (s.writeWord r (v.setWidth 32))) ∧
        (r.kind = .ptWtCfg → s.regsRise → ∃ t, exec (.registerWrite f off 4 v) s = .next t ∧ cfg t .ptWtCfg r.i 0 = v.setWidth 32 ∧
          (∀ k i j, (⟨k, i, j⟩ : Reg).off ≠ off → cfg t k i j = cfg s k i j) ∧ t = { s with regs := t.regs }))) ∧
    (mayWrite f r.kind = true → r.writeFields (s.sOpenFor r) = true → r.blocked (s.sOpenFor r) (s.regValue r) (v.setWidth 32) = true →
      s.regOk r (s.writeWord r (v.setWidth 32)) = true →
      exec (.registerWrite f off 4 v) s = .next ((s.regPut r (s.writeWord r (v.setWidth 32))).setupFault f 2 off)) ∧
    (∀ o w, o - o % 4 = off → (w ≠ 4 ∨ o % 4 ≠ 0) → (w ≠ 8 ∨ o % 8 ≠ 0) →
      (∀ g n, f = .host g → s.seenBy g off = some n → exec (.registerWrite f o w v) s = .next (s.setPart n { s.part n with setupErr := errWord (s.part n).setupErr 1 off false })) ∧
      (f = .tree → exec (.registerWrite f o w v) s = .next { s with setupErr := errWord s.setupErr 1 off false })) ∧
    (∀ seq n w, f = .tree → s.hf.lastSeq ≠ some seq → ∃ u, exec (.registerWrite .tree off n w) s = .next u ∧
      exec (.regWrite seq off n w) s = .next { u with hf := { u.hf with lastSeq := some seq, lastAnswer := [0] }, outbox := u.outbox ++ [.answer seq [0]] }) ∧
    (∀ addr, f = .tree → s.sidebandRead addr off = if addr = s.sidebandAddr ∧ off < 0x100 then some (leBytes 4 (s.regValue r).toNat) else none) ∧
    ∀ seq a, f = .tree → s.hf.lastSeq ≠ some seq → a = BitVec.ofNat 64 (s.regValue r).toNat →
      exec (.regRead seq off 4) s = .next { s with hf := { s.hf with lastSeq := some seq, lastAnswer := [a] }, outbox := s.outbox ++ [.answer seq [a]] }

/-- Writes that have rows of their own (13, R293, R304, R305; 01, R24; 07, R180; 14, R316; 15, R348; 16, R357-R359): each does what its register's rule says and leaves the rest of the module as it was.
That a refused ARM takes the whole write of SNAP_CTL with it is log 56.
Completes: ID_DEV_WRITE, TB_MASTER_SET, TB_SYNC_ARM, SNAP_ARM, LO_STAGE_WRITE, EVENT_SELECT_WRITE, HIST_CLR, SETUP_ERR_CLR, PT_SLACK_CLR, FAULT_RECORD_CLEAR. -/
def Obligations.RegisterRows : Prop :=
  ∀ s : State, s.regsRise → s.managed = true →
    (∀ v, (s.sModule = true → ∃ t, exec (.idDevWrite v) s = .next t ∧ rf t.flash.idDev 12 0 = rf v 12 0 ∧ rf t.flash.idDev 14 13 = rf v 14 13 ∧
        t = { s with flash := { s.flash with idDev := t.flash.idDev } }) ∧
      (s.sModule = false → rf v 12 0 ≠ rf s.flash.idDev 12 0 → ∃ t, exec (.idDevWrite v) s = .next t ∧ rf t.setupErr 23 21 = 2 ∧ t = { s with setupErr := t.setupErr })) ∧
    (∀ v, rb v 31 = true → ∃ t, exec (.tbMasterSet v) s = .next t ∧ t.isMaster = true ∧ t.primaryPort = rf v 27 24 ∧ t.masterDevid = rf v 12 0 ∧ t.tb.count = s.tb.count ∧
      (7 ≤ s.startup.stage → s.startup.stopped = false → t.tb.running = true ∧ t.tb.locked = s.tb.refOk) ∧ (s.startup.stage < 7 ∨ s.startup.stopped = true → t.tb = s.tb) ∧
      t = { s with regs := t.regs, tb := t.tb, hbmStk := t.hbmStk, hf := t.hf, outbox := t.outbox, events := t.events, counts := t.counts }) ∧
    (∀ v, rb v 31 = true → s.isMaster = true → s.anyActive = false → 10 ≤ rf v 29 25 → rf v 29 25 ≤ 30 →
      ∃ t, exec (.tbSyncArm v) s = .next t ∧ rb (cfg t .tbSyncCfg 0 0) 31 = true ∧ rb (cfg t .tbSyncCfg 0 0) 30 = rb v 30 ∧ rf (cfg t .tbSyncCfg 0 0) 29 25 = rf v 29 25 ∧
        rb (cfg t .tbSyncCfg 0 0) 24 = (rb (cfg s .tbSyncCfg 0 0) 24 && !rb v 24) ∧ t = { s with regs := t.regs }) ∧
    (∀ v, rb v 1 = true → (s.snapOk s.snapCount = true → ∃ t, exec (.snapArm v) s = .next t ∧ rb (cfg t .snapCtl 0 0) 1 = true ∧ t = { s with regs := t.regs }) ∧
      (rb (cfg s .snapCtl 0 0) 1 = false → s.snapOk s.snapCount = false → ∃ t, exec (.snapArm v) s = .next t ∧ rf t.setupErr 23 21 = 3 ∧ t = { s with setupErr := t.setupErr })) ∧
    (∀ off r v, Reg.at off = some r → isLo r.kind = true →
      ∃ t, exec (.loStageWrite off v) s = .next t ∧ Tab.find t.loStage off = some v ∧ t = { s with loStage := t.loStage }) ∧
    (∀ (w v : W32), Tab.find s.loStage 0x38 = some w →
      ∃ t, exec (.registerWrite .tree 0x3C 4 (v.setWidth 64)) s = .next t ∧ cfg t .tbPresetLo 0 0 = w ∧ cfg t .tbPresetHi 0 0 = v ∧ t = { s with regs := t.regs, loStage := t.loStage }) ∧
    (∀ off r v, Reg.at off = some r → isSelect r.kind = true → Tab.rising none s.counts = true →
      ∃ t, exec (.eventSelectWrite off v) s = .next t ∧ rb (cfg t r.kind r.i r.j) 31 = rb v 31 ∧ rb (cfg t r.kind r.i r.j) 30 = rb v 30 ∧
        rf (cfg t r.kind r.i r.j) 29 25 = rf v 29 25 ∧ rf (cfg t r.kind r.i r.j) 11 0 = rf v 11 0 ∧ t = { s with regs := t.regs, counts := t.counts } ∧
        (r.kind = .evsel → Tab.get 0 t.counts (0x30200 + 0x1000 * r.i + 8 * r.j) = 0) ∧ (r.kind = .frtEvsel → Tab.get 0 t.counts (0x100C0 + 0x2000 * r.i + 8 * r.j) = 0) ∧
        (r.kind = .cevsel → Tab.get 0 t.counts (0x40010 + 0x100 * r.i + 4 * r.j) = 0)) ∧
    (∀ (d : Dom) v, rb v 20 = true → ∃ t, exec (.histClr d v) s = .next t ∧
      t.domain d.val = { s.domain d.val with hist := [], lossBit := (s.domain d.val).lossBit && !rb v 31, jitAlm := (s.domain d.val).jitAlm && !rb v 30,
                                             dutyAlm := (s.domain d.val).dutyAlm && !rb v 29 } ∧
      (∀ e, e ≠ d.val → t.domain e = s.domain e) ∧ t = { s with domains := t.domains }) ∧
    exec (.setupErrClr .tree none) s = .next { s with setupErr := 0 } ∧
    ∀ (pt : Pt) (f : Caller), s.sees f (0x100000 + 0x1000 * pt.val + 0x24) = true →
      exec (.ptSlackClr f pt) s = .next (s.updPart pt.val fun p => { p with slack := slackNone }) ∧
      exec (.faultRecordClear f pt) s = .next (s.updPart pt.val fun p => { p with frec := none }) ∧
      exec (.setupErrClr f (some pt)) s = .next (s.updPart pt.val fun p => { p with setupErr := 0 })

/-! ### Health and management (13, R299-R306, R309) -/

/-- Canary scores, snapshots and the tree's commands (13, R299-R302, R305, R306, R309): an accumulator never grows by its decay and halves in a second with HL 0, the events of the tick come after it, and a second decay in one tick does nothing; each score follows its accumulators, saturates at 1,023 and
latches WARN as it reaches the threshold; CANARY_ACK clears both latches; at the snapshot count every counter and every slack is copied; JOB_STOP stops every partition of the key in Run or Hold.
A SNAPSHOT at a count that R305 refuses writes SNAP_LO and SNAP_HI, arms nothing and answers EXTENT (log 56); when a latch may latch again is log 55.
Completes: CANARY_DECAY, CANARY_SCORE_UPDATE, SNAPSHOT_COUNT, CANARY_ACK, SNAPSHOT, JOB_STOP_COMMAND, CATALOGUE. -/
def Obligations.HealthAndTree : Prop :=
  ∀ (s : State),
    (∀ t, s.tb.running = true → s.tb.count ≤ t → t < 2 ^ 64 →
      (t % 1000000000 = 0 → ∃ u, exec (.canaryDecay t) s = .next u ∧ u = { s.advance t with canAcc := u.canAcc } ∧
        (s.canAcc.decayedAt = some t → u.canAcc = s.canAcc) ∧
        (s.canAcc.decayedAt ≠ some t → u.canAcc.decayedAt = some t ∧ u.canAcc.late = []) ∧
        (s.canAcc.decayedAt ≠ some t → s.canAcc.lateAt ≠ t ∨ s.canAcc.late = [] → ∀ k a, Tab.find s.canAcc.settled k = some a →
          ∃ b, Tab.find u.canAcc.acc k = some b ∧ b ≤ a ∧ (cf s .canCfg (canKind (k / 4)) (k % 4) 20 16 = 0 → b = a / 2)) ∧
        ∀ k n, s.canAcc.decayedAt ≠ some t → s.canAcc.lateAt = t → s.canAcc.late = [(k, n)] →
          Tab.get 0 u.canAcc.acc k = Nat.min (2 ^ 40 - 1) (decayed (cf s .canCfg (canKind (k / 4)) (k % 4) 20 16) (Tab.get 0 s.canAcc.acc k) + n)) ∧
      (t % 1024 = 0 → ∃ u, exec (.canaryScoreUpdate t) s = .next u ∧ u = { s.advance t with canary := u.canary, hf := u.hf, outbox := u.outbox } ∧
        ∀ n, n < 67 → (u.can n).score = s.canScore n ∧ (u.can n).score ≤ 1023 ∧ ((s.can n).warn = true → (u.can n).warn = true) ∧
          ((s.can n).warnReady = true → (s.can n).score < rf (cfg s .canThr (canKind n) 0) 9 0 → rf (cfg s .canThr (canKind n) 0) 9 0 ≤ s.canScore n → (u.can n).warn = true)) ∧
      (rb (cfg s .snapCtl 0 0) 1 = true → s.snapCount = t → ∃ u, exec (.snapshotCount t) s = .next u ∧ u.shadows = (s.advance t).counts ∧ cfg u .snapCtl 0 0 = 1 ∧
        (∀ n, u.part n = { s.part n with slackSnap := (s.part n).slack }) ∧ u = { s.advance t with regs := u.regs, shadows := u.shadows, parts := u.parts })) ∧
    ∀ seq, s.managed = true → s.hf.lastSeq ≠ some seq →
      (∀ n : Fin 67, ∃ t, exec (.canaryAck seq n) s = .next t ∧ t.can n.val = { s.can n.val with alarm := false, warn := false } ∧ (∀ m, m ≠ n.val → t.can m = s.can m) ∧
        t.outbox.getLast? = some (.answer seq [0]) ∧ t = { s with canary := t.canary, hf := t.hf, outbox := t.outbox }) ∧
      (∀ count, s.regsRise → s.snapOk (count % 2 ^ 64) = true → ∃ t, exec (.snapshot seq count) s = .next t ∧ t.snapCount = count % 2 ^ 64 ∧ rb (cfg t .snapCtl 0 0) 1 = true ∧
        t.outbox = s.outbox ++ [.answer seq [0]] ∧ t = { s with regs := t.regs, hf := t.hf, outbox := t.outbox }) ∧
      (∀ count, s.snapOk (count % 2 ^ 64) = false → ∃ t, exec (.snapshot seq count) s = .next t ∧ cfg t .snapCtl 0 0 = cfg s .snapCtl 0 0 ∧
        t.outbox = s.outbox ++ [.answer seq [1]] ∧ t = { s with regs := t.regs, hf := t.hf, outbox := t.outbox }) ∧
      (∀ key reason, ∃ t, exec (.jobStopCommand seq key reason) s = .next t ∧ (∀ n, (s.part n).st = .run ∨ (s.part n).st = .hold → s.keyOf n = key.toNat → (t.part n).st = .faultStop) ∧
        (∀ n, s.keyOf n ≠ key.toNat → (t.part n).st = (s.part n).st) ∧ t.outbox.getLast? = some (.answer seq [0]) ∧ t.regs = s.regs ∧ t.hbm = s.hbm ∧ t.flash = s.flash) ∧
      ∀ first n, ∃ t a, exec (.catalogue seq first n) s = .next t ∧ t.outbox = s.outbox ++ [.answer seq a] ∧ t = { s with hf := t.hf, outbox := t.outbox } ∧
        (1 ≤ n → n ≤ 64 → a.head? = some 0) ∧ (n = 0 ∨ 64 < n → a = [1])

/-- ALARM# is asserted while a canary ALARM bit is latched, HF is lost, or both headframe controllers have failed to boot, and released otherwise (15, R344). -/
def Obligations.AlarmLine : Prop :=
  ∀ s : State, Tab.rising none s.canary = true →
    (s.alarm = true ↔ (∃ n, (s.can n).alarm = true) ∨ (s.domain 1).lost = true ∨ s.hf.bothFailed = true)

/-! ### Clocks (07, R162, R173-R181) -/

/-- The clock domains (07, R175, R181): a domain without clock sets LOSS, stops the partitions in Run or Hold on it, fails the ports and host links of an edge die, or stops both headframe controllers; an undervoltage stops the partitions of its
region; a window of periods adds to the histogram and raises the jitter alarm beyond its threshold; a duty outside its bounds raises the duty alarm.
The regions, the crossings and the cluster clocks (07, R162, R175, R178): a trim window adds what its region stretched, each sag by its own code (R173), and the open segments of the region's cores lose that time to STRETCH, a crossing without valid entries goes back to distance 8, and a waiting cluster starts 100 ns or more after the last one and draws
its base charge of 8 lamps. Completes: CLOCK_LOSS, REGION_UNDERVOLTAGE, JITTER_WINDOW, DUTY_WINDOW, OSC_TRIM_WINDOW, CROSSING_RECENTRE, CLUSTER_START. -/
def Obligations.ClockDomains : Prop :=
  (∀ (s : State),
     (∀ (d : Dom) die, ∃ t, exec (.clockLoss d die) s = .next t ∧ (t.domain d.val).lost = true ∧ (t.domain d.val).lossBit = true ∧ (∀ e, e ≠ d.val → t.domain e = s.domain e) ∧
       (d.val = 0 → die.val < 6 → ∀ n, (s.part n).st = .run ∨ (s.part n).st = .hold → s.onDie n die.val = true → (t.part n).st = .faultStop) ∧
       (d.val = 1 → t.hf.e0Up = false ∧ t.hf.e1Up = false ∧ t.parts = s.parts ∧ t.alarm = true ∧ (s.alarm = false → t.outbox = s.outbox ++ [.alarm true])) ∧
       (2 ≤ d.val → d.val < 14 → ∀ n, (s.part n).st = .run ∨ (s.part n).st = .hold → s.inRegion n (d.val - 2) = true → (t.part n).st = .faultStop) ∧
       (14 ≤ d.val → (∀ p, p / 8 = (d.val - 14) / 2 → (s.port p).st ≠ .disabled → (t.port p).st = .failed) ∧
         ∀ l : Link, l.ix / 2 = (d.val - 14) / 2 → (t.link l).trained = false)) ∧
     (∀ (die : Die) b n, (s.part n).st = .run ∨ (s.part n).st = .hold → s.inRegion n (2 * die.val + b2n b) = true →
       ∃ t, exec (.regionUndervoltage die b) s = .next t ∧ (t.part n).st = .faultStop ∧ t.hbm = s.hbm ∧ t.flash = s.flash ∧ t.regs = s.regs) ∧
     (∀ (d : Dom) (bin : Fin 32) k, (s.domain d.val).lost = false → Tab.rising none (s.domain d.val).hist = true →
       ∃ t, exec (.jitterWindow d [(bin, k)]) s = .next t ∧ Tab.get 0 (t.domain d.val).hist bin.val = Nat.min (2 ^ 32 - 1) (Tab.get 0 (s.domain d.val).hist bin.val + k) ∧
         (∀ j, j ≠ bin.val → Tab.get 0 (t.domain d.val).hist j = Tab.get 0 (s.domain d.val).hist j) ∧ (∀ e, e ≠ d.val → t.domain e = s.domain e) ∧
         ((rf (cfg s .clkMonCfg d.val 0) 10 6 ≤ bin.val ∧ bin.val ≤ rf (cfg s .clkMonCfg d.val 0) 15 11) ∨ k ≤ rf (cfg s .clkMonCfg d.val 0) 31 16 → t = { s with domains := t.domains }) ∧
         ((bin.val < rf (cfg s .clkMonCfg d.val 0) 10 6 ∨ rf (cfg s .clkMonCfg d.val 0) 15 11 < bin.val) → rf (cfg s .clkMonCfg d.val 0) 31 16 < k → (t.domain d.val).jitAlm = true) ∧
         t.parts = s.parts ∧ t.regs = s.regs) ∧
     (∀ (d : Dom) ps, (s.domain d.val).lost = false →
       ∃ t, exec (.jitterWindow d ps) s = .next t ∧ (∀ e, e ≠ d.val → t.domain e = s.domain e) ∧ (t.domain d.val).lost = false ∧
         (outsideBins (rf (cfg s .clkMonCfg d.val 0) 10 6) (rf (cfg s .clkMonCfg d.val 0) 15 11) ps ≤ rf (cfg s .clkMonCfg d.val 0) 31 16 → t = { s with domains := t.domains }) ∧
         (rf (cfg s .clkMonCfg d.val 0) 31 16 < outsideBins (rf (cfg s .clkMonCfg d.val 0) 10 6) (rf (cfg s .clkMonCfg d.val 0) 15 11) ps → (t.domain d.val).jitAlm = true)) ∧
     (∀ (d : Dom) ps x, (s.domain d.val).lost = true → exec (.jitterWindow d ps) s = .next s ∧ exec (.dutyWindow d x) s = .next s) ∧
     ∀ (d : Dom) (x : BitVec 8), (s.domain d.val).lost = false →
       ∃ t, exec (.dutyWindow d x) s = .next t ∧ (t.domain d.val).duty = x.toNat ∧ (∀ e, e ≠ d.val → t.domain e = s.domain e) ∧
         (rf (cfg s .clkDutyCfg d.val 0) 7 0 ≤ x.toNat → x.toNat ≤ rf (cfg s .clkDutyCfg d.val 0) 15 8 → t = { s with domains := t.domains } ∧ (t.domain d.val).dutyAlm = (s.domain d.val).dutyAlm) ∧
         (x.toNat < rf (cfg s .clkDutyCfg d.val 0) 7 0 ∨ rf (cfg s .clkDutyCfg d.val 0) 15 8 < x.toNat → (t.domain d.val).dutyAlm = true) ∧ t.parts = s.parts ∧ t.regs = s.regs) ∧
  (∀ (s : State),
     (∀ (die : Die) b r n, n = 2 * die.val + b2n b → ∃ t, exec (.oscTrimWindow die b r) s = .next t ∧ (t.region n).stretched = (s.region n).stretched + r.stretched ∧
       (t.region n).extraPs = (s.region n).extraPs + r.extraPs ∧ (t.region n).code4 = (s.region n).code4 + r.code4 ∧ (t.region n).lostMilli = (s.region n).lostMilli + r.extraMilli ∧
       (∀ (c : CoreId) k, regionOf c = n → Tab.find s.cores c.ix = some k → t.core c = if k.segOpen then k.addLost 1 r.extraPs else k) ∧
       (∀ m, m ≠ n → t.region m = s.region m) ∧ (∀ c : CoreId, regionOf c ≠ n → t.core c = s.core c) ∧
       t = { s with regions := t.regions, cores := t.cores, events := t.events, counts := t.counts, canAcc := t.canAcc }) ∧
     (∀ x, x < 26 → ∃ t, exec (.crossingRecentre x) s = .next t ∧
       t.crossing x = { s.crossing x with distance := 8000, recentres := (s.crossing x).recentres + 1 } ∧ (∀ y, y ≠ x → t.crossing y = s.crossing y) ∧
       t = { s with crossings := t.crossings, events := t.events, counts := t.counts, canAcc := t.canAcc }) ∧
     (∀ x, 26 ≤ x → exec (.crossingRecentre x) s = .next s) ∧
     ∀ k : Clu, k.val ∈ s.cluStart → (∀ t, s.lastCluStart = some t → t + 100 ≤ s.now) →
       ∃ t, exec (.clusterStart k) s = .next t ∧ Tab.find t.clusters k.val = some () ∧ t.cluStart = s.cluStart.filter (fun j => j ≠ k.val) ∧ t.lastCluStart = some s.now ∧
         t.drawn (k.val / 11) = s.drawn (k.val / 11) + 8 ∧ (∀ d, d ≠ k.val / 11 → t.drawn d = s.drawn d) ∧
         t = { s with clusters := t.clusters, cluStart := t.cluStart, lastCluStart := t.lastCluStart, lampRoom := t.lampRoom })
/-! ### Firmware and attestation (14, R320-R330) -/

/-- Firmware update (14, R320-R329) of a component 1 to 4: an update is taken one at a time, and a component of it once the component table is passed; block 0 that passes the nine checks opens the transfer, one that does not ends it with its result; an intact block of records extends the image, a bad
one is asked for again; the last block of a verified image makes it pending, and one whose digest differs is reported after its transfer is (DIGEST); a cancelled transfer ends with ABORTED. Activation starts nothing but the headframe image; confirmation frees the pentimento; a revert takes it up again, and the third missed
boot-good point does too. Which words PLDM uses is PRESUMED (log 24).
Completes: REQUEST_UPDATE, PASS_COMPONENT_TABLE, UPDATE_COMPONENT, CANCEL_UPDATE_COMPONENT, CANCEL_UPDATE, ACTIVATE_FIRMWARE, FW_CONFIRM, FW_REVERT, FIRMWARE_HEADER_BLOCK, FIRMWARE_BLOCK,
BOOT_GOOD_MISS. -/
def Obligations.FirmwareUpdate : Prop :=
  ∀ (s : State),
    (∀ m, s.pldmPath m = true →
      (∀ k, s.update = none → ∃ t u, exec (.requestUpdate m k) s = .next t ∧ t.update = some u ∧ u.component = none ∧ u.tabled = false ∧ u.maxTransfer = k ∧ t = { s with update := t.update, outbox := t.outbox }) ∧
      (∀ k u, s.update = some u → ∃ t, exec (.requestUpdate m k) s = .next t ∧ t = { s with outbox := t.outbox } ∧ t.outbox.length = s.outbox.length + 1) ∧
      (∀ cs, (∀ u, s.update = some u → u.component = none → ∃ t, exec (.passComponentTable m cs) s = .next t ∧
          t = { s with update := some { u with tabled := true }, outbox := t.outbox } ∧ t.outbox.length = s.outbox.length + 1) ∧
        ((∀ u, s.update = some u → u.component ≠ none) → ∃ t, exec (.passComponentTable m cs) s = .next t ∧ t = { s with outbox := t.outbox } ∧ t.outbox.length = s.outbox.length + 1)) ∧
      (∀ c size, (∀ u, s.update = some u → u.tabled = false) → ∃ t, exec (.updateComponent m c size) s = .next t ∧ t = { s with outbox := t.outbox } ∧ t.outbox.length = s.outbox.length + 1) ∧
      (∀ c size u, s.update = some u → u.tabled = true → u.component = none → ∃ t, exec (.updateComponent m c size) s = .next t ∧
        t.update = some { u with component := some c, imageSize := size, next := 0, retries := 0, header := [], out := [] } ∧ t = { s with update := t.update, outbox := t.outbox }) ∧
      (∀ c u, s.update = some u → u.component = some c → 1 ≤ c → c ≤ 4 → ∃ t, exec (.cancelUpdateComponent m) s = .next t ∧ (t.flash.comp c).lastResult = 13 ∧
        t.update = some { u with component := none, next := 0, header := [], out := [] } ∧ (∀ d, 1 ≤ d → d ≤ 4 → d ≠ c → t.flash.comp d = s.flash.comp d) ∧
        t = { s with update := t.update, flash := t.flash, outbox := t.outbox }) ∧
      (∀ u, s.update = some u → ∃ t, exec (.cancelUpdate m) s = .next t ∧ t.update = none ∧ (u.component = none → t.flash = s.flash) ∧
        (∀ c, u.component = some c → 1 ≤ c → c ≤ 4 → (t.flash.comp c).lastResult = 13) ∧ t = { s with update := none, flash := t.flash, outbox := t.outbox }) ∧
      (∀ u, s.update = some u → u.component = none → s.flash.fw1.pending = none → ∃ t, exec (.activateFirmware m) s = .next t ∧ t.update = none ∧
        (∀ c, 2 ≤ c → c ≤ 4 → t.flash.comp c = (if (s.flash.comp c).pending.isSome then { s.flash.comp c with activated := true } else s.flash.comp c)) ∧
        t.flash.fw1 = s.flash.fw1 ∧ t = { s with update := none, flash := t.flash, outbox := t.outbox }) ∧
      (∀ mask, ∃ t, exec (.fwConfirm m mask) s = .next t ∧ t = { s with flash := t.flash, outbox := t.outbox } ∧
        ∀ c, 1 ≤ c → c ≤ 4 → t.flash.comp c = (if mask.getLsbD c = true ∧ (s.flash.comp c).unconf = true then { s.flash.comp c with unconf := false, fails := 0, pent := none } else s.flash.comp c)) ∧
      (∀ mask i c, m = .ma ∨ m = .mb → 1 ≤ c → c ≤ 4 → mask.getLsbD c = true → (s.flash.comp c).unconf = true → (s.flash.comp c).pent = some i → (s.flash.comp c).pending = none →
        (∀ d, 1 ≤ d → d ≤ 4 → d ≠ c → (s.flash.comp d).unconf = false) → ∃ t, exec (.fwRevert m mask) s = .next t ∧ (t.flash.comp c).running = i ∧ (t.flash.comp c).pent = none ∧
        (t.flash.comp c).unconf = false ∧ (t.flash.comp c).reverted = true ∧ (2 ≤ c → t.startup.ready = false ∧ ∀ n, t.part n = Part.reset) ∧ (c = 1 → t.parts = s.parts ∧ t.startup = s.startup))) ∧
    (∀ u c bytes, s.managed = true → s.update = some u → u.component = some c → 1 ≤ c → c ≤ 4 →
      (u.next = 0 → s.headerCheck c u.imageSize bytes = none → ∃ t, exec (.firmwareHeaderBlock bytes) s = .next t ∧
        t.update = some { u with next := 1, blocks := leAt bytes 0x84 4, retries := 0, header := bytes, out := [] } ∧ (t.flash.comp c).pending = none ∧
        (t.flash.comp c).running = (s.flash.comp c).running ∧ (∀ d, 1 ≤ d → d ≤ 4 → d ≠ c → t.flash.comp d = s.flash.comp d) ∧ t = { s with update := t.update, flash := t.flash, outbox := t.outbox }) ∧
      (∀ r, u.next = 0 → s.headerCheck c u.imageSize bytes = some r → ∃ t, exec (.firmwareHeaderBlock bytes) s = .next t ∧ t.flash.comp c = { s.flash.comp c with lastResult := r } ∧
        t.update = some { u with component := none, next := 0, header := [], out := [] } ∧ t = { s with update := t.update, flash := t.flash, outbox := t.outbox }) ∧
      (0 < u.next → blockOk bytes = false → u.retries < 3 → ∃ t, exec (.firmwareBlock bytes) s = .next t ∧ t.update = some { u with retries := u.retries + 1 } ∧
        t = { s with update := t.update, outbox := t.outbox }) ∧
      (∀ add, 0 < u.next → blockOk bytes = true → blockRecords (s.flash.comp c).running.bytes bytes = some add → (u.out ++ add).length ≤ leAt u.header 0x80 4 →
        (u.next + 1 < u.blocks → ∃ t, exec (.firmwareBlock bytes) s = .next t ∧ t.update = some { u with next := u.next + 1, retries := 0, out := u.out ++ add } ∧
          t = { s with update := t.update, outbox := t.outbox }) ∧
        (u.blocks ≤ u.next + 1 → (u.out ++ add).length = leAt u.header 0x80 4 → sha384 (u.out ++ add) = slice u.header 0x50 48 → u.signed = true →
          ∃ t, exec (.firmwareBlock bytes) s = .next t ∧ (t.flash.comp c).pending = some (u.image (u.out ++ add)) ∧ (t.flash.comp c).running = (s.flash.comp c).running ∧
            (t.flash.comp c).lastResult = 0 ∧ t = { s with update := t.update, flash := t.flash, outbox := t.outbox }) ∧
        (u.blocks ≤ u.next + 1 → (u.out ++ add).length = leAt u.header 0x80 4 → sha384 (u.out ++ add) ≠ slice u.header 0x50 48 →
          ∃ t, exec (.firmwareBlock bytes) s = .next t ∧ t.flash.comp c = { s.flash.comp c with lastResult := 11 } ∧
            (∃ x y, t.outbox = s.outbox ++ [.pldm none 0x16 x [], .pldm none 0x17 y []]) ∧ t = { s with update := t.update, flash := t.flash, outbox := t.outbox }))) ∧
    ∀ c, s.bootPoint c = true → 1 ≤ c → c ≤ 4 → (s.flash.comp c).unconf = true → (s.flash.comp c).pending = none →
      ((s.flash.comp c).fails + 1 < 3 → ∃ t, exec (.bootGoodMiss c) s = .next t ∧ (t.flash.comp c).fails = (s.flash.comp c).fails + 1 ∧
        (t.flash.comp c).running = (s.flash.comp c).running ∧ (t.flash.comp c).unconf = true) ∧
      (∀ i, 3 ≤ (s.flash.comp c).fails + 1 → (s.flash.comp c).pent = some i → ∃ t, exec (.bootGoodMiss c) s = .next t ∧ (t.flash.comp c).running = i ∧ (t.flash.comp c).reverted = true)

/-- Queries and attestation (14, R320, R330): each request on a path that reaches a controller is answered once, and changes at most the exchange of its own path (log 50); an SPDM exchange goes from GET_VERSION over GET_CAPABILITIES and NEGOTIATE_ALGORITHMS to
the rest. Codes and the order of the exchange are PRESUMED (log 24); what R330 leaves open in the answers is free, and the layout of a measurement is log 50.
Completes: QUERY_DEVICE_IDENTIFIERS, GET_FIRMWARE_PARAMETERS, GET_STATUS, GET_VERSION, GET_CAPABILITIES, NEGOTIATE_ALGORITHMS, GET_DIGESTS, GET_CERTIFICATE, CHALLENGE, GET_MEASUREMENTS. -/
def Obligations.QueriesAnswered : Prop :=
  ∀ (s : State) (m : MgmtPath),
    (∀ i, s.pldmPath m = true → (i = .queryDeviceIdentifiers m ∨ i = .getFirmwareParameters m ∨ i = .getStatus m) →
      ∃ c w p, exec i s = .next { s with outbox := s.outbox ++ [.pldm (some m) c w p] }) ∧
    (s.spdmPath m = true →
      (∃ b, exec (.getVersion m) s = .next { s with spdm := Tab.put s.spdm (pathNo m) { Spdm.reset with versioned := true }, outbox := s.outbox ++ [.spdm m 0x84 b] }) ∧
      ((s.spdmOf m).versioned = true →
        ∃ b, exec (.getCapabilities m) s = .next { s with spdm := Tab.put s.spdm (pathNo m) { s.spdmOf m with capable := true }, outbox := s.outbox ++ [.spdm m 0xE1 b] }) ∧
      ((s.spdmOf m).capable = true →
        ∃ b, exec (.negotiateAlgorithms m) s = .next { s with spdm := Tab.put s.spdm (pathNo m) { s.spdmOf m with negotiated := true }, outbox := s.outbox ++ [.spdm m 0xE3 b] }) ∧
      (∀ i k, ((i = .getDigests m ∧ k = 0x81) ∨ (∃ a n, i = .getCertificate m a n ∧ k = 0x82) ∨ (∃ n, i = .challenge m n ∧ k = 0x83) ∨
          (∃ x n, i = .getMeasurements m x n ∧ k = 0xE0 ∧ (x ≤ 7 ∨ x = 0xFF))) →
        ((s.spdmOf m).negotiated = true → ∃ b, exec i s = .next { s with spdm := Tab.put s.spdm (pathNo m) (s.spdmOf m), outbox := s.outbox ++ [.spdm m k b] }) ∧
        ((s.spdmOf m).negotiated = false → exec i s = .next { s with outbox := s.outbox ++ [.spdm m 0x7F [0x04]] })) ∧
      ∀ x n, 1 ≤ x → x ≤ 7 → (s.spdmOf m).negotiated = true → ∃ t b, exec (.getMeasurements m x n) s = .next t ∧ t.outbox = s.outbox ++ [.spdm m 0xE0 (s.measurement x ++ b)])

/-! ### The job registers of a partition (06, R148) -/

/-- Each partition's block holds PT_JOB_CFG and PT_JOB_TOPO, which the management tree writes and no host does; a write of JOB_MODULES above 32,768 is not applied (06, R148; 00, R7; 16, R358). Every other register
and everything else of the state is as it was. -/
def Obligations.JobRegisters : Prop :=
  ∀ (s : State) (n : Pt) (v : W32), s.managed = true → (s.part n.val).sOpen = true → s.regsRise →
    (32768 < rf v 31 16 → exec (.registerWrite .tree (0x100010 + 0x1000 * n.val) 4 (v.setWidth 64)) s = .next (s.setupFault .tree 3 (0x100010 + 0x1000 * n.val)) ∧
      ∀ m, cfg (s.setupFault .tree 3 (0x100010 + 0x1000 * n.val)) .ptJobCfg m 0 = cfg s .ptJobCfg m 0) ∧
    (rf v 31 16 ≤ 32768 → ∃ t, exec (.registerWrite .tree (0x100010 + 0x1000 * n.val) 4 (v.setWidth 64)) s = .next t ∧ cfg t .ptJobCfg n.val 0 = v &&& 0xFFFF0000 ∧
      (∀ k i j, (⟨k, i, j⟩ : Reg).off ≠ 0x100010 + 0x1000 * n.val → cfg t k i j = cfg s k i j) ∧ t = { s with regs := t.regs }) ∧
    (∃ t, exec (.registerWrite .tree (0x100014 + 0x1000 * n.val) 4 (v.setWidth 64)) s = .next t ∧ cfg t .ptJobTopo n.val 0 = v ∧
      (∀ k i j, (⟨k, i, j⟩ : Reg).off ≠ 0x100014 + 0x1000 * n.val → cfg t k i j = cfg s k i j) ∧ t = { s with regs := t.regs }) ∧
    ∀ f, s.owner n.val = some f →
      exec (.registerWrite (.host f) (0x100010 + 0x1000 * n.val) 4 (v.setWidth 64)) s = .next (s.setupFault (.host f) 4 (0x100010 + 0x1000 * n.val)) ∧
      exec (.registerWrite (.host f) (0x100014 + 0x1000 * n.val) 4 (v.setWidth 64)) s = .next (s.setupFault (.host f) 4 (0x100014 + 0x1000 * n.val))
end

