-- ==== Sys2Proof/Laws/Table.lean ====
section
/-! SUPPORT. Laws of sparse tables: a read after a write, and what every operation keeps of the canonical form. -/

namespace Sys2Proof.Machine

variable {α : Type}

@[simp] theorem Tab.find_nil (a : Nat) : Tab.find ([] : Tab α) a = none := rfl

@[simp] theorem Tab.get_nil (d : α) (a : Nat) : Tab.get d ([] : Tab α) a = d := rfl

/-- What is listed last at a key is found there. -/
@[simp] theorem Tab.find_put_same (m : Tab α) (a : Nat) (x : α) : Tab.find (Tab.put m a x) a = some x := by
  induction m with
  | nil => simp [Tab.put, Tab.find]
  | cons e m ih =>
    obtain ⟨k, v⟩ := e
    unfold Tab.put
    split
    · simp [Tab.find]
    · split
      · simp [Tab.find]
      · rename_i h1 h2
        simp [Tab.find, h2, ih]

/-- Listing a value at one key changes no other key. -/
theorem Tab.find_put_other (m : Tab α) {a b : Nat} (x : α) (h : b ≠ a) : Tab.find (Tab.put m a x) b = Tab.find m b := by
  induction m with
  | nil => simp [Tab.put, Tab.find, h]
  | cons e m ih =>
    obtain ⟨k, v⟩ := e
    unfold Tab.put
    split
    · simp [Tab.find, h]
    · split
      · rename_i h1 h2
        subst h2
        simp [Tab.find, h]
      · simp [Tab.find, ih]

theorem Tab.get_put_same (d : α) (m : Tab α) (a : Nat) (x : α) : Tab.get d (Tab.put m a x) a = x := by simp [Tab.get]

theorem Tab.get_put_other (d : α) (m : Tab α) {a b : Nat} (x : α) (h : b ≠ a) : Tab.get d (Tab.put m a x) b = Tab.get d m b := by
  simp [Tab.get, Tab.find_put_other m x h]

theorem Tab.get_put (d : α) (m : Tab α) (a b : Nat) (x : α) : Tab.get d (Tab.put m a x) b = if b = a then x else Tab.get d m b := by
  by_cases h : b = a
  · subst h; simp [Tab.get_put_same]
  · simp [h, Tab.get_put_other d m x h]

/-- Taking a key out changes no other key. -/
theorem Tab.find_erase_other (m : Tab α) {a b : Nat} (h : b ≠ a) : Tab.find (Tab.erase m a) b = Tab.find m b := by
  induction m with
  | nil => rfl
  | cons e m ih =>
    obtain ⟨k, v⟩ := e
    unfold Tab.erase
    split
    · rename_i h1; subst h1; simp [Tab.find, h]
    · simp [Tab.find, ih]

/-! ### Rising keys -/

theorem Tab.rising_weaken {m : Tab α} {l l' : Nat} (h : l' ≤ l) (r : Tab.rising (some l) m = true) : Tab.rising (some l') m = true := by
  cases m with
  | nil => rfl
  | cons e m =>
    obtain ⟨k, v⟩ := e
    simp only [Tab.rising, Bool.and_eq_true, decide_eq_true_eq] at r ⊢
    exact ⟨Nat.lt_of_le_of_lt h r.1, r.2⟩

theorem Tab.rising_none {m : Tab α} {l : Nat} (r : Tab.rising (some l) m = true) : Tab.rising none m = true := by
  cases m with
  | nil => rfl
  | cons e m =>
    obtain ⟨k, v⟩ := e
    simp only [Tab.rising, Bool.and_eq_true, decide_eq_true_eq] at r ⊢
    exact r.2

theorem Tab.rising_put_some (m : Tab α) (l a : Nat) (x : α) (hl : l < a) (r : Tab.rising (some l) m = true) :
    Tab.rising (some l) (Tab.put m a x) = true := by
  induction m generalizing l with
  | nil => simp [Tab.put, Tab.rising, hl]
  | cons e m ih =>
    obtain ⟨k, v⟩ := e
    simp only [Tab.rising, Bool.and_eq_true, decide_eq_true_eq] at r
    unfold Tab.put
    split
    · rename_i h; simp [Tab.rising, hl, h, r.2]
    · split
      · rename_i h1 h2; subst h2; simp [Tab.rising, r.1, r.2]
      · rename_i h1 h2
        simp only [Tab.rising, Bool.and_eq_true, decide_eq_true_eq]
        exact ⟨r.1, ih k (by omega) r.2⟩

theorem Tab.rising_put (m : Tab α) (a : Nat) (x : α) (r : Tab.rising none m = true) : Tab.rising none (Tab.put m a x) = true := by
  cases m with
  | nil => rfl
  | cons e m =>
    obtain ⟨k, v⟩ := e
    simp only [Tab.rising] at r
    unfold Tab.put
    split
    · rename_i h; simp [Tab.rising, h, r]
    · split
      · rename_i h1 h2; subst h2; simpa [Tab.rising] using r
      · simpa [Tab.rising] using Tab.rising_put_some m k a x (by omega) r

theorem Tab.rising_erase_some (m : Tab α) (l a : Nat) (r : Tab.rising (some l) m = true) : Tab.rising (some l) (Tab.erase m a) = true := by
  induction m generalizing l with
  | nil => rfl
  | cons e m ih =>
    obtain ⟨k, v⟩ := e
    simp only [Tab.rising, Bool.and_eq_true, decide_eq_true_eq] at r
    unfold Tab.erase
    split
    · exact Tab.rising_weaken (Nat.le_of_lt r.1) r.2
    · simp only [Tab.rising, Bool.and_eq_true, decide_eq_true_eq]
      exact ⟨r.1, ih k r.2⟩

theorem Tab.rising_erase (m : Tab α) (a : Nat) (r : Tab.rising none m = true) : Tab.rising none (Tab.erase m a) = true := by
  cases m with
  | nil => rfl
  | cons e m =>
    obtain ⟨k, v⟩ := e
    simp only [Tab.rising] at r
    unfold Tab.erase
    split
    · exact Tab.rising_none r
    · simpa [Tab.rising] using Tab.rising_erase_some m k a r

theorem Tab.rising_filter_some (m : Tab α) (l : Nat) (p : Nat × α → Bool) (r : Tab.rising (some l) m = true) :
    Tab.rising (some l) (m.filter p) = true := by
  induction m generalizing l with
  | nil => rfl
  | cons e m ih =>
    obtain ⟨k, v⟩ := e
    simp only [Tab.rising, Bool.and_eq_true, decide_eq_true_eq] at r
    simp only [List.filter_cons]
    split
    · simp only [Tab.rising, Bool.and_eq_true, decide_eq_true_eq]; exact ⟨r.1, ih k r.2⟩
    · exact ih l (Tab.rising_weaken (Nat.le_of_lt r.1) r.2)

theorem Tab.rising_filter (m : Tab α) (p : Nat × α → Bool) (r : Tab.rising none m = true) : Tab.rising none (m.filter p) = true := by
  cases m with
  | nil => rfl
  | cons e m =>
    obtain ⟨k, v⟩ := e
    simp only [Tab.rising] at r
    simp only [List.filter_cons]
    split
    · simpa [Tab.rising] using Tab.rising_filter_some m k p r
    · exact Tab.rising_none (Tab.rising_filter_some m k p r)

/-- With rising keys above `l`, nothing is listed at or below `l`. -/
theorem Tab.find_low {m : Tab α} {l a : Nat} (r : Tab.rising (some l) m = true) (h : a ≤ l) : Tab.find m a = none := by
  induction m generalizing l with
  | nil => rfl
  | cons e m ih =>
    obtain ⟨k, v⟩ := e
    simp only [Tab.rising, Bool.and_eq_true, decide_eq_true_eq] at r
    have : a ≠ k := by omega
    simp only [Tab.find, this, if_false]
    exact ih r.2 (by omega)

/-- A key taken out of a table with rising keys is listed no more. -/
theorem Tab.find_erase_same {m : Tab α} (a : Nat) (r : Tab.rising none m = true) : Tab.find (Tab.erase m a) a = none := by
  induction m with
  | nil => rfl
  | cons e m ih =>
    obtain ⟨k, v⟩ := e
    simp only [Tab.rising] at r
    unfold Tab.erase
    split
    · rename_i h; subst h; exact Tab.find_low r (Nat.le_refl _)
    · rename_i h; simp only [Tab.find, h, if_false]; exact ih (Tab.rising_none r)

/-! ### The canonical form -/

theorem Tab.mem_put {m : Tab α} {a : Nat} {x : α} {e : Nat × α} (h : e ∈ Tab.put m a x) : e = (a, x) ∨ e ∈ m := by
  induction m with
  | nil => simp [Tab.put] at h; exact .inl h
  | cons f m ih =>
    obtain ⟨k, v⟩ := f
    unfold Tab.put at h
    split at h
    · simpa using h
    · split at h
      · simp at h; rcases h with h | h
        · exact .inl h
        · exact .inr (by simp [h])
      · simp at h; rcases h with h | h
        · exact .inr (by simp [h])
        · rcases ih h with h | h
          · exact .inl h
          · exact .inr (by simp [h])

theorem Tab.mem_erase {m : Tab α} {a : Nat} {e : Nat × α} (h : e ∈ Tab.erase m a) : e ∈ m := by
  induction m with
  | nil => simp [Tab.erase] at h
  | cons f m ih =>
    obtain ⟨k, v⟩ := f
    unfold Tab.erase at h
    split at h
    · simp [h]
    · simp at h; rcases h with h | h
      · simp [h]
      · simp [ih h]

section
variable [DecidableEq α]

theorem Tab.wf_def (d : α) (m : Tab α) : Tab.wf d m = true ↔ Tab.rising none m = true ∧ ∀ e ∈ m, e.2 ≠ d := by
  simp [Tab.wf, List.all_eq_true]

@[simp] theorem Tab.wf_nil (d : α) : Tab.wf d ([] : Tab α) = true := rfl

/-- A write keeps the canonical form. -/
theorem Tab.wf_write {d : α} {m : Tab α} (a : Nat) (x : α) (h : Tab.wf d m = true) : Tab.wf d (Tab.write d m a x) = true := by
  rw [Tab.wf_def] at h ⊢
  unfold Tab.write
  split
  · exact ⟨Tab.rising_erase m a h.1, fun e he => h.2 e (Tab.mem_erase he)⟩
  · rename_i hx
    refine ⟨Tab.rising_put m a x h.1, fun e he => ?_⟩
    rcases Tab.mem_put he with rfl | he
    · exact hx
    · exact h.2 e he

/-- Taking entries out keeps the canonical form. -/
theorem Tab.wf_filter {d : α} {m : Tab α} (p : Nat × α → Bool) (h : Tab.wf d m = true) : Tab.wf d (m.filter p) = true := by
  rw [Tab.wf_def] at h ⊢
  exact ⟨Tab.rising_filter m p h.1, fun e he => h.2 e ((List.mem_filter.1 he).1)⟩

theorem Tab.wf_clear {d : α} {m : Tab α} (p : Nat → Bool) (h : Tab.wf d m = true) : Tab.wf d (Tab.clear m p) = true := Tab.wf_filter _ h

/-- A read after a write gives the value written, and every other key as before. -/
theorem Tab.get_write {d : α} {m : Tab α} (h : Tab.wf d m = true) (a b : Nat) (x : α) :
    Tab.get d (Tab.write d m a x) b = if b = a then x else Tab.get d m b := by
  by_cases hb : b = a
  · subst hb
    unfold Tab.write
    split
    · rename_i hx; simp [Tab.get, Tab.find_erase_same b ((Tab.wf_def d m).1 h).1, hx]
    · simp [Tab.get_put_same]
  · simp only [hb, if_false]
    unfold Tab.write
    split
    · simp [Tab.get, Tab.find_erase_other m hb]
    · exact Tab.get_put_other d m x hb

end

end Sys2Proof.Machine
end

