-- ==== Sys2Proof/Laws/State.lean ====
section
/-! SUPPORT. What each update of the state leaves as it was, one lemma for each field; and what an access to a part of the state gives after an
update of that part. -/

namespace Sys2Proof.Machine

/-! ### `State.setPart` -/

@[simp] theorem State.setPart_pending (s : State) (n : Nat) (p : Part) : (s.setPart n p).pending = s.pending := rfl
@[simp] theorem State.setPart_fresh (s : State) (n : Nat) (p : Part) : (s.setPart n p).fresh = s.fresh := rfl
@[simp] theorem State.setPart_outbox (s : State) (n : Nat) (p : Part) : (s.setPart n p).outbox = s.outbox := rfl
@[simp] theorem State.setPart_startup (s : State) (n : Nat) (p : Part) : (s.setPart n p).startup = s.startup := rfl
@[simp] theorem State.setPart_power (s : State) (n : Nat) (p : Part) : (s.setPart n p).power = s.power := rfl
@[simp] theorem State.setPart_tb (s : State) (n : Nat) (p : Part) : (s.setPart n p).tb = s.tb := rfl
@[simp] theorem State.setPart_op (s : State) (n : Nat) (p : Part) : (s.setPart n p).op = s.op := rfl
@[simp] theorem State.setPart_hf (s : State) (n : Nat) (p : Part) : (s.setPart n p).hf = s.hf := rfl
@[simp] theorem State.setPart_flash (s : State) (n : Nat) (p : Part) : (s.setPart n p).flash = s.flash := rfl
@[simp] theorem State.setPart_update (s : State) (n : Nat) (p : Part) : (s.setPart n p).update = s.update := rfl
@[simp] theorem State.setPart_spdm (s : State) (n : Nat) (p : Part) : (s.setPart n p).spdm = s.spdm := rfl
@[simp] theorem State.setPart_regs (s : State) (n : Nat) (p : Part) : (s.setPart n p).regs = s.regs := rfl
@[simp] theorem State.setPart_loStage (s : State) (n : Nat) (p : Part) : (s.setPart n p).loStage = s.loStage := rfl
@[simp] theorem State.setPart_setupErr (s : State) (n : Nat) (p : Part) : (s.setPart n p).setupErr = s.setupErr := rfl
@[simp] theorem State.setPart_cores (s : State) (n : Nat) (p : Part) : (s.setPart n p).cores = s.cores := rfl
@[simp] theorem State.setPart_clusters (s : State) (n : Nat) (p : Part) : (s.setPart n p).clusters = s.clusters := rfl
@[simp] theorem State.setPart_cluStart (s : State) (n : Nat) (p : Part) : (s.setPart n p).cluStart = s.cluStart := rfl
@[simp] theorem State.setPart_lastCluStart (s : State) (n : Nat) (p : Part) : (s.setPart n p).lastCluStart = s.lastCluStart := rfl
@[simp] theorem State.setPart_lampRoom (s : State) (n : Nat) (p : Part) : (s.setPart n p).lampRoom = s.lampRoom := rfl
@[simp] theorem State.setPart_regions (s : State) (n : Nat) (p : Part) : (s.setPart n p).regions = s.regions := rfl
@[simp] theorem State.setPart_domains (s : State) (n : Nat) (p : Part) : (s.setPart n p).domains = s.domains := rfl
@[simp] theorem State.setPart_dieTemps (s : State) (n : Nat) (p : Part) : (s.setPart n p).dieTemps = s.dieTemps := rfl
@[simp] theorem State.setPart_crossings (s : State) (n : Nat) (p : Part) : (s.setPart n p).crossings = s.crossings := rfl
@[simp] theorem State.setPart_fifos (s : State) (n : Nat) (p : Part) : (s.setPart n p).fifos = s.fifos := rfl
@[simp] theorem State.setPart_hbmStk (s : State) (n : Nat) (p : Part) : (s.setPart n p).hbmStk = s.hbmStk := rfl
@[simp] theorem State.setPart_coreMem (s : State) (n : Nat) (p : Part) : (s.setPart n p).coreMem = s.coreMem := rfl
@[simp] theorem State.setPart_cluMem (s : State) (n : Nat) (p : Part) : (s.setPart n p).cluMem = s.cluMem := rfl
@[simp] theorem State.setPart_hbm (s : State) (n : Nat) (p : Part) : (s.setPart n p).hbm = s.hbm := rfl
@[simp] theorem State.setPart_ownq (s : State) (n : Nat) (p : Part) : (s.setPart n p).ownq = s.ownq := rfl
@[simp] theorem State.setPart_poison (s : State) (n : Nat) (p : Part) : (s.setPart n p).poison = s.poison := rfl
@[simp] theorem State.setPart_hbmPoison (s : State) (n : Nat) (p : Part) : (s.setPart n p).hbmPoison = s.hbmPoison := rfl
@[simp] theorem State.setPart_mesh (s : State) (n : Nat) (p : Part) : (s.setPart n p).mesh = s.mesh := rfl
@[simp] theorem State.setPart_meshSets (s : State) (n : Nat) (p : Part) : (s.setPart n p).meshSets = s.meshSets := rfl
@[simp] theorem State.setPart_credits (s : State) (n : Nat) (p : Part) : (s.setPart n p).credits = s.credits := rfl
@[simp] theorem State.setPart_ports (s : State) (n : Nat) (p : Part) : (s.setPart n p).ports = s.ports := rfl
@[simp] theorem State.setPart_loose (s : State) (n : Nat) (p : Part) : (s.setPart n p).loose = s.loose := rfl
@[simp] theorem State.setPart_limiters (s : State) (n : Nat) (p : Part) : (s.setPart n p).limiters = s.limiters := rfl
@[simp] theorem State.setPart_jobStopsSeen (s : State) (n : Nat) (p : Part) : (s.setPart n p).jobStopsSeen = s.jobStopsSeen := rfl
@[simp] theorem State.setPart_links (s : State) (n : Nat) (p : Part) : (s.setPart n p).links = s.links := rfl
@[simp] theorem State.setPart_rings (s : State) (n : Nat) (p : Part) : (s.setPart n p).rings = s.rings := rfl
@[simp] theorem State.setPart_canAcc (s : State) (n : Nat) (p : Part) : (s.setPart n p).canAcc = s.canAcc := rfl
@[simp] theorem State.setPart_canary (s : State) (n : Nat) (p : Part) : (s.setPart n p).canary = s.canary := rfl
@[simp] theorem State.setPart_counts (s : State) (n : Nat) (p : Part) : (s.setPart n p).counts = s.counts := rfl
@[simp] theorem State.setPart_shadows (s : State) (n : Nat) (p : Part) : (s.setPart n p).shadows = s.shadows := rfl
@[simp] theorem State.setPart_events (s : State) (n : Nat) (p : Part) : (s.setPart n p).events = s.events := rfl
@[simp] theorem State.setPart_assay (s : State) (n : Nat) (p : Part) : (s.setPart n p).assay = s.assay := rfl

/-! ### `State.updPart` -/

@[simp] theorem State.updPart_pending (s : State) (n : Nat) (f : Part → Part) : (s.updPart n f).pending = s.pending := rfl
@[simp] theorem State.updPart_fresh (s : State) (n : Nat) (f : Part → Part) : (s.updPart n f).fresh = s.fresh := rfl
@[simp] theorem State.updPart_outbox (s : State) (n : Nat) (f : Part → Part) : (s.updPart n f).outbox = s.outbox := rfl
@[simp] theorem State.updPart_startup (s : State) (n : Nat) (f : Part → Part) : (s.updPart n f).startup = s.startup := rfl
@[simp] theorem State.updPart_power (s : State) (n : Nat) (f : Part → Part) : (s.updPart n f).power = s.power := rfl
@[simp] theorem State.updPart_tb (s : State) (n : Nat) (f : Part → Part) : (s.updPart n f).tb = s.tb := rfl
@[simp] theorem State.updPart_op (s : State) (n : Nat) (f : Part → Part) : (s.updPart n f).op = s.op := rfl
@[simp] theorem State.updPart_hf (s : State) (n : Nat) (f : Part → Part) : (s.updPart n f).hf = s.hf := rfl
@[simp] theorem State.updPart_flash (s : State) (n : Nat) (f : Part → Part) : (s.updPart n f).flash = s.flash := rfl
@[simp] theorem State.updPart_update (s : State) (n : Nat) (f : Part → Part) : (s.updPart n f).update = s.update := rfl
@[simp] theorem State.updPart_spdm (s : State) (n : Nat) (f : Part → Part) : (s.updPart n f).spdm = s.spdm := rfl
@[simp] theorem State.updPart_regs (s : State) (n : Nat) (f : Part → Part) : (s.updPart n f).regs = s.regs := rfl
@[simp] theorem State.updPart_loStage (s : State) (n : Nat) (f : Part → Part) : (s.updPart n f).loStage = s.loStage := rfl
@[simp] theorem State.updPart_setupErr (s : State) (n : Nat) (f : Part → Part) : (s.updPart n f).setupErr = s.setupErr := rfl
@[simp] theorem State.updPart_cores (s : State) (n : Nat) (f : Part → Part) : (s.updPart n f).cores = s.cores := rfl
@[simp] theorem State.updPart_clusters (s : State) (n : Nat) (f : Part → Part) : (s.updPart n f).clusters = s.clusters := rfl
@[simp] theorem State.updPart_cluStart (s : State) (n : Nat) (f : Part → Part) : (s.updPart n f).cluStart = s.cluStart := rfl
@[simp] theorem State.updPart_lastCluStart (s : State) (n : Nat) (f : Part → Part) : (s.updPart n f).lastCluStart = s.lastCluStart := rfl
@[simp] theorem State.updPart_lampRoom (s : State) (n : Nat) (f : Part → Part) : (s.updPart n f).lampRoom = s.lampRoom := rfl
@[simp] theorem State.updPart_regions (s : State) (n : Nat) (f : Part → Part) : (s.updPart n f).regions = s.regions := rfl
@[simp] theorem State.updPart_domains (s : State) (n : Nat) (f : Part → Part) : (s.updPart n f).domains = s.domains := rfl
@[simp] theorem State.updPart_dieTemps (s : State) (n : Nat) (f : Part → Part) : (s.updPart n f).dieTemps = s.dieTemps := rfl
@[simp] theorem State.updPart_crossings (s : State) (n : Nat) (f : Part → Part) : (s.updPart n f).crossings = s.crossings := rfl
@[simp] theorem State.updPart_fifos (s : State) (n : Nat) (f : Part → Part) : (s.updPart n f).fifos = s.fifos := rfl
@[simp] theorem State.updPart_hbmStk (s : State) (n : Nat) (f : Part → Part) : (s.updPart n f).hbmStk = s.hbmStk := rfl
@[simp] theorem State.updPart_coreMem (s : State) (n : Nat) (f : Part → Part) : (s.updPart n f).coreMem = s.coreMem := rfl
@[simp] theorem State.updPart_cluMem (s : State) (n : Nat) (f : Part → Part) : (s.updPart n f).cluMem = s.cluMem := rfl
@[simp] theorem State.updPart_hbm (s : State) (n : Nat) (f : Part → Part) : (s.updPart n f).hbm = s.hbm := rfl
@[simp] theorem State.updPart_ownq (s : State) (n : Nat) (f : Part → Part) : (s.updPart n f).ownq = s.ownq := rfl
@[simp] theorem State.updPart_poison (s : State) (n : Nat) (f : Part → Part) : (s.updPart n f).poison = s.poison := rfl
@[simp] theorem State.updPart_hbmPoison (s : State) (n : Nat) (f : Part → Part) : (s.updPart n f).hbmPoison = s.hbmPoison := rfl
@[simp] theorem State.updPart_mesh (s : State) (n : Nat) (f : Part → Part) : (s.updPart n f).mesh = s.mesh := rfl
@[simp] theorem State.updPart_meshSets (s : State) (n : Nat) (f : Part → Part) : (s.updPart n f).meshSets = s.meshSets := rfl
@[simp] theorem State.updPart_credits (s : State) (n : Nat) (f : Part → Part) : (s.updPart n f).credits = s.credits := rfl
@[simp] theorem State.updPart_ports (s : State) (n : Nat) (f : Part → Part) : (s.updPart n f).ports = s.ports := rfl
@[simp] theorem State.updPart_loose (s : State) (n : Nat) (f : Part → Part) : (s.updPart n f).loose = s.loose := rfl
@[simp] theorem State.updPart_limiters (s : State) (n : Nat) (f : Part → Part) : (s.updPart n f).limiters = s.limiters := rfl
@[simp] theorem State.updPart_jobStopsSeen (s : State) (n : Nat) (f : Part → Part) : (s.updPart n f).jobStopsSeen = s.jobStopsSeen := rfl
@[simp] theorem State.updPart_links (s : State) (n : Nat) (f : Part → Part) : (s.updPart n f).links = s.links := rfl
@[simp] theorem State.updPart_rings (s : State) (n : Nat) (f : Part → Part) : (s.updPart n f).rings = s.rings := rfl
@[simp] theorem State.updPart_canAcc (s : State) (n : Nat) (f : Part → Part) : (s.updPart n f).canAcc = s.canAcc := rfl
@[simp] theorem State.updPart_canary (s : State) (n : Nat) (f : Part → Part) : (s.updPart n f).canary = s.canary := rfl
@[simp] theorem State.updPart_counts (s : State) (n : Nat) (f : Part → Part) : (s.updPart n f).counts = s.counts := rfl
@[simp] theorem State.updPart_shadows (s : State) (n : Nat) (f : Part → Part) : (s.updPart n f).shadows = s.shadows := rfl
@[simp] theorem State.updPart_events (s : State) (n : Nat) (f : Part → Part) : (s.updPart n f).events = s.events := rfl
@[simp] theorem State.updPart_assay (s : State) (n : Nat) (f : Part → Part) : (s.updPart n f).assay = s.assay := rfl

/-! ### `State.setCore` -/

@[simp] theorem State.setCore_pending (s : State) (c : CoreId) (k : Core) : (s.setCore c k).pending = s.pending := rfl
@[simp] theorem State.setCore_fresh (s : State) (c : CoreId) (k : Core) : (s.setCore c k).fresh = s.fresh := rfl
@[simp] theorem State.setCore_outbox (s : State) (c : CoreId) (k : Core) : (s.setCore c k).outbox = s.outbox := rfl
@[simp] theorem State.setCore_startup (s : State) (c : CoreId) (k : Core) : (s.setCore c k).startup = s.startup := rfl
@[simp] theorem State.setCore_power (s : State) (c : CoreId) (k : Core) : (s.setCore c k).power = s.power := rfl
@[simp] theorem State.setCore_tb (s : State) (c : CoreId) (k : Core) : (s.setCore c k).tb = s.tb := rfl
@[simp] theorem State.setCore_op (s : State) (c : CoreId) (k : Core) : (s.setCore c k).op = s.op := rfl
@[simp] theorem State.setCore_hf (s : State) (c : CoreId) (k : Core) : (s.setCore c k).hf = s.hf := rfl
@[simp] theorem State.setCore_flash (s : State) (c : CoreId) (k : Core) : (s.setCore c k).flash = s.flash := rfl
@[simp] theorem State.setCore_update (s : State) (c : CoreId) (k : Core) : (s.setCore c k).update = s.update := rfl
@[simp] theorem State.setCore_spdm (s : State) (c : CoreId) (k : Core) : (s.setCore c k).spdm = s.spdm := rfl
@[simp] theorem State.setCore_regs (s : State) (c : CoreId) (k : Core) : (s.setCore c k).regs = s.regs := rfl
@[simp] theorem State.setCore_loStage (s : State) (c : CoreId) (k : Core) : (s.setCore c k).loStage = s.loStage := rfl
@[simp] theorem State.setCore_setupErr (s : State) (c : CoreId) (k : Core) : (s.setCore c k).setupErr = s.setupErr := rfl
@[simp] theorem State.setCore_parts (s : State) (c : CoreId) (k : Core) : (s.setCore c k).parts = s.parts := rfl
@[simp] theorem State.setCore_clusters (s : State) (c : CoreId) (k : Core) : (s.setCore c k).clusters = s.clusters := rfl
@[simp] theorem State.setCore_cluStart (s : State) (c : CoreId) (k : Core) : (s.setCore c k).cluStart = s.cluStart := rfl
@[simp] theorem State.setCore_lastCluStart (s : State) (c : CoreId) (k : Core) : (s.setCore c k).lastCluStart = s.lastCluStart := rfl
@[simp] theorem State.setCore_lampRoom (s : State) (c : CoreId) (k : Core) : (s.setCore c k).lampRoom = s.lampRoom := rfl
@[simp] theorem State.setCore_regions (s : State) (c : CoreId) (k : Core) : (s.setCore c k).regions = s.regions := rfl
@[simp] theorem State.setCore_domains (s : State) (c : CoreId) (k : Core) : (s.setCore c k).domains = s.domains := rfl
@[simp] theorem State.setCore_dieTemps (s : State) (c : CoreId) (k : Core) : (s.setCore c k).dieTemps = s.dieTemps := rfl
@[simp] theorem State.setCore_crossings (s : State) (c : CoreId) (k : Core) : (s.setCore c k).crossings = s.crossings := rfl
@[simp] theorem State.setCore_fifos (s : State) (c : CoreId) (k : Core) : (s.setCore c k).fifos = s.fifos := rfl
@[simp] theorem State.setCore_hbmStk (s : State) (c : CoreId) (k : Core) : (s.setCore c k).hbmStk = s.hbmStk := rfl
@[simp] theorem State.setCore_coreMem (s : State) (c : CoreId) (k : Core) : (s.setCore c k).coreMem = s.coreMem := rfl
@[simp] theorem State.setCore_cluMem (s : State) (c : CoreId) (k : Core) : (s.setCore c k).cluMem = s.cluMem := rfl
@[simp] theorem State.setCore_hbm (s : State) (c : CoreId) (k : Core) : (s.setCore c k).hbm = s.hbm := rfl
@[simp] theorem State.setCore_ownq (s : State) (c : CoreId) (k : Core) : (s.setCore c k).ownq = s.ownq := rfl
@[simp] theorem State.setCore_poison (s : State) (c : CoreId) (k : Core) : (s.setCore c k).poison = s.poison := rfl
@[simp] theorem State.setCore_hbmPoison (s : State) (c : CoreId) (k : Core) : (s.setCore c k).hbmPoison = s.hbmPoison := rfl
@[simp] theorem State.setCore_mesh (s : State) (c : CoreId) (k : Core) : (s.setCore c k).mesh = s.mesh := rfl
@[simp] theorem State.setCore_meshSets (s : State) (c : CoreId) (k : Core) : (s.setCore c k).meshSets = s.meshSets := rfl
@[simp] theorem State.setCore_credits (s : State) (c : CoreId) (k : Core) : (s.setCore c k).credits = s.credits := rfl
@[simp] theorem State.setCore_ports (s : State) (c : CoreId) (k : Core) : (s.setCore c k).ports = s.ports := rfl
@[simp] theorem State.setCore_loose (s : State) (c : CoreId) (k : Core) : (s.setCore c k).loose = s.loose := rfl
@[simp] theorem State.setCore_limiters (s : State) (c : CoreId) (k : Core) : (s.setCore c k).limiters = s.limiters := rfl
@[simp] theorem State.setCore_jobStopsSeen (s : State) (c : CoreId) (k : Core) : (s.setCore c k).jobStopsSeen = s.jobStopsSeen := rfl
@[simp] theorem State.setCore_links (s : State) (c : CoreId) (k : Core) : (s.setCore c k).links = s.links := rfl
@[simp] theorem State.setCore_rings (s : State) (c : CoreId) (k : Core) : (s.setCore c k).rings = s.rings := rfl
@[simp] theorem State.setCore_canAcc (s : State) (c : CoreId) (k : Core) : (s.setCore c k).canAcc = s.canAcc := rfl
@[simp] theorem State.setCore_canary (s : State) (c : CoreId) (k : Core) : (s.setCore c k).canary = s.canary := rfl
@[simp] theorem State.setCore_counts (s : State) (c : CoreId) (k : Core) : (s.setCore c k).counts = s.counts := rfl
@[simp] theorem State.setCore_shadows (s : State) (c : CoreId) (k : Core) : (s.setCore c k).shadows = s.shadows := rfl
@[simp] theorem State.setCore_events (s : State) (c : CoreId) (k : Core) : (s.setCore c k).events = s.events := rfl
@[simp] theorem State.setCore_assay (s : State) (c : CoreId) (k : Core) : (s.setCore c k).assay = s.assay := rfl

/-! ### `State.updCore` -/

@[simp] theorem State.updCore_pending (s : State) (c : CoreId) (f : Core → Core) : (s.updCore c f).pending = s.pending := rfl
@[simp] theorem State.updCore_fresh (s : State) (c : CoreId) (f : Core → Core) : (s.updCore c f).fresh = s.fresh := rfl
@[simp] theorem State.updCore_outbox (s : State) (c : CoreId) (f : Core → Core) : (s.updCore c f).outbox = s.outbox := rfl
@[simp] theorem State.updCore_startup (s : State) (c : CoreId) (f : Core → Core) : (s.updCore c f).startup = s.startup := rfl
@[simp] theorem State.updCore_power (s : State) (c : CoreId) (f : Core → Core) : (s.updCore c f).power = s.power := rfl
@[simp] theorem State.updCore_tb (s : State) (c : CoreId) (f : Core → Core) : (s.updCore c f).tb = s.tb := rfl
@[simp] theorem State.updCore_op (s : State) (c : CoreId) (f : Core → Core) : (s.updCore c f).op = s.op := rfl
@[simp] theorem State.updCore_hf (s : State) (c : CoreId) (f : Core → Core) : (s.updCore c f).hf = s.hf := rfl
@[simp] theorem State.updCore_flash (s : State) (c : CoreId) (f : Core → Core) : (s.updCore c f).flash = s.flash := rfl
@[simp] theorem State.updCore_update (s : State) (c : CoreId) (f : Core → Core) : (s.updCore c f).update = s.update := rfl
@[simp] theorem State.updCore_spdm (s : State) (c : CoreId) (f : Core → Core) : (s.updCore c f).spdm = s.spdm := rfl
@[simp] theorem State.updCore_regs (s : State) (c : CoreId) (f : Core → Core) : (s.updCore c f).regs = s.regs := rfl
@[simp] theorem State.updCore_loStage (s : State) (c : CoreId) (f : Core → Core) : (s.updCore c f).loStage = s.loStage := rfl
@[simp] theorem State.updCore_setupErr (s : State) (c : CoreId) (f : Core → Core) : (s.updCore c f).setupErr = s.setupErr := rfl
@[simp] theorem State.updCore_parts (s : State) (c : CoreId) (f : Core → Core) : (s.updCore c f).parts = s.parts := rfl
@[simp] theorem State.updCore_clusters (s : State) (c : CoreId) (f : Core → Core) : (s.updCore c f).clusters = s.clusters := rfl
@[simp] theorem State.updCore_cluStart (s : State) (c : CoreId) (f : Core → Core) : (s.updCore c f).cluStart = s.cluStart := rfl
@[simp] theorem State.updCore_lastCluStart (s : State) (c : CoreId) (f : Core → Core) : (s.updCore c f).lastCluStart = s.lastCluStart := rfl
@[simp] theorem State.updCore_lampRoom (s : State) (c : CoreId) (f : Core → Core) : (s.updCore c f).lampRoom = s.lampRoom := rfl
@[simp] theorem State.updCore_regions (s : State) (c : CoreId) (f : Core → Core) : (s.updCore c f).regions = s.regions := rfl
@[simp] theorem State.updCore_domains (s : State) (c : CoreId) (f : Core → Core) : (s.updCore c f).domains = s.domains := rfl
@[simp] theorem State.updCore_dieTemps (s : State) (c : CoreId) (f : Core → Core) : (s.updCore c f).dieTemps = s.dieTemps := rfl
@[simp] theorem State.updCore_crossings (s : State) (c : CoreId) (f : Core → Core) : (s.updCore c f).crossings = s.crossings := rfl
@[simp] theorem State.updCore_fifos (s : State) (c : CoreId) (f : Core → Core) : (s.updCore c f).fifos = s.fifos := rfl
@[simp] theorem State.updCore_hbmStk (s : State) (c : CoreId) (f : Core → Core) : (s.updCore c f).hbmStk = s.hbmStk := rfl
@[simp] theorem State.updCore_coreMem (s : State) (c : CoreId) (f : Core → Core) : (s.updCore c f).coreMem = s.coreMem := rfl
@[simp] theorem State.updCore_cluMem (s : State) (c : CoreId) (f : Core → Core) : (s.updCore c f).cluMem = s.cluMem := rfl
@[simp] theorem State.updCore_hbm (s : State) (c : CoreId) (f : Core → Core) : (s.updCore c f).hbm = s.hbm := rfl
@[simp] theorem State.updCore_ownq (s : State) (c : CoreId) (f : Core → Core) : (s.updCore c f).ownq = s.ownq := rfl
@[simp] theorem State.updCore_poison (s : State) (c : CoreId) (f : Core → Core) : (s.updCore c f).poison = s.poison := rfl
@[simp] theorem State.updCore_hbmPoison (s : State) (c : CoreId) (f : Core → Core) : (s.updCore c f).hbmPoison = s.hbmPoison := rfl
@[simp] theorem State.updCore_mesh (s : State) (c : CoreId) (f : Core → Core) : (s.updCore c f).mesh = s.mesh := rfl
@[simp] theorem State.updCore_meshSets (s : State) (c : CoreId) (f : Core → Core) : (s.updCore c f).meshSets = s.meshSets := rfl
@[simp] theorem State.updCore_credits (s : State) (c : CoreId) (f : Core → Core) : (s.updCore c f).credits = s.credits := rfl
@[simp] theorem State.updCore_ports (s : State) (c : CoreId) (f : Core → Core) : (s.updCore c f).ports = s.ports := rfl
@[simp] theorem State.updCore_loose (s : State) (c : CoreId) (f : Core → Core) : (s.updCore c f).loose = s.loose := rfl
@[simp] theorem State.updCore_limiters (s : State) (c : CoreId) (f : Core → Core) : (s.updCore c f).limiters = s.limiters := rfl
@[simp] theorem State.updCore_jobStopsSeen (s : State) (c : CoreId) (f : Core → Core) : (s.updCore c f).jobStopsSeen = s.jobStopsSeen := rfl
@[simp] theorem State.updCore_links (s : State) (c : CoreId) (f : Core → Core) : (s.updCore c f).links = s.links := rfl
@[simp] theorem State.updCore_rings (s : State) (c : CoreId) (f : Core → Core) : (s.updCore c f).rings = s.rings := rfl
@[simp] theorem State.updCore_canAcc (s : State) (c : CoreId) (f : Core → Core) : (s.updCore c f).canAcc = s.canAcc := rfl
@[simp] theorem State.updCore_canary (s : State) (c : CoreId) (f : Core → Core) : (s.updCore c f).canary = s.canary := rfl
@[simp] theorem State.updCore_counts (s : State) (c : CoreId) (f : Core → Core) : (s.updCore c f).counts = s.counts := rfl
@[simp] theorem State.updCore_shadows (s : State) (c : CoreId) (f : Core → Core) : (s.updCore c f).shadows = s.shadows := rfl
@[simp] theorem State.updCore_events (s : State) (c : CoreId) (f : Core → Core) : (s.updCore c f).events = s.events := rfl
@[simp] theorem State.updCore_assay (s : State) (c : CoreId) (f : Core → Core) : (s.updCore c f).assay = s.assay := rfl

/-! ### `State.setPort` -/

@[simp] theorem State.setPort_pending (s : State) (n : Nat) (p : FPort) : (s.setPort n p).pending = s.pending := rfl
@[simp] theorem State.setPort_fresh (s : State) (n : Nat) (p : FPort) : (s.setPort n p).fresh = s.fresh := rfl
@[simp] theorem State.setPort_outbox (s : State) (n : Nat) (p : FPort) : (s.setPort n p).outbox = s.outbox := rfl
@[simp] theorem State.setPort_startup (s : State) (n : Nat) (p : FPort) : (s.setPort n p).startup = s.startup := rfl
@[simp] theorem State.setPort_power (s : State) (n : Nat) (p : FPort) : (s.setPort n p).power = s.power := rfl
@[simp] theorem State.setPort_tb (s : State) (n : Nat) (p : FPort) : (s.setPort n p).tb = s.tb := rfl
@[simp] theorem State.setPort_op (s : State) (n : Nat) (p : FPort) : (s.setPort n p).op = s.op := rfl
@[simp] theorem State.setPort_hf (s : State) (n : Nat) (p : FPort) : (s.setPort n p).hf = s.hf := rfl
@[simp] theorem State.setPort_flash (s : State) (n : Nat) (p : FPort) : (s.setPort n p).flash = s.flash := rfl
@[simp] theorem State.setPort_update (s : State) (n : Nat) (p : FPort) : (s.setPort n p).update = s.update := rfl
@[simp] theorem State.setPort_spdm (s : State) (n : Nat) (p : FPort) : (s.setPort n p).spdm = s.spdm := rfl
@[simp] theorem State.setPort_regs (s : State) (n : Nat) (p : FPort) : (s.setPort n p).regs = s.regs := rfl
@[simp] theorem State.setPort_loStage (s : State) (n : Nat) (p : FPort) : (s.setPort n p).loStage = s.loStage := rfl
@[simp] theorem State.setPort_setupErr (s : State) (n : Nat) (p : FPort) : (s.setPort n p).setupErr = s.setupErr := rfl
@[simp] theorem State.setPort_parts (s : State) (n : Nat) (p : FPort) : (s.setPort n p).parts = s.parts := rfl
@[simp] theorem State.setPort_cores (s : State) (n : Nat) (p : FPort) : (s.setPort n p).cores = s.cores := rfl
@[simp] theorem State.setPort_clusters (s : State) (n : Nat) (p : FPort) : (s.setPort n p).clusters = s.clusters := rfl
@[simp] theorem State.setPort_cluStart (s : State) (n : Nat) (p : FPort) : (s.setPort n p).cluStart = s.cluStart := rfl
@[simp] theorem State.setPort_lastCluStart (s : State) (n : Nat) (p : FPort) : (s.setPort n p).lastCluStart = s.lastCluStart := rfl
@[simp] theorem State.setPort_lampRoom (s : State) (n : Nat) (p : FPort) : (s.setPort n p).lampRoom = s.lampRoom := rfl
@[simp] theorem State.setPort_regions (s : State) (n : Nat) (p : FPort) : (s.setPort n p).regions = s.regions := rfl
@[simp] theorem State.setPort_domains (s : State) (n : Nat) (p : FPort) : (s.setPort n p).domains = s.domains := rfl
@[simp] theorem State.setPort_dieTemps (s : State) (n : Nat) (p : FPort) : (s.setPort n p).dieTemps = s.dieTemps := rfl
@[simp] theorem State.setPort_crossings (s : State) (n : Nat) (p : FPort) : (s.setPort n p).crossings = s.crossings := rfl
@[simp] theorem State.setPort_fifos (s : State) (n : Nat) (p : FPort) : (s.setPort n p).fifos = s.fifos := rfl
@[simp] theorem State.setPort_hbmStk (s : State) (n : Nat) (p : FPort) : (s.setPort n p).hbmStk = s.hbmStk := rfl
@[simp] theorem State.setPort_coreMem (s : State) (n : Nat) (p : FPort) : (s.setPort n p).coreMem = s.coreMem := rfl
@[simp] theorem State.setPort_cluMem (s : State) (n : Nat) (p : FPort) : (s.setPort n p).cluMem = s.cluMem := rfl
@[simp] theorem State.setPort_hbm (s : State) (n : Nat) (p : FPort) : (s.setPort n p).hbm = s.hbm := rfl
@[simp] theorem State.setPort_ownq (s : State) (n : Nat) (p : FPort) : (s.setPort n p).ownq = s.ownq := rfl
@[simp] theorem State.setPort_poison (s : State) (n : Nat) (p : FPort) : (s.setPort n p).poison = s.poison := rfl
@[simp] theorem State.setPort_hbmPoison (s : State) (n : Nat) (p : FPort) : (s.setPort n p).hbmPoison = s.hbmPoison := rfl
@[simp] theorem State.setPort_mesh (s : State) (n : Nat) (p : FPort) : (s.setPort n p).mesh = s.mesh := rfl
@[simp] theorem State.setPort_meshSets (s : State) (n : Nat) (p : FPort) : (s.setPort n p).meshSets = s.meshSets := rfl
@[simp] theorem State.setPort_credits (s : State) (n : Nat) (p : FPort) : (s.setPort n p).credits = s.credits := rfl
@[simp] theorem State.setPort_loose (s : State) (n : Nat) (p : FPort) : (s.setPort n p).loose = s.loose := rfl
@[simp] theorem State.setPort_limiters (s : State) (n : Nat) (p : FPort) : (s.setPort n p).limiters = s.limiters := rfl
@[simp] theorem State.setPort_jobStopsSeen (s : State) (n : Nat) (p : FPort) : (s.setPort n p).jobStopsSeen = s.jobStopsSeen := rfl
@[simp] theorem State.setPort_links (s : State) (n : Nat) (p : FPort) : (s.setPort n p).links = s.links := rfl
@[simp] theorem State.setPort_rings (s : State) (n : Nat) (p : FPort) : (s.setPort n p).rings = s.rings := rfl
@[simp] theorem State.setPort_canAcc (s : State) (n : Nat) (p : FPort) : (s.setPort n p).canAcc = s.canAcc := rfl
@[simp] theorem State.setPort_canary (s : State) (n : Nat) (p : FPort) : (s.setPort n p).canary = s.canary := rfl
@[simp] theorem State.setPort_counts (s : State) (n : Nat) (p : FPort) : (s.setPort n p).counts = s.counts := rfl
@[simp] theorem State.setPort_shadows (s : State) (n : Nat) (p : FPort) : (s.setPort n p).shadows = s.shadows := rfl
@[simp] theorem State.setPort_events (s : State) (n : Nat) (p : FPort) : (s.setPort n p).events = s.events := rfl
@[simp] theorem State.setPort_assay (s : State) (n : Nat) (p : FPort) : (s.setPort n p).assay = s.assay := rfl

/-! ### `State.updPort` -/

@[simp] theorem State.updPort_pending (s : State) (n : Nat) (f : FPort → FPort) : (s.updPort n f).pending = s.pending := rfl
@[simp] theorem State.updPort_fresh (s : State) (n : Nat) (f : FPort → FPort) : (s.updPort n f).fresh = s.fresh := rfl
@[simp] theorem State.updPort_outbox (s : State) (n : Nat) (f : FPort → FPort) : (s.updPort n f).outbox = s.outbox := rfl
@[simp] theorem State.updPort_startup (s : State) (n : Nat) (f : FPort → FPort) : (s.updPort n f).startup = s.startup := rfl
@[simp] theorem State.updPort_power (s : State) (n : Nat) (f : FPort → FPort) : (s.updPort n f).power = s.power := rfl
@[simp] theorem State.updPort_tb (s : State) (n : Nat) (f : FPort → FPort) : (s.updPort n f).tb = s.tb := rfl
@[simp] theorem State.updPort_op (s : State) (n : Nat) (f : FPort → FPort) : (s.updPort n f).op = s.op := rfl
@[simp] theorem State.updPort_hf (s : State) (n : Nat) (f : FPort → FPort) : (s.updPort n f).hf = s.hf := rfl
@[simp] theorem State.updPort_flash (s : State) (n : Nat) (f : FPort → FPort) : (s.updPort n f).flash = s.flash := rfl
@[simp] theorem State.updPort_update (s : State) (n : Nat) (f : FPort → FPort) : (s.updPort n f).update = s.update := rfl
@[simp] theorem State.updPort_spdm (s : State) (n : Nat) (f : FPort → FPort) : (s.updPort n f).spdm = s.spdm := rfl
@[simp] theorem State.updPort_regs (s : State) (n : Nat) (f : FPort → FPort) : (s.updPort n f).regs = s.regs := rfl
@[simp] theorem State.updPort_loStage (s : State) (n : Nat) (f : FPort → FPort) : (s.updPort n f).loStage = s.loStage := rfl
@[simp] theorem State.updPort_setupErr (s : State) (n : Nat) (f : FPort → FPort) : (s.updPort n f).setupErr = s.setupErr := rfl
@[simp] theorem State.updPort_parts (s : State) (n : Nat) (f : FPort → FPort) : (s.updPort n f).parts = s.parts := rfl
@[simp] theorem State.updPort_cores (s : State) (n : Nat) (f : FPort → FPort) : (s.updPort n f).cores = s.cores := rfl
@[simp] theorem State.updPort_clusters (s : State) (n : Nat) (f : FPort → FPort) : (s.updPort n f).clusters = s.clusters := rfl
@[simp] theorem State.updPort_cluStart (s : State) (n : Nat) (f : FPort → FPort) : (s.updPort n f).cluStart = s.cluStart := rfl
@[simp] theorem State.updPort_lastCluStart (s : State) (n : Nat) (f : FPort → FPort) : (s.updPort n f).lastCluStart = s.lastCluStart := rfl
@[simp] theorem State.updPort_lampRoom (s : State) (n : Nat) (f : FPort → FPort) : (s.updPort n f).lampRoom = s.lampRoom := rfl
@[simp] theorem State.updPort_regions (s : State) (n : Nat) (f : FPort → FPort) : (s.updPort n f).regions = s.regions := rfl
@[simp] theorem State.updPort_domains (s : State) (n : Nat) (f : FPort → FPort) : (s.updPort n f).domains = s.domains := rfl
@[simp] theorem State.updPort_dieTemps (s : State) (n : Nat) (f : FPort → FPort) : (s.updPort n f).dieTemps = s.dieTemps := rfl
@[simp] theorem State.updPort_crossings (s : State) (n : Nat) (f : FPort → FPort) : (s.updPort n f).crossings = s.crossings := rfl
@[simp] theorem State.updPort_fifos (s : State) (n : Nat) (f : FPort → FPort) : (s.updPort n f).fifos = s.fifos := rfl
@[simp] theorem State.updPort_hbmStk (s : State) (n : Nat) (f : FPort → FPort) : (s.updPort n f).hbmStk = s.hbmStk := rfl
@[simp] theorem State.updPort_coreMem (s : State) (n : Nat) (f : FPort → FPort) : (s.updPort n f).coreMem = s.coreMem := rfl
@[simp] theorem State.updPort_cluMem (s : State) (n : Nat) (f : FPort → FPort) : (s.updPort n f).cluMem = s.cluMem := rfl
@[simp] theorem State.updPort_hbm (s : State) (n : Nat) (f : FPort → FPort) : (s.updPort n f).hbm = s.hbm := rfl
@[simp] theorem State.updPort_ownq (s : State) (n : Nat) (f : FPort → FPort) : (s.updPort n f).ownq = s.ownq := rfl
@[simp] theorem State.updPort_poison (s : State) (n : Nat) (f : FPort → FPort) : (s.updPort n f).poison = s.poison := rfl
@[simp] theorem State.updPort_hbmPoison (s : State) (n : Nat) (f : FPort → FPort) : (s.updPort n f).hbmPoison = s.hbmPoison := rfl
@[simp] theorem State.updPort_mesh (s : State) (n : Nat) (f : FPort → FPort) : (s.updPort n f).mesh = s.mesh := rfl
@[simp] theorem State.updPort_meshSets (s : State) (n : Nat) (f : FPort → FPort) : (s.updPort n f).meshSets = s.meshSets := rfl
@[simp] theorem State.updPort_credits (s : State) (n : Nat) (f : FPort → FPort) : (s.updPort n f).credits = s.credits := rfl
@[simp] theorem State.updPort_loose (s : State) (n : Nat) (f : FPort → FPort) : (s.updPort n f).loose = s.loose := rfl
@[simp] theorem State.updPort_limiters (s : State) (n : Nat) (f : FPort → FPort) : (s.updPort n f).limiters = s.limiters := rfl
@[simp] theorem State.updPort_jobStopsSeen (s : State) (n : Nat) (f : FPort → FPort) : (s.updPort n f).jobStopsSeen = s.jobStopsSeen := rfl
@[simp] theorem State.updPort_links (s : State) (n : Nat) (f : FPort → FPort) : (s.updPort n f).links = s.links := rfl
@[simp] theorem State.updPort_rings (s : State) (n : Nat) (f : FPort → FPort) : (s.updPort n f).rings = s.rings := rfl
@[simp] theorem State.updPort_canAcc (s : State) (n : Nat) (f : FPort → FPort) : (s.updPort n f).canAcc = s.canAcc := rfl
@[simp] theorem State.updPort_canary (s : State) (n : Nat) (f : FPort → FPort) : (s.updPort n f).canary = s.canary := rfl
@[simp] theorem State.updPort_counts (s : State) (n : Nat) (f : FPort → FPort) : (s.updPort n f).counts = s.counts := rfl
@[simp] theorem State.updPort_shadows (s : State) (n : Nat) (f : FPort → FPort) : (s.updPort n f).shadows = s.shadows := rfl
@[simp] theorem State.updPort_events (s : State) (n : Nat) (f : FPort → FPort) : (s.updPort n f).events = s.events := rfl
@[simp] theorem State.updPort_assay (s : State) (n : Nat) (f : FPort → FPort) : (s.updPort n f).assay = s.assay := rfl

/-! ### `State.updStack` -/

@[simp] theorem State.updStack_pending (s : State) (n : Nat) (f : Stack → Stack) : (s.updStack n f).pending = s.pending := rfl
@[simp] theorem State.updStack_fresh (s : State) (n : Nat) (f : Stack → Stack) : (s.updStack n f).fresh = s.fresh := rfl
@[simp] theorem State.updStack_outbox (s : State) (n : Nat) (f : Stack → Stack) : (s.updStack n f).outbox = s.outbox := rfl
@[simp] theorem State.updStack_startup (s : State) (n : Nat) (f : Stack → Stack) : (s.updStack n f).startup = s.startup := rfl
@[simp] theorem State.updStack_power (s : State) (n : Nat) (f : Stack → Stack) : (s.updStack n f).power = s.power := rfl
@[simp] theorem State.updStack_tb (s : State) (n : Nat) (f : Stack → Stack) : (s.updStack n f).tb = s.tb := rfl
@[simp] theorem State.updStack_op (s : State) (n : Nat) (f : Stack → Stack) : (s.updStack n f).op = s.op := rfl
@[simp] theorem State.updStack_hf (s : State) (n : Nat) (f : Stack → Stack) : (s.updStack n f).hf = s.hf := rfl
@[simp] theorem State.updStack_flash (s : State) (n : Nat) (f : Stack → Stack) : (s.updStack n f).flash = s.flash := rfl
@[simp] theorem State.updStack_update (s : State) (n : Nat) (f : Stack → Stack) : (s.updStack n f).update = s.update := rfl
@[simp] theorem State.updStack_spdm (s : State) (n : Nat) (f : Stack → Stack) : (s.updStack n f).spdm = s.spdm := rfl
@[simp] theorem State.updStack_regs (s : State) (n : Nat) (f : Stack → Stack) : (s.updStack n f).regs = s.regs := rfl
@[simp] theorem State.updStack_loStage (s : State) (n : Nat) (f : Stack → Stack) : (s.updStack n f).loStage = s.loStage := rfl
@[simp] theorem State.updStack_setupErr (s : State) (n : Nat) (f : Stack → Stack) : (s.updStack n f).setupErr = s.setupErr := rfl
@[simp] theorem State.updStack_parts (s : State) (n : Nat) (f : Stack → Stack) : (s.updStack n f).parts = s.parts := rfl
@[simp] theorem State.updStack_cores (s : State) (n : Nat) (f : Stack → Stack) : (s.updStack n f).cores = s.cores := rfl
@[simp] theorem State.updStack_clusters (s : State) (n : Nat) (f : Stack → Stack) : (s.updStack n f).clusters = s.clusters := rfl
@[simp] theorem State.updStack_cluStart (s : State) (n : Nat) (f : Stack → Stack) : (s.updStack n f).cluStart = s.cluStart := rfl
@[simp] theorem State.updStack_lastCluStart (s : State) (n : Nat) (f : Stack → Stack) : (s.updStack n f).lastCluStart = s.lastCluStart := rfl
@[simp] theorem State.updStack_lampRoom (s : State) (n : Nat) (f : Stack → Stack) : (s.updStack n f).lampRoom = s.lampRoom := rfl
@[simp] theorem State.updStack_regions (s : State) (n : Nat) (f : Stack → Stack) : (s.updStack n f).regions = s.regions := rfl
@[simp] theorem State.updStack_domains (s : State) (n : Nat) (f : Stack → Stack) : (s.updStack n f).domains = s.domains := rfl
@[simp] theorem State.updStack_dieTemps (s : State) (n : Nat) (f : Stack → Stack) : (s.updStack n f).dieTemps = s.dieTemps := rfl
@[simp] theorem State.updStack_crossings (s : State) (n : Nat) (f : Stack → Stack) : (s.updStack n f).crossings = s.crossings := rfl
@[simp] theorem State.updStack_fifos (s : State) (n : Nat) (f : Stack → Stack) : (s.updStack n f).fifos = s.fifos := rfl
@[simp] theorem State.updStack_coreMem (s : State) (n : Nat) (f : Stack → Stack) : (s.updStack n f).coreMem = s.coreMem := rfl
@[simp] theorem State.updStack_cluMem (s : State) (n : Nat) (f : Stack → Stack) : (s.updStack n f).cluMem = s.cluMem := rfl
@[simp] theorem State.updStack_hbm (s : State) (n : Nat) (f : Stack → Stack) : (s.updStack n f).hbm = s.hbm := rfl
@[simp] theorem State.updStack_ownq (s : State) (n : Nat) (f : Stack → Stack) : (s.updStack n f).ownq = s.ownq := rfl
@[simp] theorem State.updStack_poison (s : State) (n : Nat) (f : Stack → Stack) : (s.updStack n f).poison = s.poison := rfl
@[simp] theorem State.updStack_hbmPoison (s : State) (n : Nat) (f : Stack → Stack) : (s.updStack n f).hbmPoison = s.hbmPoison := rfl
@[simp] theorem State.updStack_mesh (s : State) (n : Nat) (f : Stack → Stack) : (s.updStack n f).mesh = s.mesh := rfl
@[simp] theorem State.updStack_meshSets (s : State) (n : Nat) (f : Stack → Stack) : (s.updStack n f).meshSets = s.meshSets := rfl
@[simp] theorem State.updStack_credits (s : State) (n : Nat) (f : Stack → Stack) : (s.updStack n f).credits = s.credits := rfl
@[simp] theorem State.updStack_ports (s : State) (n : Nat) (f : Stack → Stack) : (s.updStack n f).ports = s.ports := rfl
@[simp] theorem State.updStack_loose (s : State) (n : Nat) (f : Stack → Stack) : (s.updStack n f).loose = s.loose := rfl
@[simp] theorem State.updStack_limiters (s : State) (n : Nat) (f : Stack → Stack) : (s.updStack n f).limiters = s.limiters := rfl
@[simp] theorem State.updStack_jobStopsSeen (s : State) (n : Nat) (f : Stack → Stack) : (s.updStack n f).jobStopsSeen = s.jobStopsSeen := rfl
@[simp] theorem State.updStack_links (s : State) (n : Nat) (f : Stack → Stack) : (s.updStack n f).links = s.links := rfl
@[simp] theorem State.updStack_rings (s : State) (n : Nat) (f : Stack → Stack) : (s.updStack n f).rings = s.rings := rfl
@[simp] theorem State.updStack_canAcc (s : State) (n : Nat) (f : Stack → Stack) : (s.updStack n f).canAcc = s.canAcc := rfl
@[simp] theorem State.updStack_canary (s : State) (n : Nat) (f : Stack → Stack) : (s.updStack n f).canary = s.canary := rfl
@[simp] theorem State.updStack_counts (s : State) (n : Nat) (f : Stack → Stack) : (s.updStack n f).counts = s.counts := rfl
@[simp] theorem State.updStack_shadows (s : State) (n : Nat) (f : Stack → Stack) : (s.updStack n f).shadows = s.shadows := rfl
@[simp] theorem State.updStack_events (s : State) (n : Nat) (f : Stack → Stack) : (s.updStack n f).events = s.events := rfl
@[simp] theorem State.updStack_assay (s : State) (n : Nat) (f : Stack → Stack) : (s.updStack n f).assay = s.assay := rfl

/-! ### `State.updRegion` -/

@[simp] theorem State.updRegion_pending (s : State) (n : Nat) (f : Region → Region) : (s.updRegion n f).pending = s.pending := rfl
@[simp] theorem State.updRegion_fresh (s : State) (n : Nat) (f : Region → Region) : (s.updRegion n f).fresh = s.fresh := rfl
@[simp] theorem State.updRegion_outbox (s : State) (n : Nat) (f : Region → Region) : (s.updRegion n f).outbox = s.outbox := rfl
@[simp] theorem State.updRegion_startup (s : State) (n : Nat) (f : Region → Region) : (s.updRegion n f).startup = s.startup := rfl
@[simp] theorem State.updRegion_power (s : State) (n : Nat) (f : Region → Region) : (s.updRegion n f).power = s.power := rfl
@[simp] theorem State.updRegion_tb (s : State) (n : Nat) (f : Region → Region) : (s.updRegion n f).tb = s.tb := rfl
@[simp] theorem State.updRegion_op (s : State) (n : Nat) (f : Region → Region) : (s.updRegion n f).op = s.op := rfl
@[simp] theorem State.updRegion_hf (s : State) (n : Nat) (f : Region → Region) : (s.updRegion n f).hf = s.hf := rfl
@[simp] theorem State.updRegion_flash (s : State) (n : Nat) (f : Region → Region) : (s.updRegion n f).flash = s.flash := rfl
@[simp] theorem State.updRegion_update (s : State) (n : Nat) (f : Region → Region) : (s.updRegion n f).update = s.update := rfl
@[simp] theorem State.updRegion_spdm (s : State) (n : Nat) (f : Region → Region) : (s.updRegion n f).spdm = s.spdm := rfl
@[simp] theorem State.updRegion_regs (s : State) (n : Nat) (f : Region → Region) : (s.updRegion n f).regs = s.regs := rfl
@[simp] theorem State.updRegion_loStage (s : State) (n : Nat) (f : Region → Region) : (s.updRegion n f).loStage = s.loStage := rfl
@[simp] theorem State.updRegion_setupErr (s : State) (n : Nat) (f : Region → Region) : (s.updRegion n f).setupErr = s.setupErr := rfl
@[simp] theorem State.updRegion_parts (s : State) (n : Nat) (f : Region → Region) : (s.updRegion n f).parts = s.parts := rfl
@[simp] theorem State.updRegion_cores (s : State) (n : Nat) (f : Region → Region) : (s.updRegion n f).cores = s.cores := rfl
@[simp] theorem State.updRegion_clusters (s : State) (n : Nat) (f : Region → Region) : (s.updRegion n f).clusters = s.clusters := rfl
@[simp] theorem State.updRegion_cluStart (s : State) (n : Nat) (f : Region → Region) : (s.updRegion n f).cluStart = s.cluStart := rfl
@[simp] theorem State.updRegion_lastCluStart (s : State) (n : Nat) (f : Region → Region) : (s.updRegion n f).lastCluStart = s.lastCluStart := rfl
@[simp] theorem State.updRegion_lampRoom (s : State) (n : Nat) (f : Region → Region) : (s.updRegion n f).lampRoom = s.lampRoom := rfl
@[simp] theorem State.updRegion_domains (s : State) (n : Nat) (f : Region → Region) : (s.updRegion n f).domains = s.domains := rfl
@[simp] theorem State.updRegion_dieTemps (s : State) (n : Nat) (f : Region → Region) : (s.updRegion n f).dieTemps = s.dieTemps := rfl
@[simp] theorem State.updRegion_crossings (s : State) (n : Nat) (f : Region → Region) : (s.updRegion n f).crossings = s.crossings := rfl
@[simp] theorem State.updRegion_fifos (s : State) (n : Nat) (f : Region → Region) : (s.updRegion n f).fifos = s.fifos := rfl
@[simp] theorem State.updRegion_hbmStk (s : State) (n : Nat) (f : Region → Region) : (s.updRegion n f).hbmStk = s.hbmStk := rfl
@[simp] theorem State.updRegion_coreMem (s : State) (n : Nat) (f : Region → Region) : (s.updRegion n f).coreMem = s.coreMem := rfl
@[simp] theorem State.updRegion_cluMem (s : State) (n : Nat) (f : Region → Region) : (s.updRegion n f).cluMem = s.cluMem := rfl
@[simp] theorem State.updRegion_hbm (s : State) (n : Nat) (f : Region → Region) : (s.updRegion n f).hbm = s.hbm := rfl
@[simp] theorem State.updRegion_ownq (s : State) (n : Nat) (f : Region → Region) : (s.updRegion n f).ownq = s.ownq := rfl
@[simp] theorem State.updRegion_poison (s : State) (n : Nat) (f : Region → Region) : (s.updRegion n f).poison = s.poison := rfl
@[simp] theorem State.updRegion_hbmPoison (s : State) (n : Nat) (f : Region → Region) : (s.updRegion n f).hbmPoison = s.hbmPoison := rfl
@[simp] theorem State.updRegion_mesh (s : State) (n : Nat) (f : Region → Region) : (s.updRegion n f).mesh = s.mesh := rfl
@[simp] theorem State.updRegion_meshSets (s : State) (n : Nat) (f : Region → Region) : (s.updRegion n f).meshSets = s.meshSets := rfl
@[simp] theorem State.updRegion_credits (s : State) (n : Nat) (f : Region → Region) : (s.updRegion n f).credits = s.credits := rfl
@[simp] theorem State.updRegion_ports (s : State) (n : Nat) (f : Region → Region) : (s.updRegion n f).ports = s.ports := rfl
@[simp] theorem State.updRegion_loose (s : State) (n : Nat) (f : Region → Region) : (s.updRegion n f).loose = s.loose := rfl
@[simp] theorem State.updRegion_limiters (s : State) (n : Nat) (f : Region → Region) : (s.updRegion n f).limiters = s.limiters := rfl
@[simp] theorem State.updRegion_jobStopsSeen (s : State) (n : Nat) (f : Region → Region) : (s.updRegion n f).jobStopsSeen = s.jobStopsSeen := rfl
@[simp] theorem State.updRegion_links (s : State) (n : Nat) (f : Region → Region) : (s.updRegion n f).links = s.links := rfl
@[simp] theorem State.updRegion_rings (s : State) (n : Nat) (f : Region → Region) : (s.updRegion n f).rings = s.rings := rfl
@[simp] theorem State.updRegion_canAcc (s : State) (n : Nat) (f : Region → Region) : (s.updRegion n f).canAcc = s.canAcc := rfl
@[simp] theorem State.updRegion_canary (s : State) (n : Nat) (f : Region → Region) : (s.updRegion n f).canary = s.canary := rfl
@[simp] theorem State.updRegion_counts (s : State) (n : Nat) (f : Region → Region) : (s.updRegion n f).counts = s.counts := rfl
@[simp] theorem State.updRegion_shadows (s : State) (n : Nat) (f : Region → Region) : (s.updRegion n f).shadows = s.shadows := rfl
@[simp] theorem State.updRegion_events (s : State) (n : Nat) (f : Region → Region) : (s.updRegion n f).events = s.events := rfl
@[simp] theorem State.updRegion_assay (s : State) (n : Nat) (f : Region → Region) : (s.updRegion n f).assay = s.assay := rfl

/-! ### `State.updDomain` -/

@[simp] theorem State.updDomain_pending (s : State) (n : Nat) (f : Domain → Domain) : (s.updDomain n f).pending = s.pending := rfl
@[simp] theorem State.updDomain_fresh (s : State) (n : Nat) (f : Domain → Domain) : (s.updDomain n f).fresh = s.fresh := rfl
@[simp] theorem State.updDomain_outbox (s : State) (n : Nat) (f : Domain → Domain) : (s.updDomain n f).outbox = s.outbox := rfl
@[simp] theorem State.updDomain_startup (s : State) (n : Nat) (f : Domain → Domain) : (s.updDomain n f).startup = s.startup := rfl
@[simp] theorem State.updDomain_power (s : State) (n : Nat) (f : Domain → Domain) : (s.updDomain n f).power = s.power := rfl
@[simp] theorem State.updDomain_tb (s : State) (n : Nat) (f : Domain → Domain) : (s.updDomain n f).tb = s.tb := rfl
@[simp] theorem State.updDomain_op (s : State) (n : Nat) (f : Domain → Domain) : (s.updDomain n f).op = s.op := rfl
@[simp] theorem State.updDomain_hf (s : State) (n : Nat) (f : Domain → Domain) : (s.updDomain n f).hf = s.hf := rfl
@[simp] theorem State.updDomain_flash (s : State) (n : Nat) (f : Domain → Domain) : (s.updDomain n f).flash = s.flash := rfl
@[simp] theorem State.updDomain_update (s : State) (n : Nat) (f : Domain → Domain) : (s.updDomain n f).update = s.update := rfl
@[simp] theorem State.updDomain_spdm (s : State) (n : Nat) (f : Domain → Domain) : (s.updDomain n f).spdm = s.spdm := rfl
@[simp] theorem State.updDomain_regs (s : State) (n : Nat) (f : Domain → Domain) : (s.updDomain n f).regs = s.regs := rfl
@[simp] theorem State.updDomain_loStage (s : State) (n : Nat) (f : Domain → Domain) : (s.updDomain n f).loStage = s.loStage := rfl
@[simp] theorem State.updDomain_setupErr (s : State) (n : Nat) (f : Domain → Domain) : (s.updDomain n f).setupErr = s.setupErr := rfl
@[simp] theorem State.updDomain_parts (s : State) (n : Nat) (f : Domain → Domain) : (s.updDomain n f).parts = s.parts := rfl
@[simp] theorem State.updDomain_cores (s : State) (n : Nat) (f : Domain → Domain) : (s.updDomain n f).cores = s.cores := rfl
@[simp] theorem State.updDomain_clusters (s : State) (n : Nat) (f : Domain → Domain) : (s.updDomain n f).clusters = s.clusters := rfl
@[simp] theorem State.updDomain_cluStart (s : State) (n : Nat) (f : Domain → Domain) : (s.updDomain n f).cluStart = s.cluStart := rfl
@[simp] theorem State.updDomain_lastCluStart (s : State) (n : Nat) (f : Domain → Domain) : (s.updDomain n f).lastCluStart = s.lastCluStart := rfl
@[simp] theorem State.updDomain_lampRoom (s : State) (n : Nat) (f : Domain → Domain) : (s.updDomain n f).lampRoom = s.lampRoom := rfl
@[simp] theorem State.updDomain_regions (s : State) (n : Nat) (f : Domain → Domain) : (s.updDomain n f).regions = s.regions := rfl
@[simp] theorem State.updDomain_dieTemps (s : State) (n : Nat) (f : Domain → Domain) : (s.updDomain n f).dieTemps = s.dieTemps := rfl
@[simp] theorem State.updDomain_crossings (s : State) (n : Nat) (f : Domain → Domain) : (s.updDomain n f).crossings = s.crossings := rfl
@[simp] theorem State.updDomain_fifos (s : State) (n : Nat) (f : Domain → Domain) : (s.updDomain n f).fifos = s.fifos := rfl
@[simp] theorem State.updDomain_hbmStk (s : State) (n : Nat) (f : Domain → Domain) : (s.updDomain n f).hbmStk = s.hbmStk := rfl
@[simp] theorem State.updDomain_coreMem (s : State) (n : Nat) (f : Domain → Domain) : (s.updDomain n f).coreMem = s.coreMem := rfl
@[simp] theorem State.updDomain_cluMem (s : State) (n : Nat) (f : Domain → Domain) : (s.updDomain n f).cluMem = s.cluMem := rfl
@[simp] theorem State.updDomain_hbm (s : State) (n : Nat) (f : Domain → Domain) : (s.updDomain n f).hbm = s.hbm := rfl
@[simp] theorem State.updDomain_ownq (s : State) (n : Nat) (f : Domain → Domain) : (s.updDomain n f).ownq = s.ownq := rfl
@[simp] theorem State.updDomain_poison (s : State) (n : Nat) (f : Domain → Domain) : (s.updDomain n f).poison = s.poison := rfl
@[simp] theorem State.updDomain_hbmPoison (s : State) (n : Nat) (f : Domain → Domain) : (s.updDomain n f).hbmPoison = s.hbmPoison := rfl
@[simp] theorem State.updDomain_mesh (s : State) (n : Nat) (f : Domain → Domain) : (s.updDomain n f).mesh = s.mesh := rfl
@[simp] theorem State.updDomain_meshSets (s : State) (n : Nat) (f : Domain → Domain) : (s.updDomain n f).meshSets = s.meshSets := rfl
@[simp] theorem State.updDomain_credits (s : State) (n : Nat) (f : Domain → Domain) : (s.updDomain n f).credits = s.credits := rfl
@[simp] theorem State.updDomain_ports (s : State) (n : Nat) (f : Domain → Domain) : (s.updDomain n f).ports = s.ports := rfl
@[simp] theorem State.updDomain_loose (s : State) (n : Nat) (f : Domain → Domain) : (s.updDomain n f).loose = s.loose := rfl
@[simp] theorem State.updDomain_limiters (s : State) (n : Nat) (f : Domain → Domain) : (s.updDomain n f).limiters = s.limiters := rfl
@[simp] theorem State.updDomain_jobStopsSeen (s : State) (n : Nat) (f : Domain → Domain) : (s.updDomain n f).jobStopsSeen = s.jobStopsSeen := rfl
@[simp] theorem State.updDomain_links (s : State) (n : Nat) (f : Domain → Domain) : (s.updDomain n f).links = s.links := rfl
@[simp] theorem State.updDomain_rings (s : State) (n : Nat) (f : Domain → Domain) : (s.updDomain n f).rings = s.rings := rfl
@[simp] theorem State.updDomain_canAcc (s : State) (n : Nat) (f : Domain → Domain) : (s.updDomain n f).canAcc = s.canAcc := rfl
@[simp] theorem State.updDomain_canary (s : State) (n : Nat) (f : Domain → Domain) : (s.updDomain n f).canary = s.canary := rfl
@[simp] theorem State.updDomain_counts (s : State) (n : Nat) (f : Domain → Domain) : (s.updDomain n f).counts = s.counts := rfl
@[simp] theorem State.updDomain_shadows (s : State) (n : Nat) (f : Domain → Domain) : (s.updDomain n f).shadows = s.shadows := rfl
@[simp] theorem State.updDomain_events (s : State) (n : Nat) (f : Domain → Domain) : (s.updDomain n f).events = s.events := rfl
@[simp] theorem State.updDomain_assay (s : State) (n : Nat) (f : Domain → Domain) : (s.updDomain n f).assay = s.assay := rfl

/-! ### `State.updCrossing` -/

@[simp] theorem State.updCrossing_pending (s : State) (n : Nat) (f : Crossing → Crossing) : (s.updCrossing n f).pending = s.pending := rfl
@[simp] theorem State.updCrossing_fresh (s : State) (n : Nat) (f : Crossing → Crossing) : (s.updCrossing n f).fresh = s.fresh := rfl
@[simp] theorem State.updCrossing_outbox (s : State) (n : Nat) (f : Crossing → Crossing) : (s.updCrossing n f).outbox = s.outbox := rfl
@[simp] theorem State.updCrossing_startup (s : State) (n : Nat) (f : Crossing → Crossing) : (s.updCrossing n f).startup = s.startup := rfl
@[simp] theorem State.updCrossing_power (s : State) (n : Nat) (f : Crossing → Crossing) : (s.updCrossing n f).power = s.power := rfl
@[simp] theorem State.updCrossing_tb (s : State) (n : Nat) (f : Crossing → Crossing) : (s.updCrossing n f).tb = s.tb := rfl
@[simp] theorem State.updCrossing_op (s : State) (n : Nat) (f : Crossing → Crossing) : (s.updCrossing n f).op = s.op := rfl
@[simp] theorem State.updCrossing_hf (s : State) (n : Nat) (f : Crossing → Crossing) : (s.updCrossing n f).hf = s.hf := rfl
@[simp] theorem State.updCrossing_flash (s : State) (n : Nat) (f : Crossing → Crossing) : (s.updCrossing n f).flash = s.flash := rfl
@[simp] theorem State.updCrossing_update (s : State) (n : Nat) (f : Crossing → Crossing) : (s.updCrossing n f).update = s.update := rfl
@[simp] theorem State.updCrossing_spdm (s : State) (n : Nat) (f : Crossing → Crossing) : (s.updCrossing n f).spdm = s.spdm := rfl
@[simp] theorem State.updCrossing_regs (s : State) (n : Nat) (f : Crossing → Crossing) : (s.updCrossing n f).regs = s.regs := rfl
@[simp] theorem State.updCrossing_loStage (s : State) (n : Nat) (f : Crossing → Crossing) : (s.updCrossing n f).loStage = s.loStage := rfl
@[simp] theorem State.updCrossing_setupErr (s : State) (n : Nat) (f : Crossing → Crossing) : (s.updCrossing n f).setupErr = s.setupErr := rfl
@[simp] theorem State.updCrossing_parts (s : State) (n : Nat) (f : Crossing → Crossing) : (s.updCrossing n f).parts = s.parts := rfl
@[simp] theorem State.updCrossing_cores (s : State) (n : Nat) (f : Crossing → Crossing) : (s.updCrossing n f).cores = s.cores := rfl
@[simp] theorem State.updCrossing_clusters (s : State) (n : Nat) (f : Crossing → Crossing) : (s.updCrossing n f).clusters = s.clusters := rfl
@[simp] theorem State.updCrossing_cluStart (s : State) (n : Nat) (f : Crossing → Crossing) : (s.updCrossing n f).cluStart = s.cluStart := rfl
@[simp] theorem State.updCrossing_lastCluStart (s : State) (n : Nat) (f : Crossing → Crossing) : (s.updCrossing n f).lastCluStart = s.lastCluStart := rfl
@[simp] theorem State.updCrossing_lampRoom (s : State) (n : Nat) (f : Crossing → Crossing) : (s.updCrossing n f).lampRoom = s.lampRoom := rfl
@[simp] theorem State.updCrossing_regions (s : State) (n : Nat) (f : Crossing → Crossing) : (s.updCrossing n f).regions = s.regions := rfl
@[simp] theorem State.updCrossing_domains (s : State) (n : Nat) (f : Crossing → Crossing) : (s.updCrossing n f).domains = s.domains := rfl
@[simp] theorem State.updCrossing_dieTemps (s : State) (n : Nat) (f : Crossing → Crossing) : (s.updCrossing n f).dieTemps = s.dieTemps := rfl
@[simp] theorem State.updCrossing_fifos (s : State) (n : Nat) (f : Crossing → Crossing) : (s.updCrossing n f).fifos = s.fifos := rfl
@[simp] theorem State.updCrossing_hbmStk (s : State) (n : Nat) (f : Crossing → Crossing) : (s.updCrossing n f).hbmStk = s.hbmStk := rfl
@[simp] theorem State.updCrossing_coreMem (s : State) (n : Nat) (f : Crossing → Crossing) : (s.updCrossing n f).coreMem = s.coreMem := rfl
@[simp] theorem State.updCrossing_cluMem (s : State) (n : Nat) (f : Crossing → Crossing) : (s.updCrossing n f).cluMem = s.cluMem := rfl
@[simp] theorem State.updCrossing_hbm (s : State) (n : Nat) (f : Crossing → Crossing) : (s.updCrossing n f).hbm = s.hbm := rfl
@[simp] theorem State.updCrossing_ownq (s : State) (n : Nat) (f : Crossing → Crossing) : (s.updCrossing n f).ownq = s.ownq := rfl
@[simp] theorem State.updCrossing_poison (s : State) (n : Nat) (f : Crossing → Crossing) : (s.updCrossing n f).poison = s.poison := rfl
@[simp] theorem State.updCrossing_hbmPoison (s : State) (n : Nat) (f : Crossing → Crossing) : (s.updCrossing n f).hbmPoison = s.hbmPoison := rfl
@[simp] theorem State.updCrossing_mesh (s : State) (n : Nat) (f : Crossing → Crossing) : (s.updCrossing n f).mesh = s.mesh := rfl
@[simp] theorem State.updCrossing_meshSets (s : State) (n : Nat) (f : Crossing → Crossing) : (s.updCrossing n f).meshSets = s.meshSets := rfl
@[simp] theorem State.updCrossing_credits (s : State) (n : Nat) (f : Crossing → Crossing) : (s.updCrossing n f).credits = s.credits := rfl
@[simp] theorem State.updCrossing_ports (s : State) (n : Nat) (f : Crossing → Crossing) : (s.updCrossing n f).ports = s.ports := rfl
@[simp] theorem State.updCrossing_loose (s : State) (n : Nat) (f : Crossing → Crossing) : (s.updCrossing n f).loose = s.loose := rfl
@[simp] theorem State.updCrossing_limiters (s : State) (n : Nat) (f : Crossing → Crossing) : (s.updCrossing n f).limiters = s.limiters := rfl
@[simp] theorem State.updCrossing_jobStopsSeen (s : State) (n : Nat) (f : Crossing → Crossing) : (s.updCrossing n f).jobStopsSeen = s.jobStopsSeen := rfl
@[simp] theorem State.updCrossing_links (s : State) (n : Nat) (f : Crossing → Crossing) : (s.updCrossing n f).links = s.links := rfl
@[simp] theorem State.updCrossing_rings (s : State) (n : Nat) (f : Crossing → Crossing) : (s.updCrossing n f).rings = s.rings := rfl
@[simp] theorem State.updCrossing_canAcc (s : State) (n : Nat) (f : Crossing → Crossing) : (s.updCrossing n f).canAcc = s.canAcc := rfl
@[simp] theorem State.updCrossing_canary (s : State) (n : Nat) (f : Crossing → Crossing) : (s.updCrossing n f).canary = s.canary := rfl
@[simp] theorem State.updCrossing_counts (s : State) (n : Nat) (f : Crossing → Crossing) : (s.updCrossing n f).counts = s.counts := rfl
@[simp] theorem State.updCrossing_shadows (s : State) (n : Nat) (f : Crossing → Crossing) : (s.updCrossing n f).shadows = s.shadows := rfl
@[simp] theorem State.updCrossing_events (s : State) (n : Nat) (f : Crossing → Crossing) : (s.updCrossing n f).events = s.events := rfl
@[simp] theorem State.updCrossing_assay (s : State) (n : Nat) (f : Crossing → Crossing) : (s.updCrossing n f).assay = s.assay := rfl

/-! ### `State.updLink` -/

@[simp] theorem State.updLink_pending (s : State) (l : Link) (f : HostLink → HostLink) : (s.updLink l f).pending = s.pending := rfl
@[simp] theorem State.updLink_fresh (s : State) (l : Link) (f : HostLink → HostLink) : (s.updLink l f).fresh = s.fresh := rfl
@[simp] theorem State.updLink_outbox (s : State) (l : Link) (f : HostLink → HostLink) : (s.updLink l f).outbox = s.outbox := rfl
@[simp] theorem State.updLink_startup (s : State) (l : Link) (f : HostLink → HostLink) : (s.updLink l f).startup = s.startup := rfl
@[simp] theorem State.updLink_power (s : State) (l : Link) (f : HostLink → HostLink) : (s.updLink l f).power = s.power := rfl
@[simp] theorem State.updLink_tb (s : State) (l : Link) (f : HostLink → HostLink) : (s.updLink l f).tb = s.tb := rfl
@[simp] theorem State.updLink_op (s : State) (l : Link) (f : HostLink → HostLink) : (s.updLink l f).op = s.op := rfl
@[simp] theorem State.updLink_hf (s : State) (l : Link) (f : HostLink → HostLink) : (s.updLink l f).hf = s.hf := rfl
@[simp] theorem State.updLink_flash (s : State) (l : Link) (f : HostLink → HostLink) : (s.updLink l f).flash = s.flash := rfl
@[simp] theorem State.updLink_update (s : State) (l : Link) (f : HostLink → HostLink) : (s.updLink l f).update = s.update := rfl
@[simp] theorem State.updLink_spdm (s : State) (l : Link) (f : HostLink → HostLink) : (s.updLink l f).spdm = s.spdm := rfl
@[simp] theorem State.updLink_regs (s : State) (l : Link) (f : HostLink → HostLink) : (s.updLink l f).regs = s.regs := rfl
@[simp] theorem State.updLink_loStage (s : State) (l : Link) (f : HostLink → HostLink) : (s.updLink l f).loStage = s.loStage := rfl
@[simp] theorem State.updLink_setupErr (s : State) (l : Link) (f : HostLink → HostLink) : (s.updLink l f).setupErr = s.setupErr := rfl
@[simp] theorem State.updLink_parts (s : State) (l : Link) (f : HostLink → HostLink) : (s.updLink l f).parts = s.parts := rfl
@[simp] theorem State.updLink_cores (s : State) (l : Link) (f : HostLink → HostLink) : (s.updLink l f).cores = s.cores := rfl
@[simp] theorem State.updLink_clusters (s : State) (l : Link) (f : HostLink → HostLink) : (s.updLink l f).clusters = s.clusters := rfl
@[simp] theorem State.updLink_cluStart (s : State) (l : Link) (f : HostLink → HostLink) : (s.updLink l f).cluStart = s.cluStart := rfl
@[simp] theorem State.updLink_lastCluStart (s : State) (l : Link) (f : HostLink → HostLink) : (s.updLink l f).lastCluStart = s.lastCluStart := rfl
@[simp] theorem State.updLink_lampRoom (s : State) (l : Link) (f : HostLink → HostLink) : (s.updLink l f).lampRoom = s.lampRoom := rfl
@[simp] theorem State.updLink_regions (s : State) (l : Link) (f : HostLink → HostLink) : (s.updLink l f).regions = s.regions := rfl
@[simp] theorem State.updLink_domains (s : State) (l : Link) (f : HostLink → HostLink) : (s.updLink l f).domains = s.domains := rfl
@[simp] theorem State.updLink_dieTemps (s : State) (l : Link) (f : HostLink → HostLink) : (s.updLink l f).dieTemps = s.dieTemps := rfl
@[simp] theorem State.updLink_crossings (s : State) (l : Link) (f : HostLink → HostLink) : (s.updLink l f).crossings = s.crossings := rfl
@[simp] theorem State.updLink_fifos (s : State) (l : Link) (f : HostLink → HostLink) : (s.updLink l f).fifos = s.fifos := rfl
@[simp] theorem State.updLink_hbmStk (s : State) (l : Link) (f : HostLink → HostLink) : (s.updLink l f).hbmStk = s.hbmStk := rfl
@[simp] theorem State.updLink_coreMem (s : State) (l : Link) (f : HostLink → HostLink) : (s.updLink l f).coreMem = s.coreMem := rfl
@[simp] theorem State.updLink_cluMem (s : State) (l : Link) (f : HostLink → HostLink) : (s.updLink l f).cluMem = s.cluMem := rfl
@[simp] theorem State.updLink_hbm (s : State) (l : Link) (f : HostLink → HostLink) : (s.updLink l f).hbm = s.hbm := rfl
@[simp] theorem State.updLink_ownq (s : State) (l : Link) (f : HostLink → HostLink) : (s.updLink l f).ownq = s.ownq := rfl
@[simp] theorem State.updLink_poison (s : State) (l : Link) (f : HostLink → HostLink) : (s.updLink l f).poison = s.poison := rfl
@[simp] theorem State.updLink_hbmPoison (s : State) (l : Link) (f : HostLink → HostLink) : (s.updLink l f).hbmPoison = s.hbmPoison := rfl
@[simp] theorem State.updLink_mesh (s : State) (l : Link) (f : HostLink → HostLink) : (s.updLink l f).mesh = s.mesh := rfl
@[simp] theorem State.updLink_meshSets (s : State) (l : Link) (f : HostLink → HostLink) : (s.updLink l f).meshSets = s.meshSets := rfl
@[simp] theorem State.updLink_credits (s : State) (l : Link) (f : HostLink → HostLink) : (s.updLink l f).credits = s.credits := rfl
@[simp] theorem State.updLink_ports (s : State) (l : Link) (f : HostLink → HostLink) : (s.updLink l f).ports = s.ports := rfl
@[simp] theorem State.updLink_loose (s : State) (l : Link) (f : HostLink → HostLink) : (s.updLink l f).loose = s.loose := rfl
@[simp] theorem State.updLink_limiters (s : State) (l : Link) (f : HostLink → HostLink) : (s.updLink l f).limiters = s.limiters := rfl
@[simp] theorem State.updLink_jobStopsSeen (s : State) (l : Link) (f : HostLink → HostLink) : (s.updLink l f).jobStopsSeen = s.jobStopsSeen := rfl
@[simp] theorem State.updLink_rings (s : State) (l : Link) (f : HostLink → HostLink) : (s.updLink l f).rings = s.rings := rfl
@[simp] theorem State.updLink_canAcc (s : State) (l : Link) (f : HostLink → HostLink) : (s.updLink l f).canAcc = s.canAcc := rfl
@[simp] theorem State.updLink_canary (s : State) (l : Link) (f : HostLink → HostLink) : (s.updLink l f).canary = s.canary := rfl
@[simp] theorem State.updLink_counts (s : State) (l : Link) (f : HostLink → HostLink) : (s.updLink l f).counts = s.counts := rfl
@[simp] theorem State.updLink_shadows (s : State) (l : Link) (f : HostLink → HostLink) : (s.updLink l f).shadows = s.shadows := rfl
@[simp] theorem State.updLink_events (s : State) (l : Link) (f : HostLink → HostLink) : (s.updLink l f).events = s.events := rfl
@[simp] theorem State.updLink_assay (s : State) (l : Link) (f : HostLink → HostLink) : (s.updLink l f).assay = s.assay := rfl

/-! ### `State.updRing` -/

@[simp] theorem State.updRing_pending (s : State) (q : Nat) (f : Ring → Ring) : (s.updRing q f).pending = s.pending := rfl
@[simp] theorem State.updRing_fresh (s : State) (q : Nat) (f : Ring → Ring) : (s.updRing q f).fresh = s.fresh := rfl
@[simp] theorem State.updRing_outbox (s : State) (q : Nat) (f : Ring → Ring) : (s.updRing q f).outbox = s.outbox := rfl
@[simp] theorem State.updRing_startup (s : State) (q : Nat) (f : Ring → Ring) : (s.updRing q f).startup = s.startup := rfl
@[simp] theorem State.updRing_power (s : State) (q : Nat) (f : Ring → Ring) : (s.updRing q f).power = s.power := rfl
@[simp] theorem State.updRing_tb (s : State) (q : Nat) (f : Ring → Ring) : (s.updRing q f).tb = s.tb := rfl
@[simp] theorem State.updRing_op (s : State) (q : Nat) (f : Ring → Ring) : (s.updRing q f).op = s.op := rfl
@[simp] theorem State.updRing_hf (s : State) (q : Nat) (f : Ring → Ring) : (s.updRing q f).hf = s.hf := rfl
@[simp] theorem State.updRing_flash (s : State) (q : Nat) (f : Ring → Ring) : (s.updRing q f).flash = s.flash := rfl
@[simp] theorem State.updRing_update (s : State) (q : Nat) (f : Ring → Ring) : (s.updRing q f).update = s.update := rfl
@[simp] theorem State.updRing_spdm (s : State) (q : Nat) (f : Ring → Ring) : (s.updRing q f).spdm = s.spdm := rfl
@[simp] theorem State.updRing_regs (s : State) (q : Nat) (f : Ring → Ring) : (s.updRing q f).regs = s.regs := rfl
@[simp] theorem State.updRing_loStage (s : State) (q : Nat) (f : Ring → Ring) : (s.updRing q f).loStage = s.loStage := rfl
@[simp] theorem State.updRing_setupErr (s : State) (q : Nat) (f : Ring → Ring) : (s.updRing q f).setupErr = s.setupErr := rfl
@[simp] theorem State.updRing_parts (s : State) (q : Nat) (f : Ring → Ring) : (s.updRing q f).parts = s.parts := rfl
@[simp] theorem State.updRing_cores (s : State) (q : Nat) (f : Ring → Ring) : (s.updRing q f).cores = s.cores := rfl
@[simp] theorem State.updRing_clusters (s : State) (q : Nat) (f : Ring → Ring) : (s.updRing q f).clusters = s.clusters := rfl
@[simp] theorem State.updRing_cluStart (s : State) (q : Nat) (f : Ring → Ring) : (s.updRing q f).cluStart = s.cluStart := rfl
@[simp] theorem State.updRing_lastCluStart (s : State) (q : Nat) (f : Ring → Ring) : (s.updRing q f).lastCluStart = s.lastCluStart := rfl
@[simp] theorem State.updRing_lampRoom (s : State) (q : Nat) (f : Ring → Ring) : (s.updRing q f).lampRoom = s.lampRoom := rfl
@[simp] theorem State.updRing_regions (s : State) (q : Nat) (f : Ring → Ring) : (s.updRing q f).regions = s.regions := rfl
@[simp] theorem State.updRing_domains (s : State) (q : Nat) (f : Ring → Ring) : (s.updRing q f).domains = s.domains := rfl
@[simp] theorem State.updRing_dieTemps (s : State) (q : Nat) (f : Ring → Ring) : (s.updRing q f).dieTemps = s.dieTemps := rfl
@[simp] theorem State.updRing_crossings (s : State) (q : Nat) (f : Ring → Ring) : (s.updRing q f).crossings = s.crossings := rfl
@[simp] theorem State.updRing_fifos (s : State) (q : Nat) (f : Ring → Ring) : (s.updRing q f).fifos = s.fifos := rfl
@[simp] theorem State.updRing_hbmStk (s : State) (q : Nat) (f : Ring → Ring) : (s.updRing q f).hbmStk = s.hbmStk := rfl
@[simp] theorem State.updRing_coreMem (s : State) (q : Nat) (f : Ring → Ring) : (s.updRing q f).coreMem = s.coreMem := rfl
@[simp] theorem State.updRing_cluMem (s : State) (q : Nat) (f : Ring → Ring) : (s.updRing q f).cluMem = s.cluMem := rfl
@[simp] theorem State.updRing_hbm (s : State) (q : Nat) (f : Ring → Ring) : (s.updRing q f).hbm = s.hbm := rfl
@[simp] theorem State.updRing_ownq (s : State) (q : Nat) (f : Ring → Ring) : (s.updRing q f).ownq = s.ownq := rfl
@[simp] theorem State.updRing_poison (s : State) (q : Nat) (f : Ring → Ring) : (s.updRing q f).poison = s.poison := rfl
@[simp] theorem State.updRing_hbmPoison (s : State) (q : Nat) (f : Ring → Ring) : (s.updRing q f).hbmPoison = s.hbmPoison := rfl
@[simp] theorem State.updRing_mesh (s : State) (q : Nat) (f : Ring → Ring) : (s.updRing q f).mesh = s.mesh := rfl
@[simp] theorem State.updRing_meshSets (s : State) (q : Nat) (f : Ring → Ring) : (s.updRing q f).meshSets = s.meshSets := rfl
@[simp] theorem State.updRing_credits (s : State) (q : Nat) (f : Ring → Ring) : (s.updRing q f).credits = s.credits := rfl
@[simp] theorem State.updRing_ports (s : State) (q : Nat) (f : Ring → Ring) : (s.updRing q f).ports = s.ports := rfl
@[simp] theorem State.updRing_loose (s : State) (q : Nat) (f : Ring → Ring) : (s.updRing q f).loose = s.loose := rfl
@[simp] theorem State.updRing_limiters (s : State) (q : Nat) (f : Ring → Ring) : (s.updRing q f).limiters = s.limiters := rfl
@[simp] theorem State.updRing_jobStopsSeen (s : State) (q : Nat) (f : Ring → Ring) : (s.updRing q f).jobStopsSeen = s.jobStopsSeen := rfl
@[simp] theorem State.updRing_links (s : State) (q : Nat) (f : Ring → Ring) : (s.updRing q f).links = s.links := rfl
@[simp] theorem State.updRing_canAcc (s : State) (q : Nat) (f : Ring → Ring) : (s.updRing q f).canAcc = s.canAcc := rfl
@[simp] theorem State.updRing_canary (s : State) (q : Nat) (f : Ring → Ring) : (s.updRing q f).canary = s.canary := rfl
@[simp] theorem State.updRing_counts (s : State) (q : Nat) (f : Ring → Ring) : (s.updRing q f).counts = s.counts := rfl
@[simp] theorem State.updRing_shadows (s : State) (q : Nat) (f : Ring → Ring) : (s.updRing q f).shadows = s.shadows := rfl
@[simp] theorem State.updRing_events (s : State) (q : Nat) (f : Ring → Ring) : (s.updRing q f).events = s.events := rfl
@[simp] theorem State.updRing_assay (s : State) (q : Nat) (f : Ring → Ring) : (s.updRing q f).assay = s.assay := rfl

/-! ### `State.updCan` -/

@[simp] theorem State.updCan_pending (s : State) (n : Nat) (f : Canary → Canary) : (s.updCan n f).pending = s.pending := rfl
@[simp] theorem State.updCan_fresh (s : State) (n : Nat) (f : Canary → Canary) : (s.updCan n f).fresh = s.fresh := rfl
@[simp] theorem State.updCan_outbox (s : State) (n : Nat) (f : Canary → Canary) : (s.updCan n f).outbox = s.outbox := rfl
@[simp] theorem State.updCan_startup (s : State) (n : Nat) (f : Canary → Canary) : (s.updCan n f).startup = s.startup := rfl
@[simp] theorem State.updCan_power (s : State) (n : Nat) (f : Canary → Canary) : (s.updCan n f).power = s.power := rfl
@[simp] theorem State.updCan_tb (s : State) (n : Nat) (f : Canary → Canary) : (s.updCan n f).tb = s.tb := rfl
@[simp] theorem State.updCan_op (s : State) (n : Nat) (f : Canary → Canary) : (s.updCan n f).op = s.op := rfl
@[simp] theorem State.updCan_hf (s : State) (n : Nat) (f : Canary → Canary) : (s.updCan n f).hf = s.hf := rfl
@[simp] theorem State.updCan_flash (s : State) (n : Nat) (f : Canary → Canary) : (s.updCan n f).flash = s.flash := rfl
@[simp] theorem State.updCan_update (s : State) (n : Nat) (f : Canary → Canary) : (s.updCan n f).update = s.update := rfl
@[simp] theorem State.updCan_spdm (s : State) (n : Nat) (f : Canary → Canary) : (s.updCan n f).spdm = s.spdm := rfl
@[simp] theorem State.updCan_regs (s : State) (n : Nat) (f : Canary → Canary) : (s.updCan n f).regs = s.regs := rfl
@[simp] theorem State.updCan_loStage (s : State) (n : Nat) (f : Canary → Canary) : (s.updCan n f).loStage = s.loStage := rfl
@[simp] theorem State.updCan_setupErr (s : State) (n : Nat) (f : Canary → Canary) : (s.updCan n f).setupErr = s.setupErr := rfl
@[simp] theorem State.updCan_parts (s : State) (n : Nat) (f : Canary → Canary) : (s.updCan n f).parts = s.parts := rfl
@[simp] theorem State.updCan_cores (s : State) (n : Nat) (f : Canary → Canary) : (s.updCan n f).cores = s.cores := rfl
@[simp] theorem State.updCan_clusters (s : State) (n : Nat) (f : Canary → Canary) : (s.updCan n f).clusters = s.clusters := rfl
@[simp] theorem State.updCan_cluStart (s : State) (n : Nat) (f : Canary → Canary) : (s.updCan n f).cluStart = s.cluStart := rfl
@[simp] theorem State.updCan_lastCluStart (s : State) (n : Nat) (f : Canary → Canary) : (s.updCan n f).lastCluStart = s.lastCluStart := rfl
@[simp] theorem State.updCan_lampRoom (s : State) (n : Nat) (f : Canary → Canary) : (s.updCan n f).lampRoom = s.lampRoom := rfl
@[simp] theorem State.updCan_regions (s : State) (n : Nat) (f : Canary → Canary) : (s.updCan n f).regions = s.regions := rfl
@[simp] theorem State.updCan_domains (s : State) (n : Nat) (f : Canary → Canary) : (s.updCan n f).domains = s.domains := rfl
@[simp] theorem State.updCan_dieTemps (s : State) (n : Nat) (f : Canary → Canary) : (s.updCan n f).dieTemps = s.dieTemps := rfl
@[simp] theorem State.updCan_crossings (s : State) (n : Nat) (f : Canary → Canary) : (s.updCan n f).crossings = s.crossings := rfl
@[simp] theorem State.updCan_fifos (s : State) (n : Nat) (f : Canary → Canary) : (s.updCan n f).fifos = s.fifos := rfl
@[simp] theorem State.updCan_hbmStk (s : State) (n : Nat) (f : Canary → Canary) : (s.updCan n f).hbmStk = s.hbmStk := rfl
@[simp] theorem State.updCan_coreMem (s : State) (n : Nat) (f : Canary → Canary) : (s.updCan n f).coreMem = s.coreMem := rfl
@[simp] theorem State.updCan_cluMem (s : State) (n : Nat) (f : Canary → Canary) : (s.updCan n f).cluMem = s.cluMem := rfl
@[simp] theorem State.updCan_hbm (s : State) (n : Nat) (f : Canary → Canary) : (s.updCan n f).hbm = s.hbm := rfl
@[simp] theorem State.updCan_ownq (s : State) (n : Nat) (f : Canary → Canary) : (s.updCan n f).ownq = s.ownq := rfl
@[simp] theorem State.updCan_poison (s : State) (n : Nat) (f : Canary → Canary) : (s.updCan n f).poison = s.poison := rfl
@[simp] theorem State.updCan_hbmPoison (s : State) (n : Nat) (f : Canary → Canary) : (s.updCan n f).hbmPoison = s.hbmPoison := rfl
@[simp] theorem State.updCan_mesh (s : State) (n : Nat) (f : Canary → Canary) : (s.updCan n f).mesh = s.mesh := rfl
@[simp] theorem State.updCan_meshSets (s : State) (n : Nat) (f : Canary → Canary) : (s.updCan n f).meshSets = s.meshSets := rfl
@[simp] theorem State.updCan_credits (s : State) (n : Nat) (f : Canary → Canary) : (s.updCan n f).credits = s.credits := rfl
@[simp] theorem State.updCan_ports (s : State) (n : Nat) (f : Canary → Canary) : (s.updCan n f).ports = s.ports := rfl
@[simp] theorem State.updCan_loose (s : State) (n : Nat) (f : Canary → Canary) : (s.updCan n f).loose = s.loose := rfl
@[simp] theorem State.updCan_limiters (s : State) (n : Nat) (f : Canary → Canary) : (s.updCan n f).limiters = s.limiters := rfl
@[simp] theorem State.updCan_jobStopsSeen (s : State) (n : Nat) (f : Canary → Canary) : (s.updCan n f).jobStopsSeen = s.jobStopsSeen := rfl
@[simp] theorem State.updCan_links (s : State) (n : Nat) (f : Canary → Canary) : (s.updCan n f).links = s.links := rfl
@[simp] theorem State.updCan_rings (s : State) (n : Nat) (f : Canary → Canary) : (s.updCan n f).rings = s.rings := rfl
@[simp] theorem State.updCan_canAcc (s : State) (n : Nat) (f : Canary → Canary) : (s.updCan n f).canAcc = s.canAcc := rfl
@[simp] theorem State.updCan_counts (s : State) (n : Nat) (f : Canary → Canary) : (s.updCan n f).counts = s.counts := rfl
@[simp] theorem State.updCan_shadows (s : State) (n : Nat) (f : Canary → Canary) : (s.updCan n f).shadows = s.shadows := rfl
@[simp] theorem State.updCan_events (s : State) (n : Nat) (f : Canary → Canary) : (s.updCan n f).events = s.events := rfl
@[simp] theorem State.updCan_assay (s : State) (n : Nat) (f : Canary → Canary) : (s.updCan n f).assay = s.assay := rfl

/-! ### `State.emit` -/

@[simp] theorem State.emit_pending (s : State) (o : Out) : (s.emit o).pending = s.pending := rfl
@[simp] theorem State.emit_fresh (s : State) (o : Out) : (s.emit o).fresh = s.fresh := rfl
@[simp] theorem State.emit_startup (s : State) (o : Out) : (s.emit o).startup = s.startup := rfl
@[simp] theorem State.emit_power (s : State) (o : Out) : (s.emit o).power = s.power := rfl
@[simp] theorem State.emit_tb (s : State) (o : Out) : (s.emit o).tb = s.tb := rfl
@[simp] theorem State.emit_op (s : State) (o : Out) : (s.emit o).op = s.op := rfl
@[simp] theorem State.emit_hf (s : State) (o : Out) : (s.emit o).hf = s.hf := rfl
@[simp] theorem State.emit_flash (s : State) (o : Out) : (s.emit o).flash = s.flash := rfl
@[simp] theorem State.emit_update (s : State) (o : Out) : (s.emit o).update = s.update := rfl
@[simp] theorem State.emit_spdm (s : State) (o : Out) : (s.emit o).spdm = s.spdm := rfl
@[simp] theorem State.emit_regs (s : State) (o : Out) : (s.emit o).regs = s.regs := rfl
@[simp] theorem State.emit_loStage (s : State) (o : Out) : (s.emit o).loStage = s.loStage := rfl
@[simp] theorem State.emit_setupErr (s : State) (o : Out) : (s.emit o).setupErr = s.setupErr := rfl
@[simp] theorem State.emit_parts (s : State) (o : Out) : (s.emit o).parts = s.parts := rfl
@[simp] theorem State.emit_cores (s : State) (o : Out) : (s.emit o).cores = s.cores := rfl
@[simp] theorem State.emit_clusters (s : State) (o : Out) : (s.emit o).clusters = s.clusters := rfl
@[simp] theorem State.emit_cluStart (s : State) (o : Out) : (s.emit o).cluStart = s.cluStart := rfl
@[simp] theorem State.emit_lastCluStart (s : State) (o : Out) : (s.emit o).lastCluStart = s.lastCluStart := rfl
@[simp] theorem State.emit_lampRoom (s : State) (o : Out) : (s.emit o).lampRoom = s.lampRoom := rfl
@[simp] theorem State.emit_regions (s : State) (o : Out) : (s.emit o).regions = s.regions := rfl
@[simp] theorem State.emit_domains (s : State) (o : Out) : (s.emit o).domains = s.domains := rfl
@[simp] theorem State.emit_dieTemps (s : State) (o : Out) : (s.emit o).dieTemps = s.dieTemps := rfl
@[simp] theorem State.emit_crossings (s : State) (o : Out) : (s.emit o).crossings = s.crossings := rfl
@[simp] theorem State.emit_fifos (s : State) (o : Out) : (s.emit o).fifos = s.fifos := rfl
@[simp] theorem State.emit_hbmStk (s : State) (o : Out) : (s.emit o).hbmStk = s.hbmStk := rfl
@[simp] theorem State.emit_coreMem (s : State) (o : Out) : (s.emit o).coreMem = s.coreMem := rfl
@[simp] theorem State.emit_cluMem (s : State) (o : Out) : (s.emit o).cluMem = s.cluMem := rfl
@[simp] theorem State.emit_hbm (s : State) (o : Out) : (s.emit o).hbm = s.hbm := rfl
@[simp] theorem State.emit_ownq (s : State) (o : Out) : (s.emit o).ownq = s.ownq := rfl
@[simp] theorem State.emit_poison (s : State) (o : Out) : (s.emit o).poison = s.poison := rfl
@[simp] theorem State.emit_hbmPoison (s : State) (o : Out) : (s.emit o).hbmPoison = s.hbmPoison := rfl
@[simp] theorem State.emit_mesh (s : State) (o : Out) : (s.emit o).mesh = s.mesh := rfl
@[simp] theorem State.emit_meshSets (s : State) (o : Out) : (s.emit o).meshSets = s.meshSets := rfl
@[simp] theorem State.emit_credits (s : State) (o : Out) : (s.emit o).credits = s.credits := rfl
@[simp] theorem State.emit_ports (s : State) (o : Out) : (s.emit o).ports = s.ports := rfl
@[simp] theorem State.emit_loose (s : State) (o : Out) : (s.emit o).loose = s.loose := rfl
@[simp] theorem State.emit_limiters (s : State) (o : Out) : (s.emit o).limiters = s.limiters := rfl
@[simp] theorem State.emit_jobStopsSeen (s : State) (o : Out) : (s.emit o).jobStopsSeen = s.jobStopsSeen := rfl
@[simp] theorem State.emit_links (s : State) (o : Out) : (s.emit o).links = s.links := rfl
@[simp] theorem State.emit_rings (s : State) (o : Out) : (s.emit o).rings = s.rings := rfl
@[simp] theorem State.emit_canAcc (s : State) (o : Out) : (s.emit o).canAcc = s.canAcc := rfl
@[simp] theorem State.emit_canary (s : State) (o : Out) : (s.emit o).canary = s.canary := rfl
@[simp] theorem State.emit_counts (s : State) (o : Out) : (s.emit o).counts = s.counts := rfl
@[simp] theorem State.emit_shadows (s : State) (o : Out) : (s.emit o).shadows = s.shadows := rfl
@[simp] theorem State.emit_events (s : State) (o : Out) : (s.emit o).events = s.events := rfl
@[simp] theorem State.emit_assay (s : State) (o : Out) : (s.emit o).assay = s.assay := rfl

/-! ### `State.countN` -/

@[simp] theorem State.countN_pending (s : State) (e : Ev) (w : Where) (p : Option Nat) (n : Nat) : (s.countN e w p n).pending = s.pending := rfl
@[simp] theorem State.countN_fresh (s : State) (e : Ev) (w : Where) (p : Option Nat) (n : Nat) : (s.countN e w p n).fresh = s.fresh := rfl
@[simp] theorem State.countN_outbox (s : State) (e : Ev) (w : Where) (p : Option Nat) (n : Nat) : (s.countN e w p n).outbox = s.outbox := rfl
@[simp] theorem State.countN_startup (s : State) (e : Ev) (w : Where) (p : Option Nat) (n : Nat) : (s.countN e w p n).startup = s.startup := rfl
@[simp] theorem State.countN_power (s : State) (e : Ev) (w : Where) (p : Option Nat) (n : Nat) : (s.countN e w p n).power = s.power := rfl
@[simp] theorem State.countN_tb (s : State) (e : Ev) (w : Where) (p : Option Nat) (n : Nat) : (s.countN e w p n).tb = s.tb := rfl
@[simp] theorem State.countN_op (s : State) (e : Ev) (w : Where) (p : Option Nat) (n : Nat) : (s.countN e w p n).op = s.op := rfl
@[simp] theorem State.countN_hf (s : State) (e : Ev) (w : Where) (p : Option Nat) (n : Nat) : (s.countN e w p n).hf = s.hf := rfl
@[simp] theorem State.countN_flash (s : State) (e : Ev) (w : Where) (p : Option Nat) (n : Nat) : (s.countN e w p n).flash = s.flash := rfl
@[simp] theorem State.countN_update (s : State) (e : Ev) (w : Where) (p : Option Nat) (n : Nat) : (s.countN e w p n).update = s.update := rfl
@[simp] theorem State.countN_spdm (s : State) (e : Ev) (w : Where) (p : Option Nat) (n : Nat) : (s.countN e w p n).spdm = s.spdm := rfl
@[simp] theorem State.countN_regs (s : State) (e : Ev) (w : Where) (p : Option Nat) (n : Nat) : (s.countN e w p n).regs = s.regs := rfl
@[simp] theorem State.countN_loStage (s : State) (e : Ev) (w : Where) (p : Option Nat) (n : Nat) : (s.countN e w p n).loStage = s.loStage := rfl
@[simp] theorem State.countN_setupErr (s : State) (e : Ev) (w : Where) (p : Option Nat) (n : Nat) : (s.countN e w p n).setupErr = s.setupErr := rfl
@[simp] theorem State.countN_parts (s : State) (e : Ev) (w : Where) (p : Option Nat) (n : Nat) : (s.countN e w p n).parts = s.parts := rfl
@[simp] theorem State.countN_cores (s : State) (e : Ev) (w : Where) (p : Option Nat) (n : Nat) : (s.countN e w p n).cores = s.cores := rfl
@[simp] theorem State.countN_clusters (s : State) (e : Ev) (w : Where) (p : Option Nat) (n : Nat) : (s.countN e w p n).clusters = s.clusters := rfl
@[simp] theorem State.countN_cluStart (s : State) (e : Ev) (w : Where) (p : Option Nat) (n : Nat) : (s.countN e w p n).cluStart = s.cluStart := rfl
@[simp] theorem State.countN_lastCluStart (s : State) (e : Ev) (w : Where) (p : Option Nat) (n : Nat) : (s.countN e w p n).lastCluStart = s.lastCluStart := rfl
@[simp] theorem State.countN_lampRoom (s : State) (e : Ev) (w : Where) (p : Option Nat) (n : Nat) : (s.countN e w p n).lampRoom = s.lampRoom := rfl
@[simp] theorem State.countN_regions (s : State) (e : Ev) (w : Where) (p : Option Nat) (n : Nat) : (s.countN e w p n).regions = s.regions := rfl
@[simp] theorem State.countN_domains (s : State) (e : Ev) (w : Where) (p : Option Nat) (n : Nat) : (s.countN e w p n).domains = s.domains := rfl
@[simp] theorem State.countN_dieTemps (s : State) (e : Ev) (w : Where) (p : Option Nat) (n : Nat) : (s.countN e w p n).dieTemps = s.dieTemps := rfl
@[simp] theorem State.countN_crossings (s : State) (e : Ev) (w : Where) (p : Option Nat) (n : Nat) : (s.countN e w p n).crossings = s.crossings := rfl
@[simp] theorem State.countN_fifos (s : State) (e : Ev) (w : Where) (p : Option Nat) (n : Nat) : (s.countN e w p n).fifos = s.fifos := rfl
@[simp] theorem State.countN_hbmStk (s : State) (e : Ev) (w : Where) (p : Option Nat) (n : Nat) : (s.countN e w p n).hbmStk = s.hbmStk := rfl
@[simp] theorem State.countN_coreMem (s : State) (e : Ev) (w : Where) (p : Option Nat) (n : Nat) : (s.countN e w p n).coreMem = s.coreMem := rfl
@[simp] theorem State.countN_cluMem (s : State) (e : Ev) (w : Where) (p : Option Nat) (n : Nat) : (s.countN e w p n).cluMem = s.cluMem := rfl
@[simp] theorem State.countN_hbm (s : State) (e : Ev) (w : Where) (p : Option Nat) (n : Nat) : (s.countN e w p n).hbm = s.hbm := rfl
@[simp] theorem State.countN_ownq (s : State) (e : Ev) (w : Where) (p : Option Nat) (n : Nat) : (s.countN e w p n).ownq = s.ownq := rfl
@[simp] theorem State.countN_poison (s : State) (e : Ev) (w : Where) (p : Option Nat) (n : Nat) : (s.countN e w p n).poison = s.poison := rfl
@[simp] theorem State.countN_hbmPoison (s : State) (e : Ev) (w : Where) (p : Option Nat) (n : Nat) : (s.countN e w p n).hbmPoison = s.hbmPoison := rfl
@[simp] theorem State.countN_mesh (s : State) (e : Ev) (w : Where) (p : Option Nat) (n : Nat) : (s.countN e w p n).mesh = s.mesh := rfl
@[simp] theorem State.countN_meshSets (s : State) (e : Ev) (w : Where) (p : Option Nat) (n : Nat) : (s.countN e w p n).meshSets = s.meshSets := rfl
@[simp] theorem State.countN_credits (s : State) (e : Ev) (w : Where) (p : Option Nat) (n : Nat) : (s.countN e w p n).credits = s.credits := rfl
@[simp] theorem State.countN_ports (s : State) (e : Ev) (w : Where) (p : Option Nat) (n : Nat) : (s.countN e w p n).ports = s.ports := rfl
@[simp] theorem State.countN_loose (s : State) (e : Ev) (w : Where) (p : Option Nat) (n : Nat) : (s.countN e w p n).loose = s.loose := rfl
@[simp] theorem State.countN_limiters (s : State) (e : Ev) (w : Where) (p : Option Nat) (n : Nat) : (s.countN e w p n).limiters = s.limiters := rfl
@[simp] theorem State.countN_jobStopsSeen (s : State) (e : Ev) (w : Where) (p : Option Nat) (n : Nat) : (s.countN e w p n).jobStopsSeen = s.jobStopsSeen := rfl
@[simp] theorem State.countN_links (s : State) (e : Ev) (w : Where) (p : Option Nat) (n : Nat) : (s.countN e w p n).links = s.links := rfl
@[simp] theorem State.countN_rings (s : State) (e : Ev) (w : Where) (p : Option Nat) (n : Nat) : (s.countN e w p n).rings = s.rings := rfl
@[simp] theorem State.countN_canAcc (s : State) (e : Ev) (w : Where) (p : Option Nat) (n : Nat) : (s.countN e w p n).canAcc = s.canAcc := rfl
@[simp] theorem State.countN_canary (s : State) (e : Ev) (w : Where) (p : Option Nat) (n : Nat) : (s.countN e w p n).canary = s.canary := rfl
@[simp] theorem State.countN_shadows (s : State) (e : Ev) (w : Where) (p : Option Nat) (n : Nat) : (s.countN e w p n).shadows = s.shadows := rfl
@[simp] theorem State.countN_assay (s : State) (e : Ev) (w : Where) (p : Option Nat) (n : Nat) : (s.countN e w p n).assay = s.assay := rfl

/-! ### `State.count` -/

@[simp] theorem State.count_pending (s : State) (e : Ev) (w : Where) (p : Option Nat) : (s.count e w p).pending = s.pending := rfl
@[simp] theorem State.count_fresh (s : State) (e : Ev) (w : Where) (p : Option Nat) : (s.count e w p).fresh = s.fresh := rfl
@[simp] theorem State.count_outbox (s : State) (e : Ev) (w : Where) (p : Option Nat) : (s.count e w p).outbox = s.outbox := rfl
@[simp] theorem State.count_startup (s : State) (e : Ev) (w : Where) (p : Option Nat) : (s.count e w p).startup = s.startup := rfl
@[simp] theorem State.count_power (s : State) (e : Ev) (w : Where) (p : Option Nat) : (s.count e w p).power = s.power := rfl
@[simp] theorem State.count_tb (s : State) (e : Ev) (w : Where) (p : Option Nat) : (s.count e w p).tb = s.tb := rfl
@[simp] theorem State.count_op (s : State) (e : Ev) (w : Where) (p : Option Nat) : (s.count e w p).op = s.op := rfl
@[simp] theorem State.count_hf (s : State) (e : Ev) (w : Where) (p : Option Nat) : (s.count e w p).hf = s.hf := rfl
@[simp] theorem State.count_flash (s : State) (e : Ev) (w : Where) (p : Option Nat) : (s.count e w p).flash = s.flash := rfl
@[simp] theorem State.count_update (s : State) (e : Ev) (w : Where) (p : Option Nat) : (s.count e w p).update = s.update := rfl
@[simp] theorem State.count_spdm (s : State) (e : Ev) (w : Where) (p : Option Nat) : (s.count e w p).spdm = s.spdm := rfl
@[simp] theorem State.count_regs (s : State) (e : Ev) (w : Where) (p : Option Nat) : (s.count e w p).regs = s.regs := rfl
@[simp] theorem State.count_loStage (s : State) (e : Ev) (w : Where) (p : Option Nat) : (s.count e w p).loStage = s.loStage := rfl
@[simp] theorem State.count_setupErr (s : State) (e : Ev) (w : Where) (p : Option Nat) : (s.count e w p).setupErr = s.setupErr := rfl
@[simp] theorem State.count_parts (s : State) (e : Ev) (w : Where) (p : Option Nat) : (s.count e w p).parts = s.parts := rfl
@[simp] theorem State.count_cores (s : State) (e : Ev) (w : Where) (p : Option Nat) : (s.count e w p).cores = s.cores := rfl
@[simp] theorem State.count_clusters (s : State) (e : Ev) (w : Where) (p : Option Nat) : (s.count e w p).clusters = s.clusters := rfl
@[simp] theorem State.count_cluStart (s : State) (e : Ev) (w : Where) (p : Option Nat) : (s.count e w p).cluStart = s.cluStart := rfl
@[simp] theorem State.count_lastCluStart (s : State) (e : Ev) (w : Where) (p : Option Nat) : (s.count e w p).lastCluStart = s.lastCluStart := rfl
@[simp] theorem State.count_lampRoom (s : State) (e : Ev) (w : Where) (p : Option Nat) : (s.count e w p).lampRoom = s.lampRoom := rfl
@[simp] theorem State.count_regions (s : State) (e : Ev) (w : Where) (p : Option Nat) : (s.count e w p).regions = s.regions := rfl
@[simp] theorem State.count_domains (s : State) (e : Ev) (w : Where) (p : Option Nat) : (s.count e w p).domains = s.domains := rfl
@[simp] theorem State.count_dieTemps (s : State) (e : Ev) (w : Where) (p : Option Nat) : (s.count e w p).dieTemps = s.dieTemps := rfl
@[simp] theorem State.count_crossings (s : State) (e : Ev) (w : Where) (p : Option Nat) : (s.count e w p).crossings = s.crossings := rfl
@[simp] theorem State.count_fifos (s : State) (e : Ev) (w : Where) (p : Option Nat) : (s.count e w p).fifos = s.fifos := rfl
@[simp] theorem State.count_hbmStk (s : State) (e : Ev) (w : Where) (p : Option Nat) : (s.count e w p).hbmStk = s.hbmStk := rfl
@[simp] theorem State.count_coreMem (s : State) (e : Ev) (w : Where) (p : Option Nat) : (s.count e w p).coreMem = s.coreMem := rfl
@[simp] theorem State.count_cluMem (s : State) (e : Ev) (w : Where) (p : Option Nat) : (s.count e w p).cluMem = s.cluMem := rfl
@[simp] theorem State.count_hbm (s : State) (e : Ev) (w : Where) (p : Option Nat) : (s.count e w p).hbm = s.hbm := rfl
@[simp] theorem State.count_ownq (s : State) (e : Ev) (w : Where) (p : Option Nat) : (s.count e w p).ownq = s.ownq := rfl
@[simp] theorem State.count_poison (s : State) (e : Ev) (w : Where) (p : Option Nat) : (s.count e w p).poison = s.poison := rfl
@[simp] theorem State.count_hbmPoison (s : State) (e : Ev) (w : Where) (p : Option Nat) : (s.count e w p).hbmPoison = s.hbmPoison := rfl
@[simp] theorem State.count_mesh (s : State) (e : Ev) (w : Where) (p : Option Nat) : (s.count e w p).mesh = s.mesh := rfl
@[simp] theorem State.count_meshSets (s : State) (e : Ev) (w : Where) (p : Option Nat) : (s.count e w p).meshSets = s.meshSets := rfl
@[simp] theorem State.count_credits (s : State) (e : Ev) (w : Where) (p : Option Nat) : (s.count e w p).credits = s.credits := rfl
@[simp] theorem State.count_ports (s : State) (e : Ev) (w : Where) (p : Option Nat) : (s.count e w p).ports = s.ports := rfl
@[simp] theorem State.count_loose (s : State) (e : Ev) (w : Where) (p : Option Nat) : (s.count e w p).loose = s.loose := rfl
@[simp] theorem State.count_limiters (s : State) (e : Ev) (w : Where) (p : Option Nat) : (s.count e w p).limiters = s.limiters := rfl
@[simp] theorem State.count_jobStopsSeen (s : State) (e : Ev) (w : Where) (p : Option Nat) : (s.count e w p).jobStopsSeen = s.jobStopsSeen := rfl
@[simp] theorem State.count_links (s : State) (e : Ev) (w : Where) (p : Option Nat) : (s.count e w p).links = s.links := rfl
@[simp] theorem State.count_rings (s : State) (e : Ev) (w : Where) (p : Option Nat) : (s.count e w p).rings = s.rings := rfl
@[simp] theorem State.count_canAcc (s : State) (e : Ev) (w : Where) (p : Option Nat) : (s.count e w p).canAcc = s.canAcc := rfl
@[simp] theorem State.count_canary (s : State) (e : Ev) (w : Where) (p : Option Nat) : (s.count e w p).canary = s.canary := rfl
@[simp] theorem State.count_shadows (s : State) (e : Ev) (w : Where) (p : Option Nat) : (s.count e w p).shadows = s.shadows := rfl
@[simp] theorem State.count_assay (s : State) (e : Ev) (w : Where) (p : Option Nat) : (s.count e w p).assay = s.assay := rfl

/-! ### `State.canInput` -/

@[simp] theorem State.canInput_pending (s : State) (p i n : Nat) : (s.canInput p i n).pending = s.pending := rfl
@[simp] theorem State.canInput_fresh (s : State) (p i n : Nat) : (s.canInput p i n).fresh = s.fresh := rfl
@[simp] theorem State.canInput_outbox (s : State) (p i n : Nat) : (s.canInput p i n).outbox = s.outbox := rfl
@[simp] theorem State.canInput_startup (s : State) (p i n : Nat) : (s.canInput p i n).startup = s.startup := rfl
@[simp] theorem State.canInput_power (s : State) (p i n : Nat) : (s.canInput p i n).power = s.power := rfl
@[simp] theorem State.canInput_tb (s : State) (p i n : Nat) : (s.canInput p i n).tb = s.tb := rfl
@[simp] theorem State.canInput_op (s : State) (p i n : Nat) : (s.canInput p i n).op = s.op := rfl
@[simp] theorem State.canInput_hf (s : State) (p i n : Nat) : (s.canInput p i n).hf = s.hf := rfl
@[simp] theorem State.canInput_flash (s : State) (p i n : Nat) : (s.canInput p i n).flash = s.flash := rfl
@[simp] theorem State.canInput_update (s : State) (p i n : Nat) : (s.canInput p i n).update = s.update := rfl
@[simp] theorem State.canInput_spdm (s : State) (p i n : Nat) : (s.canInput p i n).spdm = s.spdm := rfl
@[simp] theorem State.canInput_regs (s : State) (p i n : Nat) : (s.canInput p i n).regs = s.regs := rfl
@[simp] theorem State.canInput_loStage (s : State) (p i n : Nat) : (s.canInput p i n).loStage = s.loStage := rfl
@[simp] theorem State.canInput_setupErr (s : State) (p i n : Nat) : (s.canInput p i n).setupErr = s.setupErr := rfl
@[simp] theorem State.canInput_parts (s : State) (p i n : Nat) : (s.canInput p i n).parts = s.parts := rfl
@[simp] theorem State.canInput_cores (s : State) (p i n : Nat) : (s.canInput p i n).cores = s.cores := rfl
@[simp] theorem State.canInput_clusters (s : State) (p i n : Nat) : (s.canInput p i n).clusters = s.clusters := rfl
@[simp] theorem State.canInput_cluStart (s : State) (p i n : Nat) : (s.canInput p i n).cluStart = s.cluStart := rfl
@[simp] theorem State.canInput_lastCluStart (s : State) (p i n : Nat) : (s.canInput p i n).lastCluStart = s.lastCluStart := rfl
@[simp] theorem State.canInput_lampRoom (s : State) (p i n : Nat) : (s.canInput p i n).lampRoom = s.lampRoom := rfl
@[simp] theorem State.canInput_regions (s : State) (p i n : Nat) : (s.canInput p i n).regions = s.regions := rfl
@[simp] theorem State.canInput_domains (s : State) (p i n : Nat) : (s.canInput p i n).domains = s.domains := rfl
@[simp] theorem State.canInput_dieTemps (s : State) (p i n : Nat) : (s.canInput p i n).dieTemps = s.dieTemps := rfl
@[simp] theorem State.canInput_crossings (s : State) (p i n : Nat) : (s.canInput p i n).crossings = s.crossings := rfl
@[simp] theorem State.canInput_fifos (s : State) (p i n : Nat) : (s.canInput p i n).fifos = s.fifos := rfl
@[simp] theorem State.canInput_hbmStk (s : State) (p i n : Nat) : (s.canInput p i n).hbmStk = s.hbmStk := rfl
@[simp] theorem State.canInput_coreMem (s : State) (p i n : Nat) : (s.canInput p i n).coreMem = s.coreMem := rfl
@[simp] theorem State.canInput_cluMem (s : State) (p i n : Nat) : (s.canInput p i n).cluMem = s.cluMem := rfl
@[simp] theorem State.canInput_hbm (s : State) (p i n : Nat) : (s.canInput p i n).hbm = s.hbm := rfl
@[simp] theorem State.canInput_ownq (s : State) (p i n : Nat) : (s.canInput p i n).ownq = s.ownq := rfl
@[simp] theorem State.canInput_poison (s : State) (p i n : Nat) : (s.canInput p i n).poison = s.poison := rfl
@[simp] theorem State.canInput_hbmPoison (s : State) (p i n : Nat) : (s.canInput p i n).hbmPoison = s.hbmPoison := rfl
@[simp] theorem State.canInput_mesh (s : State) (p i n : Nat) : (s.canInput p i n).mesh = s.mesh := rfl
@[simp] theorem State.canInput_meshSets (s : State) (p i n : Nat) : (s.canInput p i n).meshSets = s.meshSets := rfl
@[simp] theorem State.canInput_credits (s : State) (p i n : Nat) : (s.canInput p i n).credits = s.credits := rfl
@[simp] theorem State.canInput_ports (s : State) (p i n : Nat) : (s.canInput p i n).ports = s.ports := rfl
@[simp] theorem State.canInput_loose (s : State) (p i n : Nat) : (s.canInput p i n).loose = s.loose := rfl
@[simp] theorem State.canInput_limiters (s : State) (p i n : Nat) : (s.canInput p i n).limiters = s.limiters := rfl
@[simp] theorem State.canInput_jobStopsSeen (s : State) (p i n : Nat) : (s.canInput p i n).jobStopsSeen = s.jobStopsSeen := rfl
@[simp] theorem State.canInput_links (s : State) (p i n : Nat) : (s.canInput p i n).links = s.links := rfl
@[simp] theorem State.canInput_rings (s : State) (p i n : Nat) : (s.canInput p i n).rings = s.rings := rfl
@[simp] theorem State.canInput_canary (s : State) (p i n : Nat) : (s.canInput p i n).canary = s.canary := rfl
@[simp] theorem State.canInput_counts (s : State) (p i n : Nat) : (s.canInput p i n).counts = s.counts := rfl
@[simp] theorem State.canInput_shadows (s : State) (p i n : Nat) : (s.canInput p i n).shadows = s.shadows := rfl
@[simp] theorem State.canInput_events (s : State) (p i n : Nat) : (s.canInput p i n).events = s.events := rfl
@[simp] theorem State.canInput_assay (s : State) (p i n : Nat) : (s.canInput p i n).assay = s.assay := rfl

/-! ### `State.pushRec` -/

@[simp] theorem State.pushRec_pending (s : State) (q : Nat) (r : Rec) : (s.pushRec q r).pending = s.pending := rfl
@[simp] theorem State.pushRec_fresh (s : State) (q : Nat) (r : Rec) : (s.pushRec q r).fresh = s.fresh := rfl
@[simp] theorem State.pushRec_outbox (s : State) (q : Nat) (r : Rec) : (s.pushRec q r).outbox = s.outbox := rfl
@[simp] theorem State.pushRec_startup (s : State) (q : Nat) (r : Rec) : (s.pushRec q r).startup = s.startup := rfl
@[simp] theorem State.pushRec_power (s : State) (q : Nat) (r : Rec) : (s.pushRec q r).power = s.power := rfl
@[simp] theorem State.pushRec_tb (s : State) (q : Nat) (r : Rec) : (s.pushRec q r).tb = s.tb := rfl
@[simp] theorem State.pushRec_op (s : State) (q : Nat) (r : Rec) : (s.pushRec q r).op = s.op := rfl
@[simp] theorem State.pushRec_hf (s : State) (q : Nat) (r : Rec) : (s.pushRec q r).hf = s.hf := rfl
@[simp] theorem State.pushRec_flash (s : State) (q : Nat) (r : Rec) : (s.pushRec q r).flash = s.flash := rfl
@[simp] theorem State.pushRec_update (s : State) (q : Nat) (r : Rec) : (s.pushRec q r).update = s.update := rfl
@[simp] theorem State.pushRec_spdm (s : State) (q : Nat) (r : Rec) : (s.pushRec q r).spdm = s.spdm := rfl
@[simp] theorem State.pushRec_regs (s : State) (q : Nat) (r : Rec) : (s.pushRec q r).regs = s.regs := rfl
@[simp] theorem State.pushRec_loStage (s : State) (q : Nat) (r : Rec) : (s.pushRec q r).loStage = s.loStage := rfl
@[simp] theorem State.pushRec_setupErr (s : State) (q : Nat) (r : Rec) : (s.pushRec q r).setupErr = s.setupErr := rfl
@[simp] theorem State.pushRec_parts (s : State) (q : Nat) (r : Rec) : (s.pushRec q r).parts = s.parts := rfl
@[simp] theorem State.pushRec_cores (s : State) (q : Nat) (r : Rec) : (s.pushRec q r).cores = s.cores := rfl
@[simp] theorem State.pushRec_clusters (s : State) (q : Nat) (r : Rec) : (s.pushRec q r).clusters = s.clusters := rfl
@[simp] theorem State.pushRec_cluStart (s : State) (q : Nat) (r : Rec) : (s.pushRec q r).cluStart = s.cluStart := rfl
@[simp] theorem State.pushRec_lastCluStart (s : State) (q : Nat) (r : Rec) : (s.pushRec q r).lastCluStart = s.lastCluStart := rfl
@[simp] theorem State.pushRec_lampRoom (s : State) (q : Nat) (r : Rec) : (s.pushRec q r).lampRoom = s.lampRoom := rfl
@[simp] theorem State.pushRec_regions (s : State) (q : Nat) (r : Rec) : (s.pushRec q r).regions = s.regions := rfl
@[simp] theorem State.pushRec_domains (s : State) (q : Nat) (r : Rec) : (s.pushRec q r).domains = s.domains := rfl
@[simp] theorem State.pushRec_dieTemps (s : State) (q : Nat) (r : Rec) : (s.pushRec q r).dieTemps = s.dieTemps := rfl
@[simp] theorem State.pushRec_crossings (s : State) (q : Nat) (r : Rec) : (s.pushRec q r).crossings = s.crossings := rfl
@[simp] theorem State.pushRec_fifos (s : State) (q : Nat) (r : Rec) : (s.pushRec q r).fifos = s.fifos := rfl
@[simp] theorem State.pushRec_hbmStk (s : State) (q : Nat) (r : Rec) : (s.pushRec q r).hbmStk = s.hbmStk := rfl
@[simp] theorem State.pushRec_coreMem (s : State) (q : Nat) (r : Rec) : (s.pushRec q r).coreMem = s.coreMem := rfl
@[simp] theorem State.pushRec_cluMem (s : State) (q : Nat) (r : Rec) : (s.pushRec q r).cluMem = s.cluMem := rfl
@[simp] theorem State.pushRec_hbm (s : State) (q : Nat) (r : Rec) : (s.pushRec q r).hbm = s.hbm := rfl
@[simp] theorem State.pushRec_ownq (s : State) (q : Nat) (r : Rec) : (s.pushRec q r).ownq = s.ownq := rfl
@[simp] theorem State.pushRec_poison (s : State) (q : Nat) (r : Rec) : (s.pushRec q r).poison = s.poison := rfl
@[simp] theorem State.pushRec_hbmPoison (s : State) (q : Nat) (r : Rec) : (s.pushRec q r).hbmPoison = s.hbmPoison := rfl
@[simp] theorem State.pushRec_mesh (s : State) (q : Nat) (r : Rec) : (s.pushRec q r).mesh = s.mesh := rfl
@[simp] theorem State.pushRec_meshSets (s : State) (q : Nat) (r : Rec) : (s.pushRec q r).meshSets = s.meshSets := rfl
@[simp] theorem State.pushRec_credits (s : State) (q : Nat) (r : Rec) : (s.pushRec q r).credits = s.credits := rfl
@[simp] theorem State.pushRec_ports (s : State) (q : Nat) (r : Rec) : (s.pushRec q r).ports = s.ports := rfl
@[simp] theorem State.pushRec_loose (s : State) (q : Nat) (r : Rec) : (s.pushRec q r).loose = s.loose := rfl
@[simp] theorem State.pushRec_limiters (s : State) (q : Nat) (r : Rec) : (s.pushRec q r).limiters = s.limiters := rfl
@[simp] theorem State.pushRec_jobStopsSeen (s : State) (q : Nat) (r : Rec) : (s.pushRec q r).jobStopsSeen = s.jobStopsSeen := rfl
@[simp] theorem State.pushRec_links (s : State) (q : Nat) (r : Rec) : (s.pushRec q r).links = s.links := rfl
@[simp] theorem State.pushRec_canAcc (s : State) (q : Nat) (r : Rec) : (s.pushRec q r).canAcc = s.canAcc := rfl
@[simp] theorem State.pushRec_canary (s : State) (q : Nat) (r : Rec) : (s.pushRec q r).canary = s.canary := rfl
@[simp] theorem State.pushRec_counts (s : State) (q : Nat) (r : Rec) : (s.pushRec q r).counts = s.counts := rfl
@[simp] theorem State.pushRec_shadows (s : State) (q : Nat) (r : Rec) : (s.pushRec q r).shadows = s.shadows := rfl
@[simp] theorem State.pushRec_events (s : State) (q : Nat) (r : Rec) : (s.pushRec q r).events = s.events := rfl
@[simp] theorem State.pushRec_assay (s : State) (q : Nat) (r : Rec) : (s.pushRec q r).assay = s.assay := rfl

/-! ### `State.setLimiter` -/

@[simp] theorem State.setLimiter_pending (s : State) (g : Nat) (l : Limiter) : (s.setLimiter g l).pending = s.pending := rfl
@[simp] theorem State.setLimiter_fresh (s : State) (g : Nat) (l : Limiter) : (s.setLimiter g l).fresh = s.fresh := rfl
@[simp] theorem State.setLimiter_outbox (s : State) (g : Nat) (l : Limiter) : (s.setLimiter g l).outbox = s.outbox := rfl
@[simp] theorem State.setLimiter_startup (s : State) (g : Nat) (l : Limiter) : (s.setLimiter g l).startup = s.startup := rfl
@[simp] theorem State.setLimiter_power (s : State) (g : Nat) (l : Limiter) : (s.setLimiter g l).power = s.power := rfl
@[simp] theorem State.setLimiter_tb (s : State) (g : Nat) (l : Limiter) : (s.setLimiter g l).tb = s.tb := rfl
@[simp] theorem State.setLimiter_op (s : State) (g : Nat) (l : Limiter) : (s.setLimiter g l).op = s.op := rfl
@[simp] theorem State.setLimiter_hf (s : State) (g : Nat) (l : Limiter) : (s.setLimiter g l).hf = s.hf := rfl
@[simp] theorem State.setLimiter_flash (s : State) (g : Nat) (l : Limiter) : (s.setLimiter g l).flash = s.flash := rfl
@[simp] theorem State.setLimiter_update (s : State) (g : Nat) (l : Limiter) : (s.setLimiter g l).update = s.update := rfl
@[simp] theorem State.setLimiter_spdm (s : State) (g : Nat) (l : Limiter) : (s.setLimiter g l).spdm = s.spdm := rfl
@[simp] theorem State.setLimiter_regs (s : State) (g : Nat) (l : Limiter) : (s.setLimiter g l).regs = s.regs := rfl
@[simp] theorem State.setLimiter_loStage (s : State) (g : Nat) (l : Limiter) : (s.setLimiter g l).loStage = s.loStage := rfl
@[simp] theorem State.setLimiter_setupErr (s : State) (g : Nat) (l : Limiter) : (s.setLimiter g l).setupErr = s.setupErr := rfl
@[simp] theorem State.setLimiter_parts (s : State) (g : Nat) (l : Limiter) : (s.setLimiter g l).parts = s.parts := rfl
@[simp] theorem State.setLimiter_cores (s : State) (g : Nat) (l : Limiter) : (s.setLimiter g l).cores = s.cores := rfl
@[simp] theorem State.setLimiter_clusters (s : State) (g : Nat) (l : Limiter) : (s.setLimiter g l).clusters = s.clusters := rfl
@[simp] theorem State.setLimiter_cluStart (s : State) (g : Nat) (l : Limiter) : (s.setLimiter g l).cluStart = s.cluStart := rfl
@[simp] theorem State.setLimiter_lastCluStart (s : State) (g : Nat) (l : Limiter) : (s.setLimiter g l).lastCluStart = s.lastCluStart := rfl
@[simp] theorem State.setLimiter_lampRoom (s : State) (g : Nat) (l : Limiter) : (s.setLimiter g l).lampRoom = s.lampRoom := rfl
@[simp] theorem State.setLimiter_regions (s : State) (g : Nat) (l : Limiter) : (s.setLimiter g l).regions = s.regions := rfl
@[simp] theorem State.setLimiter_domains (s : State) (g : Nat) (l : Limiter) : (s.setLimiter g l).domains = s.domains := rfl
@[simp] theorem State.setLimiter_dieTemps (s : State) (g : Nat) (l : Limiter) : (s.setLimiter g l).dieTemps = s.dieTemps := rfl
@[simp] theorem State.setLimiter_crossings (s : State) (g : Nat) (l : Limiter) : (s.setLimiter g l).crossings = s.crossings := rfl
@[simp] theorem State.setLimiter_fifos (s : State) (g : Nat) (l : Limiter) : (s.setLimiter g l).fifos = s.fifos := rfl
@[simp] theorem State.setLimiter_hbmStk (s : State) (g : Nat) (l : Limiter) : (s.setLimiter g l).hbmStk = s.hbmStk := rfl
@[simp] theorem State.setLimiter_coreMem (s : State) (g : Nat) (l : Limiter) : (s.setLimiter g l).coreMem = s.coreMem := rfl
@[simp] theorem State.setLimiter_cluMem (s : State) (g : Nat) (l : Limiter) : (s.setLimiter g l).cluMem = s.cluMem := rfl
@[simp] theorem State.setLimiter_hbm (s : State) (g : Nat) (l : Limiter) : (s.setLimiter g l).hbm = s.hbm := rfl
@[simp] theorem State.setLimiter_ownq (s : State) (g : Nat) (l : Limiter) : (s.setLimiter g l).ownq = s.ownq := rfl
@[simp] theorem State.setLimiter_poison (s : State) (g : Nat) (l : Limiter) : (s.setLimiter g l).poison = s.poison := rfl
@[simp] theorem State.setLimiter_hbmPoison (s : State) (g : Nat) (l : Limiter) : (s.setLimiter g l).hbmPoison = s.hbmPoison := rfl
@[simp] theorem State.setLimiter_mesh (s : State) (g : Nat) (l : Limiter) : (s.setLimiter g l).mesh = s.mesh := rfl
@[simp] theorem State.setLimiter_meshSets (s : State) (g : Nat) (l : Limiter) : (s.setLimiter g l).meshSets = s.meshSets := rfl
@[simp] theorem State.setLimiter_credits (s : State) (g : Nat) (l : Limiter) : (s.setLimiter g l).credits = s.credits := rfl
@[simp] theorem State.setLimiter_ports (s : State) (g : Nat) (l : Limiter) : (s.setLimiter g l).ports = s.ports := rfl
@[simp] theorem State.setLimiter_loose (s : State) (g : Nat) (l : Limiter) : (s.setLimiter g l).loose = s.loose := rfl
@[simp] theorem State.setLimiter_jobStopsSeen (s : State) (g : Nat) (l : Limiter) : (s.setLimiter g l).jobStopsSeen = s.jobStopsSeen := rfl
@[simp] theorem State.setLimiter_links (s : State) (g : Nat) (l : Limiter) : (s.setLimiter g l).links = s.links := rfl
@[simp] theorem State.setLimiter_rings (s : State) (g : Nat) (l : Limiter) : (s.setLimiter g l).rings = s.rings := rfl
@[simp] theorem State.setLimiter_canAcc (s : State) (g : Nat) (l : Limiter) : (s.setLimiter g l).canAcc = s.canAcc := rfl
@[simp] theorem State.setLimiter_canary (s : State) (g : Nat) (l : Limiter) : (s.setLimiter g l).canary = s.canary := rfl
@[simp] theorem State.setLimiter_counts (s : State) (g : Nat) (l : Limiter) : (s.setLimiter g l).counts = s.counts := rfl
@[simp] theorem State.setLimiter_shadows (s : State) (g : Nat) (l : Limiter) : (s.setLimiter g l).shadows = s.shadows := rfl
@[simp] theorem State.setLimiter_events (s : State) (g : Nat) (l : Limiter) : (s.setLimiter g l).events = s.events := rfl
@[simp] theorem State.setLimiter_assay (s : State) (g : Nat) (l : Limiter) : (s.setLimiter g l).assay = s.assay := rfl

/-! ### Accesses after updates -/

section
variable (s : State)

@[simp] theorem State.part_setPart_same (n : Nat) (p : Part) : (s.setPart n p).part n = p := by simp [State.part, State.setPart, Tab.get]
theorem State.part_setPart_other {n m : Nat} (p : Part) (h : m ≠ n) : (s.setPart n p).part m = s.part m := by
  simp [State.part, State.setPart, Tab.get_put_other _ _ _ h]
@[simp] theorem State.part_updPart_same (n : Nat) (f : Part → Part) : (s.updPart n f).part n = f (s.part n) := by simp [State.updPart]
theorem State.part_updPart_other {n m : Nat} (f : Part → Part) (h : m ≠ n) : (s.updPart n f).part m = s.part m := by
  simp [State.updPart, State.part_setPart_other _ _ h]

@[simp] theorem State.core_setCore_same (c : CoreId) (k : Core) : (s.setCore c k).core c = k := by simp [State.core, State.setCore, Tab.get]
theorem State.core_setCore_other {c d : CoreId} (k : Core) (h : d.ix ≠ c.ix) : (s.setCore c k).core d = s.core d := by
  simp [State.core, State.setCore, Tab.get_put_other _ _ _ h]
@[simp] theorem State.core_updCore_same (c : CoreId) (f : Core → Core) : (s.updCore c f).core c = f (s.core c) := by simp [State.updCore]
theorem State.core_updCore_other {c d : CoreId} (f : Core → Core) (h : d.ix ≠ c.ix) : (s.updCore c f).core d = s.core d := by
  simp [State.updCore, State.core_setCore_other _ _ h]

@[simp] theorem State.port_setPort_same (n : Nat) (p : FPort) : (s.setPort n p).port n = p := by simp [State.port, State.setPort, Tab.get]
theorem State.port_setPort_other {n m : Nat} (p : FPort) (h : m ≠ n) : (s.setPort n p).port m = s.port m := by
  simp [State.port, State.setPort, Tab.get_put_other _ _ _ h]
@[simp] theorem State.port_updPort_same (n : Nat) (f : FPort → FPort) : (s.updPort n f).port n = f (s.port n) := by simp [State.updPort]
theorem State.port_updPort_other {n m : Nat} (f : FPort → FPort) (h : m ≠ n) : (s.updPort n f).port m = s.port m := by
  simp [State.updPort, State.port_setPort_other _ _ h]

@[simp] theorem State.stack_updStack_same (n : Nat) (f : Stack → Stack) : (s.updStack n f).stack n = f (s.stack n) := by
  simp [State.stack, State.updStack, State.setStack, Tab.get]
theorem State.stack_updStack_other {n m : Nat} (f : Stack → Stack) (h : m ≠ n) : (s.updStack n f).stack m = s.stack m := by
  simp [State.stack, State.updStack, State.setStack, Tab.get_put_other _ _ _ h]

@[simp] theorem State.region_updRegion_same (n : Nat) (f : Region → Region) : (s.updRegion n f).region n = f (s.region n) := by
  simp [State.region, State.updRegion, Tab.get]
@[simp] theorem State.domain_updDomain_same (n : Nat) (f : Domain → Domain) : (s.updDomain n f).domain n = f (s.domain n) := by
  simp [State.domain, State.updDomain, Tab.get]
theorem State.domain_updDomain_other {n m : Nat} (f : Domain → Domain) (h : m ≠ n) : (s.updDomain n f).domain m = s.domain m := by
  simp [State.domain, State.updDomain, Tab.get_put_other _ _ _ h]
@[simp] theorem State.crossing_updCrossing_same (n : Nat) (f : Crossing → Crossing) : (s.updCrossing n f).crossing n = f (s.crossing n) := by
  simp [State.crossing, State.updCrossing, Tab.get]
@[simp] theorem State.link_updLink_same (l : Link) (f : HostLink → HostLink) : (s.updLink l f).link l = f (s.link l) := by
  simp [State.link, State.updLink, Tab.get]
theorem State.link_updLink_other {l k : Link} (f : HostLink → HostLink) (h : k.ix ≠ l.ix) : (s.updLink l f).link k = s.link k := by
  simp [State.link, State.updLink, Tab.get_put_other _ _ _ h]
@[simp] theorem State.ring_updRing_same (q : Nat) (f : Ring → Ring) : (s.updRing q f).ring q = f (s.ring q) := by
  simp [State.ring, State.updRing, State.setRing, Tab.get]
theorem State.ring_updRing_other {q r : Nat} (f : Ring → Ring) (h : r ≠ q) : (s.updRing q f).ring r = s.ring r := by
  simp [State.ring, State.updRing, State.setRing, Tab.get_put_other _ _ _ h]
@[simp] theorem State.can_updCan_same (n : Nat) (f : Canary → Canary) : (s.updCan n f).can n = f (s.can n) := by
  simp [State.can, State.updCan, Tab.get]
@[simp] theorem State.limiter_setLimiter_same (g : Nat) (l : Limiter) : (s.setLimiter g l).limiter g = l := by
  simp [State.limiter, State.setLimiter, Tab.get]

@[simp] theorem State.emit_outbox (o : Out) : (s.emit o).outbox = s.outbox ++ [o] := rfl

end

end Sys2Proof.Machine
end

