-- ==== Sys2Proof/Laws/Ops.lean ====
section
/-! SUPPORT. What each shared operation of the machine can do: time, outputs, platform events, stored registers, the tree's commands, and the
bytes of the stores and stacks. -/

namespace Sys2Proof.Machine

/-! ### The passing of time (01, R13, R15) -/

@[simp] theorem State.advance_pending (s : State) (t : Count) : (s.advance t).pending = s.pending := by
  unfold State.advance; dsimp only; repeat' split
  all_goals rfl
@[simp] theorem State.advance_fresh (s : State) (t : Count) : (s.advance t).fresh = s.fresh := by
  unfold State.advance; dsimp only; repeat' split
  all_goals rfl
@[simp] theorem State.advance_outbox (s : State) (t : Count) : (s.advance t).outbox = s.outbox := by
  unfold State.advance; dsimp only; repeat' split
  all_goals rfl
@[simp] theorem State.advance_startup (s : State) (t : Count) : (s.advance t).startup = s.startup := by
  unfold State.advance; dsimp only; repeat' split
  all_goals rfl
@[simp] theorem State.advance_power (s : State) (t : Count) : (s.advance t).power = s.power := by
  unfold State.advance; dsimp only; repeat' split
  all_goals rfl
@[simp] theorem State.advance_hf (s : State) (t : Count) : (s.advance t).hf = s.hf := by
  unfold State.advance; dsimp only; repeat' split
  all_goals rfl
@[simp] theorem State.advance_flash (s : State) (t : Count) : (s.advance t).flash = s.flash := by
  unfold State.advance; dsimp only; repeat' split
  all_goals rfl
@[simp] theorem State.advance_update (s : State) (t : Count) : (s.advance t).update = s.update := by
  unfold State.advance; dsimp only; repeat' split
  all_goals rfl
@[simp] theorem State.advance_spdm (s : State) (t : Count) : (s.advance t).spdm = s.spdm := by
  unfold State.advance; dsimp only; repeat' split
  all_goals rfl
@[simp] theorem State.advance_regs (s : State) (t : Count) : (s.advance t).regs = s.regs := by
  unfold State.advance; dsimp only; repeat' split
  all_goals rfl
@[simp] theorem State.advance_loStage (s : State) (t : Count) : (s.advance t).loStage = s.loStage := by
  unfold State.advance; dsimp only; repeat' split
  all_goals rfl
@[simp] theorem State.advance_setupErr (s : State) (t : Count) : (s.advance t).setupErr = s.setupErr := by
  unfold State.advance; dsimp only; repeat' split
  all_goals rfl
@[simp] theorem State.advance_parts (s : State) (t : Count) : (s.advance t).parts = s.parts := by
  unfold State.advance; dsimp only; repeat' split
  all_goals rfl
@[simp] theorem State.advance_cores (s : State) (t : Count) : (s.advance t).cores = s.cores := by
  unfold State.advance; dsimp only; repeat' split
  all_goals rfl
@[simp] theorem State.advance_clusters (s : State) (t : Count) : (s.advance t).clusters = s.clusters := by
  unfold State.advance; dsimp only; repeat' split
  all_goals rfl
@[simp] theorem State.advance_cluStart (s : State) (t : Count) : (s.advance t).cluStart = s.cluStart := by
  unfold State.advance; dsimp only; repeat' split
  all_goals rfl
@[simp] theorem State.advance_lastCluStart (s : State) (t : Count) : (s.advance t).lastCluStart = s.lastCluStart := by
  unfold State.advance; dsimp only; repeat' split
  all_goals rfl
@[simp] theorem State.advance_lampRoom (s : State) (t : Count) : (s.advance t).lampRoom = s.lampRoom := by
  unfold State.advance; dsimp only; repeat' split
  all_goals rfl
@[simp] theorem State.advance_regions (s : State) (t : Count) : (s.advance t).regions = s.regions := by
  unfold State.advance; dsimp only; repeat' split
  all_goals rfl
@[simp] theorem State.advance_domains (s : State) (t : Count) : (s.advance t).domains = s.domains := by
  unfold State.advance; dsimp only; repeat' split
  all_goals rfl
@[simp] theorem State.advance_dieTemps (s : State) (t : Count) : (s.advance t).dieTemps = s.dieTemps := by
  unfold State.advance; dsimp only; repeat' split
  all_goals rfl
@[simp] theorem State.advance_crossings (s : State) (t : Count) : (s.advance t).crossings = s.crossings := by
  unfold State.advance; dsimp only; repeat' split
  all_goals rfl
@[simp] theorem State.advance_fifos (s : State) (t : Count) : (s.advance t).fifos = s.fifos := by
  unfold State.advance; dsimp only; repeat' split
  all_goals rfl
@[simp] theorem State.advance_hbmStk (s : State) (t : Count) : (s.advance t).hbmStk = s.hbmStk := by
  unfold State.advance; dsimp only; repeat' split
  all_goals rfl
@[simp] theorem State.advance_coreMem (s : State) (t : Count) : (s.advance t).coreMem = s.coreMem := by
  unfold State.advance; dsimp only; repeat' split
  all_goals rfl
@[simp] theorem State.advance_cluMem (s : State) (t : Count) : (s.advance t).cluMem = s.cluMem := by
  unfold State.advance; dsimp only; repeat' split
  all_goals rfl
@[simp] theorem State.advance_hbm (s : State) (t : Count) : (s.advance t).hbm = s.hbm := by
  unfold State.advance; dsimp only; repeat' split
  all_goals rfl
@[simp] theorem State.advance_ownq (s : State) (t : Count) : (s.advance t).ownq = s.ownq := by
  unfold State.advance; dsimp only; repeat' split
  all_goals rfl
@[simp] theorem State.advance_poison (s : State) (t : Count) : (s.advance t).poison = s.poison := by
  unfold State.advance; dsimp only; repeat' split
  all_goals rfl
@[simp] theorem State.advance_hbmPoison (s : State) (t : Count) : (s.advance t).hbmPoison = s.hbmPoison := by
  unfold State.advance; dsimp only; repeat' split
  all_goals rfl
@[simp] theorem State.advance_mesh (s : State) (t : Count) : (s.advance t).mesh = s.mesh := by
  unfold State.advance; dsimp only; repeat' split
  all_goals rfl
@[simp] theorem State.advance_meshSets (s : State) (t : Count) : (s.advance t).meshSets = s.meshSets := by
  unfold State.advance; dsimp only; repeat' split
  all_goals rfl
@[simp] theorem State.advance_credits (s : State) (t : Count) : (s.advance t).credits = s.credits := by
  unfold State.advance; dsimp only; repeat' split
  all_goals rfl
@[simp] theorem State.advance_ports (s : State) (t : Count) : (s.advance t).ports = s.ports := by
  unfold State.advance; dsimp only; repeat' split
  all_goals rfl
@[simp] theorem State.advance_loose (s : State) (t : Count) : (s.advance t).loose = s.loose := by
  unfold State.advance; dsimp only; repeat' split
  all_goals rfl
@[simp] theorem State.advance_limiters (s : State) (t : Count) : (s.advance t).limiters = s.limiters := by
  unfold State.advance; dsimp only; repeat' split
  all_goals rfl
@[simp] theorem State.advance_jobStopsSeen (s : State) (t : Count) : (s.advance t).jobStopsSeen = s.jobStopsSeen := by
  unfold State.advance; dsimp only; repeat' split
  all_goals rfl
@[simp] theorem State.advance_links (s : State) (t : Count) : (s.advance t).links = s.links := by
  unfold State.advance; dsimp only; repeat' split
  all_goals rfl
@[simp] theorem State.advance_rings (s : State) (t : Count) : (s.advance t).rings = s.rings := by
  unfold State.advance; dsimp only; repeat' split
  all_goals rfl
@[simp] theorem State.advance_canAcc (s : State) (t : Count) : (s.advance t).canAcc = s.canAcc := by
  unfold State.advance; dsimp only; repeat' split
  all_goals rfl
@[simp] theorem State.advance_canary (s : State) (t : Count) : (s.advance t).canary = s.canary := by
  unfold State.advance; dsimp only; repeat' split
  all_goals rfl
@[simp] theorem State.advance_shadows (s : State) (t : Count) : (s.advance t).shadows = s.shadows := by
  unfold State.advance; dsimp only; repeat' split
  all_goals rfl
@[simp] theorem State.advance_assay (s : State) (t : Count) : (s.advance t).assay = s.assay := by
  unfold State.advance; dsimp only; repeat' split
  all_goals rfl

/-- Where the count runs and is not past `t`, the passing of time ends with the count at `t`. -/
theorem State.advance_count (s : State) (t : Count) (hr : s.tb.running = true) (hl : s.tb.count ≤ t) (h64 : t < 2 ^ 64) :
    (s.advance t).tb.count = t ∧ (s.advance t).tb.running = true := by
  unfold State.advance
  rw [if_pos ⟨hr, hl, h64⟩]
  dsimp only
  split <;> exact ⟨rfl, hr⟩

theorem State.advance_atCount (s : State) (t : Count) (hr : s.tb.running = true) (hl : s.tb.count ≤ t) (h64 : t < 2 ^ 64) :
    (s.advance t).atCount t = true := by
  have h := State.advance_count s t hr hl h64
  simp [State.atCount, h.1, h.2]

@[simp] theorem State.advance_cfg (s : State) (t : Count) (k : RegKind) (i j : Nat) : cfg (s.advance t) k i j = cfg s k i j := by
  simp [cfg]

@[simp] theorem State.advance_part (s : State) (t : Count) (n : Nat) : (s.advance t).part n = s.part n := by simp [State.part]
@[simp] theorem State.advance_core (s : State) (t : Count) (c : CoreId) : (s.advance t).core c = s.core c := by simp [State.core]
@[simp] theorem State.advance_port (s : State) (t : Count) (n : Nat) : (s.advance t).port n = s.port n := by simp [State.port]
@[simp] theorem State.advance_stack (s : State) (t : Count) (n : Nat) : (s.advance t).stack n = s.stack n := by simp [State.stack]

/-! ### Platform events and the alarm line (13, R308; 15, R344) -/

@[simp] theorem State.platform_pending (s : State) (k : EventKind) (a : Nat) : (s.platform k a).pending = s.pending := by
  unfold State.platform; split <;> rfl
@[simp] theorem State.platform_fresh (s : State) (k : EventKind) (a : Nat) : (s.platform k a).fresh = s.fresh := by
  unfold State.platform; split <;> rfl
@[simp] theorem State.platform_startup (s : State) (k : EventKind) (a : Nat) : (s.platform k a).startup = s.startup := by
  unfold State.platform; split <;> rfl
@[simp] theorem State.platform_power (s : State) (k : EventKind) (a : Nat) : (s.platform k a).power = s.power := by
  unfold State.platform; split <;> rfl
@[simp] theorem State.platform_tb (s : State) (k : EventKind) (a : Nat) : (s.platform k a).tb = s.tb := by
  unfold State.platform; split <;> rfl
@[simp] theorem State.platform_op (s : State) (k : EventKind) (a : Nat) : (s.platform k a).op = s.op := by
  unfold State.platform; split <;> rfl
@[simp] theorem State.platform_flash (s : State) (k : EventKind) (a : Nat) : (s.platform k a).flash = s.flash := by
  unfold State.platform; split <;> rfl
@[simp] theorem State.platform_update (s : State) (k : EventKind) (a : Nat) : (s.platform k a).update = s.update := by
  unfold State.platform; split <;> rfl
@[simp] theorem State.platform_spdm (s : State) (k : EventKind) (a : Nat) : (s.platform k a).spdm = s.spdm := by
  unfold State.platform; split <;> rfl
@[simp] theorem State.platform_regs (s : State) (k : EventKind) (a : Nat) : (s.platform k a).regs = s.regs := by
  unfold State.platform; split <;> rfl
@[simp] theorem State.platform_loStage (s : State) (k : EventKind) (a : Nat) : (s.platform k a).loStage = s.loStage := by
  unfold State.platform; split <;> rfl
@[simp] theorem State.platform_setupErr (s : State) (k : EventKind) (a : Nat) : (s.platform k a).setupErr = s.setupErr := by
  unfold State.platform; split <;> rfl
@[simp] theorem State.platform_parts (s : State) (k : EventKind) (a : Nat) : (s.platform k a).parts = s.parts := by
  unfold State.platform; split <;> rfl
@[simp] theorem State.platform_cores (s : State) (k : EventKind) (a : Nat) : (s.platform k a).cores = s.cores := by
  unfold State.platform; split <;> rfl
@[simp] theorem State.platform_clusters (s : State) (k : EventKind) (a : Nat) : (s.platform k a).clusters = s.clusters := by
  unfold State.platform; split <;> rfl
@[simp] theorem State.platform_cluStart (s : State) (k : EventKind) (a : Nat) : (s.platform k a).cluStart = s.cluStart := by
  unfold State.platform; split <;> rfl
@[simp] theorem State.platform_lastCluStart (s : State) (k : EventKind) (a : Nat) : (s.platform k a).lastCluStart = s.lastCluStart := by
  unfold State.platform; split <;> rfl
@[simp] theorem State.platform_lampRoom (s : State) (k : EventKind) (a : Nat) : (s.platform k a).lampRoom = s.lampRoom := by
  unfold State.platform; split <;> rfl
@[simp] theorem State.platform_regions (s : State) (k : EventKind) (a : Nat) : (s.platform k a).regions = s.regions := by
  unfold State.platform; split <;> rfl
@[simp] theorem State.platform_domains (s : State) (k : EventKind) (a : Nat) : (s.platform k a).domains = s.domains := by
  unfold State.platform; split <;> rfl
@[simp] theorem State.platform_dieTemps (s : State) (k : EventKind) (a : Nat) : (s.platform k a).dieTemps = s.dieTemps := by
  unfold State.platform; split <;> rfl
@[simp] theorem State.platform_crossings (s : State) (k : EventKind) (a : Nat) : (s.platform k a).crossings = s.crossings := by
  unfold State.platform; split <;> rfl
@[simp] theorem State.platform_fifos (s : State) (k : EventKind) (a : Nat) : (s.platform k a).fifos = s.fifos := by
  unfold State.platform; split <;> rfl
@[simp] theorem State.platform_hbmStk (s : State) (k : EventKind) (a : Nat) : (s.platform k a).hbmStk = s.hbmStk := by
  unfold State.platform; split <;> rfl
@[simp] theorem State.platform_coreMem (s : State) (k : EventKind) (a : Nat) : (s.platform k a).coreMem = s.coreMem := by
  unfold State.platform; split <;> rfl
@[simp] theorem State.platform_cluMem (s : State) (k : EventKind) (a : Nat) : (s.platform k a).cluMem = s.cluMem := by
  unfold State.platform; split <;> rfl
@[simp] theorem State.platform_hbm (s : State) (k : EventKind) (a : Nat) : (s.platform k a).hbm = s.hbm := by
  unfold State.platform; split <;> rfl
@[simp] theorem State.platform_ownq (s : State) (k : EventKind) (a : Nat) : (s.platform k a).ownq = s.ownq := by
  unfold State.platform; split <;> rfl
@[simp] theorem State.platform_poison (s : State) (k : EventKind) (a : Nat) : (s.platform k a).poison = s.poison := by
  unfold State.platform; split <;> rfl
@[simp] theorem State.platform_hbmPoison (s : State) (k : EventKind) (a : Nat) : (s.platform k a).hbmPoison = s.hbmPoison := by
  unfold State.platform; split <;> rfl
@[simp] theorem State.platform_mesh (s : State) (k : EventKind) (a : Nat) : (s.platform k a).mesh = s.mesh := by
  unfold State.platform; split <;> rfl
@[simp] theorem State.platform_meshSets (s : State) (k : EventKind) (a : Nat) : (s.platform k a).meshSets = s.meshSets := by
  unfold State.platform; split <;> rfl
@[simp] theorem State.platform_credits (s : State) (k : EventKind) (a : Nat) : (s.platform k a).credits = s.credits := by
  unfold State.platform; split <;> rfl
@[simp] theorem State.platform_ports (s : State) (k : EventKind) (a : Nat) : (s.platform k a).ports = s.ports := by
  unfold State.platform; split <;> rfl
@[simp] theorem State.platform_loose (s : State) (k : EventKind) (a : Nat) : (s.platform k a).loose = s.loose := by
  unfold State.platform; split <;> rfl
@[simp] theorem State.platform_limiters (s : State) (k : EventKind) (a : Nat) : (s.platform k a).limiters = s.limiters := by
  unfold State.platform; split <;> rfl
@[simp] theorem State.platform_jobStopsSeen (s : State) (k : EventKind) (a : Nat) : (s.platform k a).jobStopsSeen = s.jobStopsSeen := by
  unfold State.platform; split <;> rfl
@[simp] theorem State.platform_links (s : State) (k : EventKind) (a : Nat) : (s.platform k a).links = s.links := by
  unfold State.platform; split <;> rfl
@[simp] theorem State.platform_rings (s : State) (k : EventKind) (a : Nat) : (s.platform k a).rings = s.rings := by
  unfold State.platform; split <;> rfl
@[simp] theorem State.platform_canAcc (s : State) (k : EventKind) (a : Nat) : (s.platform k a).canAcc = s.canAcc := by
  unfold State.platform; split <;> rfl
@[simp] theorem State.platform_canary (s : State) (k : EventKind) (a : Nat) : (s.platform k a).canary = s.canary := by
  unfold State.platform; split <;> rfl
@[simp] theorem State.platform_counts (s : State) (k : EventKind) (a : Nat) : (s.platform k a).counts = s.counts := by
  unfold State.platform; split <;> rfl
@[simp] theorem State.platform_shadows (s : State) (k : EventKind) (a : Nat) : (s.platform k a).shadows = s.shadows := by
  unfold State.platform; split <;> rfl
@[simp] theorem State.platform_events (s : State) (k : EventKind) (a : Nat) : (s.platform k a).events = s.events := by
  unfold State.platform; split <;> rfl
@[simp] theorem State.platform_assay (s : State) (k : EventKind) (a : Nat) : (s.platform k a).assay = s.assay := by
  unfold State.platform; split <;> rfl

@[simp] theorem State.alarmEdge_pending (s : State) (b : Bool) : (s.alarmEdge b).pending = s.pending := by
  unfold State.alarmEdge; split <;> rfl
@[simp] theorem State.alarmEdge_fresh (s : State) (b : Bool) : (s.alarmEdge b).fresh = s.fresh := by
  unfold State.alarmEdge; split <;> rfl
@[simp] theorem State.alarmEdge_startup (s : State) (b : Bool) : (s.alarmEdge b).startup = s.startup := by
  unfold State.alarmEdge; split <;> rfl
@[simp] theorem State.alarmEdge_power (s : State) (b : Bool) : (s.alarmEdge b).power = s.power := by
  unfold State.alarmEdge; split <;> rfl
@[simp] theorem State.alarmEdge_tb (s : State) (b : Bool) : (s.alarmEdge b).tb = s.tb := by
  unfold State.alarmEdge; split <;> rfl
@[simp] theorem State.alarmEdge_op (s : State) (b : Bool) : (s.alarmEdge b).op = s.op := by
  unfold State.alarmEdge; split <;> rfl
@[simp] theorem State.alarmEdge_hf (s : State) (b : Bool) : (s.alarmEdge b).hf = s.hf := by
  unfold State.alarmEdge; split <;> rfl
@[simp] theorem State.alarmEdge_flash (s : State) (b : Bool) : (s.alarmEdge b).flash = s.flash := by
  unfold State.alarmEdge; split <;> rfl
@[simp] theorem State.alarmEdge_update (s : State) (b : Bool) : (s.alarmEdge b).update = s.update := by
  unfold State.alarmEdge; split <;> rfl
@[simp] theorem State.alarmEdge_spdm (s : State) (b : Bool) : (s.alarmEdge b).spdm = s.spdm := by
  unfold State.alarmEdge; split <;> rfl
@[simp] theorem State.alarmEdge_regs (s : State) (b : Bool) : (s.alarmEdge b).regs = s.regs := by
  unfold State.alarmEdge; split <;> rfl
@[simp] theorem State.alarmEdge_loStage (s : State) (b : Bool) : (s.alarmEdge b).loStage = s.loStage := by
  unfold State.alarmEdge; split <;> rfl
@[simp] theorem State.alarmEdge_setupErr (s : State) (b : Bool) : (s.alarmEdge b).setupErr = s.setupErr := by
  unfold State.alarmEdge; split <;> rfl
@[simp] theorem State.alarmEdge_parts (s : State) (b : Bool) : (s.alarmEdge b).parts = s.parts := by
  unfold State.alarmEdge; split <;> rfl
@[simp] theorem State.alarmEdge_cores (s : State) (b : Bool) : (s.alarmEdge b).cores = s.cores := by
  unfold State.alarmEdge; split <;> rfl
@[simp] theorem State.alarmEdge_clusters (s : State) (b : Bool) : (s.alarmEdge b).clusters = s.clusters := by
  unfold State.alarmEdge; split <;> rfl
@[simp] theorem State.alarmEdge_cluStart (s : State) (b : Bool) : (s.alarmEdge b).cluStart = s.cluStart := by
  unfold State.alarmEdge; split <;> rfl
@[simp] theorem State.alarmEdge_lastCluStart (s : State) (b : Bool) : (s.alarmEdge b).lastCluStart = s.lastCluStart := by
  unfold State.alarmEdge; split <;> rfl
@[simp] theorem State.alarmEdge_lampRoom (s : State) (b : Bool) : (s.alarmEdge b).lampRoom = s.lampRoom := by
  unfold State.alarmEdge; split <;> rfl
@[simp] theorem State.alarmEdge_regions (s : State) (b : Bool) : (s.alarmEdge b).regions = s.regions := by
  unfold State.alarmEdge; split <;> rfl
@[simp] theorem State.alarmEdge_domains (s : State) (b : Bool) : (s.alarmEdge b).domains = s.domains := by
  unfold State.alarmEdge; split <;> rfl
@[simp] theorem State.alarmEdge_dieTemps (s : State) (b : Bool) : (s.alarmEdge b).dieTemps = s.dieTemps := by
  unfold State.alarmEdge; split <;> rfl
@[simp] theorem State.alarmEdge_crossings (s : State) (b : Bool) : (s.alarmEdge b).crossings = s.crossings := by
  unfold State.alarmEdge; split <;> rfl
@[simp] theorem State.alarmEdge_fifos (s : State) (b : Bool) : (s.alarmEdge b).fifos = s.fifos := by
  unfold State.alarmEdge; split <;> rfl
@[simp] theorem State.alarmEdge_hbmStk (s : State) (b : Bool) : (s.alarmEdge b).hbmStk = s.hbmStk := by
  unfold State.alarmEdge; split <;> rfl
@[simp] theorem State.alarmEdge_coreMem (s : State) (b : Bool) : (s.alarmEdge b).coreMem = s.coreMem := by
  unfold State.alarmEdge; split <;> rfl
@[simp] theorem State.alarmEdge_cluMem (s : State) (b : Bool) : (s.alarmEdge b).cluMem = s.cluMem := by
  unfold State.alarmEdge; split <;> rfl
@[simp] theorem State.alarmEdge_hbm (s : State) (b : Bool) : (s.alarmEdge b).hbm = s.hbm := by
  unfold State.alarmEdge; split <;> rfl
@[simp] theorem State.alarmEdge_ownq (s : State) (b : Bool) : (s.alarmEdge b).ownq = s.ownq := by
  unfold State.alarmEdge; split <;> rfl
@[simp] theorem State.alarmEdge_poison (s : State) (b : Bool) : (s.alarmEdge b).poison = s.poison := by
  unfold State.alarmEdge; split <;> rfl
@[simp] theorem State.alarmEdge_hbmPoison (s : State) (b : Bool) : (s.alarmEdge b).hbmPoison = s.hbmPoison := by
  unfold State.alarmEdge; split <;> rfl
@[simp] theorem State.alarmEdge_mesh (s : State) (b : Bool) : (s.alarmEdge b).mesh = s.mesh := by
  unfold State.alarmEdge; split <;> rfl
@[simp] theorem State.alarmEdge_meshSets (s : State) (b : Bool) : (s.alarmEdge b).meshSets = s.meshSets := by
  unfold State.alarmEdge; split <;> rfl
@[simp] theorem State.alarmEdge_credits (s : State) (b : Bool) : (s.alarmEdge b).credits = s.credits := by
  unfold State.alarmEdge; split <;> rfl
@[simp] theorem State.alarmEdge_ports (s : State) (b : Bool) : (s.alarmEdge b).ports = s.ports := by
  unfold State.alarmEdge; split <;> rfl
@[simp] theorem State.alarmEdge_loose (s : State) (b : Bool) : (s.alarmEdge b).loose = s.loose := by
  unfold State.alarmEdge; split <;> rfl
@[simp] theorem State.alarmEdge_limiters (s : State) (b : Bool) : (s.alarmEdge b).limiters = s.limiters := by
  unfold State.alarmEdge; split <;> rfl
@[simp] theorem State.alarmEdge_jobStopsSeen (s : State) (b : Bool) : (s.alarmEdge b).jobStopsSeen = s.jobStopsSeen := by
  unfold State.alarmEdge; split <;> rfl
@[simp] theorem State.alarmEdge_links (s : State) (b : Bool) : (s.alarmEdge b).links = s.links := by
  unfold State.alarmEdge; split <;> rfl
@[simp] theorem State.alarmEdge_rings (s : State) (b : Bool) : (s.alarmEdge b).rings = s.rings := by
  unfold State.alarmEdge; split <;> rfl
@[simp] theorem State.alarmEdge_canAcc (s : State) (b : Bool) : (s.alarmEdge b).canAcc = s.canAcc := by
  unfold State.alarmEdge; split <;> rfl
@[simp] theorem State.alarmEdge_canary (s : State) (b : Bool) : (s.alarmEdge b).canary = s.canary := by
  unfold State.alarmEdge; split <;> rfl
@[simp] theorem State.alarmEdge_counts (s : State) (b : Bool) : (s.alarmEdge b).counts = s.counts := by
  unfold State.alarmEdge; split <;> rfl
@[simp] theorem State.alarmEdge_shadows (s : State) (b : Bool) : (s.alarmEdge b).shadows = s.shadows := by
  unfold State.alarmEdge; split <;> rfl
@[simp] theorem State.alarmEdge_events (s : State) (b : Bool) : (s.alarmEdge b).events = s.events := by
  unfold State.alarmEdge; split <;> rfl
@[simp] theorem State.alarmEdge_assay (s : State) (b : Bool) : (s.alarmEdge b).assay = s.assay := by
  unfold State.alarmEdge; split <;> rfl

/-! ### Stored registers (16) -/

theorem cfg_setCfg_same (s : State) (k : RegKind) (i j : Nat) (v : W32) (h : Tab.rising none s.regs = true) :
    cfg (setCfg s k i j v) k i j = v := by
  unfold cfg setCfg Tab.write
  dsimp only
  split
  · rename_i hv; subst hv; simp [Tab.get, Tab.find_erase_same _ h]
  · simp [Tab.get]

theorem cfg_setCfg_other (s : State) {k k' : RegKind} {i j i' j' : Nat} (v : W32)
    (h : (Reg.mk k' i' j').off ≠ (Reg.mk k i j).off) : cfg (setCfg s k i j v) k' i' j' = cfg s k' i' j' := by
  unfold cfg setCfg Tab.write
  dsimp only
  split
  · simp [Tab.get, Tab.find_erase_other _ h]
  · simp [Tab.get, Tab.find_put_other _ _ h]

theorem setCfg_regs_rising (s : State) (k : RegKind) (i j : Nat) (v : W32) (h : Tab.rising none s.regs = true) :
    Tab.rising none (setCfg s k i j v).regs = true := by
  unfold setCfg Tab.write
  dsimp only
  split
  · exact Tab.rising_erase _ _ h
  · exact Tab.rising_put _ _ _ h

@[simp] theorem setCfg_pending (s : State) (k : RegKind) (i j : Nat) (v : W32) : (setCfg s k i j v).pending = s.pending := rfl
@[simp] theorem setCfg_fresh (s : State) (k : RegKind) (i j : Nat) (v : W32) : (setCfg s k i j v).fresh = s.fresh := rfl
@[simp] theorem setCfg_outbox (s : State) (k : RegKind) (i j : Nat) (v : W32) : (setCfg s k i j v).outbox = s.outbox := rfl
@[simp] theorem setCfg_startup (s : State) (k : RegKind) (i j : Nat) (v : W32) : (setCfg s k i j v).startup = s.startup := rfl
@[simp] theorem setCfg_power (s : State) (k : RegKind) (i j : Nat) (v : W32) : (setCfg s k i j v).power = s.power := rfl
@[simp] theorem setCfg_tb (s : State) (k : RegKind) (i j : Nat) (v : W32) : (setCfg s k i j v).tb = s.tb := rfl
@[simp] theorem setCfg_op (s : State) (k : RegKind) (i j : Nat) (v : W32) : (setCfg s k i j v).op = s.op := rfl
@[simp] theorem setCfg_hf (s : State) (k : RegKind) (i j : Nat) (v : W32) : (setCfg s k i j v).hf = s.hf := rfl
@[simp] theorem setCfg_flash (s : State) (k : RegKind) (i j : Nat) (v : W32) : (setCfg s k i j v).flash = s.flash := rfl
@[simp] theorem setCfg_update (s : State) (k : RegKind) (i j : Nat) (v : W32) : (setCfg s k i j v).update = s.update := rfl
@[simp] theorem setCfg_spdm (s : State) (k : RegKind) (i j : Nat) (v : W32) : (setCfg s k i j v).spdm = s.spdm := rfl
@[simp] theorem setCfg_loStage (s : State) (k : RegKind) (i j : Nat) (v : W32) : (setCfg s k i j v).loStage = s.loStage := rfl
@[simp] theorem setCfg_setupErr (s : State) (k : RegKind) (i j : Nat) (v : W32) : (setCfg s k i j v).setupErr = s.setupErr := rfl
@[simp] theorem setCfg_parts (s : State) (k : RegKind) (i j : Nat) (v : W32) : (setCfg s k i j v).parts = s.parts := rfl
@[simp] theorem setCfg_cores (s : State) (k : RegKind) (i j : Nat) (v : W32) : (setCfg s k i j v).cores = s.cores := rfl
@[simp] theorem setCfg_clusters (s : State) (k : RegKind) (i j : Nat) (v : W32) : (setCfg s k i j v).clusters = s.clusters := rfl
@[simp] theorem setCfg_cluStart (s : State) (k : RegKind) (i j : Nat) (v : W32) : (setCfg s k i j v).cluStart = s.cluStart := rfl
@[simp] theorem setCfg_lastCluStart (s : State) (k : RegKind) (i j : Nat) (v : W32) : (setCfg s k i j v).lastCluStart = s.lastCluStart := rfl
@[simp] theorem setCfg_lampRoom (s : State) (k : RegKind) (i j : Nat) (v : W32) : (setCfg s k i j v).lampRoom = s.lampRoom := rfl
@[simp] theorem setCfg_regions (s : State) (k : RegKind) (i j : Nat) (v : W32) : (setCfg s k i j v).regions = s.regions := rfl
@[simp] theorem setCfg_domains (s : State) (k : RegKind) (i j : Nat) (v : W32) : (setCfg s k i j v).domains = s.domains := rfl
@[simp] theorem setCfg_dieTemps (s : State) (k : RegKind) (i j : Nat) (v : W32) : (setCfg s k i j v).dieTemps = s.dieTemps := rfl
@[simp] theorem setCfg_crossings (s : State) (k : RegKind) (i j : Nat) (v : W32) : (setCfg s k i j v).crossings = s.crossings := rfl
@[simp] theorem setCfg_fifos (s : State) (k : RegKind) (i j : Nat) (v : W32) : (setCfg s k i j v).fifos = s.fifos := rfl
@[simp] theorem setCfg_hbmStk (s : State) (k : RegKind) (i j : Nat) (v : W32) : (setCfg s k i j v).hbmStk = s.hbmStk := rfl
@[simp] theorem setCfg_coreMem (s : State) (k : RegKind) (i j : Nat) (v : W32) : (setCfg s k i j v).coreMem = s.coreMem := rfl
@[simp] theorem setCfg_cluMem (s : State) (k : RegKind) (i j : Nat) (v : W32) : (setCfg s k i j v).cluMem = s.cluMem := rfl
@[simp] theorem setCfg_hbm (s : State) (k : RegKind) (i j : Nat) (v : W32) : (setCfg s k i j v).hbm = s.hbm := rfl
@[simp] theorem setCfg_ownq (s : State) (k : RegKind) (i j : Nat) (v : W32) : (setCfg s k i j v).ownq = s.ownq := rfl
@[simp] theorem setCfg_poison (s : State) (k : RegKind) (i j : Nat) (v : W32) : (setCfg s k i j v).poison = s.poison := rfl
@[simp] theorem setCfg_hbmPoison (s : State) (k : RegKind) (i j : Nat) (v : W32) : (setCfg s k i j v).hbmPoison = s.hbmPoison := rfl
@[simp] theorem setCfg_mesh (s : State) (k : RegKind) (i j : Nat) (v : W32) : (setCfg s k i j v).mesh = s.mesh := rfl
@[simp] theorem setCfg_meshSets (s : State) (k : RegKind) (i j : Nat) (v : W32) : (setCfg s k i j v).meshSets = s.meshSets := rfl
@[simp] theorem setCfg_credits (s : State) (k : RegKind) (i j : Nat) (v : W32) : (setCfg s k i j v).credits = s.credits := rfl
@[simp] theorem setCfg_ports (s : State) (k : RegKind) (i j : Nat) (v : W32) : (setCfg s k i j v).ports = s.ports := rfl
@[simp] theorem setCfg_loose (s : State) (k : RegKind) (i j : Nat) (v : W32) : (setCfg s k i j v).loose = s.loose := rfl
@[simp] theorem setCfg_limiters (s : State) (k : RegKind) (i j : Nat) (v : W32) : (setCfg s k i j v).limiters = s.limiters := rfl
@[simp] theorem setCfg_jobStopsSeen (s : State) (k : RegKind) (i j : Nat) (v : W32) : (setCfg s k i j v).jobStopsSeen = s.jobStopsSeen := rfl
@[simp] theorem setCfg_links (s : State) (k : RegKind) (i j : Nat) (v : W32) : (setCfg s k i j v).links = s.links := rfl
@[simp] theorem setCfg_rings (s : State) (k : RegKind) (i j : Nat) (v : W32) : (setCfg s k i j v).rings = s.rings := rfl
@[simp] theorem setCfg_canAcc (s : State) (k : RegKind) (i j : Nat) (v : W32) : (setCfg s k i j v).canAcc = s.canAcc := rfl
@[simp] theorem setCfg_canary (s : State) (k : RegKind) (i j : Nat) (v : W32) : (setCfg s k i j v).canary = s.canary := rfl
@[simp] theorem setCfg_counts (s : State) (k : RegKind) (i j : Nat) (v : W32) : (setCfg s k i j v).counts = s.counts := rfl
@[simp] theorem setCfg_shadows (s : State) (k : RegKind) (i j : Nat) (v : W32) : (setCfg s k i j v).shadows = s.shadows := rfl
@[simp] theorem setCfg_events (s : State) (k : RegKind) (i j : Nat) (v : W32) : (setCfg s k i j v).events = s.events := rfl
@[simp] theorem setCfg_assay (s : State) (k : RegKind) (i j : Nat) (v : W32) : (setCfg s k i j v).assay = s.assay := rfl

/-! ### Commands of the management tree (13, R309) -/

/-- A new command runs, its answer is kept and goes out. -/
theorem State.tree_runs (s : State) (seq : W32) (run : State → State × List Word) (hm : s.managed = true) (hs : s.hf.lastSeq ≠ some seq) :
    s.tree seq run = ({ (run s).1 with hf := { (run s).1.hf with lastSeq := some seq, lastAnswer := (run s).2 } }).emit (.answer seq (run s).2) := by
  simp [State.tree, hm, hs]

/-- A repeated SEQ has its answer given again, and nothing else happens. -/
theorem State.tree_repeat (s : State) (seq : W32) (run : State → State × List Word) (hm : s.managed = true) (hs : s.hf.lastSeq = some seq) :
    s.tree seq run = s.emit (.answer seq s.hf.lastAnswer) := by
  simp [State.tree, hm, hs]

/-- While management is down a command of the tree has no effect. -/
theorem State.tree_down (s : State) (seq : W32) (run : State → State × List Word) (hm : s.managed = false) : s.tree seq run = s := by
  simp [State.tree, hm]

/-! ### Bytes (04, R92; 05, R126) -/

/-- A byte read after a write of a byte memory. -/
theorem Mem.read_write {m : Tab Byte} (h : Memory.wf m = true) (a b : Nat) (x : Byte) :
    Mem.read (Mem.write m a x) b = if b = a then x else Mem.read m b := Tab.get_write h a b x

/-- A write keeps the canonical form of a byte memory. -/
theorem Memory.wf_write {m : Tab Byte} (h : Memory.wf m = true) (a : Nat) (x : Byte) : Memory.wf (Mem.write m a x) = true := Tab.wf_write a x h

/-- Taking bytes out keeps it. -/
theorem Memory.wf_clear {m : Tab Byte} (h : Memory.wf m = true) (p : Nat → Bool) : Memory.wf (Tab.clear m p) = true := Tab.wf_clear p h

@[simp] theorem Memory.wf_nil : Memory.wf [] = true := rfl

end Sys2Proof.Machine
end

