-- ==== Sys2Proof/Laws/Memory.lean ====
section
/-! SUPPORT. Every operation over the stores and the HBM keeps the canonical form of the memories, and what each of them changes (04, R92; 05,
R117, R121, R124-R126, R136). -/

namespace Sys2Proof.Machine

variable {α : Type}

/-- Two values put at one key: the later stands. -/
theorem Tab.put_put (m : Tab α) (a : Nat) (x y : α) : Tab.put (Tab.put m a x) a y = Tab.put m a y := by
  induction m with
  | nil => simp [Tab.put]
  | cons e m ih =>
    obtain ⟨k, v⟩ := e
    by_cases h1 : a < k
    · simp [Tab.put, h1]
    · by_cases h2 : a = k
      · subst h2; simp [Tab.put]
      · simp [Tab.put, h1, h2, ih]

/-- Entries taken out by their keys leave every other key as it was. -/
theorem Tab.find_filter (m : Tab α) (p : Nat → Bool) (a : Nat) : Tab.find (m.filter fun e => p e.1) a = if p a = true then Tab.find m a else none := by
  induction m with
  | nil => simp [Tab.find]
  | cons e m ih =>
    obtain ⟨k, v⟩ := e
    by_cases hk : p k = true
    · simp only [List.filter_cons, hk, if_true, Tab.find, ih]
      by_cases ha : a = k
      · subst ha; simp [hk]
      · simp [ha]
    · rw [List.filter_cons, if_neg hk, ih, Tab.find]
      by_cases ha : a = k
      · subst ha; simp [hk]
      · simp [ha]

/-- A change of the values alone is read through. -/
theorem Tab.find_map (m : Tab α) (f : Nat → α → α) (a : Nat) : Tab.find (m.map fun e => (e.1, f e.1 e.2)) a = (Tab.find m a).map (f a) := by
  induction m with
  | nil => rfl
  | cons e m ih =>
    obtain ⟨k, v⟩ := e
    simp only [List.map_cons, Tab.find]
    by_cases ha : a = k
    · subst ha; simp
    · simp [ha, ih]

/-- The canonical form depends on the three memories alone. -/
theorem State.memoryWf_congr {s t : State} (h1 : t.coreMem = s.coreMem) (h2 : t.cluMem = s.cluMem) (h3 : t.hbm = s.hbm) (h : s.memoryWf) : t.memoryWf := by
  unfold State.memoryWf at *; rw [h1, h2, h3]; exact h

/-- A table of memories all in canonical form stays so with one more in it. -/
theorem wf_put {m : Tab (Tab Byte)} {k : Nat} {x : Tab Byte} (h : ∀ j, Memory.wf (Tab.get [] m j) = true) (hx : Memory.wf x = true) (j : Nat) :
    Memory.wf (Tab.get [] (Tab.put m k x) j) = true := by
  rw [Tab.get_put]; split
  · exact hx
  · exact h j

theorem wf_keys {m : Tab (Tab Byte)} (p : Nat → Bool) (h : ∀ j, Memory.wf (Tab.get [] m j) = true) (j : Nat) :
    Memory.wf (Tab.get [] (m.filter fun e => p e.1) j) = true := by
  unfold Tab.get; rw [Tab.find_filter]; split
  · exact h j
  · rfl

/-! ### The stores of a core (04, R92) -/

/-- A byte about to change touches the read-ahead of its core, and the counter of free values. -/
theorem State.noteAhead_frame (s : State) (c : CoreId) (o : Nat) : s.noteAhead c o = { s with cores := (s.noteAhead c o).cores, fresh := (s.noteAhead c o).fresh } := by
  unfold State.noteAhead; dsimp only; split <;> rfl

/-- A byte written in a store changes the stores, and the read-ahead. -/
theorem State.writeSt_frame (s : State) (c : CoreId) (a : Int) (b : Byte) :
    s.writeSt c a b = { s with cores := (s.writeSt c a b).cores, fresh := (s.writeSt c a b).fresh, coreMem := (s.writeSt c a b).coreMem, cluMem := (s.writeSt c a b).cluMem } := by
  unfold State.writeSt; split
  · dsimp only; rw [State.noteAhead_frame]
  · rfl
  · rfl

theorem State.memoryWf_writeSt {s : State} (h : s.memoryWf) (c : CoreId) (a : Int) (b : Byte) : (s.writeSt c a b).memoryWf := by
  unfold State.writeSt; split
  · dsimp only; rw [State.noteAhead_frame]
    exact ⟨wf_put h.1 (Memory.wf_write (h.1 _) _ _), h.2.1, h.2.2⟩
  · exact ⟨h.1, wf_put h.2.1 (Memory.wf_write (h.2.1 _) _ _), h.2.2⟩
  · exact h

theorem State.memoryWf_writeStN {s : State} (h : s.memoryWf) (c : CoreId) (a : Int) (bs : List Byte) : (s.writeStN c a bs).memoryWf := by
  induction bs generalizing s a with
  | nil => exact h
  | cons b bs ih => rw [State.writeStN]; exact ih (State.memoryWf_writeSt h c a b) (a + 1)

theorem State.memoryWf_writeStAt {s : State} (h : s.memoryWf) (c : CoreId) (l : List (Int × Byte)) : (s.writeStAt c l).memoryWf := by
  unfold State.writeStAt
  induction l generalizing s with
  | nil => exact h
  | cons e l ih => exact ih (State.memoryWf_writeSt h c e.1 e.2)

/-! ### The region of a partition (05, R124-R126) -/

/-- The extents of a partition are registers. -/
theorem State.extents_congr {s t : State} (h : t.regs = s.regs) (n : Nat) : t.extents n = s.extents n := by
  unfold State.extents cf cfg; rw [h]

/-- A byte written in a region changes the HBM alone. -/
theorem State.writeHbm_frame (s : State) (n a : Nat) (b : Byte) : s.writeHbm n a b = { s with hbm := (s.writeHbm n a b).hbm } := by
  unfold State.writeHbm; split
  · split <;> rfl
  · rfl

theorem State.writeHbmN_frame (s : State) (n a : Nat) (bs : List Byte) : s.writeHbmN n a bs = { s with hbm := (s.writeHbmN n a bs).hbm } := by
  induction bs generalizing s a with
  | nil => rfl
  | cons b bs ih =>
    rw [State.writeHbmN, ih (s.writeHbm n a b) (a + 1), State.writeHbm_frame s n a b]

theorem State.memoryWf_writeHbm {s : State} (h : s.memoryWf) (n a : Nat) (b : Byte) : (s.writeHbm n a b).memoryWf := by
  unfold State.writeHbm; split
  · split
    · exact h
    · exact ⟨h.1, h.2.1, wf_put h.2.2 (Memory.wf_write (h.2.2 _) _ _)⟩
  · exact h

theorem State.memoryWf_writeHbmN {s : State} (h : s.memoryWf) (n a : Nat) (bs : List Byte) : (s.writeHbmN n a bs).memoryWf := by
  induction bs generalizing s a with
  | nil => exact h
  | cons b bs ih => rw [State.writeHbmN]; exact ih (State.memoryWf_writeHbm h n a b) (a + 1)

/-- A tripped stack takes no byte (05, R134). -/
theorem State.writeHbm_tripped {s : State} (n a : Nat) (x : Byte) {k y : Nat} (ha : locate (s.extents n) a = some (k, y)) (ht : (s.stack k).tripped = true) :
    s.writeHbm n a x = s := by unfold State.writeHbm; rw [ha]; simp [ht]

/-- A byte of the region read after a byte was written on a stack that runs: the byte written at the same stack byte, and any other as before. -/
theorem State.readHbm_writeHbm {s : State} (h : s.memoryWf) (n a b : Nat) (x : Byte) {k y : Nat} (ha : locate (s.extents n) a = some (k, y))
    (ht : (s.stack k).tripped = false) :
    (s.writeHbm n a x).readHbm n b = if locate (s.extents n) b = some (k, y) then x else s.readHbm n b := by
  have e : (s.writeHbm n a x).extents n = s.extents n := State.extents_congr (by rw [State.writeHbm_frame]) n
  have w : (s.writeHbm n a x).hbm = Tab.put s.hbm k (Mem.write (Tab.get [] s.hbm k) y x) := by unfold State.writeHbm; rw [ha]; simp [ht]
  unfold State.readHbm; rw [e, w]
  cases hb : locate (s.extents n) b with
  | none => simp
  | some kz =>
    obtain ⟨j, z⟩ := kz
    dsimp only
    by_cases hj : j = k
    · subst hj
      rw [Tab.get_put_same, Mem.read_write (h.2.2 j)]
      by_cases hz : z = y
      · subst hz; simp
      · simp [hz]
    · rw [Tab.get_put_other _ _ _ hj]; simp [hj]

/-! ### Zeroing (05, R121, R136) -/

theorem State.memoryWf_zeroExtents {s : State} (h : s.memoryWf) (n : Nat) : (s.zeroExtents n).memoryWf := by
  unfold State.zeroExtents
  generalize s.extents n = es
  induction es generalizing s with
  | nil => exact h
  | cons e es ih =>
    simp only [List.foldl_cons]
    apply ih
    split
    · exact h
    · exact ⟨h.1, h.2.1, wf_put h.2.2 (Memory.wf_clear (h.2.2 _) _)⟩

theorem State.memoryWf_zeroStores {s : State} (h : s.memoryWf) (n : Nat) : (s.zeroStores n).memoryWf :=
  ⟨wf_keys (fun k => !s.soleClu n (k / 8)) h.1, wf_keys (fun k => !s.soleClu n k) h.2.1, h.2.2⟩

/-- Outputs and stored registers are no memory. -/
theorem State.memoryWf_emit {s : State} (h : s.memoryWf) (o : Out) : (s.emit o).memoryWf := State.memoryWf_congr rfl rfl rfl h
theorem setCfg_memoryWf {s : State} (h : s.memoryWf) (k : RegKind) (i j : Nat) (v : W32) : (setCfg s k i j v).memoryWf := State.memoryWf_congr rfl rfl rfl h

/-- The memories at reset. -/
theorem State.reset_memoryWf : State.reset.memoryWf := ⟨fun _ => rfl, fun _ => rfl, fun _ => rfl⟩

end Sys2Proof.Machine
end

