-- ==== Sys2Proof/Laws/Stops.lean ====
section
/-! SUPPORT. What counting, records for hosts and the stop of a partition can do: which fields of the state they touch, and the partition states
that a stop leaves (12, R283-R285; 13, R289-R291, R304). -/

namespace Sys2Proof.Machine

/-! ### Counting (13, R300, R304) -/

/-- An event counted changes the counters alone. -/
theorem State.count_frame (s : State) (e : Ev) (w : Where) (p : Option Nat) :
    s.count e w p = { s with events := (s.count e w p).events, counts := (s.count e w p).counts } := rfl
theorem State.countN_frame (s : State) (e : Ev) (w : Where) (p : Option Nat) (n : Nat) :
    s.countN e w p n = { s with events := (s.countN e w p n).events, counts := (s.countN e w p n).counts } := rfl
/-- A canary input changes the accumulators alone. -/
theorem State.canInput_frame (s : State) (p i n : Nat) : s.canInput p i n = { s with canAcc := (s.canInput p i n).canAcc } := rfl
@[simp] theorem State.count_part (s : State) (e : Ev) (w : Where) (p : Option Nat) (n : Nat) : (s.count e w p).part n = s.part n := rfl
@[simp] theorem State.canInput_part (s : State) (p i k n : Nat) : (s.canInput p i k).part n = s.part n := rfl
@[simp] theorem State.platform_part (s : State) (k : EventKind) (a n : Nat) : (s.platform k a).part n = s.part n := by simp [State.part]

/-! ### What a stop touches -/

/-- The state differs in what a fault-stop touches, and in nothing else. -/
def State.stopTouch (s t : State) : Prop :=
  t = { s with parts := t.parts, cores := t.cores, rings := t.rings, ports := t.ports, outbox := t.outbox, hf := t.hf, events := t.events, counts := t.counts,
               jobStopsSeen := t.jobStopsSeen }

theorem State.stopTouch_refl (s : State) : s.stopTouch s := rfl
theorem State.stopTouch_trans {s t u : State} (h : s.stopTouch t) (k : t.stopTouch u) : s.stopTouch u := by
  unfold State.stopTouch at *
  rw [k, h]
theorem State.stopTouch_foldl {α : Type} (f : State → α → State) (h : ∀ (s : State) a, s.stopTouch (f s a)) (l : List α) (s : State) : s.stopTouch (l.foldl f s) := by
  induction l generalizing s with
  | nil => exact rfl
  | cons a l ih => exact State.stopTouch_trans (h s a) (ih (f s a))

/-- Neither the registers, nor the memories, nor the flash, nor the count, nor the queue of commands. -/
theorem State.stopTouch_keeps {s t : State} (h : s.stopTouch t) :
    t.regs = s.regs ∧ t.hbm = s.hbm ∧ t.coreMem = s.coreMem ∧ t.cluMem = s.cluMem ∧ t.flash = s.flash ∧ t.tb = s.tb ∧ t.pending = s.pending := by
  unfold State.stopTouch at h; rw [h]; exact ⟨rfl, rfl, rfl, rfl, rfl, rfl, rfl⟩

theorem State.pushRec_touch (s : State) (q : Nat) (r : Rec) : s.stopTouch (s.pushRec q r) := rfl
theorem State.updPart_touch (s : State) (n : Nat) (f : Part → Part) : s.stopTouch (s.updPart n f) := rfl
theorem State.finish_touch (s : State) (n : Nat) (d : Desc) (st : Nat) : s.stopTouch (s.finish n d st) := rfl
theorem State.count_touch (s : State) (e : Ev) (w : Where) (p : Option Nat) : s.stopTouch (s.count e w p) := rfl
theorem State.platform_touch (s : State) (k : EventKind) (a : Nat) : s.stopTouch (s.platform k a) := by unfold State.platform; split <;> rfl
theorem State.unsolicited_touch (s : State) (n : Nat) (r : Rec) : s.stopTouch (s.unsolicited n r) := by unfold State.unsolicited; split <;> rfl
theorem State.event_touch (s : State) (n ev : Nat) (w : Word) : s.stopTouch (s.event n ev w) := by
  unfold State.event; dsimp only; split
  · rfl
  · exact State.unsolicited_touch s n _
theorem State.abortFlight_touch (s : State) (n : Nat) : s.stopTouch (s.abortFlight n) :=
  State.stopTouch_foldl _ (fun s d => State.finish_touch s n d stABORTED) _ s
theorem State.repaintReached_touch (s : State) (r : Repaint) (st : Nat) : s.stopTouch (s.repaintReached r st) := by
  unfold State.repaintReached; split
  · rfl
  · split <;> rfl
theorem State.repaintLeft_touch (s : State) (r : Option Repaint) : s.stopTouch (s.repaintLeft r) := by
  unfold State.repaintLeft; split
  · exact State.repaintReached_touch s _ _
  · rfl
theorem State.discardUnissued_touch (s : State) (n : Nat) : s.stopTouch (s.discardUnissued n) :=
  State.stopTouch_foldl _ (fun s c => by dsimp only; split <;> rfl) _ s
theorem State.amend_touch (s : State) (n : Nat) (old new : FaultRec) : s.stopTouch (s.amend n old new) := by
  unfold State.amend; dsimp only; split <;> rfl
theorem State.amendReason_touch (s : State) (key old new : Nat) : s.stopTouch (s.amendReason key old new) := by
  unfold State.amendReason
  exact State.stopTouch_trans (t := { s with ports := _ }) rfl (State.stopTouch_foldl _ (fun s e => by
    split
    · split
      · exact State.amend_touch _ _ _ _
      · rfl
    · rfl) _ _)

/-! ### The states of partitions -/

/-- Every partition is in the state it was in. -/
def State.stSame (s t : State) : Prop := ∀ m, (t.part m).st = (s.part m).st

/-- Every partition is in the state it was in, but for one that a cause of the code takes out of its state: that one may stand in Fault-stop. -/
def State.stStops (s t : State) (code : Nat) : Prop :=
  ∀ m, (t.part m).st = (s.part m).st ∨ ((s.part m).stopsFor code = true ∧ (t.part m).st = .faultStop)

/-- Which causes stop a partition depends on its state alone. -/
theorem Part.stopsFor_congr {p q : Part} (h : p.st = q.st) (code : Nat) : p.stopsFor code = q.stopsFor code := by unfold Part.stopsFor; rw [h]
/-- What a JOB_STOP takes out of its state, every cause does. -/
theorem Part.stopsFor_of_jobStop {p : Part} (h : p.stopsFor cJOBSTOP = true) (code : Nat) : p.stopsFor code = true := by
  unfold Part.stopsFor at *; revert h; cases p.st <;> simp
theorem Part.stopsFor_run {p : Part} (h : p.st = .run ∨ p.st = .hold) (code : Nat) : p.stopsFor code = true := by
  unfold Part.stopsFor; rcases h with h | h <;> simp [h]

theorem State.stSame_refl (s : State) : s.stSame s := fun _ => rfl
theorem State.stSame_trans {s t u : State} (h : s.stSame t) (k : t.stSame u) : s.stSame u := fun m => (k m).trans (h m)
theorem State.stSame_stops {s t : State} (h : s.stSame t) (code : Nat) : s.stStops t code := fun m => .inl (h m)
theorem State.stStops_trans {s t u : State} {code : Nat} (h : s.stStops t code) (k : t.stStops u code) : s.stStops u code := by
  intro m
  rcases k m with e | ⟨e, f⟩
  · rw [e]; exact h m
  · rcases h m with a | ⟨a, b⟩
    · exact .inr ⟨(Part.stopsFor_congr a code) ▸ e, f⟩
    · exact .inr ⟨a, f⟩
theorem State.stSame_foldl {α : Type} (f : State → α → State) (h : ∀ (s : State) a, s.stSame (f s a)) (l : List α) (s : State) : s.stSame (l.foldl f s) := by
  induction l generalizing s with
  | nil => exact fun _ => rfl
  | cons a l ih => exact State.stSame_trans (h s a) (ih (f s a))
theorem State.stStops_foldl {α : Type} {code : Nat} (f : State → α → State) (h : ∀ (s : State) a, s.stStops (f s a) code) (l : List α) (s : State) :
    s.stStops (l.foldl f s) code := by
  induction l generalizing s with
  | nil => exact fun _ => .inl rfl
  | cons a l ih => exact State.stStops_trans (h s a) (ih (f s a))

theorem State.updPart_stSame (s : State) (n : Nat) (f : Part → Part) (h : (f (s.part n)).st = (s.part n).st) : s.stSame (s.updPart n f) := by
  intro m; unfold State.updPart State.setPart State.part; rw [Tab.get_put]; split
  · rename_i e; subst e; exact h
  · rfl
theorem State.parts_stSame {s t : State} (h : t.parts = s.parts) : s.stSame t := by intro m; unfold State.part; rw [h]
theorem State.pushRec_stSame (s : State) (q : Nat) (r : Rec) : s.stSame (s.pushRec q r) := fun _ => rfl
theorem State.finish_stSame (s : State) (n : Nat) (d : Desc) (st : Nat) : s.stSame (s.finish n d st) := by
  unfold State.finish State.complete; exact State.stSame_trans (State.updPart_stSame s n _ (by dsimp only)) (State.pushRec_stSame _ _ _)
theorem State.event_stSame (s : State) (n ev : Nat) (w : Word) : s.stSame (s.event n ev w) := by
  unfold State.event; dsimp only; split
  · exact State.updPart_stSame s n _ rfl
  · unfold State.unsolicited; split
    · exact fun _ => rfl
    · exact State.updPart_stSame s n _ rfl
theorem State.abortFlight_stSame (s : State) (n : Nat) : s.stSame (s.abortFlight n) := State.stSame_foldl _ (fun s d => State.finish_stSame s n d stABORTED) _ s
theorem State.repaintLeft_stSame (s : State) (r : Option Repaint) : s.stSame (s.repaintLeft r) := by
  unfold State.repaintLeft; split
  · unfold State.repaintReached; split
    · exact fun _ => rfl
    · split
      · exact State.finish_stSame s _ _ _
      · exact fun _ => rfl
  · exact fun _ => rfl
theorem State.discardUnissued_stSame (s : State) (n : Nat) : s.stSame (s.discardUnissued n) :=
  State.stSame_foldl _ (fun s c => by dsimp only; split <;> exact fun _ => rfl) _ s
theorem State.amend_stSame (s : State) (n : Nat) (old new : FaultRec) : s.stSame (s.amend n old new) := by
  have h := State.updPart_stSame s n (fun p => { p with frec := some new, evq := replaceLast (fun (r : Rec) => r.tells n old.w0) (fun r => { r with detail := new.w0 }) p.evq }) rfl
  unfold State.amend; dsimp only; split <;> exact fun m => h m
theorem State.amendReason_stSame (s : State) (key old new : Nat) : s.stSame (s.amendReason key old new) := by
  unfold State.amendReason
  exact State.stSame_trans (t := { s with ports := _ }) (fun _ => rfl) (State.stSame_foldl _ (fun s e => by
    split
    · split
      · exact State.amend_stSame _ _ _ _
      · exact fun _ => rfl
    · exact fun _ => rfl) _ _)

/-- A step of a stop that leaves every partition in its state. -/
def State.stays (s t : State) : Prop := s.stSame t ∧ s.stopTouch t
theorem State.stays_trans {s t u : State} (h : s.stays t) (k : t.stays u) : s.stays u := ⟨State.stSame_trans h.1 k.1, State.stopTouch_trans h.2 k.2⟩
theorem State.stays_ite {s x y : State} {p : Prop} {i : Decidable p} (h : s.stays x) (k : s.stays y) : s.stays (if p then x else y) := by split <;> assumption
theorem State.updPart_stays (s : State) (n : Nat) (f : Part → Part) (h : (f (s.part n)).st = (s.part n).st) : s.stays (s.updPart n f) := ⟨State.updPart_stSame s n f h, rfl⟩
theorem State.count_stays (s : State) (e : Ev) (w : Where) (p : Option Nat) : s.stays (s.count e w p) := ⟨fun _ => rfl, rfl⟩
theorem State.amend_stays (s : State) (n : Nat) (old new : FaultRec) : s.stays (s.amend n old new) := ⟨State.amend_stSame s n old new, State.amend_touch s n old new⟩
theorem State.amendReason_stays (s : State) (key old new : Nat) : s.stays (s.amendReason key old new) := ⟨State.amendReason_stSame s key old new, State.amendReason_touch s key old new⟩

/-! ### The stop of a partition (13, R289-R291) -/

/-- What follows once a partition stands in Fault-stop: requests are discarded, shafts' flits dropped, descriptors abort, and the event is reported and counted. -/
theorem stop_end (t : State) (ps : State → Tab FPort) (n k : Nat) (r : Option Repaint) (w : Word) :
    let u := t.discardUnissued n
    let v := ((((State.abortFlight { u with ports := ps u } n).repaintLeft r).platform .faultStop k).event n 1 w).count .faultStop (.die 6) (some n)
    t.stSame v ∧ t.stopTouch v := by
  dsimp only
  have a1 := State.discardUnissued_stSame t n
  have a2 := State.discardUnissued_touch t n
  generalize t.discardUnissued n = u at *
  have b1 : u.stSame { u with ports := ps u } := fun _ => rfl
  have b2 : u.stopTouch { u with ports := ps u } := rfl
  generalize ({ u with ports := ps u } : State) = x at *
  have c1 := State.abortFlight_stSame x n
  have c2 := State.abortFlight_touch x n
  generalize x.abortFlight n = y at *
  have d1 := State.repaintLeft_stSame y r
  have d2 := State.repaintLeft_touch y r
  generalize y.repaintLeft r = z at *
  have e1 : z.stSame (z.platform .faultStop k) := fun m => by rw [State.platform_part]
  have e2 := State.platform_touch z .faultStop k
  generalize z.platform .faultStop k = a at *
  have f1 := State.event_stSame a n 1 w
  have f2 := State.event_touch a n 1 w
  generalize a.event n 1 w = b at *
  exact ⟨State.stSame_trans a1 (State.stSame_trans b1 (State.stSame_trans c1 (State.stSame_trans d1 (State.stSame_trans e1 (State.stSame_trans f1 fun _ => rfl))))),
    State.stopTouch_trans a2 (State.stopTouch_trans b2 (State.stopTouch_trans c2 (State.stopTouch_trans d2 (State.stopTouch_trans e2 (State.stopTouch_trans f2 rfl)))))⟩

/-- Everything a stop of one partition can do to the states of partitions, and all that it touches: it takes the partition out of a state that the cause ends, and leaves
every other state. -/
theorem State.stopOne_states (s : State) (n : Nat) (c : Cause) :
    s.stopTouch (s.stopOne n c) ∧ ((s.part n).stopsFor c.code = true → ((s.stopOne n c).part n).st = .faultStop) ∧
    ((s.part n).stopsFor c.code = false → ((s.stopOne n c).part n).st = (s.part n).st) ∧
    ∀ m, m ≠ n → ((s.stopOne n c).part m).st = (s.part m).st := by
  unfold State.stopOne; dsimp only; split
  · rename_i hr
    have same : ∀ (p : Part), (s.setPart n p).part n = p := fun p => by unfold State.setPart State.part; rw [Tab.get_put_same]
    refine ⟨?_, fun _ => ?_, fun h => absurd hr (by simp [h]), fun m hm => ?_⟩
    · exact State.stopTouch_trans (t := s.setPart n _) rfl (stop_end _ (fun u => u.ports.map fun (e : Nat × FPort) => (e.1, { e.2 with shaftq := e.2.shaftq.filter fun f => f.pt ≠ n })) _ _ _ _).2
    · refine ((stop_end _ (fun u => u.ports.map fun (e : Nat × FPort) => (e.1, { e.2 with shaftq := e.2.shaftq.filter fun f => f.pt ≠ n })) _ _ _ _).1 n).trans ?_
      rw [same]
    · refine ((stop_end _ (fun u => u.ports.map fun (e : Nat × FPort) => (e.1, { e.2 with shaftq := e.2.shaftq.filter fun f => f.pt ≠ n })) _ _ _ _).1 m).trans ?_
      unfold State.setPart State.part; rw [Tab.get_put_other _ _ _ hm]
  · rename_i hr
    have keep : ∀ t : State, s.stSame t ∧ s.stopTouch t → s.stopTouch t ∧ ((s.part n).stopsFor c.code = true → (t.part n).st = .faultStop) ∧
        ((s.part n).stopsFor c.code = false → (t.part n).st = (s.part n).st) ∧ ∀ m, m ≠ n → (t.part m).st = (s.part m).st :=
      fun t h => ⟨h.2, fun a => absurd a hr, fun _ => h.1 n, fun m _ => h.1 m⟩
    apply keep
    split
    · split
      · split
        · exact ⟨State.amend_stSame _ _ _ _, State.amend_touch _ _ _ _⟩
        · have a := State.updPart_stays s n (fun p => { p with raised := c.source ++ p.raised }) rfl
          generalize (s.updPart n fun p => { p with raised := c.source ++ p.raised }) = u at *
          have b : ∀ (p : Prop) (i : Decidable p) old new, s.stays ((@ite State p i u (u.count .secondaryCause (.die 6) (some n))).amend n old new) := fun _ _ _ _ =>
            State.stays_trans (State.stays_ite a (State.stays_trans a (State.count_stays _ .secondaryCause (.die 6) (some n)))) (State.amend_stays _ n _ _)
          exact State.stays_ite (State.stays_trans (b _ _ _ _) (State.amendReason_stays _ _ _ _)) (b _ _ _ _)
      · exact ⟨State.updPart_stSame s n (fun p => { p with frec := _, raised := _ }) rfl, rfl⟩
    · exact ⟨fun _ => rfl, rfl⟩

theorem State.stopOne_touch (s : State) (n : Nat) (c : Cause) : s.stopTouch (s.stopOne n c) := (State.stopOne_states s n c).1
theorem State.stopOne_stops (s : State) (n : Nat) (c : Cause) : s.stStops (s.stopOne n c) c.code := by
  intro m
  have h := (State.stopOne_states s n c).2
  by_cases hm : m = n
  · subst hm
    cases hr : (s.part m).stopsFor c.code with
    | true => exact .inr ⟨rfl, h.1 hr⟩
    | false => exact .inl (h.2.1 hr)
  · exact .inl (h.2.2 m hm)
theorem State.stopOnes_touch (s : State) (l : List Nat) (c : Cause) : s.stopTouch (l.foldl (fun s m => s.stopOne m c) s) :=
  State.stopTouch_foldl _ (fun s m => State.stopOne_touch s m c) l s
theorem State.stopOnes_stops (s : State) (l : List Nat) (c : Cause) : s.stStops (l.foldl (fun s m => s.stopOne m c) s) c.code :=
  State.stStops_foldl _ (fun s m => State.stopOne_stops s m c) l s

/-- A flood queues sets at ports, and notes the stop (08, R187). -/
theorem State.flood_frame (s : State) (b : JobStopBody) (k : Bool) :
    s.flood b k = { s with ports := (s.flood b k).ports, jobStopsSeen := (s.flood b k).jobStopsSeen } := by
  have key : ∀ (l : List Nat) (t : State), (l.foldl (fun s p => if s.jobStopPort p ∧ s.portHasKey p b.key.toNat then s.queueJobStop p b else s) t) =
      { t with ports := (l.foldl (fun s p => if s.jobStopPort p ∧ s.portHasKey p b.key.toNat then s.queueJobStop p b else s) t).ports } := by
    intro l; induction l with
    | nil => intro t; rfl
    | cons p l ih =>
      intro t; simp only [List.foldl_cons]; split
      · rw [ih]; rfl
      · rw [ih]
  unfold State.flood; dsimp only
  cases k <;> by_cases h : s.stopSeen b = true <;> by_cases g : s.pairSeen b = true <;> simp only [h, g, if_true, if_false, Bool.false_eq_true] <;>
    first
    | rw [key]
    | rfl

/-- One flood of a cause, and the stops that follow it here. -/
theorem State.floodKey_states (s : State) (b : JobStopBody) (k : Bool) (l : List Nat) (j : State → Cause) (hc : ∀ s, (j s).code = cJOBSTOP) :
    s.stopTouch (l.foldl (fun s m => s.stopOne m (j s)) (s.flood b k)) ∧ s.stStops (l.foldl (fun s m => s.stopOne m (j s)) (s.flood b k)) cJOBSTOP := by
  have h1 : s.stopTouch (s.flood b k) := by rw [State.flood_frame]; rfl
  have h2 : s.stStops (s.flood b k) cJOBSTOP := fun m => by rw [State.flood_frame]; exact .inl rfl
  generalize s.flood b k = t at *
  exact ⟨State.stopTouch_trans h1 (State.stopTouch_foldl _ (fun s m => State.stopOne_touch s m (j s)) l t),
    State.stStops_trans h2 (State.stStops_foldl _ (fun s m => by have h := State.stopOne_stops s m (j s); rw [hc] at h; exact h) l t)⟩

/-- The floods of a cause, and the stops that follow them here. -/
theorem State.floodKeys_states (s : State) (code : Nat) (keys : List Nat) : s.stopTouch (s.floodKeys code keys) ∧ s.stStops (s.floodKeys code keys) cJOBSTOP := by
  have step (t : State) (key : Nat) := State.floodKey_states t (t.ownStop key code) false ((t.flood (t.ownStop key code) false).running key)
    (fun s => jobStopCause code s.domainNo s.devid) fun _ => rfl
  exact ⟨State.stopTouch_foldl _ (fun t key => (step t key).1) keys s, State.stStops_foldl _ (fun t key => (step t key).2) keys s⟩

/-- Everything a fault-stop of listed partitions can do to the states of partitions, and all that it touches: each listed one that the cause takes out of its state stands in
Fault-stop, any other is as it was, or has stopped out of Run or Hold. -/
theorem State.faultStopAll_states (s : State) (ns : List Nat) (c : Cause) :
    s.stopTouch (s.faultStopAll ns c) ∧ s.stStops (s.faultStopAll ns c) c.code ∧
      (∀ n ∈ ns, (s.part n).stopsFor c.code = true → ((s.faultStopAll ns c).part n).st = .faultStop) ∧
      ∀ n, n ∉ ns → (s.part n).stopsFor cJOBSTOP = false → ((s.faultStopAll ns c).part n).st = (s.part n).st := by
  have h1 := State.stopOnes_touch s ns c
  have h2 := State.stopOnes_stops s ns c
  have h3 : ∀ n ∈ ns, (s.part n).stopsFor c.code = true → ((ns.foldl (fun s n => s.stopOne n c) s).part n).st = .faultStop := by
    clear h1 h2
    induction ns generalizing s with
    | nil => intro n h; simp at h
    | cons a ns ih =>
      intro n hn hr
      simp only [List.foldl_cons]
      rcases State.stopOne_stops s a c n with e | ⟨_, e⟩
      · rcases List.mem_cons.1 hn with rfl | hn
        · have this := (State.stopOne_states s n c).2.1 hr
          rw [e] at this
          unfold Part.stopsFor at hr; rw [this] at hr; simp at hr
        · exact ih _ n hn ((Part.stopsFor_congr e c.code).trans hr)
      · rcases State.stopOnes_stops (s.stopOne a c) ns c n with f | ⟨f, _⟩
        · rw [f]; exact e
        · unfold Part.stopsFor at f; rw [e] at f; simp at f
  have h4 : ∀ n, n ∉ ns → ((ns.foldl (fun s n => s.stopOne n c) s).part n).st = (s.part n).st := by
    clear h1 h2 h3
    induction ns generalizing s with
    | nil => intro n _; rfl
    | cons a ns ih =>
      intro n hn
      simp only [List.foldl_cons]
      rw [ih _ n fun h => hn (List.mem_cons_of_mem _ h)]
      exact (State.stopOne_states s a c).2.2.2 n fun h => hn (by rw [h]; simp)
  unfold State.faultStopAll; dsimp only
  generalize ns.foldl (fun s n => s.stopOne n c) s = t at *
  split
  · exact ⟨h1, h2, h3, fun n hn _ => h4 n hn⟩
  · generalize dedup _ = keys
    have k := State.floodKeys_states t c.code keys
    refine ⟨State.stopTouch_trans h1 k.1, State.stStops_trans h2 fun m => ?_, fun n hn hr => ?_, fun n hn hj => ?_⟩
    · rcases k.2 m with e | ⟨e, f⟩
      · exact .inl e
      · exact .inr ⟨Part.stopsFor_of_jobStop e _, f⟩
    · rcases k.2 n with e | ⟨_, f⟩
      · rw [e]; exact h3 n hn hr
      · exact f
    · rcases k.2 n with e | ⟨e, _⟩
      · rw [e]; exact h4 n hn
      · rw [Part.stopsFor_congr (h4 n hn), hj] at e; simp at e

/-- The same for one partition. -/
theorem State.faultStop_states (s : State) (n : Nat) (c : Cause) :
    s.stopTouch (s.faultStop n c) ∧ s.stStops (s.faultStop n c) c.code ∧ ((s.part n).stopsFor c.code = true → ((s.faultStop n c).part n).st = .faultStop) ∧
      ∀ m, m ≠ n → (s.part m).stopsFor cJOBSTOP = false → ((s.faultStop n c).part m).st = (s.part m).st := by
  have h := State.faultStopAll_states s [n] c
  exact ⟨h.1, h.2.1, h.2.2.1 n (by simp), fun m hm => h.2.2.2 m (by simp [hm])⟩

/-- The canonical form is untouched by a stop. -/
theorem State.stopTouch_memoryWf {s t : State} (h : s.stopTouch t) (w : s.memoryWf) : t.memoryWf :=
  State.memoryWf_congr (State.stopTouch_keeps h).2.2.1 (State.stopTouch_keeps h).2.2.2.1 (State.stopTouch_keeps h).2.1 w

end Sys2Proof.Machine
end

