-- ==== Sys2Proof/Laws/Rows.lean ====
section
/-! SUPPORT. The shared frames of rows: what a row of the sequencer, of a queue and of a descriptor does once its conditions hold (04, R88-R90, R107;
12, R271, R274). -/

namespace Sys2Proof.Machine

/-- Reads that find no error change nothing (05, R117). -/
theorem State.readErrors_clean (s : State) (n : Nat) (c : CoreId) (q cmd : Nat) (as : List Int) (stop : Bool) {es : List EccAt} (h : cleanReads es) :
    s.readErrors n c q cmd as stop es = s := by
  have fold : ∀ (l : List EccAt) (s : State), (∀ e ∈ l, e.ecc = .clean) → l.foldl (fun s e => s.readError n c e) s = s := by
    intro l; induction l with
    | nil => intro s _; rfl
    | cons e l ih =>
      intro s hl; rw [List.foldl_cons]
      have : s.readError n c e = s := by unfold State.readError; rw [hl e (by simp)]
      rw [this]; exact ih s fun x hx => hl x (by simp [hx])
  have mine : ∀ e ∈ es.filter (fun e => as.contains (e.addr : Int)), e.ecc = .clean := fun e he => h e (List.mem_filter.1 he).1
  unfold State.readErrors; dsimp only
  rw [fold _ _ mine, List.find?_eq_none.2 (fun e he => by rw [mine e he]; simp)]

/-- Where the sequencer is about to issue a command of a row's kind, the row does what the command says. -/
theorem State.issueRow_issues {s : State} {c : CoreId} {ecc : List EccAt} {n : Nat} {q : Cmd} (h : s.issues c ecc n q) (row : Cmd → Bool)
    (act : State → Nat → Cmd → State) (hr : row q = true) : s.issueRow c ecc row act = act s n q := by
  obtain ⟨hp, hc, hrun, hn, hpo, he, hnb, hck, hpr⟩ := h
  have hi : q.isFor row = true := by simp [Cmd.isFor, hr]
  have hd : s.detects n c 4 = true := by simp [State.detects, hrun]
  unfold State.cmdBytes at hpo
  unfold State.issueRow
  simp only [hp, hc, if_true]
  rw [hpo]
  simp only [State.readErrors_clean s n c _ _ _ _ he]
  simp [hn, hi, hd, hck, hpr, hrun, Nat.not_lt.mpr hnb]

/-! ### The steps of passes (02, R42, R43) -/

/-- Where nothing runs in any engine, no step is due. -/
theorem State.catchUp_idle {s : State} (h : ∀ e ∈ s.cores, e.2.run = []) : s.catchUp = s := by
  have : s.cores.filter (fun e => !e.2.run.isEmpty) = [] := List.filter_eq_nil_iff.2 fun e he => by simp [h e he]
  unfold State.catchUp; rw [this]; rfl

/-- The end of a wait for lamps, and of a stall, touches what was waited for and the time lost. -/
theorem Core.endWait_frame (k : Core) (a b t : Nat) : ∃ l m, k.endWait a b t = { k with lampWait := l, lost := m } := by
  unfold Core.endWait Core.addLost; split
  · split
    · exact ⟨_, _, rfl⟩
    · exact ⟨_, _, rfl⟩
  · exact ⟨_, _, rfl⟩
theorem Core.endStall_frame (k : Core) (a t : Nat) : ∃ l m, k.endStall a t = { k with stalls := l, lost := m } := by
  unfold Core.endStall Core.addLost; split
  · exact ⟨_, _, rfl⟩
  · dsimp only; repeat' (split)
    all_goals exact ⟨_, _, rfl⟩

/-- A command enters the queue that has room for it, behind those in it, with its addresses as the scalars stand; every other queue stays. -/
theorem State.enqueue_enters {s : State} {c : CoreId} {n : Nat} {q : Cmd} (hl : ((s.core c).queue q.queue).length < queueDepth q.queue) :
    ∃ t y, s.enqueue n c q.queue q = t ∧ t = s.setCore c (t.core c) ∧
      (t.core c).queue q.queue = (s.core c).queue q.queue ++ [y] ∧ (∀ r, r ≠ q.queue → (t.core c).queue r = (s.core c).queue r) ∧
      y.cmd = q ∧ y.idx = (s.core c).pc ∧ y.gen = (s.core c).gen ∧
      y.a = (q.addrA : Int) + (if q.ixaEn then ((s.core c).scalar q.ixa).toInt else 0) ∧
      y.b = (q.addrB : Int) + (if q.ixbEn then ((s.core c).scalar q.ixb).toInt else 0) ∧
      t.core c = { (s.core c).after (t.core c) with queues := (t.core c).queues, issued := (s.core c).issued + 1, wpend := (t.core c).wpend, rpend := (t.core c).rpend } := by
  have own : ∀ k, (s.setCore c k).core c = k := fun k => by simp
  refine ⟨_, { (s.core c).queued q with cyc := s.cycles c, vc := if s.assayEn n then s.threadClock (threadKey c 4) else [] }, rfl, ?_⟩
  unfold State.enqueue
  simp only [hl, if_true]
  obtain ⟨l, m, e⟩ := Core.endWait_frame (s.core c) 4 7 s.now
  rw [e]
  refine ⟨by simp, ?_⟩
  simp only [own, Core.next, Core.goTo, Core.queue]
  refine ⟨by rw [Tab.get_put_same], fun r hr => by rw [Tab.get_put_other _ _ _ hr], ?_⟩
  simp [Core.queued, Core.after]

/-- Where a descriptor may start, its row starts it and does what its type says. -/
theorem State.descRow_starts {s : State} {pt : Pt} {tag : BitVec 16} {d : Desc} (h : s.descStarts pt tag d) (ok : Desc → Bool) (act : State → Nat → Desc → State)
    (ho : ok d = true) : s.descRow pt tag ok act = act (s.started pt.val d) pt.val d := by
  obtain ⟨hf, -, hm, ha, hs⟩ := h
  have hw : (s.part pt.val).waiting tag.toNat ok = some d := by
    unfold Part.waiting; rw [hf]; simp [ho, hm]
  unfold State.descRow; dsimp only
  rw [hw]; dsimp only
  rw [ha]; dsimp only
  rw [if_pos hs]

/-- A descriptor that starts changes its own progress alone. -/
theorem State.started_part (s : State) (n m : Nat) (d : Desc) :
    (s.started n d).part m = if m = n then { s.part n with flight := ((s.started n d).part n).flight } else s.part m := by
  unfold State.started State.updPart State.setPart State.part
  simp only [Tab.get_put]
  split
  · simp
  · rfl

/-- A descriptor that ends waits as ready, and its record waits for its ring. -/
theorem State.complete_posts (s : State) (n : Nat) (d : Desc) (r : Rec) : s.onlyPosts (s.complete n d r) n d r := by
  refine ⟨⟨?_, ?_, ?_⟩, ?_, ?_, rfl⟩
  · simp [State.complete, State.pushRec, State.updRing, State.setRing, State.ring, State.updPart, State.setPart, Tab.get_put_same]
  · intro q hq
    simp [State.complete, State.pushRec, State.updRing, State.setRing, State.ring, State.updPart, State.setPart, Tab.get_put_other _ _ _ hq]
  · simp [State.complete, State.pushRec, State.updRing, State.setRing, State.part, State.updPart, State.setPart, Tab.get_put_same, markReady]
  · simp [State.complete, State.pushRec, State.updRing, State.setRing, State.part, State.updPart, State.setPart, Tab.get_put_same, markReady]
  · intro m hm
    simp [State.complete, State.pushRec, State.updRing, State.setRing, State.part, State.updPart, State.setPart, Tab.get_put_other _ _ _ hm]

/-- The same for a descriptor that ends with a status and nothing else. -/
theorem State.finish_posts (s : State) (n : Nat) (d : Desc) (st : Nat) : s.onlyPosts (s.finish n d st) n d (d.record n st) :=
  State.complete_posts s n d _

/-- A list of outputs is given in order. -/
theorem foldl_emit {α : Type} (f : α → Out) (l : List α) (s : State) :
    l.foldl (fun s e => s.emit (f e)) s = { s with outbox := s.outbox ++ l.map f } := by
  induction l generalizing s with
  | nil => simp
  | cons e l ih => rw [List.foldl_cons, ih]; simp [State.emit]

/-! ### Loss of the dies (15, R337; log 13) -/

/-- Dies that lose their power have no partition left, and their count stands. -/
theorem State.dieLoss_absent (s : State) (b : Bool) (n : Nat) : ((s.dieLoss b).part n).st = .absent := by
  simp only [State.dieLoss, State.part, State.alarmEdge_parts, Tab.get]
  cases b
  · rfl
  · simp only [if_true]
    have h := Tab.find_map s.parts (fun _ (p : Part) => ({ Part.reset with galTags := p.galTags } : Part)) n
    have e : ∀ x : Option Part, ((x.map (fun p : Part => ({ Part.reset with galTags := p.galTags } : Part))).getD Part.reset).st = .absent := by intro x; cases x <;> rfl
    rw [← e, ← h]
@[simp] theorem State.dieLoss_power (s : State) (b : Bool) : (s.dieLoss b).power = s.power := by simp [State.dieLoss]
@[simp] theorem State.dieLoss_startup (s : State) (b : Bool) : (s.dieLoss b).startup = s.startup := by simp [State.dieLoss]
@[simp] theorem State.dieLoss_flash (s : State) (b : Bool) : (s.dieLoss b).flash = s.flash := by simp [State.dieLoss]
@[simp] theorem State.dieLoss_pending (s : State) (b : Bool) : (s.dieLoss b).pending = s.pending := by simp [State.dieLoss]
theorem State.dieLoss_stands (s : State) (b : Bool) : (s.dieLoss b).tb.running = false := by simp [State.dieLoss, State.reset]

end Sys2Proof.Machine
end

