-- ==== Sys2Proof/WellFormed.lean ====
section
/-! DEFINITION. Which operands the outside can give a command: the sizes the manual fixes for units, flits, packets,
firmware blocks and headers, and the 64 bits of a timebase count. -/

namespace Sys2Proof

/-- A timebase count has 64 bits (01, R13). -/
def countOk (t : Count) : Bool := decide (t < 2 ^ 64)

/-- A unit is 256 bytes (08, R186). -/
def unitOk (u : RawUnit) : Bool := decide (u.bytes.length = 256)

/-- A loose packet's numbers fit their fields, and its flit carries 224 bytes of data (09, loose packet header). -/
def packetOk (k : LoosePkt) : Bool :=
  decide (k.bytes.length = 224) && decide (k.len < 2 ^ 8) && decide (k.msgId < 2 ^ 16) && decide (k.pktIndex < 2 ^ 13) && decide (k.pktCount < 2 ^ 13)

/-- An access to a doorbell page lies in its 4 KiB and has 1, 2, 4 or 8 bytes (12, R270; 16, R356). -/
def doorbellOk (d : Doorbell) : Bool := decide (d.off < 4096) && [1, 2, 4, 8].contains d.bytes

/-- A command whose operands the outside can give. -/
def Instr.wf (i : Instr) : Bool :=
  match i with
  | .unitReceived _ u => unitOk u
  | .ethDatagram _ d => d.payload.all unitOk
  | .looseData _ k | .looseSet _ k | .delivered _ k | .credit _ k => packetOk k
  | .jobStop _ b => countOk b.stopTime
  | .ack _ b => decide (b.cret.length = 4) && b.nack.all (fun n => decide (n < 2 ^ 20))
  | .resume _ b => decide (b.cret.length = 4)
  | .audit _ b => decide (b.cspent.length = 4)
  | .firmwareHeaderBlock bs => decide (bs.length = 65536)
  | .firmwareBlock bs => decide (bs.length = 65536)
  | .challenge _ n | .getMeasurements _ _ n => decide (n.length = 32)
  | .sqTail _ _ d | .cqHead _ _ d => doorbellOk d
  | .tbSyncPulse t | .timeMarkSend t | .beatEdge _ t | .lampAudit ⟨t, _⟩ | .opAnnounce _ _ t | .railRaiseStart t | .opChangeCount t
  | .railSlewDone t | .hold _ _ t | .release _ _ t | .releaseCount _ t | .gateOpen _ _ t | .startCount _ t | .gateTimeout _ t
  | .refreshWindowOpen _ t _ | .refreshWindowClose _ t | .emergencyRefreshEnd _ t | .galleryExpiry _ _ t | .auditSend t
  | .limiterIntervalEdge t | .limiterTokenGain t | .canaryDecay t | .canaryScoreUpdate t | .snapshotCount t | .snapshot _ t =>
      countOk t
  | _ => true

end Sys2Proof
end

