-- ==== Sys2Proof/Tests/Slice0.lean ====
section
/-! SUPPORT. Small tests of the model: what `Instr.wf` refuses, single steps whose results are worked out from the manual, and for each statement
of Certificates/Slice0/Obligations.lean a state and operands that meet its hypotheses together, clause by clause where the clauses exclude
each other. -/

namespace Sys2Proof.Tests

open Sys2Proof.Machine

set_option Elab.async false

/-! ### Ill-formed operands, one for each check of `Instr.wf` -/

def anyPkt : LoosePkt :=
  { key := 0x11, role := 0, cm := false, dstDomain := 0, dstDevid := 0, srcDomain := 0, srcDevid := 9, dst := ⟨0, 0, 0⟩, src := ⟨1, 2, 3⟩, typ := .data,
    last := true, echo := false, msgId := 7, pktIndex := 0, pktCount := 1, slot := 5, flag := 6, dfen := false, len := 8, bytes := List.replicate 224 0xAB }
def anyReset : ResetBody := { allowNarrow := false, laneBase := 0, reqNo := 0, full := false, width := 3, rate := 0 }
def anyAck : AckBody := { cumAck := 0, nackBase := 0, rxUnits := 0, cret := [0, 0, 0, 0], nack := [] }

theorem test_wf_unit : (Instr.unitReceived 0 { symbolErrors := [], controlBits := 0, bytes := List.replicate 255 0 }).wf = false := by decide +kernel
def shortDatagram : EthDatagram :=
  { frameOk := true, srcMac := 0, srcIp := 0, dstMac := 0, dstIp := 0, udpPort := 0, magic := 0, version := 0, units := 1, srcDomain := 0, srcDevid := 0, unitCnt := 0, ce := false,
    payload := [{ symbolErrors := [], controlBits := 0, bytes := [] }] }
theorem test_wf_datagram : (Instr.ethDatagram 12 shortDatagram).wf = false := by decide +kernel
theorem test_wf_packet :
    (Instr.looseData 0 { anyPkt with bytes := [] }).wf = false ∧ (Instr.looseSet 0 { anyPkt with len := 256 }).wf = false ∧
    (Instr.delivered 0 { anyPkt with msgId := 65536 }).wf = false ∧ (Instr.credit 0 { anyPkt with pktIndex := 8192 }).wf = false ∧
    (Instr.looseData 0 { anyPkt with pktCount := 8192 }).wf = false ∧ (Instr.looseData 0 anyPkt).wf = true := by decide +kernel
theorem test_wf_jobStop : (Instr.jobStop 0 { key := 0, domain := 0, origin := 0, reason := 0, stopTime := 2 ^ 64 }).wf = false := by decide +kernel
theorem test_wf_ack : (Instr.ack 0 { anyAck with cret := [0, 0, 0] }).wf = false ∧ (Instr.ack 0 { anyAck with nack := [2 ^ 20] }).wf = false ∧
    (Instr.ack 0 anyAck).wf = true := by decide +kernel
theorem test_wf_resume : (Instr.resume 0 { cumAck := 0, seqOldest := 0, seqTx := 0, cret := [] }).wf = false := by decide +kernel
theorem test_wf_audit : (Instr.audit 0 { seqOldest := 0, seqTx := 0, seqNext := 0, cspent := [0] }).wf = false := by decide +kernel
theorem test_wf_block : (Instr.firmwareHeaderBlock [0]).wf = false ∧ (Instr.firmwareBlock []).wf = false := by decide +kernel
theorem test_wf_nonce : (Instr.challenge .ma [0]).wf = false ∧ (Instr.getMeasurements .mb 1 []).wf = false := by decide +kernel
theorem test_wf_count : (Instr.beatEdge 0 (2 ^ 64)).wf = false ∧ (Instr.snapshot 1 (2 ^ 64)).wf = false ∧ (Instr.beatEdge 0 (2 ^ 64 - 1)).wf = true := by decide +kernel

theorem test_wf_doorbell : (Instr.sqTail (.host ⟨.h0a, 0⟩) 0 ⟨4096, 4, 0⟩).wf = false ∧ (Instr.cqHead (.host ⟨.h0a, 0⟩) 0 ⟨4, 3, 0⟩).wf = false ∧
    (Instr.cqHead (.host ⟨.h0a, 0⟩) 0 ⟨4, 4, 0⟩).wf = true := by decide +kernel

/-! ### States -/

/-- A Ready module with its converter on, both headframe controllers up and the count running at 2^20. -/
def ready : State :=
  { State.reset with
    startup := { State.reset.startup with ready := true, stage := 12 }
    power := { State.reset.power with hvilClosed := true, precharged := true, convOn := true, stbyOk := true, vbus := 800 }
    hf := { State.reset.hf with e0Up := true, e1Up := true }
    tb := { State.reset.tb with count := 2 ^ 20, running := true, locked := true } }

def c0 : CoreId := ⟨0, 0, 0⟩
def aCanvas : Canvas := { beatExp := 9, slackExp := 0, op := 0, gen := 0, cls := 0, weightless := false, addr := 0, total := 0, cable := [] }

/-- In a job of one module, partition 0 owns cluster 0 under key 0x11, two granules of stack 0, submission and completion ring 0 with EVQ 0, and its owner is H0A's physical
function. -/
def owned : State :=
  setCfg (setCfg (setCfg (setCfg (setCfg (setCfg (setCfg ready .ptKey 0 0 0x11) .ptClu 0 0 1) .ptHbmExt 0 0 0x00020000) .ptRings 0 0 0x00100100)
    .cqCfg 0 0 0x90000000) .ptOwn 0 0 0x80000000) .ptJobCfg 0 0 0x00010000

/-- That, with the partition in a state. -/
def inState (x : PtState) : State := owned.setPart 0 { Part.reset with st := x, canvas := some aCanvas }

/-- Its core at work on one command. -/
def atWork : Core := { Core.reset with hasEntry := true, streamBase := 0x1000, streamLen := 2, segOpen := true }

/-- The partition in Run, and core 0 about to issue a command. -/
def issuing (k : Core) (q : Cmd) : State :=
  { (inState .run).setCore c0 k with
    coreMem := [(0, Tab.clear ((upFrom 0 32).map fun i => (0x1000 + i, (leBytes 8 q.w0.toNat ++ leBytes 8 q.w1.toNat ++ leBytes 8 q.w2.toNat ++ leBytes 8 q.w3.toNat).getD i 0))
      fun a => (leBytes 8 q.w0.toNat ++ leBytes 8 q.w1.toNat ++ leBytes 8 q.w2.toNat ++ leBytes 8 q.w3.toNat).getD (a - 0x1000) 0 = 0)] }

/-- A command with an opcode in [63:56] and its other fields. -/
def cmd (op : Nat) (w0 w1 w2 w3 : Nat) : Cmd := { w0 := BitVec.ofNat 64 (2 ^ 56 * op + w0), w1 := BitVec.ofNat 64 w1, w2 := BitVec.ofNat 64 w2, w3 := BitVec.ofNat 64 w3 }

theorem memoryWf_empty (s : State) (h1 : s.coreMem = []) (h2 : s.cluMem = []) (h3 : s.hbm = []) : s.memoryWf := by
  unfold State.memoryWf; rw [h1, h2, h3]; exact ⟨fun _ => rfl, fun _ => rfl, fun _ => rfl⟩

/-- Where every listed table is in canonical form, every table is. -/
theorem tables_wf (m : Tab (Tab Byte)) (h : (m.all fun e => Memory.wf e.2) = true) (k : Nat) : Memory.wf (Tab.get [] m k) = true := by
  induction m with
  | nil => rfl
  | cons e m ih =>
    obtain ⟨a, v⟩ := e
    simp only [List.all_cons, Bool.and_eq_true] at h
    by_cases hk : k = a
    · subst hk; simpa [Tab.get, Tab.find] using h.1
    · simpa [Tab.get, Tab.find, hk] using ih h.2

theorem memoryWf_listed (s : State) (h1 : (s.coreMem.all fun e => Memory.wf e.2) = true) (h2 : (s.cluMem.all fun e => Memory.wf e.2) = true)
    (h3 : (s.hbm.all fun e => Memory.wf e.2) = true) : s.memoryWf := ⟨tables_wf _ h1, tables_wf _ h2, tables_wf _ h3⟩

/-! ### Hypotheses met: the queue, the tick, power, start-up, resets -/

theorem test_meets_IdleStepTicks : ready.pending = [] ∧ ready.tb.running = true ∧ ready.tb.pending = 0 ∧ ready.tb.count + 1 < 2 ^ 64 := by decide +kernel
theorem test_meets_StepKeepsCanonical : State.reset.memoryWf ∧ State.reset.regsRise ∧ ∃ t, step State.reset = .next t :=
  ⟨memoryWf_empty _ rfl rfl rfl, rfl, _, rfl⟩

/-- The module between steps 2 and 3, with the bus as it may be. -/
def noConverter : State := { ready with startup := { ready.startup with ready := false, stage := 2 }, power := { ready.power with convOn := false, precharged := false } }
theorem test_meets_PowerComesBack : noConverter.startup.ready = false ∧ noConverter.startup.stopped = false ∧ noConverter.power.stbyOk = true ∧
    noConverter.power.convOn = false ∧ 720 ≤ (720 : BitVec 10).toNat ∧ (840 : BitVec 10).toNat ≤ 840 ∧ noConverter.power.hvilClosed = true ∧
    noConverter.startup.stage = 2 ∧ ready.startup.ready ≠ false ∧ ready.power.convOn = true ∧ ¬ (720 ≤ (841 : BitVec 10).toNat ∧ (841 : BitVec 10).toNat ≤ 840) := by decide +kernel

def atStage (n : Nat) : State := { ready with startup := { ready.startup with ready := false, stage := n } }
theorem test_meets_StartupSteps : (atStage 11).startup.ready = false ∧ (atStage 11).startup.stopped = false ∧ (atStage 11).power.stbyOk = true ∧
    (atStage 11).startup.stage < 12 ∧ (2 ≤ (atStage 11).startup.stage → (atStage 11).power.convOn = true) ∧ (atStage 11).startup.stage ≠ 2 ∧
    ((atStage 6).startup.stage = 6 → (atStage 6).tb.refOk = true) ∧ (atStage 0).startup.stage ≠ 2 ∧ ¬ (1 ≤ (atStage 0).startup.stage) ∧ 1 ≤ (atStage 1).startup.stage ∧
    ((atStage 2).power.hvilClosed = true ∧ 720 ≤ (atStage 2).power.vbus.toNat ∧ (atStage 2).power.vbus.toNat ≤ 840 ∧ (atStage 2).power.precharged = true) := by decide +kernel
theorem test_meets_ConverterTurnsOff : ready.startup.ready = true ∧ ready.power.convOn = true ∧ InputEvent.below300 ≠ .aboveAbsoluteMax ∧
    (atStage 3).startup.ready = false ∧ (atStage 3).startup.stopped = false ∧ (atStage 3).power.stbyOk = true ∧ 3 ≤ (atStage 3).startup.stage ∧ (atStage 3).power.convOn = true ∧
    InputEvent.highRideThrough ≠ .aboveAbsoluteMax ∧ (atStage 3).starting = true ∧ 120 ≤ (⟨2, 120⟩ : DieReading).celsius ∧ (⟨2, 119⟩ : DieReading).celsius < 120 ∧
    (noConverter.power.convOn = false ∧ noConverter.startup.ready = false ∧ ({ noConverter with power := { noConverter.power with vbus := 719 } } : State).starting = false ∧
      noConverter.power.stopping = false) := by decide +kernel
theorem test_meets_StartupSteps_limit : (atStage 3).startup.ready = false ∧ (atStage 3).startup.stopped = false ∧ (atStage 3).power.stbyOk = true ∧
    (atStage 3).power.convOn = true ∧ 3 ≤ (atStage 3).startup.stage ∧ (atStage 8).startup.stage < 9 ∧ (atStage 8).startup.stage ≠ 6 ∧
    (atStage 1).startup.stage = 1 ∧ 2 ≤ (atStage 2).startup.stage ∧ (atStage 9).startup.stage = 9 ∧ (atStage 10).startup.stage = 10 ∧ (atStage 11).startup.stage = 11 ∧
    (atStage 0).startup.stage = 0 ∧ (atStage 3).hf.bothFailed = false := by decide +kernel
theorem test_meets_StartupSteps_failed : ({ atStage 1 with hf := { ready.hf with bothFailed := true } } : State).hf.bothFailed = true ∧ 1 ≤ (atStage 1).startup.stage := by decide +kernel
theorem test_meets_ModuleResetEffect : ready.managed = true ∧ ready.hf.lastSeq ≠ some 1 ∧ ready.startup.ready = true ∧ ready.power.convOn = true ∧
    ready.update = none := by decide +kernel

/-- Link H0A out of reset and partition 0 owned by its physical function. -/
def linked : State := { inState .run with links := [(0, { HostLink.reset with perst := false, trained := true })] }
theorem test_meets_HostLinks : linked.startup.ready = true ∧ linked.linkExists .h0a = true ∧ (linked.link .h0a).perst = false ∧ linked.owner 0 = some ⟨.h0a, 0⟩ ∧
    (.hostLinkDown .h0a : Instr) = .hostLinkDown (⟨.h0a, 0⟩ : Func).link ∧ linked.regsRise ∧
    (10 ≤ (atStage 10).startup.stage ∧ (atStage 10).startup.stopped = false) ∧ linked.linkExists .h0b = false := by
  unfold State.regsRise; decide +kernel
theorem test_meets_HostLinks_vf : (setCfg linked .ptOwn 0 0 0x81000000).owner 0 = some ⟨.h0a, 1⟩ ∧
    linked.linkExists (⟨.h0a, 1⟩ : Func).link = true ∧ (setCfg linked .ptOwn 0 0 0x81000000).regsRise := by
  unfold State.regsRise; decide +kernel
theorem test_meets_HeadframeControllers : ready.hf.e0Up = true ∧ ready.hf.e1Up = true ∧ ready.power.stbyOk = true ∧ (ready.domain 1).lost = false ∧
    ready.update = none ∧ ready.managed = true ∧ ({ ready with hf := { ready.hf with lastSeq := some 7 } }).managed = true ∧
    ({ ready with hf := { ready.hf with lastSeq := some 7 } }).hf.lastSeq = some 7 ∧
    (if ready.hf.primaryE1 then ready.hf.e0Up else ready.hf.e1Up) = true ∧ State.reset.update = none ∧
    (if State.reset.hf.primaryE1 then State.reset.hf.e0Up else State.reset.hf.e1Up) = false := by decide +kernel

/-! ### Hypotheses met: the timebase and operating points -/

def master : State := setCfg ready .tbCfg 0 0 0x80000000
/-- A module that takes its marks from port F3, Up, of domain master 9, with port F4 as the alternate. -/
def listening : State := { setCfg ready .tbCfg 0 0 0x03400009 with ports := [(3, { FPort.reset with st := .up }), (4, { FPort.reset with st := .up })] }
theorem test_meets_ReferenceInputs : master.ownq = [] ∧ master.isMaster = true ∧ master.tb.running = true ∧ master.regsRise ∧ (setCfg master .tbSyncCfg 0 0 0xA8000000).regsRise ∧
    (setCfg master .tbSyncCfg 0 0 0xA8000000).isMaster = true ∧ master.anyActive = false ∧ (8 : Nat) ≤ 8 ∧
    rb (cfg (setCfg master .tbSyncCfg 0 0 0xA8000000) .tbSyncCfg 0 0) 31 = true ∧ rb (cfg (setCfg master .tbSyncCfg 0 0 0xA8000000) .tbSyncCfg 0 0) 30 = false ∧
    ¬ (listening.isMaster = true ∧ listening.tb.running = true) ∧ (7 : Nat) < 8 ∧ rb (cfg master .tbSyncCfg 0 0) 31 = false := by
  unfold State.regsRise; decide +kernel
theorem test_meets_MarksSentAndIgnored_send : ready.tb.running = true ∧ ready.tb.count ≤ 2 ^ 20 ∧ (2 ^ 20 : Nat) < 2 ^ 64 ∧ (2 ^ 20 : Nat) % 4096 = 0 ∧
    rb (cfg (setCfg master .tbSyncCfg 0 0 0x68000000) .tbSyncCfg 0 0) 30 = true ∧
    (2 ^ 20 : Nat) % 2 ^ rf (cfg (setCfg master .tbSyncCfg 0 0 0x68000000) .tbSyncCfg 0 0) 29 25 = 0 := by decide +kernel
theorem test_meets_MarksSentAndIgnored_ignore : listening.isMaster = false ∧ listening.timingOk 3 = true ∧ (3 : Nat) = listening.primaryPort ∧
    (8 : BitVec 13).toNat ≠ listening.masterDevid := by decide +kernel
def waitingMark : State := { listening with tb := { listening.tb with running := false, locked := false }, startup := { listening.startup with ready := false, stage := 7 } }
theorem test_meets_TimeMarks : waitingMark.isMaster = false ∧ waitingMark.timingOk 3 = true ∧ (3 : Nat) = waitingMark.primaryPort ∧
    waitingMark.tb.running = false ∧ 7 ≤ waitingMark.startup.stage ∧ waitingMark.startup.stopped = false ∧ listening.isMaster = false ∧ listening.timingOk 3 = true ∧ (3 : Nat) = listening.primaryPort ∧
    listening.tb.running = true ∧
    (((restore16 listening.tb.count (16 * (2 ^ 20 + 65536)) + (listening.port 3).delay16 : Nat) : Int) - ((16 * listening.tb.count + (0 : BitVec 4).toNat : Nat) : Int)).natAbs =
      65536 * 16 := by decide +kernel
theorem test_meets_TimeMarks_early : ({ waitingMark with startup := { waitingMark.startup with stage := 6 } } : State).startup.stage < 7 ∧
    ({ waitingMark with startup := { waitingMark.startup with stopped := true } } : State).startup.stopped = true ∧ waitingMark.timingOk 3 = true := by decide +kernel
def silent (m : Nat) : State := { listening with tb := { listening.tb with lastMark := some m } }
theorem test_meets_TimeMarks_fail :
    listening.isMaster = false ∧ listening.tb.running = true ∧ (2 ^ 20 - 65537) + 65536 < (silent (2 ^ 20 - 65537)).tb.count ∧
    (silent (2 ^ 20 - 16385)).tb.lastMark = some (2 ^ 20 - 16385) ∧ (2 ^ 20 - 16385) + 16384 < (silent (2 ^ 20 - 16385)).tb.count ∧
    ({ listening with ports := [] } : State).timingOk ({ listening with ports := [] } : State).primaryPort = false ∧ listening.alternatePort ≠ listening.primaryPort := by decide +kernel
/-- A change to OP0 pending at the count 2^20 + 65,536 while OP2 is in force. -/
def noCount : State := { ready with tb := { ready.tb with running := false } }
def pendingOp : State := { ready with op := { ready.op with cur := 2, railMv := 640, railTo := 640, pend := some (0, 2 ^ 20 + 65536) } }
theorem test_meets_OperatingPoints_announce : ready.managed = true ∧ ready.hf.lastSeq ≠ some 1 ∧ ready.tb.running = true ∧ (4 : BitVec 3).toNat ≤ 4 ∧
    (4 : BitVec 3).toNat ≠ ready.op.cur ∧ ready.active = [] ∧ ready.op.pend = none ∧ (2 ^ 20 + 32768) % 512 = 0 ∧ ready.tb.count + 32768 ≤ 2 ^ 20 + 32768 ∧
    (inState .run).active = [0] ∧ ((inState .run).part 0).beats = [512] ∧ (∀ c ∈ ((inState .run).part 0).canvases, c.op ≤ (4 : BitVec 3).toNat) ∧
    (2 ^ 20 + 32768) % 512 = 0 ∧ (inState .run).tb.count + 64 * 512 ≤ 2 ^ 20 + 32768 ∧ 4 < (5 : BitVec 3).toNat ∧ ¬ (ready.tb.count + 32768 ≤ 2 ^ 20 + 32256) ∧
    (0 : BitVec 3).toNat = ready.op.cur ∧ ready.op.cur ≤ 4 := by decide +kernel
/-- While it is pending, a new announcement is taken only at least 64 of the longest beats before it. -/
theorem test_meets_OperatingPoints_pending : pendingOp.tb.count + 64 * pendingOp.longestBeat ≤ 2 ^ 20 + 65536 ∧
    ¬ ({ pendingOp with tb := { ready.tb with count := 2 ^ 20 + 65535 } } : State).tb.count + 64 * pendingOp.longestBeat ≤ 2 ^ 20 + 65536 ∧ (0 : BitVec 3).toNat ≠ pendingOp.op.cur ∧
    (2 : BitVec 3).toNat = pendingOp.op.cur ∧ pendingOp.active = [] ∧ (2 ^ 20 + 32768) % 512 = 0 ∧ noCount.tb.running = false ∧ noCount.managed = true ∧ noCount.hf.lastSeq ≠ some 1 := by decide +kernel
theorem test_meets_OperatingPoints_raise : pendingOp.tb.running = true ∧ pendingOp.op.pend = some (0, 2 ^ 20 + 65536) ∧ 0 < pendingOp.op.cur ∧ pendingOp.op.railBusy = false ∧
    pendingOp.tb.count ≤ 2 ^ 20 + 65536 - slewNs (opMv pendingOp.op.cur) (opMv 0) ∧ 2 ^ 20 + 65536 - slewNs (opMv pendingOp.op.cur) (opMv 0) < 2 ^ 64 := by decide +kernel
theorem test_meets_OperatingPoints_change : ({ ready.op with pend := some (4, 2 ^ 20) }).pend = some (4, 2 ^ 20) ∧ opMv 4 < ready.op.railMv ∧ ready.tb.running = true ∧
    ready.tb.count ≤ 2 ^ 20 ∧ ({ ready.op with railBusy := true, railEnd := 2 ^ 20 }).railEnd ≤ 2 ^ 20 := by decide +kernel

/-! ### Hypotheses met: beats, holds and starts -/

def oneCore (x : PtState) : State := (inState x).setCore c0 atWork
/-- The same, at the count 2^20, with every pass at the present cycle. -/
def nowAt (s : State) : State := (s.advance (2 ^ 20)).catchUp
theorem test_meets_BeatEdgeAndAudit : (oneCore .run).tb.running = true ∧ (oneCore .run).tb.count ≤ 2 ^ 20 ∧ (2 ^ 20 : Nat) < 2 ^ 64 ∧
    2 ^ 20 % ((nowAt (oneCore .run)).part 0).beatLen = 0 ∧ ((nowAt (oneCore .run)).part 0).lastEdge ≠ 2 ^ 20 ∧ ((nowAt (oneCore .run)).part 0).st = .run ∧
    (nowAt (oneCore .run)).coresOf 0 = [c0] ∧ 2 ^ 20 % ((nowAt (oneCore .run)).core c0).beatNs = 0 ∧ (nowAt (oneCore .run)).assayEn 0 = false ∧
    ((nowAt (oneCore .hold)).part 0).st = .hold ∧ 2 ^ 20 % ((nowAt (oneCore .hold)).part 0).beatLen = 0 := by decide +kernel
/-- Two lamps held that no command counts for. -/
def miscounted : State := (inState .run).setCore c0 { atWork with held := 2 }
theorem test_meets_BeatEdgeAndAudit_lamps : (∀ e ∈ ready.parts, e.2.notAbsent = false) ∧ (∀ d, d < 6 → ready.countedDie d = ready.drawn d) ∧ 2 ^ 20 % 512 = 0 ∧
    (0, miscounted.part 0) ∈ miscounted.parts ∧ (miscounted.part 0).st = .run ∧ c0 ∈ miscounted.coresOf 0 ∧ (miscounted.core c0).counted ≠ (miscounted.core c0).held ∧
    (∀ e ∈ (inState .hold).parts, e.2.notAbsent = true → (∀ c ∈ (inState .hold).coresOf e.1, ((inState .hold).core c).counted = ((inState .hold).core c).held) ∧
      ∀ d, d < 6 → (inState .hold).countedOn e.1 d = ((inState .hold).part e.1).heldOn d) ∧ ((inState .hold).part 0).notAbsent = true := by decide +kernel
theorem test_meets_HoldAndRelease_commands : (inState .run).managed = true ∧ (inState .run).hf.lastSeq ≠ some 1 ∧ (inState .run).edgeAhead 0 8 (2 ^ 20 + 4096) = true ∧
    ((inState .run).part 0).st = .run ∧ ((inState .run).part 0).holdAt = none ∧ (inState .hold).edgeAhead 0 8 (2 ^ 20 + 4096) = true ∧
    ((inState .hold).part 0).st = .hold ∧ ((inState .hold).part 0).releaseAt = none ∧ ((inState .hold).part 0).st ≠ .run ∧
    (inState .run).edgeAhead 0 8 (2 ^ 20 + 4096 - 512) = false := by decide +kernel
def holding : State := (inState .run).updPart 0 fun p => { p with holdAt := some (2 ^ 20) }
def releasing : State := (inState .hold).updPart 0 fun p => { p with holdAt := some (2 ^ 20 - 4096), releaseAt := some (2 ^ 20) }
theorem test_meets_HoldAndRelease_entry : (holding.part 0).st = .run ∧ (holding.part 0).holdAt = some (2 ^ 20) ∧ (holding.part 0).holdTag = none ∧ 2 ^ 20 ≤ holding.tb.count ∧
    (∀ c ∈ holding.coresOf 0, (holding.core c).stoppedFor (holding.part 0) (2 ^ 20) = true ∧ (holding.core c).quiet = true) ∧
    holding.meshInFlight 0 = 0 ∧ (holding.part 0).meshSent = (holding.part 0).meshApplied ∧ (holding.part 0).srv = none := by decide +kernel
theorem test_meets_HoldAndRelease_release : releasing.tb.running = true ∧ releasing.tb.count ≤ 2 ^ 20 ∧ (releasing.part 0).st = .hold ∧
    (releasing.part 0).releaseAt = some (2 ^ 20) ∧ (releasing.setCore c0 atWork).coresOf 0 = [c0] ∧
    ((releasing.setCore c0 atWork).core c0).handover = none ∧ ((releasing.setCore c0 atWork).core c0).ended = false := by decide +kernel
def gated (p : Part → Part) : State := (inState .armed).updPart 0 p
theorem test_meets_GateAndStart : ((inState .run).part 0).st ≠ .armed ∧ (inState .armed).managed = true ∧ (inState .armed).hf.lastSeq ≠ some 1 ∧ ((inState .armed).part 0).st = .armed ∧
    ((inState .armed).part 0).startTag = none ∧ (inState .armed).tb.running = true ∧ (inState .armed).tb.count ≤ 2 ^ 20 := by decide +kernel
theorem test_meets_GateAndStart_open : ((gated fun p => { p with wt := .confirmed }).part 0).wt = .confirmed ∧ ((gated fun p => { p with wt := .confirmed }).part 0).startAt = none ∧
    (gated fun p => { p with wt := .confirmed }).edgeAhead 0 16 (2 ^ 20 + 8192) = true ∧ ((gated fun p => { p with wt := .confirmed }).part 0).st = .armed := by decide +kernel
theorem test_meets_GateAndStart_start : ((gated fun p => { p with startAt := some (2 ^ 20) }).part 0).startAt = some (2 ^ 20) ∧
    (gated fun p => { p with startAt := some (2 ^ 20) }).coresOf 0 = [] := by decide +kernel
def farAhead : State := { (gated fun p => { p with confirmedAt := some 0 }) with tb := { ready.tb with count := 10000000000 } }
theorem test_meets_GateAndStart_timeout : (farAhead.part 0).confirmedAt = some 0 ∧ (farAhead.part 0).startAt = none ∧
    0 + cf farAhead .ptWtCfg 0 0 15 0 * 1000000 ≤ 10000000000 ∧ farAhead.tb.count ≤ 10000000000 := by decide +kernel

/-! ### Hypotheses met: the sequencer -/

/-- A core whose canvas has one shape of 16 bytes, slot 5, a role entry 3 for flag 6, a flag 7 at 4, a send entry and two loop frames at hand. -/
def equipped : Core :=
  { atWork with shapes := [{ ext0 := 16, ext1 := 1, ext2 := 1, ext3 := 1, stride1 := 0, stride2 := 0, stride3 := 0 }], grant := 100,
                slots := [(5, { valid := true, base := 0x2000, size := 1, role := 3, timeout := 8 })], roles := [(6, 3)], flags := [(7, 4)], sends := [(3, 2)] }

/-- MOVE of shape 0 from 0x3000 to 0x4000. -/
def aMove : Cmd := cmd 0x20 0 (2 ^ 32 * 0x3000 + 0x4000) 0 0
def aWait (n : Nat) : Cmd := cmd 0x39 (2 ^ 20 * 4 + 2 ^ 14 * 7) (2 ^ 48 * n) 0 0
def aSet : Cmd := cmd 0x38 (2 ^ 20 * 4 + 2 ^ 12 * 6) 0 3 0
def aRecv (release : Nat) : Cmd := cmd 0x31 (2 ^ 20 * 4 + 2 ^ 19 * release + 2 ^ 13 * 5) 0 0 0
theorem test_meets_CommandsEnterQueues : (issuing equipped aMove).issues c0 [] 0 aMove ∧ aMove.opcode = 0x20 ∧ aMove.queue < 4 ∧
    (((issuing equipped aMove).core c0).queue aMove.queue).length < queueDepth aMove.queue ∧ (issuing equipped aMove).portSwitched c0 0 aMove := by
  refine ⟨by unfold State.issues cleanReads; decide +kernel, by decide +kernel, by decide +kernel, by decide +kernel, fun h => absurd h (by decide +kernel)⟩
theorem test_meets_CommandsEnterQueues_row : (.move ⟨c0, [], []⟩, fun q => decide (q.opcode = 0x20)) ∈ engineRows c0 [] [] ∧
    (.send ⟨c0, [], []⟩, fun q => decide (q.opcode = 0x30)) ∈ flowRows c0 [] [] := by simp [engineRows, flowRows]
/-- A SEND of shape 0 on the shaft of entry 0, whose port has switched to the canvas's calendar. -/
def aSend : Cmd := cmd 0x30 (2 ^ 21 * 1) 0x3000 0 0
def sending : State :=
  { setCfg (setCfg (issuing equipped aSend) .fabKey 3 0 0x80000011) .fabCalc 3 0 0x42000000 with ports := [(3, { FPort.reset with st := .up, switched := [(0, 0)] })] }
theorem test_meets_IssueStopsAndSkips : (issuing equipped aMove).partOf c0 = some 0 ∧ (issuing equipped aMove).canIssue 0 c0 = true ∧
    (issuing equipped aMove).nextCmd c0 = aMove ∧ ((issuing equipped aMove).core c0).segCyc + aMove.notBefore ≤ (issuing equipped aMove).cycles c0 ∧
    (issuing equipped aMove).poison = [] := by decide +kernel
theorem test_meets_IssueStopsAndSkips_poison : (issuing { equipped with streamBase := 0x1000 } aMove).poison = [] ∧
    ({ issuing equipped aMove with poison := [(.core c0, 0x101)] }).poisonedAt c0 (({ issuing equipped aMove with poison := [(.core c0, 0x101)] }).cmdBytes c0) = some 0x1010 ∧
    (issuing equipped aMove).poisonedAt c0 ((issuing equipped aMove).cmdBytes c0) = none ∧ (((0x101F : Nat) : Int)) ∈ (issuing equipped aMove).cmdBytes c0 ∧
    ({ ecc := .uncorrectable, addr := 0x101F } : EccAt).ecc = .uncorrectable ∧ (∀ x ∈ [({ ecc := .corrected, addr := 0x1000 } : EccAt)], x.ecc ≠ .uncorrectable) := by decide +kernel
theorem test_meets_IssueStopsAndSkips_check : ((cmd 0x20 (2 ^ 7) 0 0 0).check equipped 0 fun _ => true) = some 2 ∧ ((cmd 0x20 1 0 0 0).check equipped 0 fun _ => true) = some 1 := by
  decide +kernel
theorem test_meets_IssueStopsAndSkips_skip : equipped.predicate (cmd 0x20 (2 ^ 55) 0 0 0) = false ∧
    ((cmd 0x20 (2 ^ 55) (2 ^ 32 * 0x3000 + 0x4000) 0 0).check equipped 0 fun _ => true) = none := by decide +kernel
theorem test_meets_FlowInSequencer_wait : (issuing equipped (aWait 4)).issues c0 [] 0 (aWait 4) ∧ (aWait 4).queue = 4 ∧ (issuing equipped (aWait 4)).assayEn 0 = false ∧
    (aWait 4).waitN ≤ ((issuing equipped (aWait 4)).core c0).flag (aWait 4).waitFlag ∧
    ((issuing equipped (aWait 4)).core c0).waitTurn 4 (aWait 4).waitFlag (aWait 4).waitN (issuing equipped (aWait 4)).now = true ∧
    (issuing equipped (aWait 5)).issues c0 [] 0 (aWait 5) ∧ ((issuing equipped (aWait 5)).core c0).flag (aWait 5).waitFlag < (aWait 5).waitN := by
  unfold State.issues cleanReads; decide +kernel
theorem test_meets_FlowInSequencer_set : (issuing equipped aSet).issues c0 [] 0 aSet ∧ aSet.queue = 4 ∧ aSet.setRoute = 0 ∧
    ((issuing equipped aSet).core c0).flagOk (roleTag ((issuing equipped aSet).core c0).gen aSet.role) aSet.setFlag = true ∧
    ((issuing equipped aSet).core c0).flag aSet.setFlag < 65535 := by
  unfold State.issues cleanReads; decide +kernel
def setFull : Core := { equipped with flags := [(6, 65535)] }
/-- A SET of flag 6 of role 9; of flag 6 of core 1; on the shaft of entry 0. -/
def aStraySet : Cmd := cmd 0x38 (2 ^ 20 * 4 + 2 ^ 12 * 6) 0 9 0
def aMeshSet : Cmd := cmd 0x38 (2 ^ 20 * 4 + 2 ^ 18 + 2 ^ 12 * 6) (2 ^ 41) 3 0
def aShaftSet : Cmd := cmd 0x38 (2 ^ 20 * 4 + 2 ^ 18 * 2 + 2 ^ 12 * 6) 0 3 0
theorem test_meets_FlowInSequencer_sets : (issuing setFull aSet).issues c0 [] 0 aSet ∧
    ((issuing setFull aSet).core c0).flagOk (roleTag ((issuing setFull aSet).core c0).gen aSet.role) aSet.setFlag = true ∧
    65535 ≤ ((issuing setFull aSet).core c0).flag aSet.setFlag ∧
    (issuing equipped aStraySet).issues c0 [] 0 aStraySet ∧ aStraySet.setRoute = 0 ∧
    ((issuing equipped aStraySet).core c0).flagOk (roleTag ((issuing equipped aStraySet).core c0).gen aStraySet.role) aStraySet.setFlag = false ∧
    (issuing equipped aMeshSet).issues c0 [] 0 aMeshSet ∧ aMeshSet.setRoute = 1 ∧ aMeshSet.opcode = 0x38 ∧
    (issuing equipped aShaftSet).issues c0 [] 0 aShaftSet ∧ aShaftSet.setRoute = 2 ∧ ((issuing equipped aShaftSet).core c0).sends[aShaftSet.shaftIx]? = some (3, 2) ∧
    ((issuing equipped aShaftSet).port 3).outstanding < 16384 := by
  unfold State.issues cleanReads; decide +kernel
def landed : Core := { equipped with slotSt := [(5, { full := true, creditHome := false, src := some (.mesh ⟨0, 0, 1⟩), reasm := none })] }
theorem test_meets_FlowInSequencer_recv : (issuing landed (aRecv 0)).issues c0 [] 0 (aRecv 0) ∧ (issuing landed (aRecv 1)).issues c0 [] 0 (aRecv 1) ∧ (aRecv 0).queue = 4 ∧
    (aRecv 0).recvRelease = false ∧ (aRecv 1).recvRelease = true ∧ (landed.slot (slotIx landed.gen (aRecv 0).recvSlot)).full = true ∧
    (landed.slot (slotIx landed.gen (aRecv 1).recvSlot)).src = some (.mesh ⟨0, 0, 1⟩) ∧ ((issuing landed (aRecv 1)).catchUp.part 0).st = .run ∧
    (issuing equipped (aRecv 0)).issues c0 [] 0 (aRecv 0) ∧ (equipped.slot (slotIx equipped.gen (aRecv 0).recvSlot)).full = false ∧
    (equipped.slot (slotIx equipped.gen (aRecv 1).recvSlot)).src = none := by
  unfold State.issues cleanReads; decide +kernel
def aLoop : Cmd := cmd 0x40 0 (2 ^ 48 * 3) 0 0
def anEnd : Cmd := cmd 0x41 0 0 0 0
def looping (left : Nat) : Core := { equipped with loops := [{ body := 1, left := left }] }
def aPset (kind : Nat) : Cmd := cmd 0x48 (2 ^ 19 * 2 + 2 ^ 16 * kind) (2 ^ 32) 0 0
def anSset (kind : Nat) : Cmd := cmd 0x49 (2 ^ 19 * 2 + 2 ^ 16 * kind) (2 ^ 32 * 9) 0 0
def aPace (q t : Nat) : Cmd := cmd 0x51 (2 ^ 20 * q + 2 ^ 12 * t) 0 0 0
theorem test_meets_LoopsAndScalars_loops : (issuing equipped aLoop).issues c0 [] 0 aLoop ∧ aLoop.opcode = 0x40 ∧ wb aLoop.w0 22 = false ∧ wf aLoop.w1 63 48 ≠ 0 ∧
    (issuing (looping 2) anEnd).issues c0 [] 0 anEnd ∧ (issuing (looping 1) anEnd).issues c0 [] 0 anEnd ∧ anEnd.opcode = 0x41 ∧
    ((issuing (looping 1) anEnd).core c0).loops = { body := 1, left := 1 } :: [] := by
  unfold State.issues cleanReads; decide +kernel
theorem test_meets_LoopsAndScalars_pset : (issuing equipped (aPset 0)).issues c0 [] 0 (aPset 0) ∧ (issuing equipped (aPset 1)).issues c0 [] 0 (aPset 1) ∧
    (issuing equipped (aPset 2)).issues c0 [] 0 (aPset 2) ∧ (aPset 2).opcode = 0x48 ∧ wf (aPset 2).w0 18 16 = 2 := by
  unfold State.issues cleanReads; decide +kernel
theorem test_meets_LoopsAndScalars_sset : (issuing equipped (anSset 0)).issues c0 [] 0 (anSset 0) ∧ (issuing equipped (anSset 1)).issues c0 [] 0 (anSset 1) ∧
    (issuing equipped (anSset 2)).issues c0 [] 0 (anSset 2) ∧ (issuing equipped (anSset 4)).issues c0 [] 0 (anSset 4) ∧ (issuing equipped (anSset 5)).issues c0 [] 0 (anSset 5) ∧
    (anSset 5).opcode = 0x49 ∧ wf (anSset 5).w0 18 16 = 5 := by
  unfold State.issues cleanReads; decide +kernel
theorem test_meets_LoopsAndScalars_pace : (issuing equipped (aPace 3 0)).issues c0 [] 0 (aPace 3 0) ∧ (aPace 3 0).opcode = 0x51 ∧
    (((issuing equipped (aPace 3 0)).core c0).queue (wf (aPace 3 0).w0 22 20)).length ≤ wf (aPace 3 0).w0 19 12 := by
  unfold State.issues cleanReads; decide +kernel

def queuedMove : QCmd := { idx := 0, gen := 0, cmd := aMove, a := 0x3000, b := 0x4000, seq := 0, cyc := 0, vc := [] }
/-- A core with one command in queue X. -/
def oneQueued : Core := { equipped with queues := [(3, [queuedMove])] }
theorem test_meets_PaceHolds_hold : (issuing oneQueued (aPace 3 0)).issues c0 [] 0 (aPace 3 0) ∧
    (((issuing oneQueued (aPace 3 0)).core c0).queue (wf (aPace 3 0).w0 22 20)).length ≤ queueDepth (wf (aPace 3 0).w0 22 20) ∧
    wf (aPace 3 0).w0 19 12 < (((issuing oneQueued (aPace 3 0)).core c0).queue (wf (aPace 3 0).w0 22 20)).length ∧ (aPace 3 0).opcode = 0x51 := by
  unfold State.issues cleanReads; decide +kernel
theorem test_meets_PaceHolds_pass : (issuing oneQueued (aPace 3 1)).issues c0 [] 0 (aPace 3 1) ∧
    (((issuing oneQueued (aPace 3 1)).core c0).queue (wf (aPace 3 1).w0 22 20)).length ≤ wf (aPace 3 1).w0 19 12 ∧
    (issuing oneQueued (aPace 0 64)).issues c0 [] 0 (aPace 0 64) ∧ queueDepth (wf (aPace 0 64).w0 22 20) ≤ wf (aPace 0 64).w0 19 12 := by
  unfold State.issues cleanReads; decide +kernel
theorem test_meets_PaceHolds_refused : (issuing equipped (aPace 3 128)).partOf c0 = some 0 ∧ (issuing equipped (aPace 3 128)).canIssue 0 c0 = true ∧
    (issuing equipped (aPace 3 128)).nextCmd c0 = aPace 3 128 ∧ (issuing equipped (aPace 3 128)).poison = [] ∧
    ((issuing equipped (aPace 3 128)).core c0).segCyc + (aPace 3 128).notBefore ≤ (issuing equipped (aPace 3 128)).cycles c0 ∧
    (aPace 3 128).reservedBits = false ∧ (aPace 3 128).reservedValue 0 = false ∧ 128 ≤ wf (aPace 3 128).w0 19 12 ∧ ((issuing equipped (aPace 3 128)).part 0).st = .run := by
  decide +kernel
def aBeat : Cmd := cmd 0x50 0 0 0 0
def beating : Core := { equipped with base := 2 ^ 20 - 256 }
theorem test_meets_BeatClosesSegment : (issuing beating aBeat).issues c0 [] 0 aBeat ∧ aBeat.opcode = 0x50 ∧ ((issuing beating aBeat).core c0).idle = true ∧
    (issuing beating aBeat).assayEn 0 = false ∧
    ((issuing beating aBeat).now : Int) < ((issuing beating aBeat).core c0).edge (((issuing beating aBeat).core c0).segNo + 1) := by
  unfold State.issues cleanReads; decide +kernel

/-! ### Hypotheses met: engines, mesh and memory requests -/

def starting : State := setCfg ((inState .run).setCore c0 oneQueued) .ptLamp 0 0 0x000A0064
theorem test_meets_EngineStart : starting.catchUp.starts c0 0 .x queuedMove [] ∧ queuedMove.cmd.opcode ≠ 0x30 ∧ (∀ e ∈ starting.cores, e.2.run = []) ∧ starting.poison = [] ∧
    (∀ e ∈ ([] : List EccAt), e.ecc = .clean) := by unfold State.starts State.mayStartCmd; decide +kernel
/-- No register is away from its reset value, and a pass is in the cubes. -/
def unassayed : State := ready.setCore c0 { equipped with run := [(0, { q := queuedMove, lamps := 1, startCyc := 0, cycles := 0, reads := [], readAt := 0, owed := false, got := [], passes := [], step := 0, stepAt := 0, chain := none })] }
theorem test_meets_EngineStart_assay : unassayed.poison = [] ∧ ∀ n, unassayed.assayEn n = false := by
  refine ⟨rfl, fun n => ?_⟩
  have h : Reg.reset ⟨.ptAssayCtl, n, 0⟩ = Reg.reset ⟨.ptAssayCtl, 0, 0⟩ := rfl
  show rb (Reg.reset ⟨.ptAssayCtl, n, 0⟩) 0 = false
  rw [h]; decide +kernel
/-- A SEND of shape 0 to slot 5 of core 1: over the mesh, or on the shaft of entry 0. -/
def queuedSend (route : Nat) : QCmd := { queuedMove with cmd := cmd 0x30 (2 ^ 21 * route + 2 ^ 7 * 5) (2 ^ 41) 0 0 }
def sendingFrom (route : Nat) (home : Bool) (shaftAt : Nat) : State :=
  { ((setCfg (setCfg (setCfg (inState .run) .ptLamp 0 0 0x000A0064) .fabKey 3 0 0x80000011) .fabCalc 3 0 shaftAt).setCore c0
      { equipped with queues := [(3, [queuedSend route])] }).setCore ⟨0, 0, 1⟩ { Core.reset with slotSt := [(5, { SlotSt.load with creditHome := home })] } with
    ports := [(3, { FPort.reset with st := .up, switched := [(0, 0)] })] }
theorem test_meets_EngineStart_send : (sendingFrom 0 true 0x42000000).catchUp.starts c0 0 .x (queuedSend 0) [] ∧ (queuedSend 0).cmd.sendRoute = 0 ∧
    (((sendingFrom 0 true 0x42000000).catchUp.core (queuedSend 0).cmd.dest).slot (slotIx (queuedSend 0).gen (queuedSend 0).cmd.sendSlot)).creditHome = true ∧
    (queuedSend 0).cmd.opcode = 0x30 := by unfold State.starts State.mayStartCmd; decide +kernel
theorem test_meets_EngineStart_credit : (sendingFrom 0 false 0x42000000).catchUp.starts c0 0 .x (queuedSend 0) [] ∧
    (((sendingFrom 0 false 0x42000000).catchUp.core (queuedSend 0).cmd.dest).slot (slotIx (queuedSend 0).gen (queuedSend 0).cmd.sendSlot)).creditHome = false := by unfold State.starts State.mayStartCmd; decide +kernel
theorem test_meets_EngineStart_shaft : (sendingFrom 1 true 0x42000000).catchUp.starts c0 0 .x (queuedSend 1) [] ∧ (queuedSend 1).cmd.sendRoute = 1 ∧
    (((sendingFrom 1 true 0x42000000).catchUp.core c0).sendsOf (queuedSend 1).gen)[(queuedSend 1).cmd.shaftIx]? = some (3, 2) ∧
    ((sendingFrom 1 true 0x42000000).catchUp.port 3).outstanding < 16384 ∧ (sendingFrom 1 true 0x42000000).catchUp.calendarHas 0 3 2 (queuedSend 1).gen = true ∧
    ((sendingFrom 1 true 0x42000000).catchUp.core c0).remote = [] := by unfold State.starts State.mayStartCmd; decide +kernel
def queuedWait : QCmd := { queuedMove with cmd := aWait 4 }
def waitingHead : State := (inState .run).setCore c0 { equipped with queues := [(3, [queuedWait])] }
theorem test_meets_EngineStart_wait : waitingHead.catchUp.partOf c0 = some 0 ∧ (waitingHead.catchUp.part 0).st = .run ∧ Queue.x ≠ .seq ∧ waitingHead.catchUp.assayEn 0 = false ∧
    (waitingHead.catchUp.core c0).old = none ∧ (waitingHead.catchUp.core c0).queue Queue.x.code = queuedWait :: [] ∧ queuedWait.cmd.opcode = 0x39 ∧
    queuedWait.cmd.waitN ≤ (waitingHead.catchUp.core c0).flag queuedWait.cmd.waitFlag ∧
    (waitingHead.catchUp.core c0).waitTurn Queue.x.code queuedWait.cmd.waitFlag queuedWait.cmd.waitN waitingHead.catchUp.now = true := by decide +kernel
theorem test_meets_MoveCopies : queuedMove.cmd.opcode = 0x20 ∧ wf queuedMove.cmd.w0 6 4 = 0 ∧ queuedMove.gen = (starting.catchUp.core c0).gen ∧
    (starting.catchUp.core c0).shape (wf queuedMove.cmd.w0 22 15) = some { ext0 := 16, ext1 := 1, ext2 := 1, ext3 := 1, stride1 := 0, stride2 := 0, stride3 := 0 } ∧
    (starting.catchUp.core c0).shape (wf queuedMove.cmd.w0 14 7) = some { ext0 := 16, ext1 := 1, ext2 := 1, ext3 := 1, stride1 := 0, stride2 := 0, stride3 := 0 } ∧
    ((Shape.mk 16 1 1 1 0 0 0).addrs queuedMove.b).Nodup := by decide +kernel
theorem test_meets_MoveCopies_memory : starting.catchUp.memoryWf := memoryWf_listed _ (by decide +kernel) (by decide +kernel) (by decide +kernel)
/-- A pass of 64 row blocks, about to begin. -/
def aPass : PassRun := { q := { queuedMove with cmd := cmd 0x01 0 (2 ^ 57 * 64) 0 0 }, start := 0, lines := [], sums := [], done := 0 }
theorem test_meets_MoveCopies_pass : aPass.lines = [] ∧ aPass.sums = [] ∧ 63 < aPass.q.cmd.rowBlocks ∧ 3 < 4 := by decide +kernel
def moving : Running := { q := queuedMove, lamps := 1, startCyc := 0, cycles := 0, reads := [], readAt := 0, owed := false, got := [], passes := [], step := 0, stepAt := 0, chain := none }
def working (k : Core) : State := ((inState .run).setCore c0 k).catchUp
theorem test_meets_EngineCompletes : (working { equipped with run := [(5, moving)] }).partOf c0 = some 0 ∧ ((working { equipped with run := [(5, moving)] }).part 0).st = .run ∧
    Tab.rising none ((working { equipped with run := [(5, moving)] }).core c0).run = true ∧
    Tab.find ((working { equipped with run := [(5, moving)] }).core c0).run EngUnit.x.code = some moving ∧
    moving.startCyc + moving.cycles ≤ (working { equipped with run := [(5, moving)] }).cycles c0 ∧ ((working { equipped with run := [(5, moving)] }).core c0).inject = [] ∧
    moving.q.cmd.opcode ≠ 0x01 ∧ moving.owed = false ∧ (working { equipped with run := [(5, moving)] }).heldAtPort c0 = false ∧ ({ moving with owed := true } : Running).owed = true ∧ EngUnit.v ≠ .x ∧ equipped.old = none ∧
    (working { equipped with run := [(5, moving)] }).cycles c0 < ({ moving with cycles := 10000000000 } : Running).startCyc + ({ moving with cycles := 10000000000 } : Running).cycles := by
  decide +kernel
theorem test_meets_EngineCompletes_tokens :
    ((working { equipped with run := [(5, moving)], inject := [{ domain := 0, devid := 9, key := 0x11, role := 3, msgId := 7, payload := [], cmd := 0, vc := [] }] }).core c0).inject ≠ [] := by decide +kernel
/-- The last step of a chain has ended. -/
def passed : Running := { moving with q := aPass.q }
theorem test_meets_EngineCompletes_pass : Tab.find ((working { equipped with run := [(0, passed)] }).core c0).run EngUnit.m0c.code = some passed ∧ passed.q.cmd.opcode = 0x01 ∧
    passed.passes = [] ∧ passed.stepAt ≤ (working { equipped with run := [(0, passed)] }).cycles c0 := by decide +kernel
/-- A WAIT for 5 at a flag that holds 4, eight edges old. -/
def stalledOn (edges : Nat) : Core := { equipped with stalls := [(4, { since := 0, edges := edges, limit := 8, item := 7, need := 5, kind := 0 })] }
theorem test_meets_EngineCompletes_timeout :
    Tab.find ((working (stalledOn 8)).core c0).stalls Queue.seq.code = some { since := 0, edges := 8, limit := 8, item := 7, need := 5, kind := 0 } ∧
    (working (stalledOn 8)).stallHolds 0 c0 Queue.seq.code { since := 0, edges := 8, limit := 8, item := 7, need := 5, kind := 0 } = true ∧ ¬ (Queue.seq.code < 2) ∧
    (working (stalledOn 7)).timedOut 0 c0 .seq = none := by decide +kernel
/-- A pass in M0 whose line lies in slot 5, which is empty. -/
def starved : Core := { equipped with
  run := [(0, { passed with passes := [{ aPass with q := { aPass.q with a := 0x2000 } }] })]
  stalls := [(5, { since := 0, edges := 8, limit := 8, item := 0x805, need := 0, kind := 1 })] }
theorem test_meets_EngineCompletes_starved : Queue.m0.code < 2 ∧
    Tab.find ((working starved).core c0).stalls (5 + Queue.m0.code) = some { since := 0, edges := 8, limit := 8, item := 0x805, need := 0, kind := 1 } ∧
    ((working starved).core c0).passStalls Queue.m0.code = some 0 := by decide +kernel
def msg : MeshMsg := { pt := 0, src := ⟨0, 0, 1⟩, dst := c0, slot := 5, flag := 6, dfen := true, tag := 3, bytes := List.replicate 256 7, cmd := 0, vc := [] }
def aMeshSetMsg (tag : Nat) : MeshSet := { pt := 0, src := ⟨0, 0, 1⟩, dst := c0, flag := 6, tag := tag, vc := [] }
def withMesh : State := { (inState .run).setCore c0 equipped with
  mesh := [msg, { msg with slot := 6, dfen := false }]
  meshSets := [aMeshSetMsg 3, aMeshSetMsg 4]
  credits := [{ pt := 0, src := ⟨0, 0, 1⟩, dst := c0, slot := 9, vc := [] }] }
/-- A way over two crossings, the second of which re-centres. -/
def aWay : Way := { crossings := [{ crossing := 0, recentring := 0, drift := [8000, 6000] }, { crossing := 25, recentring := 1, drift := [] }], fifos := [], retries := [(3, 1)], waits := [] }
def crossed : State := withMesh.catchUp.travel msg.pt msg.src aWay
theorem test_meets_MeshArrivals_message : withMesh.mesh[0]? = some msg ∧ crossed.takesMessages msg.pt = true ∧
    (crossed.core msg.dst).slotFor msg.tag msg.slot = some { valid := true, base := 0x2000, size := 1, role := 3, timeout := 8 } ∧
    ((crossed.core msg.dst).slot (slotIx (tagGen msg.tag) msg.slot)).full = false ∧ msg.bytes ≠ [] ∧ msg.bytes.length ≤ 256 * 1 ∧ crossed.poison = [] ∧
    crossed.assayEn msg.pt = false ∧ (crossed.core msg.dst).flagOk msg.tag msg.flag = true ∧ (crossed.core msg.dst).flag msg.flag < 65535 ∧
    withMesh.mesh[1]? = some { msg with slot := 6, dfen := false } ∧ (crossed.core msg.dst).slotFor msg.tag 6 = none := by decide +kernel
theorem test_meets_MeshArrivals_stray : (crossed.core msg.dst).flagOk 4 msg.flag = false := by decide +kernel
def setCame : State := ({ withMesh with meshSets := dropAt withMesh.meshSets 0 }).travel 0 ⟨0, 0, 1⟩ aWay
theorem test_meets_MeshArrivals_set : withMesh.meshSets[0]? = some (aMeshSetMsg 3) ∧ setCame.takesMessages 0 = true ∧
    (setCame.core c0).flagOk 3 6 = true ∧ (setCame.core c0).flag 6 < 65535 ∧ setCame.assayEn 0 = false ∧
    withMesh.meshSets[1]? = some (aMeshSetMsg 4) ∧ (setCame.core c0).flagOk 4 6 = false := by decide +kernel
def creditCame : State := ({ withMesh with credits := dropAt withMesh.credits 0 }).travel 0 c0 aWay
theorem test_meets_MeshArrivals_credit : withMesh.credits[0]? = some { pt := 0, src := ⟨0, 0, 1⟩, dst := c0, slot := 9, vc := [] } ∧
    ((creditCame.core c0).slot 9).creditHome = true ∧ (creditCame.core c0).slotsOf (9 / 64) ≠ none ∧ (creditCame.core c0).slotsOf (73 / 64) = none ∧ creditCame.assayEn 0 = false ∧ (creditCame.part 0).st = .run ∧
    ((creditCame.updCore c0 fun k => { k with slotSt := [(9, { SlotSt.load with creditHome := false })] }).core c0 |>.slot 9).creditHome = false := by decide +kernel
def req (store gallery : Bool) : MemReq :=
  { gen := 0, store := store, gallery := gallery, handle := 0, flag := 7, stAddr := [0x5000, 0x5001], memAddr := [some 0x80, some 0x81], data := [1, 2], issuedAt := 0,
    refreshNs := 0, cmd := 0, vc := [] }
def requesting (r : MemReq) : State := (inState .run).setCore c0 { equipped with memq := [r] }
theorem test_meets_MemoryRequests_memory (r : MemReq) : (requesting r).memoryWf := memoryWf_empty _ rfl rfl rfl
theorem test_meets_MemoryRequests_fetch : (requesting (req false false)).catchUp = requesting (req false false) ∧ (requesting (req false false)).ownerOf c0 = 0 ∧
    (requesting (req false false)).poison = [] ∧ (requesting (req false false)).hbmPoison = [] ∧ (requesting (req false false)).assayEn 0 = false ∧
    ((req false false).flag < 64 → ((requesting (req false false)).core c0).flag (req false false).flag < 65535) ∧
    (requesting (req false false)).request c0 0 false = some (req false false) ∧ (req false false).stAddr.Nodup ∧
    storeOk (0x5001 : Nat) = true ∧ (req false false).stAddr[1]? = some 0x5001 ∧ (req false false).memAddr[1]? = some (some 0x81) ∧
    (requesting (req false true)).request c0 0 false = some (req false true) ∧ (spread (req false true).memAddr [8, 9])[1]? = some 9 :=
  ⟨rfl, by decide +kernel, rfl, rfl, by decide +kernel, by decide +kernel, by decide +kernel, by decide +kernel, by decide +kernel, rfl, rfl, by decide +kernel, by decide +kernel⟩
theorem test_meets_MemoryRequests_store : (requesting (req true false)).request c0 0 true = some (req true false) ∧ (requesting (req true true)).request c0 0 true = some (req true true) ∧
    ((req true false).mem.filterMap (locate ((requesting (req true false)).extents 0))).Nodup ∧ 1 < (req true false).mem.length ∧
    (locate ((requesting (req true false)).extents 0) 0x81).isSome = true := by decide +kernel
theorem test_meets_MemoryRequests_error : ((requesting (req false true)).core c0).memq[0]? = some (req false true) ∧ (req false true).gallery = true ∧ (req false true).store = false := by
  decide +kernel
theorem test_meets_StoreScrub : (Tab.find ({ ready with clusters := [(0, ())] }).clusters (storeClu (.core c0))).isSome = true ∧
    ready.poison.contains (.core c0, 0) = false ∧ (Tab.find ready.clusters (storeClu (.core c0))).isSome = false ∧
    ({ ready with clusters := [(0, ())], poison := [(.core c0, 0)] } : State).poison.contains (.core c0, 0) = true := by decide +kernel

/-! ### Hypotheses met: stacks, the gallery, host memory -/

def windowed (x : Stack) : State := { ready with hbmStk := [(0, x)] }
theorem test_meets_RefreshAndHeat_windows : ready.tb.running = true ∧ (ready.stack 0).windowOpen = false ∧ ready.inWindow 0 (2 ^ 20) = true ∧
    ((windowed { Stack.reset with windowOpen := true, hot := true, openedHot := true }).stack 0).windowOpen = true ∧
    (windowed { Stack.reset with windowOpen := true }).inWindow 0 (2 ^ 20 + 1024) = false ∧ ready.tb.count ≤ 2 ^ 20 + 1024 ∧
    ready.keepsCalendar 0 = false ∧ (inState .run).keepsCalendar 0 = true ∧ ready.inWindow 0 (2 ^ 20 + 1024) = false := by decide +kernel
theorem test_meets_RefreshAndHeat_due : (windowed { Stack.reset with windowOpen := true, hot := true, openedHot := true }).period 0 / 8 -
    (windowed { Stack.reset with windowOpen := true, hot := true, openedHot := true }).windowLen 0 ≥ 480 ∧
    ((windowed { Stack.reset with hot := true, openedHot := true }).stack 0).emergency = none := by decide +kernel
theorem test_meets_RefreshAndHeat_heat : ready.power.convOn = true ∧ 86 < 105 ∧ (ready.stack 0).hot = false ∧ ready.refTemp 0 < 86 ∧
    ((windowed { Stack.reset with hot := true }).stack 0).hot = true ∧ 82 + 3 ≤ ready.refTemp 0 ∧ 105 ≤ 105 ∧ (ready.stack 0).tripped = false ∧
    ((ready.stack 0).hot = false ∧ 85 ≤ ready.refTemp 0) ∧ (((windowed { Stack.reset with hot := true }).stack 0).hot = true ∧ ready.refTemp 0 < 83 + 3) ∧
    ((windowed { Stack.reset with tripped := true }).stack 0).tripped = true ∧ noConverter.power.convOn = false ∧ 0 ∈ (inState .armed).partsOnStack 0 ∧
    ((inState .armed).part 0).st = .armed := by decide +kernel
theorem test_meets_RefreshAndHeat_emergency : ((windowed { Stack.reset with emergency := some (2 ^ 20), hot := true, deficit := 480 }).stack 0).emergency = some (2 ^ 20) ∧
    480 ≤ ((windowed { Stack.reset with emergency := some (2 ^ 20), hot := true, deficit := 480 }).stack 0).deficit ∧
    ((windowed { Stack.reset with emergency := some (2 ^ 20) }).stack 0).hot = false ∧ (windowed { Stack.reset with emergency := some (2 ^ 20) }).tb.count ≤ 2 ^ 20 ∧
    ((windowed { Stack.reset with emergency := some (2 ^ 20 + 1) }).stack 0).emergency = some (2 ^ 20 + 1) := by decide +kernel

/-- A descriptor that waits in flight, of ring 0. -/
def desc (op w1 w2 w3 : Nat) (payload : List Byte) : Desc :=
  { sq := 0, cq := 0, tag := 5, op := op, fence := false, w1 := BitVec.ofNat 64 w1, w2 := BitVec.ofNat 64 w2, w3 := BitVec.ofNat 64 w3, payload := payload,
    progress := .waiting, func := ⟨.h0a, 0⟩ }
def given (s : State) (d : Desc) : State := s.updPart 0 fun p => { p with flight := [d] }
def openObj (closed : Bool) : GalObj := { base := 0x10000, pages := 2, rd := true, wr := true, expiry := 2 ^ 20, closed := closed, reason := 0, notice := true }
def galleried (closed : Bool) : State := (inState .run).updPart 0 fun p => { p with gal := [(3, { openObj closed with expiry := 2 ^ 30 })], galTags := [(3, 1)] }
def aReg : Desc := desc 0x18 0x10000 (2 ^ 31 + 2 ^ 30 + 268435456) 1 []
theorem test_meets_Gallery_reg : (given (inState .run) aReg).descStarts 0 5 aReg ∧ ((given (inState .run) aReg).part 0).freeIx.isSome = true ∧ aReg.op = 0x18 ∧
    1 ≤ wf aReg.w2 28 0 ∧ wf aReg.w2 28 0 ≤ 268435456 ∧ ttlOk (wf aReg.w3 16 0) = true := by unfold State.descStarts; decide +kernel
def aRenew : Desc := desc 0x19 (4096 + 3) 0 86400 []
theorem test_meets_Gallery_renew : (given (galleried false) aRenew).descStarts 0 5 aRenew ∧ ttlOk (wf aRenew.w3 16 0) = true ∧
    ((given (galleried false) aRenew).part 0).openHandle (wf aRenew.w1 15 0) = true ∧ ((given (galleried false) aRenew).part 0).galExpired.contains (wf aRenew.w1 15 0) = false ∧
    Tab.find ((given (galleried false) aRenew).part 0).gal (wf aRenew.w1 15 0 % 4096) = some { openObj false with expiry := 2 ^ 30 } ∧
    (given (galleried false) aRenew).now < 2 ^ 30 := by unfold State.descStarts; decide +kernel
theorem test_meets_Gallery_refused : (given (inState .run) (desc 0x18 0x10000 (2 ^ 31 + 2 ^ 30) 1 [])).descStarts 0 5 (desc 0x18 0x10000 (2 ^ 31 + 2 ^ 30) 1 []) ∧
    ¬ (1 ≤ wf (desc 0x18 0x10000 (2 ^ 31 + 2 ^ 30) 1 []).w2 28 0) ∧
    (given ((inState .run).updPart 0 fun p => { p with galExpired := [4099] }) aRenew).descStarts 0 5 aRenew ∧
    ((given ((inState .run).updPart 0 fun p => { p with galExpired := [4099] }) aRenew).part 0).galExpired.contains (wf aRenew.w1 15 0) = true ∧
    (given (inState .run) aRenew).descStarts 0 5 aRenew ∧ ((given (inState .run) aRenew).part 0).openHandle (wf aRenew.w1 15 0) = false ∧
    (given (inState .run) (desc 0x1A (4096 + 3) 0 0 [])).descStarts 0 5 (desc 0x1A (4096 + 3) 0 0 []) ∧
    (given (inState .run) (desc 0x1A (4096 + 3) 0 0 [])).handleCurrent 0 4099 = false := by unfold State.descStarts; decide +kernel
def aDereg : Desc := desc 0x1A (4096 + 3) 0 0 []
theorem test_meets_Gallery_dereg : (given (galleried false) aDereg).descStarts 0 5 aDereg ∧ cf (given (galleried false) aDereg) .srvGal 0 0 31 16 = 0 ∧
    (given (galleried false) aDereg).handleCurrent 0 (wf aDereg.w1 15 0) = true := by unfold State.descStarts; decide +kernel
theorem test_meets_Gallery_expiry : Tab.find (({ galleried false with tb := { ready.tb with count := 2 ^ 30 } }).part 0).gal 3 = some { openObj false with expiry := 2 ^ 30 } ∧
    (2 ^ 30 : Nat) ≤ 2 ^ 30 ∧ cf (galleried false) .srvGal 0 0 31 16 = 0 ∧
    (∀ c ∈ (galleried false).coresOf 0, heldOn ((galleried false).core c).memq 3 = none) ∧ (galleried false).tb.count < 2 ^ 30 := by decide +kernel
/-- A request through the object that may not issue yet, behind one that it overlaps. -/
def heldUp : State := ({ galleried false with tb := { ready.tb with count := 2 ^ 30 } }).setCore c0 { equipped with memq := [{ req true true with handle := 4099 }, { req true true with handle := 4099 }] }
theorem test_meets_Gallery_held : Tab.find (heldUp.part 0).gal 3 = some { openObj false with expiry := 2 ^ 30 } ∧ heldUp.tb.count = 2 ^ 30 ∧ c0 ∈ heldUp.coresOf 0 ∧
    heldOn (heldUp.core c0).memq 3 ≠ none ∧ (heldUp.part 0).st = .run ∧ (heldUp.part 0).frec = none := by decide +kernel
theorem test_meets_Gallery_notice : (openObj true).closed = true ∧ (openObj true).notice = true ∧ (galleried true).objectBusy 0 3 = false ∧ ((galleried true).part 0).flight = [] ∧
    Tab.rising none ((galleried true).part 0).gal = true ∧ (galleried true).evqRing 0 = some 0 ∧ (setCfg (galleried true) .cqCfg 0 0 0).evqRing 0 = none ∧ (openObj false).closed = false := by decide +kernel
theorem test_meets_HostMemory_write : (given (inState .run) (desc 0x01 (2 * granule - 65472) 65472 0 [1])).memoryWf ∧
    (given (inState .run) (desc 0x01 (2 * granule - 65472) 65472 0 [1])).descStarts 0 5 (desc 0x01 (2 * granule - 65472) 65472 0 [1]) ∧
    (given (inState .run) (desc 0x01 (2 * granule - 65472) 65472 0 [1])).hbmPoison = [] ∧ wf (desc 0x01 (2 * granule - 65472) 65472 0 [1]).w2 15 0 = 65472 ∧
    (desc 0x01 (2 * granule - 65472) 65472 0 [1]).addr + 65472 ≤ (inState .run).regionSize 0 :=
  ⟨memoryWf_empty _ rfl rfl rfl, by unfold State.descStarts; decide +kernel, rfl, by decide +kernel, by decide +kernel⟩
def trippedAt0 (s : State) : State := { s with hbmStk := [(0, { Stack.reset with tripped := true })] }
def refreshing (s : State) : State := { s with hbmStk := [(0, { Stack.reset with windowOpen := true })] }
theorem test_meets_HostMemory_serves : (given (inState .run) (desc 0x01 (2 * granule - 65472) 65472 0 [1])).stacksServe 0 (desc 0x01 (2 * granule - 65472) 65472 0 [1]).addr 65472 ∧
    ¬ (refreshing (given (inState .run) (desc 0x01 0 1 0 [1]))).stacksServe 0 0 1 ∧ (refreshing (given (inState .run) (desc 0x01 0 1 0 [1]))).descStarts 0 5 (desc 0x01 0 1 0 [1]) ∧
    (given (inState .run) { desc 0x01 0 1 0 [1] with progress := .started }).descServed 0 5 0x01 { desc 0x01 0 1 0 [1] with progress := .started } ∧
    (given (inState .run) { desc 0x02 0 1 0 [] with progress := .started }).descServed 0 5 0x02 { desc 0x02 0 1 0 [] with progress := .started } := by
  unfold State.stacksServe State.descStarts State.descServed State.descWaits; decide +kernel
/-- A read that waits at a stack in a refresh window; and one that waits at a stack that has tripped since. -/
theorem test_meets_HostMemory_waits : (refreshing (given (inState .run) { desc 0x02 0 1 0 [] with progress := .started })).descServed 0 5 0x02 { desc 0x02 0 1 0 [] with progress := .started } ∧
    ¬ (refreshing (given (inState .run) { desc 0x02 0 1 0 [] with progress := .started })).stacksServe 0 0 1 ∧
    (trippedAt0 (given (inState .run) { desc 0x01 0 1 0 [1] with progress := .started })).descWaits 0 5 0x01 { desc 0x01 0 1 0 [1] with progress := .started } ∧
    (trippedAt0 (given (inState .run) { desc 0x01 0 1 0 [1] with progress := .started })).accessBad 0 { desc 0x01 0 1 0 [1] with progress := .started } = some 0 ∧
    (trippedAt0 (given (inState .run) { desc 0x02 0 1 0 [] with progress := .started })).descWaits 0 5 0x02 { desc 0x02 0 1 0 [] with progress := .started } ∧
    (trippedAt0 (given (inState .run) { desc 0x02 0 1 0 [] with progress := .started })).accessBad 0 { desc 0x02 0 1 0 [] with progress := .started } = some 0 := by
  unfold State.stacksServe State.descServed State.descWaits; decide +kernel
theorem test_meets_HostMemory_others : (given (inState .run) (desc 0x3F 0 0 0 [])).descStarts 0 5 (desc 0x3F 0 0 0 []) ∧
    (given (inState .run) (desc 0x02 0x40 16065 0 [])).descStarts 0 5 (desc 0x02 0x40 16065 0 []) ∧ wf (desc 0x02 0x40 16065 0 []).w2 13 0 = 16065 ∧
    (desc 0x02 0x40 16065 0 []).addr + 16065 ≤ (inState .run).regionSize 0 ∧
    (given (inState .run) (desc 0x01 0 65473 0 [1])).descStarts 0 5 (desc 0x01 0 65473 0 [1]) ∧ 65472 < wf (desc 0x01 0 65473 0 [1]).w2 15 0 := by
  unfold State.descStarts; decide +kernel
def cxl (x : PtState) : State := { inState x with links := [(0, { HostLink.reset with perst := false, trained := true, cxl := true })] }
theorem test_meets_HostMemory_cxl : (cxl .armed).memoryWf ∧ (cxl .armed).hbmPoison = [] ∧ (cxl .armed).cxlRange .h0a 0 (2 * granule - 2) 2 = true ∧
    ((cxl .armed).part 0).st ≠ .run ∧ (cxl .armed).guarded 0 (2 * granule - 2) 2 = false ∧ (cxl .run).cxlRange .h0a 0 0 2 = true ∧ ((cxl .run).part 0).st = .run ∧
    (cxl .armed).stacksServe 0 (2 * granule - 2) 2 ∧ ¬ (refreshing (cxl .armed)).stacksServe 0 0 2 ∧ (refreshing (cxl .armed)).cxlRange .h0a 0 0 2 = true ∧
    (refreshing (cxl .armed)).guarded 0 0 2 = false ∧ (cxl .armed).cxlRange .h0a 0 (2 * granule - 1) 2 = false :=
  ⟨memoryWf_empty _ rfl rfl rfl, rfl, by decide +kernel, by decide +kernel, by decide +kernel, by decide +kernel, by decide +kernel, by unfold State.stacksServe; decide +kernel,
    by unfold State.stacksServe; decide +kernel, by decide +kernel, by decide +kernel, by decide +kernel⟩

theorem test_meets_HostMemory_tripped : (trippedAt0 (cxl .armed)).cxlRange .h0a 0 0 2 = true ∧ (trippedAt0 (cxl .armed)).guarded 0 0 2 = false ∧ ((trippedAt0 (cxl .armed)).part 0).st ≠ .run ∧
    ((trippedAt0 (cxl .armed)).trippedIn 0 0 2).isSome = true := by decide +kernel
/-- A write of the module's own that waits alone, at a stack that serves, and at one in its window. -/
def owning (s : State) : State := { s with ownq := [{ pt := 0, addr := 0x40, bytes := [1, 2] }] }
theorem test_meets_RefreshAndHeat_own : (owning (inState .run)).memoryWf ∧ (owning (inState .run)).hbmPoison = [] ∧ 0x40 + 2 ≤ (owning (inState .run)).regionSize 0 ∧
    (owning (inState .run)).stacksServe 0 0x40 2 ∧ (∃ k ∈ (owning (refreshing (inState .run))).stacksIn 0 0x40 2, (owning (refreshing (inState .run))).stackShut k = true ∧
      ((owning (refreshing (inState .run))).stack k).tripped = false) :=
  ⟨memoryWf_empty _ rfl rfl rfl, rfl, by decide +kernel, by unfold State.stacksServe; decide +kernel, 0, by decide +kernel⟩
theorem test_meets_RefreshAndHeat_owes : (inState .run).ownq = [] := by decide +kernel

theorem test_meets_CommandsEnterQueues_send : sending.issues c0 [] 0 aSend ∧ aSend.queue < 4 ∧ aSend.opcode = 0x30 ∧ aSend.sendRoute = 1 ∧
    (sending.core c0).sends[aSend.shaftIx]? = some (3, 2) ∧ sending.calendarHas 0 3 2 (sending.core c0).gen = true := by
  unfold State.issues cleanReads; decide +kernel


/-! ### Hypotheses met: what the vector and move engines compute, and assay mode -/

/-- A command alone at the head of its queue, from 0x3000 to 0x4000, with bytes in the core's store. -/
def queued (op w0 w1 w2 w3 : Nat) : QCmd := { queuedMove with cmd := cmd op w0 w1 w2 w3 }
def computing (q : QCmd) (m : Tab Byte) : State :=
  { setCfg ((inState .run).setCore c0 { equipped with shapes := [{ ext0 := 256, ext1 := 1, ext2 := 1, ext3 := 1, stride1 := 0, stride2 := 0, stride3 := 0 }], queues := [(q.cmd.queue, [q])] })
      .ptLamp 0 0 0x000A0064 with coreMem := [(0, m)] }
/-- A VOP of COUNT elements in one format throughout; B at 0x3800, C, and CONV's scales, at 0x3900. -/
def aVop (op fmt count : Nat) : QCmd := queued 0x10 (2 ^ 15 * op) (2 ^ 59 * fmt + 2 ^ 54 * fmt + 2 ^ 49 * fmt + 2 ^ 44 * fmt) (2 ^ 32 * 0x3800 + 0x3900) (2 ^ 44 * count)
theorem test_meets_VectorResults_vop : (computing (aVop 0x04 0x02 4) [(0x3003, 0x3F)]).catchUp.starts c0 0 .v (aVop 0x04 0x02 4) [] ∧ (aVop 0x04 0x02 4).cmd.opcode = 0x10 ∧
    (aVop 0x04 0x02 4).cmd.vopc = 0x04 ∧ isMx (aVop 0x04 0x02 4).cmd.fmtD = false ∧ 3 < (aVop 0x04 0x02 4).cmd.count := by unfold State.starts State.mayStartCmd; decide +kernel
theorem test_meets_VectorResults_conv : (computing (aVop 0x0B 0x02 4) []).catchUp.starts c0 0 .v (aVop 0x0B 0x02 4) [] ∧ (aVop 0x0B 0x02 4).cmd.vopc = 0x0B := by
  unfold State.starts State.mayStartCmd; decide +kernel
theorem test_meets_VectorResults_reduce : (computing (aVop 0x0C 0x02 4) []).catchUp.starts c0 0 .v (aVop 0x0C 0x02 4) [] ∧ (aVop 0x0C 0x02 4).cmd.vopc = 0x0C ∧
    (aVop 0x0D 0x02 4).cmd.vopc = 0x0D := by unfold State.starts State.mayStartCmd; decide +kernel
theorem test_meets_VectorResults_mx : (computing (aVop 0x00 0x0A 32) []).catchUp.starts c0 0 .v (aVop 0x00 0x0A 32) [] ∧ isMx (aVop 0x00 0x0A 32).cmd.fmtD = true ∧
    (((computing (aVop 0x00 0x0A 32) []).catchUp.effectOf c0 (aVop 0x00 0x0A 32)).writes.map (·.1)).Nodup ∧ 32 * (0 + 1) ≤ (aVop 0x00 0x0A 32).cmd.count := by
  unfold State.starts State.mayStartCmd; decide +kernel
theorem test_meets_VectorResults_memory : (computing (aVop 0x04 0x02 4) [(0x3003, 0x3F)]).catchUp.memoryWf :=
  memoryWf_listed _ (by decide +kernel) (by decide +kernel) (by decide +kernel)

/-- Addresses that only rise are all different. -/
def climbs : List Int → Bool
  | a :: b :: l => decide (a < b) && climbs (b :: l)
  | _ => true
theorem climbs_above (l : List Int) : ∀ a, climbs (a :: l) = true → ∀ b ∈ l, a < b := by
  induction l with
  | nil => simp
  | cons x l ih =>
    intro a h b hb
    simp only [climbs, Bool.and_eq_true, decide_eq_true_eq] at h
    rcases List.mem_cons.1 hb with rfl | hb
    · exact h.1
    · exact Int.lt_trans h.1 (ih x h.2 b hb)
theorem climbs_nodup (l : List Int) (h : climbs l = true) : l.Nodup := by
  induction l with
  | nil => exact List.nodup_nil
  | cons a l ih =>
    refine List.nodup_cons.2 ⟨fun ha => Int.lt_irrefl a (climbs_above l a h a ha), ih ?_⟩
    cases l with
    | nil => rfl
    | cons b l => simp only [climbs, Bool.and_eq_true] at h; exact h.2
/-- VCOMB of one tile and one K-block of four slices: accumulators at 0x5000, outputs at 0x7000, the list at 0x8000, row entries at 0x3000, column entries at 0x3800. -/
def aComb (phase ktotal : Nat) : QCmd :=
  { queued 0x12 (2 ^ 19 * 4 + 2 ^ 17 * phase + 2 ^ 6 * 1) (2 ^ 51 * ktotal) (2 ^ 59 * 1 + 2 ^ 32 * 0x3800 + 0x5000) (2 ^ 32 * 0x7000) with b := 0x8000 }
theorem test_meets_VectorResults_vcomb : (computing (aComb 0 1) [(0x3003, 0x08)]).catchUp.starts c0 0 .v (aComb 0 1) [] ∧ (aComb 0 1).cmd.opcode = 0x12 ∧ (aComb 0 1).cmd.phase = 0 ∧
    (aComb 0 1).cmd.ktotal = 1 ∧ (aComb 0 1).cmd.khere = 1 ∧ (aComb 0 1).cmd.kfirst = 0 ∧ (aComb 0 1).cmd.tiles = 1 := by
  unfold State.starts State.mayStartCmd; decide +kernel
theorem test_meets_VectorResults_vcomb_writes : (((computing (aComb 0 1) [(0x3003, 0x08)]).catchUp.effectOf c0 (aComb 0 1)).writes.map (·.1)).Nodup :=
  climbs_nodup _ (by decide +kernel)
theorem test_meets_VectorResults_vcomb_entries : ((computing (aComb 0 1) [(0x3001, 0x08)]).rowEntry c0 (aComb 0 1) 0 0).zero = true ∧
    ((computing (aComb 0 1) [(0x3001, 0x08)]).rowEntry c0 (aComb 0 1) 1 0).zero = false ∧ ((computing (aComb 0 1) [(0x3001, 0x08)]).rowEntry c0 (aComb 0 1) 1 0).nonfinite = false ∧
    ((computing (aComb 0 1) [(0x3001, 0x08)]).colEntry c0 (aComb 0 1) 0 0).zero = false ∧ ((computing (aComb 0 1) [(0x3001, 0x08)]).colEntry c0 (aComb 0 1) 0 0).nonfinite = false ∧
    (aComb 1 1).cmd.phase ≠ 3 ∧ (aComb 3 1).cmd.phase = 3 := by decide +kernel
/-- SPLIT of one block of 32 FP64 values into four digits, planes 32 bytes apart, its exponent entry at 0x3900. -/
def aSplit : QCmd := queued 0x21 (2 ^ 19 * 4) 0 (2 ^ 32 * 32 + 0x3900) 0
theorem test_meets_VectorResults_split : (computing aSplit [(0x3007, 0x40)]).catchUp.starts c0 0 .x aSplit [] ∧ aSplit.cmd.opcode = 0x21 ∧ aSplit.cmd.scount = 4 ∧
    (((computing aSplit [(0x3007, 0x40)]).catchUp.effectOf c0 aSplit).writes.map (·.1)).Nodup ∧
    256 * (0 + 1) ≤ ((((computing aSplit []).core c0).shapeAt aSplit.gen (wf aSplit.cmd.w0 18 11)).addrs aSplit.a).length := by
  unfold State.starts State.mayStartCmd; decide +kernel
/-- GATHER or SCATTER of three rows of 8 bytes, 16 apart in the table; the stencil at 0x3900 names row 1, no row, and a row past the extent. -/
def aGather (op : Nat) : QCmd := queued op (2 ^ 6 * 3) 0 (2 ^ 32 * 16 + 0x3900) (2 ^ 48 * 8 + 2)
def aStencil : Tab Byte := [(0x3900, 1), (0x3903, 0x80), (0x3908, 2), (0x390B, 0x80)]
theorem test_meets_VectorResults_gather : (computing (aGather 0x22) aStencil).catchUp.starts c0 0 .x (aGather 0x22) [] ∧ (aGather 0x22).cmd.opcode = 0x22 ∧
    wf (aGather 0x22).cmd.w0 22 6 = 3 ∧ wf (aGather 0x22).cmd.w3 63 48 = 8 ∧
    entryOf (leNat ((computing (aGather 0x22) aStencil).readStN c0 ((lowAddr (aGather 0x22).cmd.w2 + 4 * 0 : Nat) : Int) 4)) (wf (aGather 0x22).cmd.w3 31 0) = .used 1 ∧
    entryOf (leNat ((computing (aGather 0x22) aStencil).readStN c0 ((lowAddr (aGather 0x22).cmd.w2 + 4 * 1 : Nat) : Int) 4)) (wf (aGather 0x22).cmd.w3 31 0) = .invalid ∧
    entryOf (leNat ((computing (aGather 0x22) aStencil).readStN c0 ((lowAddr (aGather 0x22).cmd.w2 + 4 * 2 : Nat) : Int) 4)) (wf (aGather 0x22).cmd.w3 31 0) = .clipped := by
  unfold State.starts State.mayStartCmd; decide +kernel
theorem test_meets_VectorResults_scatter : (computing (aGather 0x23) aStencil).catchUp.starts c0 0 .x (aGather 0x23) [] ∧ (aGather 0x23).cmd.opcode = 0x23 ∧
    (((computing (aGather 0x23) aStencil).catchUp.effectOf c0 (aGather 0x23)).writes.map (·.1)).Nodup := by unfold State.starts State.mayStartCmd; decide +kernel
theorem test_meets_VectorResults_digits : (-256 : Int).natAbs ≤ 2 ^ (8 * 4 - 2) ∧ digitsOf 4 (-256) = [0, 0, 255, 0] := by decide +kernel
theorem test_meets_EngineStart_lands : starting.catchUp.memoryWf ∧
    ((starting.catchUp.effectOf c0 queuedMove).writes.reverse.find? fun w => decide (byteOf c0 w.1 = byteOf c0 0x400F)) = some (0x400F, 0) ∧ storeOk 0x400F = true :=
  ⟨memoryWf_listed _ (by decide +kernel) (by decide +kernel) (by decide +kernel), by decide +kernel, by decide +kernel⟩
theorem test_meets_EngineStart_owes (c : CoreId) (r : Running) (h : Tab.find (ready.core c).run 4 = some r) : r.owed = false := by cases h
theorem test_meets_MeshArrivals_memory : crossed.memoryWf := memoryWf_listed _ (by decide +kernel) (by decide +kernel) (by decide +kernel)
/-- A BEAT whose next edge the tick before this count went past. -/
def jumpedTo : State := { issuing { equipped with base := 2 ^ 20 - 513 } aBeat with tb := { ready.tb with jumped := true } }
theorem test_meets_BeatClosesSegment_late : jumpedTo.issues c0 [] 0 aBeat ∧ jumpedTo.now - (jumpedTo.core c0).edge ((jumpedTo.core c0).segNo + 1) = 1 ∧ jumpedTo.tb.jumped = true ∧
    (jumpedTo.core c0).pc + 1 < (jumpedTo.core c0).streamLen ∧ (jumpedTo.core c0).handover = none ∧ (jumpedTo.part 0).holdAt = none := by
  unfold State.issues cleanReads; decide +kernel

/-- With assay mode on: the checks of PT_ASSAY_CTL, and a region of 32 granules with the shadow area at its start. -/
def assayed (ctl : W32) (s : State) : State := setCfg (setCfg (setCfg s .ptAssayCtl 0 0 ctl) .ptHbmExt 0 0 0x00200000) .ptLamp 0 0 0x000A0064
/-- MOVE of 16 bytes from 0x3000 to 0x3008. -/
def overMove : QCmd := { queuedMove with b := 0x3008 }
def overlapping (ctl : W32) : State := assayed ctl ((inState .run).setCore c0 { equipped with queues := [(3, [overMove])] })
theorem test_meets_AssayMode_start : (overlapping 0x05).catchUp.mayStartCmd c0 0 .x overMove [] ∧ (overlapping 0x05).catchUp.assayEn 0 = true ∧ overMove.cmd.opcode < 0x28 ∧
    rb (cfg (overlapping 0x05).catchUp .ptAssayCtl 0 0) 5 = false := by unfold State.mayStartCmd; decide +kernel
theorem test_meets_AssayMode_memory : (overlapping 0x05).catchUp.memoryWf := memoryWf_listed _ (by decide +kernel) (by decide +kernel) (by decide +kernel)
theorem test_meets_AssayMode_overlap : (overlapping 0x05).catchUp.assayChk 0 2 = true ∧ (overlapping 0x05).catchUp.assayChk 0 4 = false ∧ (overlapping 0x05).catchUp.assayChk 0 1 = false ∧
    ((overlapping 0x05).catchUp.effectOf c0 overMove).overlap = true ∧ ((overlapping 0x05).catchUp.effectOf c0 overMove).exempt = false ∧
    ((((overlapping 0x05).catchUp.effectOf c0 overMove).writes.map (·.1)).find? fun a => ((overlapping 0x05).catchUp.effectOf c0 overMove).reads.contains a) = some 0x3008 := by decide +kernel
/-- The log of a state in assay mode takes records: the premises of `State.logOpen` but the memory's form. -/
theorem logOpen_of (s : State) (n k : Nat) (h : (s.assayEn n && !rb (cfg s .ptAssayCtl n 0) 5 && decide ((s.part n).assayPos + k ≤ 65536) && !s.ownWaits n (s.logAt n) (32 * k) &&
    (s.trippedIn n (s.logAt n) (32 * k)).isNone && decide (s.logAt n + 32 * k ≤ s.regionSize n)) = true) (hm : s.memoryWf) : s.logOpen n k := by
  simp only [Bool.and_eq_true, Bool.not_eq_true', decide_eq_true_eq, Option.isNone_iff_eq_none] at h
  exact ⟨h.1.1.1.1.1, h.1.1.1.1.2, h.1.1.1.2, h.1.1.2, h.1.2, h.2, hm⟩
theorem test_meets_AssayMode_log : (overlapping 0x05).catchUp.logOpen 0 1 := logOpen_of _ _ _ (by decide +kernel) test_meets_AssayMode_memory
theorem test_meets_AssayMode_stop : (overlapping 0x25).catchUp.mayStartCmd c0 0 .x overMove [] ∧ (overlapping 0x25).catchUp.assayEn 0 = true ∧
    rb (cfg (overlapping 0x25).catchUp .ptAssayCtl 0 0) 5 = true ∧ ((overlapping 0x25).catchUp.part 0).frec = none := by unfold State.mayStartCmd; decide +kernel
/-- A VOP of one source, its granule tagged with format 3. -/
def tagged : State := { assayed 0x03 (computing (aVop 0x00 0x02 4) []) with assay := { State.reset.assay with tags := [(2 ^ 24 + 0x3000 / 32, 3)] } }
theorem test_meets_AssayMode_format : tagged.catchUp.mayStartCmd c0 0 .v (aVop 0x00 0x02 4) [] ∧ tagged.catchUp.assayChk 0 1 = true ∧ tagged.catchUp.assayChk 0 4 = false ∧
    tagged.catchUp.assayChk 0 2 = false ∧ vopUsesB (aVop 0x00 0x02 4).cmd.vopc = false ∧ vopUsesC (aVop 0x00 0x02 4).cmd.vopc = false ∧ 0 < (aVop 0x00 0x02 4).cmd.count ∧
    3 ≠ (aVop 0x00 0x02 4).cmd.fmtA := by unfold State.mayStartCmd; decide +kernel
theorem test_meets_AssayMode_format_tags : ∀ a ∈ operandAddrs (aVop 0x00 0x02 4).cmd.fmtA (aVop 0x00 0x02 4).a (aVop 0x00 0x02 4).cmd.count,
    granuleKey c0 a = some (2 ^ 24 + 0x3000 / 32) ∧ Tab.get 0 tagged.catchUp.assay.tags (2 ^ 24 + 0x3000 / 32) = 3 := by decide +kernel
theorem test_meets_AssayMode_format_log : tagged.catchUp.logOpen 0 1 :=
  logOpen_of _ _ _ (by decide +kernel) (memoryWf_listed _ (by decide +kernel) (by decide +kernel) (by decide +kernel))
/-- A message of 8 bytes for slot 5, whose granule core 0 has written. -/
def smallMsg : MeshMsg := { msg with dfen := false, bytes := List.replicate 8 7, vc := [(5, 3)] }
def oldWrite (clock : Nat) : AssayAcc := { write := true, thread := 5, clock := clock, core := c0, queue := 3, cmd := 0 }
def landing (clock : Nat) : State :=
  { assayed 0x11 ((inState .run).setCore c0 equipped) with mesh := [smallMsg], assay := { State.reset.assay with acc := [(2 ^ 24 + 0x2000 / 32, [oldWrite clock])] } }
def came (clock : Nat) : State := (landing clock).catchUp.travel smallMsg.pt smallMsg.src aWay
theorem test_meets_AssayMode_landing : (landing 4).mesh[0]? = some smallMsg ∧ (came 4).takesMessages 0 = true ∧ (came 4).assayChk 0 4 = true ∧
    ((came 4).core c0).slotFor smallMsg.tag smallMsg.slot = some { valid := true, base := 0x2000, size := 1, role := 3, timeout := 8 } ∧
    (((came 4).core c0).slot (slotIx (tagGen smallMsg.tag) smallMsg.slot)).full = false ∧ (came 4).poison = [] ∧
    dedup ((landAddrs 0x2000 8).filterMap (granuleKey c0)) = [2 ^ 24 + 0x2000 / 32] ∧ Tab.get [] (came 4).assay.acc (2 ^ 24 + 0x2000 / 32) = [oldWrite 4] ∧ (oldWrite 4).thread < 2 ^ 30 ∧
    Tab.get 0 smallMsg.vc (oldWrite 4).thread < (oldWrite 4).clock ∧ (oldWrite 3).clock ≤ Tab.get 0 smallMsg.vc (oldWrite 3).thread := by decide +kernel
theorem test_meets_AssayMode_landing_log : (came 4).logOpen 0 1 :=
  logOpen_of _ _ _ (by decide +kernel) (memoryWf_listed _ (by decide +kernel) (by decide +kernel) (by decide +kernel))
/-- Two cores, each waiting for flag 7 with a SET of the other's flag 7 behind its WAIT. -/
def crossWait (n : Nat) : List QCmd := [{ queuedMove with cmd := aWait 5 }, { queuedMove with cmd := cmd 0x38 (2 ^ 20 * 3 + 2 ^ 18 + 2 ^ 12 * 7) (2 ^ 41 * n) 3 0 }]
def waitStall : Stall := { since := 0, edges := 2, limit := 8, item := 7, need := 5, kind := 0 }
def cycling : State :=
  assayed 0x09 (((inState .run).setCore c0 { equipped with queues := [(3, crossWait 1)], stalls := [(3, waitStall)] }).setCore ⟨0, 0, 1⟩
    { equipped with queues := [(3, crossWait 0)], stalls := [(3, waitStall)] })
theorem test_meets_AssayMode_cycle : cycling.assayChk 0 3 = true ∧ cycling.stalledQueues 0 = [(c0, 3, waitStall), (⟨0, 0, 1⟩, 3, waitStall)] ∧ waitStall.seen = false ∧
    cycling.waitsFor (c0, 3, waitStall) (⟨0, 0, 1⟩, 3, waitStall) = true ∧ cycling.waitsFor (⟨0, 0, 1⟩, 3, waitStall) (c0, 3, waitStall) = true := by decide +kernel
theorem test_meets_AssayMode_cycle_log : cycling.logOpen 0 2 :=
  logOpen_of _ _ _ (by decide +kernel) (memoryWf_listed _ (by decide +kernel) (by decide +kernel) (by decide +kernel))
/-- A FETCH of 16 bytes from the start of the region. -/
def shadowFetch : QCmd := { queued 0x28 (2 ^ 7 * 63) 0 0 0 with a := 0, b := 0x4000 }
def fetching : State := assayed 0x01 ((inState .run).setCore c0 { equipped with queues := [(3, [shadowFetch])] })
theorem test_meets_AssayMode_shadow : fetching.catchUp.partOf c0 = some 0 ∧ (fetching.catchUp.part 0).st = .run ∧ (fetching.catchUp.core c0).queue Queue.x.code = [shadowFetch] ∧
    shadowFetch.cmd.opcode = 0x28 ∧ shadowFetch.cmd.gallery = false ∧ Tab.find (fetching.catchUp.core c0).run shadowFetch.cmd.unit = none ∧
    fetching.catchUp.grantCause c0 Queue.x.code shadowFetch = none ∧ (fetching.catchUp.core c0).emptySlot shadowFetch.gen shadowFetch.stencilAddrs = none ∧
    fetching.catchUp.storeFault c0 shadowFetch (fetching.catchUp.effectOf c0 shadowFetch) = none ∧ (fetching.catchUp.part 0).frec = none ∧
    ((0x4000 : Int), some (0 : Int)) ∈ fetching.catchUp.memSides c0 shadowFetch ∧ fetching.catchUp.shadow 0 = (0, 16 * granule) := by decide +kernel
theorem test_meets_AssayMode_production : fetching.assayEn 0 = true ∧ fld (imgNat (imgOf []) 0x16 1) 7 5 = 0 := by decide +kernel
/-! ### Hypotheses met: canvases -/

set_option maxRecDepth 100000

/-- A partition as it stands for a canvas: lamps of die 0, and what `inState` gives. -/
def canvased (x : PtState) : State :=
  { setCfg (inState x) .ptLamp 0 0 0x00080064 with links := [(0, { HostLink.reset with perst := false, trained := true })] }

/-- An image for it, by the bytes that are not 0: one core, its directory at 256, 512 bytes in all, weightless, generation 1; its entry: core 0 of
cluster 0, a stream of one BEAT at 320, role entries at 352, grants at 480. -/
def imageTab : Tab Byte :=
  [(0x00, 0x43), (0x01, 0x41), (0x02, 0x56), (0x03, 0x4E), (0x04, 1), (0x06, 1), (0x07, 0x94), (0x0C, 1), (0x10, 1), (0x12, 1), (0x1C, 101), (0x1D, 249), (0x1E, 172),
   (0x1F, 168), (0x20, 114), (0x21, 227), (0x22, 67), (0x23, 231), (0x28, 1), (0x51, 1), (0x59, 2), (0x60, 1), (0xFC, 152), (0xFD, 70), (0xFE, 4), (0xFF, 247)] ++
  [(0x104, 1), (0x108, 64), (0x109, 1), (0x111, 16), (0x118, 96), (0x119, 1), (0x120, 96), (0x121, 1), (0x130, 224), (0x131, 1), (0x147, 0x50), (0x1E0, 32),
   (0x1E4, 255), (0x1E5, 255), (0x1E6, 255), (0x1E7, 255)]
def header : List Byte := (upFrom 0 256).map (Tab.get 0 imageTab)
def bodyBytes : List Byte := (upFrom 256 256).map (Tab.get 0 imageTab)

/-- The object with handle 3 of two pages, and a load that reads it from its start. -/
def aLoad : Desc := desc 0x08 (4096 + 3) 0 0 []
def loadable : State := (canvased .absent).updPart 0 fun p => { p with gal := [(3, { openObj false with expiry := 2 ^ 30 })], galTags := [(3, 1)], flight := [aLoad] }
def loadingIn (ph : LoadPhase) : State :=
  loadable.updPart 0 fun p => { p with flight := [{ aLoad with progress := .started }], loading := some { tag := 5, phase := ph, header := header } }
theorem test_meets_CanvasLoadSteps_load : loadable.descStarts 0 5 aLoad ∧
    ((loadable.started 0 aLoad).loadObject 0 aLoad) = some { openObj false with expiry := 2 ^ 30 } ∧ loadable.tb.running = true ∧
    aLoad.w2.toNat % 64 = 0 ∧ 256 ≤ ({ openObj false with expiry := 2 ^ 30 } : GalObj).room aLoad.w2.toNat ∧ loadable.ownsClu 0 0 = true ∧
    Tab.find loadable.clusters 0 = none := by
  unfold State.descStarts; decide +kernel
/-- A load of the object's last 192 bytes; one through a handle of no object; one on a module whose count stands. -/
def shortLoad : Desc := desc 0x08 (4096 + 3) 8000 0 []
def lostLoad : Desc := desc 0x08 (4096 + 4) 0 0 []
def loadableAs (d : Desc) : State := loadable.updPart 0 fun p => { p with flight := [d] }
def unclocked : State := { loadable with tb := { ready.tb with running := false } }
theorem test_meets_CanvasLoadSteps_refused : (loadableAs shortLoad).descStarts 0 5 shortLoad ∧
    ((loadableAs shortLoad).started 0 shortLoad).loadObject 0 shortLoad = some { openObj false with expiry := 2 ^ 30 } ∧
    ({ openObj false with expiry := 2 ^ 30 } : GalObj).room shortLoad.w2.toNat = 192 ∧
    (loadableAs lostLoad).descStarts 0 5 lostLoad ∧ ((loadableAs lostLoad).started 0 lostLoad).loadObject 0 lostLoad = none ∧
    unclocked.descStarts 0 5 aLoad ∧ (unclocked.started 0 aLoad).loadObject 0 aLoad = some { openObj false with expiry := 2 ^ 30 } := by
  unfold State.descStarts; decide +kernel
theorem test_meets_CanvasLoadSteps_header : ((loadingIn .header).part 0).loadDesc = some { aLoad with progress := .started } ∧
    (loadingIn .header).loadObject 0 { aLoad with progress := .started } = some { openObj false with expiry := 2 ^ 30 } ∧
    (loadingIn .header).headCheck 0 (imgOf (slice header 0 256)) none 8192 = none ∧
    ((loadingIn .header).headCheck 0 (imgOf (slice [] 0 256)) none 8192).isSome = true := by decide +kernel
theorem test_meets_CanvasLoadSteps_zeroing : ((loadingIn .zeroing).part 0).loading.isSome = true ∧  storeOk 0x1000000 = true ∧
    (loadingIn .zeroing).clustersWait 0 = false ∧ ({ loadingIn .zeroing with cluStart := [0] } : State).clustersWait 0 = true ∧
    locate ((loadingIn .zeroing).extents 0) (2 * granule - 1) = some (0, 2 * granule - 1) ∧ ((loadingIn .zeroing).stack 0).tripped = false := by decide +kernel
theorem test_meets_CanvasLoadSteps_image :
    (loadingIn .image).imageCheck 0 (imgOf (header ++ bodyBytes)) 8192 false = none ∧ (loadingIn .image).hbmPoison = [] ∧
    ((loadingIn .image).imageCheck 0 (imgOf []) 8192 false).isSome = true ∧ (loadingIn .image).poison = [] ∧ (loadingIn .image).trippedUnder 0 = none ∧
    ((loadingIn .image).part 0).hasOrphan 0 = false := by decide +kernel
/-- Its stack has tripped meanwhile. -/
theorem test_meets_CanvasLoadSteps_tripped : (trippedAt0 (loadingIn .image)).trippedUnder 0 = some 0 ∧ (trippedAt0 (loadingIn .header)).trippedUnder 0 = some 0 ∧
    (trippedAt0 (loadingIn .zeroing)).trippedUnder 0 = some 0 ∧ (trippedAt0 (loadingIn .zeroing)).clustersWait 0 = false ∧
    (trippedAt0 (loadingIn .image)).loadObject 0 { aLoad with progress := .started } = some { openObj false with expiry := 2 ^ 30 } ∧
    ((trippedAt0 (loadingIn .image)).part 0).loadDesc = some { aLoad with progress := .started } ∧ ((trippedAt0 (loadingIn .zeroing)).part 0).loadDesc = some { aLoad with progress := .started } := by
  decide +kernel
theorem test_meets_CanvasLoadSteps_sole : (loadingIn .zeroing).soleClu 0 c0.cluIx = true ∧ (loadingIn .zeroing).soleClu 0 (CoreId.cluIx ⟨0, 1, 0⟩) = false ∧
    (∀ e ∈ (loadingIn .zeroing).extents 0, e.1 = 0 → (loadingIn .zeroing).extentBad 0 e = false) := by decide +kernel
/-- The image compiled for OP1, with its CRC; and a change of operating point pending that all other checks pass: to a slower point at a count that serves, at one that does not, and to a faster point. -/
def opHeader : List Byte := (upFrom 0 256).map (Tab.get 0 ([(0x06, 0x41), (0xFC, 0x99), (0xFD, 0x80), (0xFE, 0x51), (0xFF, 0x10)] ++ imageTab))
theorem test_meets_OperatingPoints_image : ({ loadingIn .image with op := { ready.op with cur := 1, pend := none } } : State).imageCheck 0 (imgOf (opHeader ++ bodyBytes)) 8192 false = none ∧
    (headCanvas (imgOf (opHeader ++ bodyBytes)) 0).op = 1 ∧ 2 ^ (headCanvas (imgOf (opHeader ++ bodyBytes)) 0).beatExp = 512 ∧ (2 ^ 20 + 32768) % 512 = 0 ∧
    ready.tb.count + 64 * 512 ≤ 2 ^ 20 + 32768 ∧ 0 < (headCanvas (imgOf (opHeader ++ bodyBytes)) 0).op ∧ 2 ^ 20 + 32767 < ready.tb.count + 64 * 512 := by decide +kernel

/-- The image of generation 1 at the start of the region. -/
def staging (x : PtState) (d : Desc) : State :=
  { (canvased x).updPart 0 fun p => { p with flight := [d] } with
    hbm := [(0, imageTab)] }
def staged (x : PtState) (d : Desc) : State := (staging x d).updPart 0 fun p => { p with staged := [headCanvas (fun i => Tab.get 0 imageTab i) 0] }
def aStage : Desc := desc 0x09 0 0 0 []
def anArm : Desc := desc 0x0A 0 0 0 []
theorem test_meets_StageAndArm_stage : (staging .armed aStage).descStarts 0 5 aStage ∧ aStage.addr % 256 = 0 ∧
    (((staging .armed aStage).part 0).staged.filter fun c => c.addr ≠ aStage.addr).length < 8 ∧
    ((((staging .armed aStage).started 0 aStage).forStaging 0).regionCheck 0 aStage.addr true) = none ∧
    ((staging .armed aStage).started 0 aStage).stacksServe 0 0 (((staging .armed aStage).started 0 aStage).imageLen 0 0) := by
  unfold State.descStarts State.stacksServe; decide +kernel
theorem test_meets_StageAndArm_arm : (staged .armed anArm).descStarts 0 5 anArm ∧ anArm.op = 0x0A ∧ ((staged .armed anArm).started 0 anArm).armCheck 0 anArm.addr = none ∧
    ((staged .armed anArm).started 0 anArm).stacksServe 0 0 (((staged .armed anArm).started 0 anArm).imageLen 0 0) ∧ (staged .armed anArm).poison = [] ∧ (staged .armed anArm).hbmPoison = [] := by
  unfold State.descStarts State.stacksServe; decide +kernel
/-- Those that have started and waited, at a stack that serves again and at one still in its window. -/
def going (d : Desc) : Desc := { d with progress := .started }
theorem test_meets_StageAndArm_waits : (staging .armed (going aStage)).descServed 0 5 0x09 (going aStage) ∧ (staged .armed (going anArm)).descServed 0 5 0x0A (going anArm) ∧
    ¬ (refreshing (staging .armed (going aStage))).stacksServe 0 0 ((refreshing (staging .armed (going aStage))).imageLen 0 0) ∧
    (refreshing (staging .armed (going aStage))).descServed 0 5 0x09 (going aStage) ∧ (refreshing (staged .armed (going anArm))).descServed 0 5 0x0A (going anArm) ∧
    ¬ (refreshing (staged .armed (going anArm))).stacksServe 0 0 ((refreshing (staged .armed (going anArm))).imageLen 0 0) := by
  unfold State.descServed State.descWaits State.stacksServe; decide +kernel
/-- A staged list of eight images elsewhere. -/
def fullList : State := (staging .armed aStage).updPart 0 fun p => { p with staged := (upFrom 1 8).map fun i => { aCanvas with addr := 0x10000 * i } }
theorem test_meets_StageAndArm_unstaged : (staging .armed (desc 0x09 0x80 0 0 [])).descStarts 0 5 (desc 0x09 0x80 0 0 []) ∧ (desc 0x09 0x80 0 0 []).addr % 256 ≠ 0 ∧
    fullList.descStarts 0 5 aStage ∧ 8 ≤ ((fullList.part 0).staged.filter fun c => c.addr ≠ aStage.addr).length ∧
    (staging .armed (desc 0x09 0x1000 0 0 [])).descStarts 0 5 (desc 0x09 0x1000 0 0 []) ∧
    ((((staging .armed (desc 0x09 0x1000 0 0 [])).started 0 (desc 0x09 0x1000 0 0 [])).forStaging 0).regionCheck 0 0x1000 true).isSome = true ∧
    (staging .armed anArm).descStarts 0 5 anArm := by
  unfold State.descStarts; decide +kernel
theorem test_meets_StageAndArm_refused : ((staging .armed anArm).started 0 anArm).armCheck 0 anArm.addr = some { status := stNOTSTAGED, check := 0, arg := 0 } := by decide +kernel
theorem test_meets_StageAndArm_tree : (staged .faultStop anArm).managed = true ∧ (staged .faultStop anArm).hf.lastSeq ≠ some 1 ∧ ((staged .faultStop anArm).part 0).st = .faultStop ∧
    (staged .faultStop anArm).trippedIn 0 0 ((staged .faultStop anArm).imageLen 0 0) = none ∧
    (staged .faultStop anArm).readWait 0 0 ((staged .faultStop anArm).imageLen 0 0) = staged .faultStop anArm ∧
    (setCfg (setCfg (staged .faultStop anArm) .ptJobCfg 0 0 (BitVec.ofNat 32 (at_ (1 : BitVec 16).toNat 16))) .ptJobTopo 0 0 0).armCheck 0 0 = none ∧
    (setCfg (setCfg (staged .faultStop anArm) .ptJobCfg 0 0 (BitVec.ofNat 32 (at_ (2 : BitVec 16).toNat 16))) .ptJobTopo 0 0 0).armCheck 0 0 ≠ none := by decide +kernel
/-- An image whose header lies on stack 0 and its body on stack 1, which has tripped. -/
def splitImage : State := { setCfg (setCfg (inState .faultStop) .ptHbmExt 0 0 0x00010000) .ptHbmExt 0 1 0x00010000 with
  hbm := [(0, [(granule - 256 + 0x59, 2)])], hbmStk := [(1, { Stack.reset with tripped := true })] }
theorem test_meets_StageAndArm_tripped : splitImage.managed = true ∧ splitImage.hf.lastSeq ≠ some 1 ∧ (splitImage.part 0).st = .faultStop ∧ splitImage.imageLen 0 (granule - 256) = 512 ∧
    splitImage.trippedIn 0 (granule - 256) 512 = some 1 := by decide +kernel

def aHandover : Cmd := cmd 0x58 (2 ^ 20 * 2) (2 ^ 20 + 8192) 0 0
/-- One to an H between the beats, and one to an image that is not staged. -/
def unevenHandover : Cmd := cmd 0x58 (2 ^ 20 * 2) (2 ^ 20 + 8192 + 256) 0 0
def strayHandover : Cmd := cmd 0x58 (2 ^ 20 * 2) (2 ^ 20 + 8192) (2 ^ 24 * 0x1000) 0
/-- Core 0 about to issue a HANDOVER to the staged image. -/
def handingOver (q : Cmd) (d : Desc) : State := { (staged .run d).setCore c0 equipped with coreMem := (issuing equipped q).coreMem }
def handing : State := { (staged .run anArm).setCore c0 equipped with coreMem := (issuing equipped aHandover).coreMem }
theorem test_meets_HandoverEffect_handover : handing.issues c0 [] 0 aHandover ∧ aHandover.opcode = 0x58 ∧
    (handing.part 0).stagedAt (wf aHandover.w2 63 24) = some (headCanvas (fun i => Tab.get 0 imageTab i) 0) ∧
    aHandover.w1.toNat % (handing.core c0).beatNs = 0 ∧ aHandover.w1.toNat % 2 ^ (headCanvas (fun i => Tab.get 0 imageTab i) 0).beatExp = 0 ∧
    handing.sigCheck 0 (handing.stagedImg 0 (wf aHandover.w2 63 24)) (some (handing.portsOf 0 (handing.stagedImg 0 (wf aHandover.w2 63 24)))) = none := by
  unfold State.issues cleanReads; decide +kernel
theorem test_meets_HandoverEffect_stack : handing.stacksServe 0 0 (handing.imageLen 0 0) ∧ wf aHandover.w2 63 24 = 0 ∧ (refreshing handing).issues c0 [] 0 aHandover ∧
    ¬ (refreshing handing).stacksServe 0 0 ((refreshing handing).imageLen 0 0) := by
  unfold State.issues cleanReads State.stacksServe; decide +kernel
/-- The staged image asks for another domain. -/
def otherJob : State := setCfg (handingOver aHandover anArm) .ptJobCfg 0 0 0x00030000
theorem test_meets_HandoverEffect_refused : (handingOver unevenHandover anArm).issues c0 [] 0 unevenHandover ∧
    (handingOver unevenHandover anArm).sigCheck 0 ((handingOver unevenHandover anArm).stagedImg 0 0) none = none ∧
    ((handingOver unevenHandover anArm).part 0).stagedAt (wf unevenHandover.w2 63 24) = some (headCanvas (fun i => Tab.get 0 imageTab i) 0) ∧
    unevenHandover.w1.toNat % ((handingOver unevenHandover anArm).core c0).beatNs ≠ 0 ∧
    (handingOver strayHandover anArm).issues c0 [] 0 strayHandover ∧ ((handingOver strayHandover anArm).part 0).stagedAt (wf strayHandover.w2 63 24) = none ∧
    otherJob.issues c0 [] 0 aHandover ∧ otherJob.sigCheck 0 (otherJob.stagedImg 0 0) (some (otherJob.portsOf 0 (otherJob.stagedImg 0 0))) ≠ none := by
  unfold State.issues cleanReads; decide +kernel
def heading : State := (staged .run anArm).setCore c0 { equipped with handover := some { h := 2 ^ 20 + 1024, d := 2, canvas := 0 }, run := [(5, moving)] }
theorem test_meets_HandoverEffect_head : heading.poison = [] ∧ heading.partOf c0 = some 0 ∧ (heading.core c0).handover = some { h := 2 ^ 20 + 1024, d := 2, canvas := 0 } ∧ (heading.part 0).st = .run ∧
    ((2 ^ 20 + 1024 : Nat) : Int) - (2 * (heading.part 0).nextBeat : Nat) ≤ heading.now ∧
    beforeHold (heading.part 0).holdAt (((2 ^ 20 + 1024 : Nat) : Int) - (2 * (heading.part 0).nextBeat : Nat)) = true ∧
    heading.now < ((2 ^ 20 + 2048 : Nat) : Int) - (2 * (heading.part 0).nextBeat : Nat) ∧
    (∃ y ∈ (heading.core c0).run, y.2.q.gen = (heading.core c0).gen) ∧
    ((dirOf (heading.stagedImg 0 0)).find? (fun e => decide (e.id = c0))).isSome = true := by decide +kernel
def idleHead : State := (staged .run anArm).setCore ⟨0, 0, 1⟩ { equipped with handover := some { h := 2 ^ 20, d := 0, canvas := 0 }, run := [(5, moving)] }
theorem test_meets_HandoverEffect_idle : ∀ e ∈ dirOf (idleHead.stagedImg 0 0), e.id ≠ ⟨0, 0, 1⟩ := by decide +kernel
def aClaim : Claim := { portNo := 3, ingress := true, entryNo := 4, image := 0x80000000 }
def switching : State := { (inState .run).updPart 0 fun p =>
    { p with switchAt := some (2 ^ 20), nextCanvas := some { aCanvas with gen := 1 }, nextClaims := [aClaim] } with ports := [(3, { FPort.reset with st := .up })] }
theorem test_meets_HandoverEffect_switch : (switching.part 0).switchAt = some (2 ^ 20) ∧ (switching.part 0).nextCanvas = some { aCanvas with gen := 1 } ∧
    2 ^ 20 ≤ switching.now ∧ (∃ c ∈ (switching.part 0).claims ++ (switching.part 0).nextClaims, c.port = 3) ∧ (∀ w ∈ (switching.port 3).switched, w.1 ≠ 0) ∧
    switching.oldFlitsFor 0 3 (switching.part 0).gen = false ∧ (switching.part 0).overlap = false ∧
    (switching.part 0).nextClaims.filter (fun c => decide (c.port = 3)) = [aClaim] ∧ aClaim.ingress = true ∧
    switching.now < 2 ^ 20 + 1 ∧ switching.regsRise := by unfold State.regsRise; decide +kernel
theorem test_meets_HandoverEffect_loose : 4 ≤ ((switching.clearClaims ((switching.part 0).claims.filter fun c => c.port = 3) false).putClaims 0 1 ((switching.part 0).nextClaims.filter fun c => c.port = 3) false).looseEntries 3 false ∧
    cf (setCfg ready .fabCalc 3 0 0x40000000) .fabCalc 3 0 31 30 ≠ 0 := by decide +kernel

/-! ### Hypotheses met: PART_CTL -/

def aCtl (act count : Nat) : Desc := desc 0x0B act count 0 []
theorem test_meets_PartitionControl_start : (given ((inState .armed).updPart 0 fun p => { p with wt := .loaded }) (aCtl 0 (2 ^ 20 + 8192))).descStarts 0 5 (aCtl 0 (2 ^ 20 + 8192)) ∧
    wf (aCtl 0 (2 ^ 20 + 8192)).w1 1 0 = 0 ∧ (inState .armed).edgeAhead 0 16 (aCtl 0 (2 ^ 20 + 8192)).w2.toNat = true := by
  unfold State.descStarts; decide +kernel
theorem test_meets_PartitionControl_hold : (given (inState .run) (aCtl 1 (2 ^ 20 + 4096))).descStarts 0 5 (aCtl 1 (2 ^ 20 + 4096)) ∧ wf (aCtl 1 (2 ^ 20 + 4096)).w1 1 0 = 1 ∧
    (inState .run).edgeAhead 0 8 (aCtl 1 (2 ^ 20 + 4096)).w2.toNat = true ∧
    (given (inState .hold) (aCtl 2 (2 ^ 20 + 4096))).descStarts 0 5 (aCtl 2 (2 ^ 20 + 4096)) ∧ wf (aCtl 2 (2 ^ 20 + 4096)).w1 1 0 = 2 ∧
    (inState .hold).edgeAhead 0 8 (aCtl 2 (2 ^ 20 + 4096)).w2.toNat = true := by
  unfold State.descStarts; decide +kernel
theorem test_meets_PartitionControl_reset : (given (inState .run) (aCtl 3 0)).descStarts 0 5 (aCtl 3 0) ∧ wf (aCtl 3 0).w1 1 0 = 3 ∧
    (given (inState .run) (aCtl 3 0)).soleClu 0 c0.cluIx = true ∧ (given (inState .run) (aCtl 3 0)).soleClu 0 (CoreId.cluIx ⟨0, 1, 0⟩) = false ∧ ((given (inState .run) (aCtl 3 0)).part 0).repaint = none ∧ ((given (inState .run) (aCtl 3 0)).part 0).gal = [] := by
  unfold State.descStarts; decide +kernel
theorem test_meets_PartitionControl_refused : (inState .armed).edgeAhead 0 16 (2 ^ 20 + 8192 - 512) = false ∧ (inState .run).edgeAhead 0 8 (2 ^ 20 + 4096 + 1) = false ∧
    (inState .hold).edgeAhead 0 8 (2 ^ 20 + 4096 + 1) = false ∧ ((inState .armed).part 0).wt ≠ .loaded ∧ (holding.part 0).holdAt ≠ none ∧ (releasing.part 0).releaseAt ≠ none ∧
    (given (inState .armed) (aCtl 0 (2 ^ 20 + 8192))).descStarts 0 5 (aCtl 0 (2 ^ 20 + 8192)) ∧ (given holding (aCtl 1 (2 ^ 20 + 4096))).descStarts 0 5 (aCtl 1 (2 ^ 20 + 4096)) ∧
    (given releasing (aCtl 2 (2 ^ 20 + 4096))).descStarts 0 5 (aCtl 2 (2 ^ 20 + 4096)) ∧ (given (inState .run) (aCtl 3 0)).noticeWaits 0 = false ∧
    (∀ e ∈ ((given (inState .run) (aCtl 3 0)).part 0).flight, e.op ≠ 0x81) := by
  unfold State.descStarts; decide +kernel
/-! ### Hypotheses met: the Fretur link -/

/-- Port F3 in a state; and F12 in Ethernet mode. -/
def withPort (f : FPort) : State := { inState .run with ports := [(3, f)] }
def ether (f : FPort) : State := { setCfg (inState .run) .frtCtl 12 0 0x30200000 with ports := [(12, f)] }
def up : FPort := { FPort.reset with st := .up }
theorem test_meets_LinkUnits_boundary : ((withPort up).port 3).st = .up ∧ ((withPort { up with st := .training }).port 3).st = .training ∧
    16384 ≤ ((withPort { up with seqNext := 16384 }).port 3).outstanding := by decide +kernel
/-- An IDLE ordered set, and a flit of sequence 1. -/
def idleSet : RawUnit := { symbolErrors := [], controlBits := 0xFF, bytes := leBytes 8 (2 ^ 56) ++ List.replicate 240 0 ++ leBytes 8 13046899808058969459 }
def flitOne : RawUnit := { symbolErrors := [], controlBits := 0, bytes := leBytes 8 (2 ^ 44) ++ List.replicate 240 0 ++ leBytes 8 12673236843388852955 }
theorem test_meets_LinkUnits_set : (withPort up).ethMode 3 = false ∧ rsDecodes idleSet.symbolErrors = true ∧ idleSet.controlBits = 0xFF ∧ crcOk idleSet.bytes = true ∧ osBad idleSet.bytes = false := by
  decide +kernel
theorem test_meets_LinkUnits_bad : rsDecodes ({ idleSet with symbolErrors := [16] } : RawUnit).symbolErrors = false ∧ rsDecodes [15] = true ∧ ((withPort { up with uncorr := 8 }).port 3).uncorr + 1 < 10 ∧ 10 ≤ ((withPort { up with uncorr := 9 }).port 3).uncorr + 1 ∧
    ((withPort { up with uncorr := 9 }).port 3).want = none ∧
    (rsDecodes idleSet.symbolErrors && (idleSet.controlBits = 0 || idleSet.controlBits = 0xFF) && crcOk ({ idleSet with bytes := List.replicate 256 1 } : RawUnit).bytes) = false := by decide +kernel
theorem test_meets_LinkUnits_flit : flitOne.controlBits = 0 ∧ crcOk flitOne.bytes = true ∧ 1 = seqDist ((withPort up).port 3).rxE (flitOf flitOne.bytes).seq ∧
    ((withPort up).port 3).rxE < 2 ^ 20 ∧ Tab.find ((withPort up).port 3).window (flitOf flitOne.bytes).seq = none ∧
    2047 = seqDist ((withPort { up with rxE := 2 ^ 20 - 2046 }).port 3).rxE (flitOf flitOne.bytes).seq ∧
    2048 = seqDist ((withPort { up with rxE := 2 ^ 20 - 2047 }).port 3).rxE (flitOf flitOne.bytes).seq ∧
    2 ^ 19 = seqDist ((withPort { up with rxE := 2 ^ 19 + 1 }).port 3).rxE (flitOf flitOne.bytes).seq ∧
    2 ^ 19 - 1 = seqDist ((withPort { up with rxE := 2 ^ 19 + 2 }).port 3).rxE (flitOf flitOne.bytes).seq ∧ Tab.find ((withPort up).port 3).window 0 = none := by decide +kernel
/-- A management flit of sequence 0. -/
def flitMgmt : RawUnit := { symbolErrors := [], controlBits := 0, bytes := (flitOf (leBytes 8 (3 * 2 ^ 42) ++ List.replicate 248 0)).bytes }
theorem test_meets_LinkUnits_management : crcOk flitMgmt.bytes = true ∧ seqDist ((withPort up).port 3).rxE (flitOf flitMgmt.bytes).seq = 0 ∧ (flitOf flitMgmt.bytes).vl = 3 ∧
    (flitOf flitMgmt.bytes).vlx = 0 ∧ Tab.find ((withPort up).port 3).window (seqAdd 0 1) = none := by decide +kernel
def aFlit : Flit := { seq := 7, vl := 0, key := 0x11, role := 0, vlx := 0, payload := [] }
def held : Replay := { flit := aFlit, sentAt := some 0, tailings := true, readBack := false, resend := true }
theorem test_meets_LinkUnits_read : ((withPort { up with replay := [held] }).port 3).wantsRead = some held ∧
    ((withPort up).stack (tailStack 3)).tripped = false ∧ (({ withPort up with hbmStk := [(tailStack 3, { Stack.reset with tripped := true })] } : State).stack (tailStack 3)).tripped = true := by decide +kernel
theorem test_meets_LinkUnits_ack : seqDist ((withPort { up with seqTx := 5 }).port 3).seqOldest (seqAdd 4 1) ≤ seqDist ((withPort { up with seqTx := 5 }).port 3).seqOldest 5 := by decide +kernel
def aDatagram : EthDatagram :=
  { frameOk := true, srcMac := 0, srcIp := 0, dstMac := 0, dstIp := 0, udpPort := 0xB7A0, magic := 0xF7E2, version := 1, units := 1, srcDomain := 0, srcDevid := 0, unitCnt := 0, ce := false,
    payload := [idleSet] }
theorem test_meets_LinkUnits_ethernet : (ether up).ethMode 12 = true ∧ ((ether up).port 12).st = .up ∧ (ether up).datagramOk 12 aDatagram = true ∧
    (ether up).datagramOk 12 { aDatagram with srcDevid := 1 } = false ∧ (∀ x ∈ aDatagram.payload, crcOk x.bytes = true ∧ x.controlBits = 0xFF ∧ osBad x.bytes = false) ∧
    ((ether { up with st := .training }).port 12).st ≠ .disabled ∧ ((ether { up with st := .failed }).port 12).st = .failed := by decide +kernel
/-- Ports at the places of LinkUnits' ladder: an ACK that is due, a periodic one, a mark, a resend, and a head flit that may leave. -/
def waiting : Replay := { flit := aFlit, sentAt := none, tailings := false, readBack := false, resend := false }
theorem test_meets_LinkUnits_ladder : ({ up with ackDue := true } : FPort).ackDue = true ∧ 127 ≤ ({ up with sinceAck := 127 } : FPort).sinceAck ∧ up.osq = [] ∧ up.ackDue = false ∧
    ({ up with sinceAck := 126 } : FPort).sinceAck < 127 ∧ ({ up with markDue := true } : FPort).markDue = true ∧ up.markDue = false ∧
    (FPort.nextResend { up with replay := [{ held with tailings := false }] }).isSome = true ∧
    FPort.nextResend { up with seqTx := 7, seqOldest := 7, seqNext := 8, replay := [waiting] } = none ∧
    (FPort.nextLaunch { up with seqTx := 7, seqOldest := 7, seqNext := 8, replay := [waiting] }).isSome = true ∧
    FPort.nextLaunch up = none ∧ FPort.nextResend up = none := by decide +kernel
/-- An ACK that R195 forces goes before a waiting set, and before three JOB_STOPs; without one the set goes. -/
def aSetOut (typ since : Nat) : FPort := { up with osq := [{ typ := typ, body := [] }, { typ := typ, body := [] }, { typ := typ, body := [] }], sinceAck := since }
theorem test_meets_LinkUnits_forced : (aSetOut 0x07 127).ackForced = true ∧ (aSetOut 0x07 126).ackForced = false ∧ (aSetOut 0x0B 125).ackForced = true ∧ (aSetOut 0x0B 124).ackForced = false ∧
    (aSetOut 0x05 0).ackForced = false ∧ up.ackForced = false := by decide +kernel
theorem test_meets_LinkUnits_codewords : (({ up with blocks := [] } : FPort).blocks ++ unitBlocks true []).length < 20 ∧
    20 ≤ (List.replicate 16 0 ++ unitBlocks true []).length ∧ cf (ether up) .ethCfg 12 0 15 11 ≤ 4 + 1 ∧
    3 + 1 < cf (ether up) .ethCfg 12 0 15 11 := by decide +kernel

def asking : FPort := { up with want := some { body := anyReset, since := 2 ^ 20 - 100000 } }
theorem test_meets_LinkResets_request : (withPort up).ethMode 3 = false ∧ ((withPort up).port 3).want = none ∧
    ((withPort { up with lastAck := 2 ^ 20 - 16000 }).port 3).lastAck + 16000 + ((withPort up).port 3).delay16 / 8 ≤ (withPort up).now ∧
    ((withPort asking).port 3).want = some { body := anyReset, since := 2 ^ 20 - 100000 } ∧ 2 ^ 20 - 100000 + 100000 ≤ (withPort asking).now ∧ anyReset.rate ≠ 3 ∧
    (withPort asking).answers 3 = true := by decide +kernel
def inPhase (n : Nat) : FPort := { FPort.reset with st := .training, resetPhase := n, agreed := some anyReset }
theorem test_meets_LinkResets_phases : ((withPort (inPhase 3)).port 3).st = .training ∧ ((withPort (inPhase 3)).port 3).resetPhase = 3 ∧
    (0 : BitVec 2).toNat = (withPort (inPhase 3)).domainNo ∧ (9 : BitVec 13).toNat ≠ (withPort (inPhase 3)).devid ∧ (1 : BitVec 2).toNat ≠ (withPort (inPhase 3)).domainNo ∧
    ((withPort { inPhase 4 with delayNum := 63 }).port 3).delayNum < 64 ∧ ((withPort (inPhase 1)).port 3).agreed = some anyReset ∧
    chooseGroup { anyReset with full := true } (0xFF : BitVec 8).toNat = some (3, 0) ∧ chooseGroup { anyReset with full := true } (0 : BitVec 8).toNat = none ∧
    (0 : BitVec 8).toNat &&& FPort.reset.lanes = FPort.reset.lanes ∧ 64 ≤ ({ inPhase 4 with delayNum := 64 } : FPort).delayNum ∧
    160000 < FPort.meanDelay { inPhase 4 with delayNum := 64, delaySum := 2 * 64 * 160001 } ∧ FPort.meanDelay { inPhase 4 with delayNum := 64, delaySum := 2 * 64 * 160000 } ≤ 160000 ∧
    (∀ o ∈ (inPhase 5).osq, o.typ ≠ 0x09) := by decide +kernel
theorem test_meets_LinkResets_ethernet : (ether { inPhase 0 with want := some { body := anyReset, since := 0 } }).ethMode 12 = true ∧ (inPhase 0).resetPhase = 0 ∧
    ((ether { inPhase 0 with want := some { body := anyReset, since := 0 } }).port 12).want.isSome = true := by decide +kernel
def resuming : FPort := { up with st := .resetting, resetPhase := 5, seqTx := 5 }
theorem test_meets_LinkResets_resume : (withPort resuming).ethMode 3 = false ∧ ((withPort resuming).port 3).st = .resetting ∧ ((withPort resuming).port 3).resetPhase = 5 ∧
    ((withPort resuming).port 3).resumed = false ∧
    seqDist ((withPort resuming).port 3).seqOldest (seqAdd 4 1) ≤ seqDist ((withPort resuming).port 3).seqOldest ((withPort resuming).port 3).seqTx ∧
    seqDist ((withPort resuming).port 3).seqOldest ((withPort resuming).port 3).seqTx < seqDist ((withPort resuming).port 3).seqOldest (seqAdd 5 1) := by decide +kernel

/-- F3 with two flits retired on VL1, and an AUDIT of a peer that has sent four there, one of which is under way. -/
def audited : FPort := { up with rxE := 3, rxHi := 3, retired := [(1, 2)], outq := [(1, [{ flit := { aFlit with vl := 1 }, ce := false, again := false, came := 0 }])] }
def anAudit : AuditBody := { seqOldest := 2, seqTx := 4, seqNext := 6, cspent := [0, 4, 0, 0] }
theorem test_meets_LinkAuditsAndStops_audit :
    seqDist anAudit.seqOldest ((withPort audited).port 3).rxE ≤ seqDist anAudit.seqOldest anAudit.seqTx ∧
    seqDist anAudit.seqOldest anAudit.seqTx ≤ seqDist anAudit.seqOldest anAudit.seqNext ∧ seqDist anAudit.seqOldest anAudit.seqNext ≤ 16384 ∧
    1 = ((withPort audited).port 3).notStored anAudit.seqTx ∧
    ((withPort audited).setPort 3 { (withPort audited).port 3 with auditSeen := true }).badLane 3 1 anAudit.cspent = none ∧
    (anAudit.cspent.foldl (· + ·) 0) % 2 ^ 32 = ((upFrom 0 4).map fun v => ((withPort audited).port 3).retiredOn v +
      ((withPort audited).setPort 3 { (withPort audited).port 3 with auditSeen := true }).storedOn 3 v).foldl (· + ·) 1 % 2 ^ 32 ∧
    ((withPort audited).setPort 3 { (withPort audited).port 3 with auditSeen := true }).badLane 3 1 [0, 5, 0, 0] ≠ none ∧
    16384 < seqDist (2 : Nat) 16387 := by decide +kernel
/-- Credits add up on every port, whatever its number. -/
theorem test_meets_LinkAuditsAndStops_count : (withPort up).tb.running = true ∧ (withPort up).tb.count ≤ 1000000000 ∧ 1000000000 % 1000000000 = 0 ∧
    ∀ q, ((withPort up).port q).st = .up → ∀ v, v < 4 → ((withPort up).port q).inUse v ≤ pool v := by
  refine ⟨rfl, by decide, rfl, fun q hq v hv => ?_⟩
  by_cases h : q = 3
  · subst h
    have : ∀ v, v < 4 → ((withPort up).port 3).inUse v ≤ pool v := by decide +kernel
    exact this v hv
  · have hn : Tab.find ([(3, up)] : Tab FPort) q = none := by simp [Tab.find, h]
    have : (withPort up).port q = FPort.reset := by show (Tab.find ([(3, up)] : Tab FPort) q).getD _ = _; rw [hn]; rfl
    rw [this] at hq; cases hq
def aStop : JobStopBody := { key := 0x11, domain := 0, origin := 9, reason := 1, stopTime := 2 ^ 19 }
theorem test_meets_LinkAuditsAndStops_stop : (withPort up).ethMode 3 = false ∧ (withPort up).stopSeen aStop = false ∧
    ({ withPort up with jobStopsSeen := [(9, 2 ^ 19, 0x11)] }).stopSeen aStop = true ∧ (withPort up).pairSeen aStop = false ∧
    ((withPort up).part 0).st = .run ∧ (withPort up).keyOf 0 = aStop.key.toNat ∧ (setCfg (setCfg (withPort up) .fabKey 3 0 0x80000011) .fabCalc 3 0 0x42000000).jobStopPort 3 = true ∧
    (setCfg (setCfg (withPort up) .fabKey 3 0 0x80000011) .fabCalc 3 0 0x42000000).portHasKey 3 0x11 = true := by decide +kernel
theorem test_meets_LinkAuditsAndStops_failure : ((withPort (inPhase 1)).port 3).resetAt + 50000000 ≤ ({ withPort (inPhase 1) with tb := { ready.tb with count := 50000000 } }).now ∧
    (ether up).ethMode 12 = true ∧ ((ether up).port 12).want = none ∧
    ({ withPort (inPhase 1) with tb := { ready.tb with running := false } } : State).tb.running = false := by decide +kernel

theorem test_meets_PortControl : (withPort FPort.reset).regsRise ∧ (withPort FPort.reset).managed = true ∧ 9 ≤ (withPort FPort.reset).startup.stage ∧ frtCtlOk 0x30000001 = true ∧
    (withPort FPort.reset).ethMode 3 = false ∧ rb 0x30000001 21 = false ∧ rb 0x30000001 0 = true ∧ ((withPort FPort.reset).port 3).st = .disabled ∧
    frtCtlOk 0x30000000 = true ∧ rb 0x30000000 0 = false ∧ ((withPort up).port 3).st ≠ .disabled := by
  unfold State.regsRise; decide +kernel
theorem test_meets_PortControl_reset : frtCtlOk 0xF0000001 = true ∧ rb 0xF0000001 31 = true ∧ rb 0xF0000001 30 = true ∧ frtCtlOk 0xB0000001 = true ∧ rb 0xB0000001 30 = false ∧
    ((withPort up).port 3).want = none ∧ ((withPort { up with st := .failed }).port 3).st = .failed ∧
    ((withPort resuming).port 3).st = .resetting ∧ rb (0xB0000001 : W32) 0 = true ∧ (withPort up).resetRuns = false ∧
    ({ withPort up with startup := { ready.startup with ready := false, stage := 9 } } : State).resetRuns = true := by decide +kernel

/-! ### Hypotheses met: the loose class and the fabric's times -/

def looseFlit (k : LoosePkt) : RxFlit :=
  { flit := { seq := 0, vl := LooseType.lane k.typ, key := k.key.toNat, role := k.role.toNat, vlx := 0, payload := packetPayload k }, ce := false, again := false, came := 0 }
/-- A packet at the head of its lane of F3, and F4 the way back to module 9. -/
def arrived (k : LoosePkt) : State :=
  { setCfg ((inState .run).setCore c0 equipped) .fabRt 9 0 0xA0000000 with
    ports := [(3, { up with outq := [(LooseType.lane k.typ, [looseFlit k])] }), (4, up)] }
/-- Eight bytes for slot 5 with role 3 and flag 6. -/
def aData : LoosePkt := { anyPkt with dst := c0, role := 3, dfen := true }
def aLooseSet : LoosePkt := { aData with typ := .set, dfen := false, len := 0 }
def aDelivered (echo : Bool) : LoosePkt := { aLooseSet with typ := .delivered, echo := echo }
def aCredit : LoosePkt := { aLooseSet with typ := .credit }
theorem test_meets_LooseClass_head : ((arrived aData).port 3).lane (LooseType.lane aData.typ) = [looseFlit aData] ∧
    loosePacket (LooseType.lane aData.typ) (looseFlit aData).flit = some aData ∧ (arrived aData).isMe aData.dstDomain.toNat aData.dstDevid.toNat = true ∧
    aData.typ = .data ∧ (arrived aData).headIs 3 aData = true ∧ (arrived aData).catchUp = arrived aData ∧ (arrived aLooseSet).headIs 3 aLooseSet = true ∧
    (arrived aLooseSet).catchUp = arrived aLooseSet ∧ (arrived (aDelivered true)).headIs 3 (aDelivered true) = true ∧ (arrived aCredit).headIs 3 aCredit = true := by decide +kernel
theorem test_meets_LooseClass_key : (arrived aData).partOf aData.dst = some 0 ∧ (arrived aData).keyOf 0 = aData.key.toNat ∧ (arrived aData).poison = [] ∧
    (arrived aData).assayEn 0 = false ∧ (arrived aData).takesMessages 0 = true := by decide +kernel
theorem test_meets_LooseClass_memory : (arrived aData).memoryWf := memoryWf_empty _ rfl rfl rfl
theorem test_meets_LooseClass_data : packetMalformed aData = false ∧ aData.pktCount = 1 ∧ aData.len ≤ aData.bytes.length ∧
    ((arrived aData).core aData.dst).slotFor aData.role.toNat aData.slot.val = some { valid := true, base := 0x2000, size := 1, role := 3, timeout := 8 } ∧
    aData.len ≤ 256 * 1 ∧ (((arrived aData).core aData.dst).slot (slotIx (tagGen aData.role.toNat) aData.slot.val)).full = false ∧
    (((arrived aData).core aData.dst).slot (slotIx (tagGen aData.role.toNat) aData.slot.val)).reasm = none ∧
    ((arrived aData).core aData.dst).flagOk aData.role.toNat aData.flag.val = true ∧ ((arrived aData).core aData.dst).flag aData.flag.val < 65535 ∧
    (arrived aData).isMe aData.srcDomain.toNat aData.srcDevid.toNat = false ∧
    ((arrived aData).updPort 3 (fun f => (f.popLane 1).retire 1)).looseRoute aData.srcDomain.toNat aData.srcDevid.toNat = some 4 := by decide +kernel
theorem test_meets_LooseClass_set : loosePacket (LooseType.lane aLooseSet.typ) (looseFlit aLooseSet).flit = some aLooseSet ∧ packetMalformed aLooseSet = false ∧
    ((arrived aLooseSet).core aLooseSet.dst).flagOk aLooseSet.role.toNat aLooseSet.flag.val = true ∧ ((arrived aLooseSet).core aLooseSet.dst).flag aLooseSet.flag.val < 65535 ∧
    ((arrived aLooseSet).updPort 3 (fun f => (f.popLane 1).retire 1)).looseRoute aLooseSet.srcDomain.toNat aLooseSet.srcDevid.toNat = some 4 := by decide +kernel
def aTracked : Tracked := { src := c0, pt := 0, msgId := 7, dstDomain := 0, dstDevid := 9, dst := ⟨1, 2, 3⟩, slot := some 5, since := 2 ^ 20 - 65536 * 0x99 }
theorem test_meets_LooseClass_delivered : ({ arrived (aDelivered true) with loose := [aTracked] }).loose = [aTracked] ∧ aTracked.src = (aDelivered true).dst ∧
    aTracked.msgId = (aDelivered true).msgId ∧ aTracked.dst = (aDelivered true).src ∧ aTracked.dstDevid = (aDelivered true).srcDevid.toNat ∧
    aTracked.dstDomain = (aDelivered true).srcDomain.toNat ∧ (aDelivered false).echo = false ∧ packetMalformed (aDelivered true) = false ∧ (aDelivered true).typ = .delivered ∧
    loosePacket 2 (looseFlit (aDelivered true)).flit = some (aDelivered true) ∧
    ((arrived (aDelivered true)).limiter ((arrived (aDelivered true)).group aTracked.dstDomain aTracked.dstDevid)).halved = false := by decide +kernel
/-- A SET of two packets, a DELIVERED with bytes, a CREDIT of packet 1, and DATA of no byte (09, R219). -/
theorem test_meets_LooseClass_malformed : packetMalformed { aLooseSet with pktCount := 2 } = true ∧ packetMalformed { aDelivered true with len := 1 } = true ∧
    packetMalformed { aLooseSet with typ := .credit, pktIndex := 1 } = true ∧ packetMalformed { aData with len := 0 } = true ∧
    loosePacket 2 (looseFlit { aDelivered true with len := 1 }).flit = some { aDelivered true with len := 1 } := by decide +kernel
theorem test_meets_LooseClass_credit : packetMalformed aCredit = false ∧ loosePacket 2 (looseFlit aCredit).flit = some aCredit ∧
    (Core.creditBack { equipped with remote := [{ domain := 0, devid := 9, dst := ⟨1, 2, 3⟩, slot := 5, shaft := none }] } aCredit.srcDomain.toNat aCredit.srcDevid.toNat aCredit.src
      aCredit.slot.val).isSome = true := by decide +kernel
def slow : State := { arrived aData with loose := [{ aTracked with since := 0 }], tb := { ready.tb with count := 65536 * 0x99 } }
theorem test_meets_FabricTimes_timeout : slow.loose[0]? = some { aTracked with since := 0 } ∧ 0 + 65536 * cf slow .fabLooseCfg 0 0 31 20 ≤ slow.now ∧ aTracked.slot = some 5 ∧
    (Core.creditBack { equipped with remote := [{ domain := 0, devid := 9, dst := ⟨1, 2, 3⟩, slot := 5, shaft := none }] } aTracked.dstDomain aTracked.dstDevid aTracked.dst 5).isSome = true := by decide +kernel
def anInject : LooseOut := { domain := 0, devid := 9, key := 0x11, role := 3, msgId := 7, payload := [], cmd := 0, vc := [] }
def injecting : State :=
  { (arrived aData).setCore c0 { equipped with inject := [anInject] } with limiters := [(0, { rate := 4, tokens := 0, halved := true })] }
theorem test_meets_FabricTimes_edges : ready.tb.running = true ∧ 2 ^ 20 % 2 ^ rf (cfg ready .fabCcCfg 0 0) 31 28 = 0 ∧ 2 ^ 20 % 1024 = 0 ∧ (∀ e ∈ (arrived aData).cores, e.2.inject = []) ∧
    injecting.cores = [(c0.ix, { equipped with inject := [anInject] })] ∧
    Tab.find injecting.limiters (injecting.group anInject.domain anInject.devid) = some { rate := 4, tokens := 0, halved := true } ∧
    injecting.isMe anInject.domain anInject.devid = false ∧ injecting.looseRoute anInject.domain anInject.devid = some 4 := by decide +kernel
theorem test_meets_FabricTimes_waiting : ({ injecting with limiters := [(0, { rate := 4, tokens := 4, halved := false })] } : State).enginesRun c0 = true ∧
    (({ injecting with limiters := [(0, { rate := 4, tokens := 4, halved := false })] } : State).updPart 0 fun p => { p with st := .faultStop }).enginesRun c0 = false ∧
    injecting.group anInject.domain anInject.devid = 0 := by decide +kernel
/-- The next copies of 61 entries name a shaft. -/
def crowded : State := (upFrom 0 61).foldl (fun s e => setCfg s .fabCal 3 e 0x40000000) (withPort up)
theorem test_meets_FabricTimes_crowded : crowded.transitWaits 3 = false ∧
    ((upFrom 0 64).filter fun e => rf (if crowded.calLocal 3 e then cfg crowded .fabCalc 3 e else cfg crowded .fabCal 3 e) 31 30 = 0).length < 4 := by decide +kernel
theorem test_meets_FabricTimes_crowded_regs : crowded.regsRise := by unfold State.regsRise; decide +kernel
theorem test_meets_FabricTimes_switch : (withPort up).regsRise ∧
    (cfg (withPort up) .fabXswLo 3 0).toNat + 2 ^ 32 * (cfg (withPort up) .fabXswHi 3 0).toNat ≤ (withPort up).now ∧ (withPort up).transitWaits 3 = false ∧
    4 ≤ ((upFrom 0 64).filter fun e => rf (if (withPort up).calLocal 3 e then cfg (withPort up) .fabCalc 3 e else cfg (withPort up) .fabCal 3 e) 31 30 = 0).length := by
  unfold State.regsRise; decide +kernel

/-! ### Hypotheses met: weights and repaint -/

/-- A layer table at region address 4,096: one entry of 8 bytes at 0x2000 whose CHECK is that of eight zeros; its RES. -/
def layerTab (res check : Nat) (galOff : List Byte) : Tab Byte :=
  (((upFrom 0 32).map fun i => (4096 + i, (leBytes 8 (2 ^ 38 * res + check) ++ leBytes 8 (if res = 1 then 0 else 2 ^ 24 * 0x2000) ++
    leBytes 8 (2 ^ 24 * 8 + (if res = 1 then 2 ^ 8 * 4099 else 0)) ++ galOff).getD i 0)).filter fun e => e.2 ≠ 0)
def weighted (x : PtState) (res : Nat) (d : Desc) : State :=
  { (setCfg (inState x) .ptWtTab 0 0 0x10).updPart 0 fun p =>
      { p with flight := [d], tableLoaded := true, wt := .loading, gal := [(3, { openObj false with expiry := 2 ^ 30 })], galTags := [(3, 1)] } with
    hbm := [(0, layerTab res 2351477386 (leBytes 8 0))] }
def aTable : Desc := desc 0x10 0 0 0 []
theorem test_meets_WeightDescriptors_table : (weighted .armed 0 aTable).memoryWf ∧ (weighted .armed 0 aTable).descStarts 0 5 aTable ∧ aTable.op = 0x10 ∧
    (weighted .armed 0 aTable).tableCheck 0 = none ∧ ((weighted .armed 0 aTable).part 0).repaint = none ∧ (given (inState .armed) aTable).tableCheck 0 = some stEXTENT :=
  ⟨memoryWf_listed _ rfl rfl (by decide +kernel), by unfold State.descStarts; decide +kernel, rfl, by decide +kernel, by decide +kernel, by decide +kernel⟩
/-- Its stack serves, or refreshes. -/
theorem test_meets_WeightDescriptors_serves : (weighted .armed 0 aTable).stacksServe 0 ((weighted .armed 0 aTable).tableBase 0) (32 * (weighted .armed 0 aTable).layerCount 0) ∧
    (given (inState .armed) aTable).stacksServe 0 ((given (inState .armed) aTable).tableBase 0) (32 * (given (inState .armed) aTable).layerCount 0) ∧
    (refreshing (weighted .armed 0 aTable)).descStarts 0 5 aTable ∧
    ¬ (refreshing (weighted .armed 0 aTable)).stacksServe 0 ((refreshing (weighted .armed 0 aTable)).tableBase 0) (32 * (refreshing (weighted .armed 0 aTable)).layerCount 0) := by
  unfold State.stacksServe State.descStarts; decide +kernel
/-- Bytes 0 to n of the layer, all zero. -/
def aFeed (op n : Nat) : Desc := desc op (2 ^ 25 * 2 + 2 ^ 21 * 3) 0 n (List.replicate n 0)
theorem test_meets_WeightDescriptors_feed : (weighted .armed 0 (aFeed 0x11 4)).memoryWf ∧ (weighted .armed 0 (aFeed 0x11 4)).descStarts 0 5 (aFeed 0x11 4) ∧
    wb (aFeed 0x11 4).w1 16 = false ∧ (weighted .armed 0 (aFeed 0x11 4)).feedOk 0 (aFeed 0x11 4) = true ∧
    ((weighted .armed 0 (aFeed 0x11 4)).layer 0 0).addr + 0 + 4 ≤ (weighted .armed 0 (aFeed 0x11 4)).regionSize 0 ∧
    meets (((weighted .armed 0 (aFeed 0x11 4)).layer 0 0).addr + 0, 4) ((weighted .armed 0 (aFeed 0x11 4)).tableBase 0 + 32 * 0, 32) = false ∧
    (weighted .armed 0 (aFeed 0x11 4)).endsLayer 0 (aFeed 0x11 4) = false :=
  ⟨memoryWf_listed _ rfl rfl (by decide +kernel), by unfold State.descStarts; decide +kernel, by decide +kernel, by decide +kernel, by decide +kernel, by decide +kernel,
    by decide +kernel⟩
theorem test_meets_WeightDescriptors_waits : (refreshing (weighted .armed 0 (aFeed 0x11 4))).descStarts 0 5 (aFeed 0x11 4) ∧ (refreshing (weighted .armed 0 (aFeed 0x11 4))).feedOk 0 (aFeed 0x11 4) = true ∧
    (refreshing (weighted .armed 0 (aFeed 0x11 4))).ownWaits 0 (((refreshing (weighted .armed 0 (aFeed 0x11 4))).layer 0 0).addr + 0) 4 = true ∧
    (weighted .armed 0 (aFeed 0x11 4)).ownWaits 0 (((weighted .armed 0 (aFeed 0x11 4)).layer 0 0).addr + 0) 4 = false := by
  unfold State.descStarts; decide +kernel
theorem test_meets_WeightDescriptors_end : (weighted .armed 0 (aFeed 0x12 8)).descStarts 0 5 (aFeed 0x12 8) ∧ (aFeed 0x12 8).op = 0x12 ∧
    (weighted .armed 0 (aFeed 0x12 8)).endsLayer 0 (aFeed 0x12 8) = true ∧ (weighted .armed 0 (aFeed 0x12 8)).feedOk 0 (aFeed 0x12 8) = true ∧
    ((weighted .armed 0 (aFeed 0x12 8)).part 0).st = .armed ∧
    (crc32cRun (((weighted .armed 0 (aFeed 0x12 8)).part 0).posFor 0).crc (slice (aFeed 0x12 8).payload 0 8) ^^^ 0xFFFFFFFF).toNat =
      ((weighted .armed 0 (aFeed 0x12 8)).layer 0 0).check := by
  unfold State.descStarts; decide +kernel
theorem test_meets_WeightDescriptors_fail : (weighted .armed 0 { aFeed 0x11 8 with payload := List.replicate 8 1 }).feedOk 0 { aFeed 0x11 8 with payload := List.replicate 8 1 } = true ∧
    (crc32cRun (((weighted .armed 0 (aFeed 0x11 8)).part 0).posFor 0).crc (List.replicate 8 1) ^^^ 0xFFFFFFFF).toNat ≠ ((weighted .armed 0 (aFeed 0x11 8)).layer 0 0).check := by
  decide +kernel
theorem test_meets_WeightDescriptors_stacks (k : Nat) : ((weighted .armed 0 (aFeed 0x11 4)).stack k).tripped = false := by
  have h : (weighted .armed 0 (aFeed 0x11 4)).stack k = Stack.reset := rfl
  rw [h]; rfl
/-- A feed that leaves bytes out; and a layer whose last bytes lie past the region. -/
def aGap : Desc := desc 0x11 (2 ^ 25 * 2 + 2 ^ 21 * 3) (2 ^ 24 * 4) 4 (List.replicate 4 0)
def farLayer (d : Desc) : State := { weighted .armed 0 d with
  hbm := [(0, (((upFrom 0 32).map fun i =>
    (4096 + i, (leBytes 8 2351477386 ++ leBytes 8 (2 ^ 24 * (2 * granule - 4)) ++ leBytes 8 (2 ^ 24 * 8) ++ leBytes 8 0).getD i 0)).filter fun e => e.2 ≠ 0))] }
theorem test_meets_WeightDescriptors_refused : (weighted .armed 0 aGap).descStarts 0 5 aGap ∧ aGap.op = 0x11 ∧ wb aGap.w1 16 = false ∧ (weighted .armed 0 aGap).feedOk 0 aGap = false ∧
    (farLayer (aFeed 0x11 8)).descStarts 0 5 (aFeed 0x11 8) ∧ (farLayer (aFeed 0x11 8)).feedOk 0 (aFeed 0x11 8) = true ∧
    (farLayer (aFeed 0x11 8)).regionSize 0 < ((farLayer (aFeed 0x11 8)).layer 0 0).addr + 0 + 8 ∧
    (weighted .armed 0 (aFeed 0x12 240)).descStarts 0 5 (aFeed 0x12 240) ∧ (aFeed 0x12 240).bytes % 240 = 0 := by
  unfold State.descStarts; decide +kernel
def aGalFeed : Desc := desc 0x11 (2 ^ 16) 0 0 []
theorem test_meets_WeightDescriptors_gallery : (weighted .armed 1 aGalFeed).descStarts 0 5 aGalFeed ∧ wb aGalFeed.w1 16 = true ∧ aGalFeed.offset = 0 ∧ aGalFeed.bytes = 0 ∧
    aGalFeed.layer < (weighted .armed 1 aGalFeed).layerCount 0 ∧ ((weighted .armed 1 aGalFeed).layer 0 aGalFeed.layer).galleried = true ∧
    ((weighted .armed 1 aGalFeed).part 0).takesLayer aGalFeed.layer = true ∧ (weighted .armed 1 aGalFeed).galleryLayerOk 0 aGalFeed.layer = true ∧
    (crc32cRun 0xFFFFFFFF (slice (List.replicate 8 0) 0 ((weighted .armed 1 aGalFeed).layer 0 aGalFeed.layer).bytes) ^^^ 0xFFFFFFFF).toNat =
      ((weighted .armed 1 aGalFeed).layer 0 aGalFeed.layer).check := by
  unfold State.descStarts; decide +kernel
def aStart : Desc := desc 0x12 (2 ^ 25 * 2 + 2 ^ 21 * 3 + 2 ^ 16) 0 0 (List.replicate 240 0)
def verified : State := (weighted .armed 0 aStart).updPart 0 fun p => { p with wt := .loaded, layers := [(0, { bytes := 8, crc := 0, ok := true })] }
theorem test_meets_WeightDescriptors_start : (weighted .armed 0 aStart).descStarts 0 5 aStart ∧ wb aStart.w1 16 = true ∧ aStart.layer = 0 ∧ aStart.offset = 0 ∧ aStart.bytes = 0 ∧
    ((weighted .armed 0 aStart).part 0).wt ≠ .loaded ∧ verified.descStarts 0 5 aStart ∧ (verified.part 0).wt = .loaded ∧ (verified.part 0).st = .armed ∧
    verified.allVerified 0 = true := by
  unfold State.descStarts; decide +kernel
/-- A repaint of layer 0 of partition 0. -/
def aRepaint : Desc := desc 0x13 1 (2 ^ 16) 0 []
def inRepaint : Repaint := { tag := 5, owner := 0, first := 0, count := 1, next := 0, startedAt := 0, before := .loaded, lastBefore := none }
theorem test_meets_RepaintSteps_repaint : (weighted .run 0 aRepaint).descStarts 0 5 aRepaint ∧ aRepaint.op = 0x13 ∧ aRepaint.named ≠ [] ∧ 1 ≤ aRepaint.layerCount ∧
    aRepaint.layerCount ≤ 4096 ∧ (∀ m ∈ aRepaint.named, ((weighted .run 0 aRepaint).part m).mayRepaint = true) ∧
    (∀ m ∈ aRepaint.named, (weighted .run 0 aRepaint).repaintFits aRepaint m = true) := by
  unfold State.descStarts; decide +kernel
def engaged : State := (inState .run).updPart 0 fun p => { p with repaint := some inRepaint }
theorem test_meets_RepaintSteps_refused : (given engaged aRepaint).descStarts 0 5 aRepaint ∧ (∃ m ∈ aRepaint.named, ((given engaged aRepaint).part m).mayRepaint = false) ∧
    (weighted .run 0 (desc 0x13 0 (2 ^ 16) 0 [])).descStarts 0 5 (desc 0x13 0 (2 ^ 16) 0 []) ∧ (desc 0x13 0 (2 ^ 16) 0 []).named = [] ∧
    (desc 0x13 1 0 0 []).layerCount = 0 ∧ (weighted .run 0 (desc 0x13 1 0 0 [])).descStarts 0 5 (desc 0x13 1 0 0 []) := by
  unfold State.descStarts; decide +kernel
def atBarrier (srv : Option Srv) : State := { (inState .run).updPart 0 fun p => { p with wt := .barrier, repaint := some inRepaint, srv := srv } with
  tb := { ready.tb with count := 100000000 } }
def oneRow : Selected := { slot := 0, first := 0, rows := 1, decode := true, vgroup := 0, tokens := [7] }
def srvOf (slots : Tab SrvSlot) (sel : List Selected) (step : Nat) : Srv :=
  { stewardCore := 0, running := false, slots := slots, half0 := { step := step, selected := sel, startEdge := 0 }, half1 := { step := 0, selected := [], startEdge := 0 },
    passVariant := 0, passPages := 0, shortfall := 0, galGone := false, ops := [], classes := List.replicate 8 0x00100E10, tbts := List.replicate 8 0 }
theorem test_meets_RepaintSteps_barrier : ((atBarrier none).part 0).repaint = some inRepaint ∧ ((atBarrier none).part 0).wt = .barrier ∧ ((atBarrier none).part 0).stepUnderWay = false ∧
    ((atBarrier (some (srvOf [] [oneRow] 1))).part 0).stepUnderWay = true ∧
    (((inState .run).updPart 0 fun p => { p with wt := .repainting, repaint := some inRepaint }).part 0).wt ≠ .barrier ∧ inRepaint.next = inRepaint.first ∧
    inRepaint.startedAt + 1000000 * cf (atBarrier none) .ptWtCfg 0 0 30 16 ≤ (atBarrier (some (srvOf [] [oneRow] 1))).now := by decide +kernel

/-! ### Hypotheses met: the steward -/

/-- A serving partition of four slots from number 3 on, half-batches of 16 rows, six pages of 256 bytes in two layers, and its areas. -/
def serving (slots : Tab SrvSlot) (step : Nat) (sel : List Selected) (d : List Desc) : State :=
  (setCfg (setCfg (setCfg (setCfg (setCfg (setCfg (setCfg (setCfg (setCfg (inState .run) .srvSlots 0 0 0x00800003) .srvShape 0 0 0x04086010) .srvTime 0 0 0x000A0002)
    .srvKv0 0 0 0x00001000) .srvKv1 0 0 0x00006001) .srvKv2 0 0 0x00040002) .srvTlog 0 0 0x00002000) .srvPst 0 0 0x00003000) .srvGal 0 0 0x10030000).updPart 0
    fun p => { p with srv := some (srvOf slots sel step), flight := d, gal := [(3, { openObj false with expiry := 2 ^ 30 })], galTags := [(3, 1)] }
def someSlots (z : SrvSlot) : Tab SrvSlot := [(0, z), (1, SrvSlot.free), (2, SrvSlot.free), (3, SrvSlot.free)]
def decoding : SrvSlot := { SrvSlot.free with state := .decode, committed := 10, prompt := 8, limit := 100, more := true, log := List.replicate 10 5, pages := [(2, 0)] }
def anAdmit : Desc := desc 0x20 (2 ^ 45 * 2 + 2 ^ 48 * 55) 0 (2 ^ 41 * 256 + 1) (leBytes 4 77)
theorem test_meets_StewardDescriptors_admit : (serving (someSlots decoding) 0 [] [anAdmit]).descStarts 0 5 anAdmit ∧
    (someSlots decoding).find? (fun (e : Nat × SrvSlot) => e.2.state = .free) = some (1, SrvSlot.free) ∧
    (serving (someSlots decoding) 0 [] [anAdmit]).variantOk 0 (wf anAdmit.w1 44 35) = true ∧ 1 ≤ anAdmit.ntok ∧ anAdmit.ntok ≤ 16368 ∧
    anAdmit.ntok < wf anAdmit.w3 63 41 ∧ wf anAdmit.w3 63 41 ≤ 64 * (serving (someSlots decoding) 0 [] [anAdmit]).pageMax 0 := by
  unfold State.descStarts; decide +kernel
def anAppend (draft : Nat) : Desc := desc 0x21 (2 ^ 38 * 3 + 2 ^ 37 * draft) 0 2 (leBytes 4 77 ++ leBytes 4 78)
theorem test_meets_StewardDescriptors_append : (serving (someSlots decoding) 0 [] [anAppend 0]).descStarts 0 5 (anAppend 0) ∧ wb (anAppend 0).w1 37 = false ∧
    (serving (someSlots decoding) 0 [] [anAppend 0]).slotOf 0 (anAppend 0) = some 0 ∧ decoding.state ≠ .free ∧ decoding.more = true ∧
    decoding.prompt + (anAppend 0).ntok ≤ decoding.limit ∧ wb (anAppend 1).w1 37 = true ∧ (anAppend 1).ntok ≤ (serving (someSlots decoding) 0 [] [anAppend 1]).draftMax 0 ∧
    (serving (someSlots decoding) 0 [] [anAppend 1]).descStarts 0 5 (anAppend 1) := by
  unfold State.descStarts; decide +kernel
def onSlot (op : Nat) : Desc := desc op (2 ^ 38 * 3) 0 0 []
theorem test_meets_StewardDescriptors_operations : (serving (someSlots decoding) 0 [] [onSlot 0x22]).descStarts 0 5 (onSlot 0x22) ∧
    (serving (someSlots decoding) 0 [] [onSlot 0x23]).descStarts 0 5 (onSlot 0x23) ∧ (serving (someSlots decoding) 0 [] [onSlot 0x24]).descStarts 0 5 (onSlot 0x24) ∧
    (serving (someSlots decoding) 0 [] [onSlot 0x25]).descStarts 0 5 (onSlot 0x25) ∧ (serving (someSlots decoding) 0 [] [onSlot 0x25]).evqRing 0 = some 0 ∧
    (serving (someSlots decoding) 0 [] [onSlot 0x25]).opWaits 0 0 (onSlot 0x25) = false ∧
    (serving (someSlots decoding) 1 [oneRow] [onSlot 0x23]).opWaits 0 0 (onSlot 0x23) = true := by
  unfold State.descStarts; decide +kernel
/-- No free slot; a free slot as the operand. -/
theorem test_meets_StewardDescriptors_refused : (serving [(0, decoding)] 0 [] [anAdmit]).descStarts 0 5 anAdmit ∧ (∀ e ∈ ([(0, decoding)] : Tab SrvSlot), e.2.state ≠ .free) ∧
    (serving (someSlots SrvSlot.free) 0 [] [onSlot 0x25]).descStarts 0 5 (onSlot 0x25) ∧ (serving (someSlots SrvSlot.free) 0 [] [onSlot 0x25]).slotOf 0 (onSlot 0x25) = some 0 ∧
    ((serving (someSlots SrvSlot.free) 0 [] [onSlot 0x25]).srvSlot 0 0).state = .free ∧
    (setCfg (serving (someSlots decoding) 0 [] [onSlot 0x25]) .cqCfg 0 0 0).evqRing 0 = none := by
  unfold State.descStarts; decide +kernel
/-- A galleried slot of one page. -/
def away : SrvSlot := { decoding with state := .galleried, pages := [], galGens := [0], galExpiry := 2 ^ 30 }
theorem test_meets_StewardDescriptors_resume : (serving (someSlots away) 0 [] [onSlot 0x24]).descStarts 0 5 (onSlot 0x24) ∧
    ((serving (someSlots away) 0 [] [onSlot 0x24]).srvSlot 0 0).state = .galleried ∧ ((serving (someSlots away) 0 [] [onSlot 0x24]).srvSlot 0 0).returning = false ∧
    (serving (someSlots away) 0 [] [onSlot 0x24]).srvObject 0 = some { openObj false with expiry := 2 ^ 30 } ∧ (openObj false).rd = true ∧
    (lowestFree ((serving (someSlots away) 0 [] [onSlot 0x24]).heldPages 0) ((serving (someSlots away) 0 [] [onSlot 0x24]).kvPages 0) 1).length = 1 ∧
    ((serving (someSlots decoding) 0 [] [onSlot 0x23]).updPart 0 fun p => { p with st := .hold }).inStep 0 0 = false := by
  unfold State.descStarts; decide +kernel
def aQuery : Desc := desc 0x26 (2 ^ 38 * 3 + 4) 0 0 []
theorem test_meets_StewardDescriptors_query : (serving (someSlots decoding) 0 [] [aQuery]).descStarts 0 5 aQuery ∧
    (serving (someSlots decoding) 0 [] [aQuery]).slotOf 0 aQuery = some 0 ∧ wf aQuery.w1 4 0 = 4 ∧ 0 + 4 ≤ (serving (someSlots decoding) 0 [] [aQuery]).srvCount 0 := by
  unfold State.descStarts; decide +kernel
def oneSlot (z : SrvSlot) : State := setCfg (serving [(0, z)] 0 [] []) .srvSlots 0 0 0x00200003
def freshSlot : SrvSlot := { SrvSlot.free with state := .prefill, prompt := 64, limit := 100, log := List.replicate 64 5 }
theorem test_meets_StewardEvents_boundary : (oneSlot freshSlot).stewardActs 0 = true ∧ ((oneSlot freshSlot).part 0).st = .run ∧ ((oneSlot freshSlot).srvHalf 0 0).step = 0 ∧
    (oneSlot freshSlot).srvLedger 0 = none ∧ ((oneSlot freshSlot).srvHalf 0 0).selected = [] ∧ ((oneSlot freshSlot).part 0).repaint = none ∧
    (oneSlot freshSlot).assayEn 0 = false ∧ (oneSlot freshSlot).cores.length ≤ 528 ∧
    16 = Nat.min freshSlot.log.length (Nat.min ((oneSlot freshSlot).prefillMax 0) ((oneSlot freshSlot).hbRows 0)) ∧ 1 ≤ (oneSlot freshSlot).vgMax 0 ∧ 1 ≤ (oneSlot freshSlot).kvPages 0 ∧
    ((serving (someSlots SrvSlot.free) 0 [] []).srvLedger 0 = none) ∧ (∀ e ∈ someSlots SrvSlot.free, e.2 = SrvSlot.free) := by decide +kernel
theorem test_meets_StewardEvents_flags : ∀ c f, ((oneSlot freshSlot).core c).flag f < 60000 := by
  intro c f; have : (oneSlot freshSlot).core c = Core.reset := rfl; rw [this]; exact (by decide : (0 : Nat) < 60000)
theorem test_meets_StewardEvents_ledger : ((setCfg (oneSlot freshSlot) .srvSlots 0 0 0x00400003).srvLedger 0).isSome = true := by decide +kernel
def resting : SrvSlot := { decoding with state := .paused, pausedAt := 0 }
def later (z : SrvSlot) : State := { oneSlot z with tb := { ready.tb with count := 20000000 } }
theorem test_meets_StewardEvents_pause : (later resting).srvObject 0 = some { openObj false with expiry := 2 ^ 30 } ∧ (later resting).mayMove 0 ((later resting).srvSlot 0 0) = true ∧
    firstFit ((later resting).galSpace 0) ((later resting).slotBytes 0 ((later resting).srvSlot 0 0)) 8192 = some 0 ∧
    firstFit ((later { resting with pages := List.replicate 17 (2, 0) }).galSpace 0)
      ((later { resting with pages := List.replicate 17 (2, 0) }).slotBytes 0 ((later { resting with pages := List.replicate 17 (2, 0) }).srvSlot 0 0)) 8192 = none ∧
    (openObj false).wr = true ∧ ({ openObj false with wr := false } : GalObj).wr = false ∧
    (later { resting with pages := List.replicate 17 (2, 0) }).mayMove 0 { resting with pages := List.replicate 17 (2, 0) } = true := by decide +kernel
theorem test_meets_StewardEvents_move : (later resting).owner 0 = some ⟨.h0a, 0⟩ ∧ (later resting).srvSlot 0 0 = resting ∧ ({ resting with moving := true } : SrvSlot).moving = true ∧
    ({ resting with state := .galleried, galExpiry := 20000000 } : SrvSlot).galExpiry ≤ (later resting).now ∧ (later resting).evqRing 0 = some 0 ∧
    ({ resting with state := .galleried, returning := true } : SrvSlot).returning = true := by decide +kernel
/-- A copy that was under way when its steward stopped, to the gallery or back. -/
def orphaned (k : Nat) : State := (later resting).updPart 0 fun p => { p with orphans := [(k, 0)] }
theorem test_meets_StewardEvents_orphan : ((orphaned 1).part 0).hasOrphan 1 = true ∧ ((orphaned 2).part 0).hasOrphan 2 = true ∧ ((later resting).part 0).hasOrphan 1 = false ∧
    ((later resting).part 0).hasOrphan 2 = false := by decide +kernel


/-! ### Hypotheses met: the rings -/

/-- Host H0A trained, the rings of `owned` partition: submission ring 0 enabled or not, completion ring 0 enabled or not. -/
def ringed (sq cq : W32) : State :=
  { setCfg (setCfg owned .sqCfg 0 0 sq) .cqCfg 0 0 cq with links := [(0, { HostLink.reset with perst := false, trained := true })] }
def hostA : Func := ⟨.h0a, 0⟩
def ringWord : W32 := 0x90000000
theorem test_meets_RingControl_enable : (ringed 0 0).regsRise ∧ (ringed 0 0).sees (.host hostA) 0x120008 = true ∧ (ringed 0 0).sqPart 0 = some 0 ∧
    (ringed 0 0).ownsCq 0 (rf ringWord 24 17) = true ∧ 6 ≤ rf ringWord 29 25 ∧ rf ringWord 29 25 ≤ 16 ∧ rb ringWord 31 = true ∧ (ringed 0 0).sqOn 0 = false ∧
    (ringed 0 0).sees (.host hostA) 0x120018 = true ∧ (ringed 0 0).cqPart 0 = some 0 ∧ (ringed 0 0).cqOn 0 = false := by
  unfold State.regsRise; decide +kernel
theorem test_meets_RingControl_disable : (ringed ringWord ringWord).sqOn 0 = true ∧ rb (0x10000000 : W32) 31 = false ∧
    rf (0x10000000 : W32) 29 25 = cf (ringed ringWord ringWord) .sqCfg 0 0 29 25 ∧ rf (0x10000000 : W32) 24 17 = cf (ringed ringWord ringWord) .sqCfg 0 0 24 17 ∧
    (ringed 0 ringWord).cqOn 0 = true ∧ (ringed 0 ringWord).cqBusy 0 = false ∧ rf (0x10000000 : W32) 24 19 = cf (ringed 0 ringWord) .cqCfg 0 0 24 19 := by decide +kernel
/-- Two entries submitted; two completion entries held. -/
def doorbells (d : Desc) (r : List Rec) : State :=
  ({ ringed ringWord ringWord with rings := [(0, { Ring.reset with sqTail := 2, cqTail := 2, held := 2, ready := r })] }).updPart 0 fun p => { p with flight := [d] }
theorem test_meets_RingControl_doorbells : (doorbells (desc 0x3F 0 0 0 []) []).mine hostA ((doorbells (desc 0x3F 0 0 0 []) []).sqPart 0) = some 0 ∧
    rf (0x0005 : W32) 15 0 < (doorbells (desc 0x3F 0 0 0 []) []).sqSize 0 ∧ ringDist 0 2 256 ≤ ringDist 0 (rf (0x0005 : W32) 15 0) 256 ∧
    (doorbells (desc 0x3F 0 0 0 []) []).sqSize 0 = 256 ∧ 256 ≤ rf (0x0100 : W32) 15 0 ∧
    (doorbells (desc 0x3F 0 0 0 []) []).mine hostA ((doorbells (desc 0x3F 0 0 0 []) []).cqPart 0) = some 0 ∧ (doorbells (desc 0x3F 0 0 0 []) []).cqOn 0 = true ∧
    ((doorbells (desc 0x3F 0 0 0 []) []).ring 0).held = ringDist 0 2 256 ∧ ringDist 0 (rf (0x0002 : W32) 15 0) 256 ≤ 2 ∧
    (∀ e ∈ (doorbells (desc 0x3F 0 0 0 []) []).srvSlots 0, e.2.pendingDelivery = none) := by decide +kernel
/-- One at the ring size, one that goes back, and one that returns more than is held; rings that are not enabled. -/
theorem test_meets_RingControl_refused : (doorbells (desc 0x3F 0 0 0 []) []).sqOn 0 = true ∧ ringDist 0 (rf (0x0001 : W32) 15 0) 256 < ringDist 0 2 256 ∧
    ((doorbells (desc 0x3F 0 0 0 []) []).ring 0).held < ringDist 0 (rf (0x0003 : W32) 15 0) 256 ∧ (doorbells (desc 0x3F 0 0 0 []) []).cqSize 0 ≤ rf (0x0100 : W32) 15 0 ∧
    (ringed 0 0).sqOn 0 = false ∧ (ringed 0 0).cqOn 0 = false ∧ (ringed 0 0).mine hostA ((ringed 0 0).sqPart 0) = some 0 ∧ (ringed 0 0).mine hostA ((ringed 0 0).cqPart 0) = some 0 ∧
    ((1 : Nat) ≠ 4 ∨ 2 % 4 ≠ 0) ∧ ((1 : Nat) ≠ 8 ∨ 2 % 8 ≠ 0) ∧ (6 : Nat) < 8 := by decide +kernel
/-- A NOP of tag 9, and the same with a reserved bit set. -/
def nopEntry (w1 : Nat) : List Byte := leBytes 8 (2 ^ 56 * 0x3F + 2 ^ 45 + 9) ++ leBytes 8 w1 ++ List.replicate 48 0
theorem test_meets_FetchAndCompletion_fetch : (doorbells (desc 0x3F 0 0 0 []) []).nextRing 0 = some 0 ∧ (doorbells (desc 0x3F 0 0 0 []) []).owner 0 = some hostA ∧
    ((doorbells (desc 0x3F 0 0 0 []) []).part 0).flight.length < 512 ∧ (doorbells (desc 0x3F 0 0 0 []) []).inFlight < 4096 ∧ 1 = wf (wordAt (nopEntry 0) 0) 55 45 ∧
    1 ≤ (doorbells (desc 0x3F 0 0 0 []) []).available 0 ∧
    (doorbells (desc 0x3F 0 0 0 []) []).descCheck 0 (descOf 0 0 hostA (slice (nopEntry 0) 0 64) []) (slice (nopEntry 0) 0 64) 1 = none ∧
    (doorbells (desc 0x3F 0 0 0 []) []).descCheck 0 (descOf 0 0 hostA (slice (nopEntry 1) 0 64) []) (slice (nopEntry 1) 0 64) 1 = some (stRSVD, 0) := by decide +kernel
def aRec : Rec := { opcode := 0x3F, status := 0, sq := 0, tag := 5, detail := 0, w3 := 0, w4 := 0, w5 := 0, w6 := 0, payload := [], ends := true, pt := 0 }
theorem test_meets_FetchAndCompletion_bad : wf (wordAt (List.replicate 64 0) 0) 55 45 = 0 ∧ (doorbells (desc 0x3F 0 0 0 []) []).sqSize 0 ≤ 256 ∧
    wf (wordAt (leBytes 8 (2 ^ 45 * 256) ++ List.replicate 56 0) 0) 55 45 = 256 := by decide +kernel
/-- The last notice of a partition whose reset is under way. -/
def aNotice : Rec := { opcode := 0x81, status := 0, sq := 0, tag := 0, detail := 0, w3 := 4099, w4 := 0, w5 := 0, w6 := 0, payload := [], ends := false, pt := 0 }
def resetRuns : State := doorbells { aCtl 3 0 with progress := .started } [aNotice]
theorem test_meets_FetchAndCompletion_notice : (resetRuns.ring 0).ready = aNotice :: [] ∧ resetRuns.owner aNotice.pt = some hostA ∧ aNotice.opcode = 0x81 ∧ aNotice.ends = false ∧
    ((resetRuns.part 0).gal.any fun (e : Nat × GalObj) => e.2.closed) = false ∧ (resetRuns.updRing 0 fun g => { g with ready := [] }).noticeWaits 0 = false ∧
    (resetRuns.part 0).flight.find? (fun d => d.op = 0x0B && wf d.w1 1 0 = 3 && d.progress = .started) = some { aCtl 3 0 with progress := .started } ∧
    (resetRuns.ring 0).held + aNotice.entries ≤ resetRuns.cqSize 0 := by decide +kernel
theorem test_meets_FetchAndCompletion_write : ((doorbells (desc 0x3F 0 0 0 []) [aRec]).ring 0).ready = aRec :: [] ∧ (doorbells (desc 0x3F 0 0 0 []) [aRec]).owner aRec.pt = some hostA ∧
    (doorbells (desc 0x3F 0 0 0 []) [aRec]).cqOn 0 = true ∧ ((doorbells (desc 0x3F 0 0 0 []) [aRec]).ring 0).cqTail < (doorbells (desc 0x3F 0 0 0 []) [aRec]).cqSize 0 ∧
    ((doorbells (desc 0x3F 0 0 0 []) [aRec]).ring 0).held + aRec.entries ≤ (doorbells (desc 0x3F 0 0 0 []) [aRec]).cqSize 0 := by decide +kernel
theorem test_meets_FetchAndCompletion_interrupt :
    (((doorbells (desc 0x3F 0 0 0 []) []).updRing 0 fun r => { r with signalDue := true, lastSignal := some 0 }).ring 0).signalDue = true ∧
    ((doorbells (desc 0x3F 0 0 0 []) []).updRing 0 fun r => { r with signalDue := true, lastSignal := some 0 }).maySignal 0 = true := by decide +kernel

/-! ### Hypotheses met: registers -/

theorem test_meets_WindowWrites_tree : ready.managed = true ∧ ready.sees .tree 0x100104 = true ∧ Reg.at 0x100104 = some ⟨.ptWtCfg, 0, 0⟩ ∧ 0x100104 % 4 = 0 ∧
    mayWrite .tree .ptWtCfg = true ∧ Reg.writeFields ⟨.ptWtCfg, 0, 0⟩ (ready.sOpenFor ⟨.ptWtCfg, 0, 0⟩) = true ∧
    ready.regOk ⟨.ptWtCfg, 0, 0⟩ (ready.writeWord ⟨.ptWtCfg, 0, 0⟩ 0x00010001) = true ∧ ready.regOk ⟨.ptWtCfg, 0, 0⟩ (ready.writeWord ⟨.ptWtCfg, 0, 0⟩ 0x00010000) = false ∧
    Reg.blocked ⟨.ptWtCfg, 0, 0⟩ (ready.sOpenFor ⟨.ptWtCfg, 0, 0⟩) (ready.regValue ⟨.ptWtCfg, 0, 0⟩) 0x00010001 = false ∧ ready.regsRise ∧
    ready.hf.lastSeq ≠ some 7 := by
  unfold State.regsRise; decide +kernel
theorem test_meets_WindowWrites_host : owned.sees (.host hostA) 0x100004 = true ∧ Reg.at 0x100004 = some ⟨.ptOwn, 0, 0⟩ ∧ mayWrite (.host hostA) .ptOwn = false := by
  decide +kernel
theorem test_meets_WindowWrites_closed : (inState .run).sees .tree 0x10000C = true ∧ Reg.at 0x10000C = some ⟨.ptKey, 0, 0⟩ ∧
    Reg.writeFields ⟨.ptKey, 0, 0⟩ ((inState .run).sOpenFor ⟨.ptKey, 0, 0⟩) = false ∧
    Reg.blocked ⟨.ptKey, 0, 0⟩ ((inState .run).sOpenFor ⟨.ptKey, 0, 0⟩) ((inState .run).regValue ⟨.ptKey, 0, 0⟩) 0x12 = true := by decide +kernel
/-- A write of FRT_CTL of F12 while a partition runs: the lanes' field takes it, ETH_MODE does not. Accesses of one byte, by the host of a partition's block and by the tree. -/
theorem test_meets_WindowWrites_part : (inState .run).sees .tree 0x28000 = true ∧ Reg.at 0x28000 = some ⟨.frtCtl, 12, 0⟩ ∧ mayWrite .tree .frtCtl = true ∧ (inState .run).managed = true ∧
    Reg.writeFields ⟨.frtCtl, 12, 0⟩ ((inState .run).sOpenFor ⟨.frtCtl, 12, 0⟩) = true ∧
    Reg.blocked ⟨.frtCtl, 12, 0⟩ ((inState .run).sOpenFor ⟨.frtCtl, 12, 0⟩) ((inState .run).regValue ⟨.frtCtl, 12, 0⟩) 0x20200000 = true ∧
    (inState .run).regOk ⟨.frtCtl, 12, 0⟩ ((inState .run).writeWord ⟨.frtCtl, 12, 0⟩ 0x20200000) = true := by decide +kernel
theorem test_meets_WindowWrites_narrow : 0x100005 - 0x100005 % 4 = 0x100004 ∧ ((1 : Nat) ≠ 4 ∨ 0x100005 % 4 ≠ 0) ∧ ((1 : Nat) ≠ 8 ∨ 0x100005 % 8 ≠ 0) ∧ ((4 : Nat) ≠ 4 ∨ 0x100005 % 4 ≠ 0) ∧
    owned.seenBy hostA 0x100004 = some 0 ∧ ((8 : Nat) ≠ 8 ∨ 0x100004 % 8 ≠ 0) := by decide +kernel
theorem test_meets_RegisterRows : ready.regsRise ∧ ready.managed = true ∧ ready.sModule = true ∧ (inState .run).sModule = false ∧
    rf (0x00000007 : W32) 12 0 ≠ rf (inState .run).flash.idDev 12 0 ∧ rb (0xB2000000 : W32) 31 = true ∧ 7 ≤ ready.startup.stage ∧ ready.startup.stopped = false ∧ State.reset.startup.stage < 7 ∧
    (setCfg ready .tbCfg 0 0 0x80000000).isMaster = true ∧ ready.anyActive = false ∧ 10 ≤ rf (0xA8000000 : W32) 29 25 ∧ rf (0xA8000000 : W32) 29 25 ≤ 30 ∧
    (setCfg ready .snapLo 0 0 0x00200000).snapOk (setCfg ready .snapLo 0 0 0x00200000).snapCount = true ∧ ready.snapOk ready.snapCount = false ∧
    Reg.at 0x38 = some ⟨.tbPresetLo, 0, 0⟩ ∧ isLo .tbPresetLo = true ∧ Reg.at 0x30000 = some ⟨.evsel, 0, 0⟩ ∧ isSelect .evsel = true ∧
    Tab.rising none ready.counts = true ∧ rb (0x00100000 : W32) 20 = true ∧ owned.sees (.host hostA) (0x100000 + 0x1000 * 0 + 0x24) = true := by
  unfold State.regsRise; decide +kernel
theorem test_meets_RegisterRows_pair : Tab.find ({ ready with loStage := [(0x38, 5)] } : State).loStage 0x38 = some (5 : W32) := by decide +kernel

/-! ### Hypotheses met: health, clocks -/

def at_count (t : Nat) : State := { ready with tb := { ready.tb with count := t } }
theorem test_meets_HealthAndTree : ready.tb.running = true ∧ ready.tb.count ≤ 1000000000 ∧ 1000000000 % 1000000000 = 0 ∧ 2 ^ 20 % 1024 = 0 ∧
    rb (cfg (setCfg (setCfg ready .snapLo 0 0 0x00200000) .snapCtl 0 0 2) .snapCtl 0 0) 1 = true ∧
    (setCfg (setCfg ready .snapLo 0 0 0x00200000) .snapCtl 0 0 2).snapCount = 0x200000 ∧ ready.managed = true ∧ ready.hf.lastSeq ≠ some 1 ∧
    ready.snapOk (0x200000 % 2 ^ 64) = true ∧ ready.snapOk (3 % 2 ^ 64) = false := by decide +kernel
/-- An accumulator with events of the decay's own tick; one that has decayed in it; one without events of it. -/
theorem test_meets_HealthAndTree_decay : ({ acc := [(0, 65536)], lateAt := 2 ^ 20, late := [(0, 7)], decayedAt := none } : Accs).decayedAt ≠ some (2 ^ 20) ∧
    ({ acc := [(0, 65536)], lateAt := 2 ^ 20, late := [(0, 7)], decayedAt := none } : Accs).lateAt = 2 ^ 20 ∧ ({ (Accs.of []) with decayedAt := some (2 ^ 20) } : Accs).decayedAt = some (2 ^ 20) ∧
    (Accs.of [(0, 65536)]).late = [] ∧ Tab.find (Accs.of [(0, 65536)]).settled 0 = some 65536 ∧ cf ready .canCfg (canKind (0 / 4)) (0 % 4) 20 16 ≠ 0 ∧
    cf (setCfg ready .canCfg 0 0 0) .canCfg (canKind (0 / 4)) (0 % 4) 20 16 = 0 := by decide +kernel
theorem test_meets_AlarmLine : Tab.rising none ready.canary = true ∧ ready.alarm = false ∧ State.reset.alarm = ready.alarm := by decide +kernel
theorem test_meets_ClockDomains : ((inState .run).part 0).st = .run ∧ (inState .run).onDie 0 0 = true ∧ (inState .run).inRegion 0 0 = true ∧
    ready.alarm = false ∧ (ready.domain 3).lost = false ∧ Tab.rising none (ready.domain 3).hist = true ∧ (0 : Nat) < 26 ∧
    (0 : Nat) ∈ ({ ready with cluStart := [0] } : State).cluStart ∧ ({ ready with cluStart := [0] } : State).lastCluStart = none ∧
    regionOf c0 = 0 ∧ Tab.find (oneCore .run).cores c0.ix = some atWork := by decide +kernel
/-- The handshake of a full crossing (07, R177): from 8 entries, a write that moves it up by six makes 14, and one by three more holds the producer for three cycles, one assertion. -/
theorem test_crossing_hold : Elastic.pass { distance := 8000, held := 0, holds := 0, holding := false } { crossing := 0, recentring := 0, drift := [6000, 3000] } =
    { distance := 14000, held := 3000, holds := 1, holding := true } := by decide +kernel
/-- Stretch codes of sags of 0, 1, just above 1 and 7 % of a rail of 640 mV (07, R173). -/
theorem test_stretch_code : opMv 2 = 640 ∧ Sag.code { point := 2, railUv := 640000, cycles := 1 } = 0 ∧ Sag.code { point := 2, railUv := 633600, cycles := 1 } = 1 ∧
    Sag.code { point := 2, railUv := 633599, cycles := 1 } = 2 ∧ Sag.code { point := 2, railUv := 595200, cycles := 1 } = 6 := by decide +kernel
theorem test_meets_ClockDomains_monitors : (rf (cfg ready .clkMonCfg 3 0) 10 6 ≤ 15 ∧ 15 ≤ rf (cfg ready .clkMonCfg 3 0) 15 11) ∧
    rf (cfg (setCfg ready .clkMonCfg 3 0 0x00018400) .clkMonCfg 3 0) 31 16 < 2 ∧
    (15 < rf (cfg (setCfg ready .clkMonCfg 3 0 0x00018400) .clkMonCfg 3 0) 10 6 ∨ rf (cfg (setCfg ready .clkMonCfg 3 0 0x00018400) .clkMonCfg 3 0) 15 11 < 31) ∧
    (255 < rf (cfg ready .clkDutyCfg 3 0) 7 0 ∨ rf (cfg ready .clkDutyCfg 3 0) 15 8 < 255) ∧ rf (cfg ready .clkDutyCfg 3 0) 7 0 ≤ 128 ∧ 128 ≤ rf (cfg ready .clkDutyCfg 3 0) 15 8 := by
  decide +kernel
theorem test_meets_JobRegisters : owned.managed = true ∧ (owned.part 0).sOpen = true ∧ owned.regsRise ∧ 32768 < rf (0x80010000 : W32) 31 16 ∧
    rf (0x80000000 : W32) 31 16 ≤ 32768 ∧ owned.owner 0 = some hostA := by
  unfold State.regsRise; decide +kernel
/-- PT_JOB_CFG takes 32,768 modules and refuses 32,769. -/
theorem test_job_modules : ∃ t u, exec (.registerWrite .tree 0x100010 4 0x80000000) owned = .next t ∧ cfg t .ptJobCfg 0 0 = 0x80000000 ∧
    exec (.registerWrite .tree 0x100010 4 0x80010000) owned = .next u ∧ cfg u .ptJobCfg 0 0 = 0x00010000 ∧ rf u.setupErr 23 21 = 3 :=
  ⟨_, _, rfl, by decide +kernel, rfl, by decide +kernel, by decide +kernel⟩

/-! ### Hypotheses met: firmware -/

theorem leBytes_leNat (n : Nat) : ∀ v : Nat, v < 256 ^ n → leNat (leBytes n v) = v := by
  induction n with
  | zero => intro v h; simp [leBytes, leNat] at *; omega
  | succ n ih =>
    intro v h
    have hv : v / 256 < 256 ^ n := by rw [Nat.div_lt_iff_lt_mul (by decide)]; rw [← Nat.pow_succ]; exact h
    simp only [leBytes, leNat, ih _ hv, BitVec.toNat_ofNat]
    omega
theorem slice_of_append (p q : List Byte) (n : Nat) (h : q.length = n) : slice (p ++ q) p.length n = q := by
  subst h; simp [slice]
theorem slice_first (p q : List Byte) (a n : Nat) (h : a + n ≤ p.length) : slice (p ++ q) a n = slice p a n := by
  unfold slice
  rw [List.drop_append_of_le_length (by omega), List.take_append_of_le_length (by simp; omega)]
theorem leBytes_length (n : Nat) : ∀ v, (leBytes n v).length = n := by
  induction n with
  | zero => intro v; rfl
  | succ n ih => intro v; simp [leBytes, ih]
/-- A block is intact when its last four bytes are the CRC of the others. -/
def sealed (p : List Byte) : List Byte := p ++ leBytes 4 (crc32c p)
theorem sealed_ok (p : List Byte) (h : p.length = 65532) : blockOk (sealed p) = true := by
  have h1 : (sealed p).length = blockBytes := by simp [sealed, leBytes_length, h, blockBytes]
  have h2 : leAt (sealed p) 65532 4 = crc32c p := by
    unfold leAt sealed; rw [← h, slice_of_append p _ 4 (leBytes_length 4 _)]
    exact leBytes_leNat 4 _ (by unfold crc32c; exact BitVec.isLt _)
  have h3 : (sealed p).take 65532 = p := by simp [sealed, ← h]
  simp [blockOk, h1, h2, h3]
theorem zeros_all (l : List Byte) (h : ∀ x ∈ l, x = 0) (lo hi : Nat) : zeros l lo hi = true := by
  simp only [zeros, slice, List.all_append, Bool.and_eq_true, List.all_eq_true, decide_eq_true_eq]
  exact ⟨fun x hx => h x (List.mem_of_mem_drop (List.mem_of_mem_take hx)), fun x hx => by simpa using (List.mem_replicate.1 hx).2⟩
theorem leNat_zeros (l : List Byte) : (∀ x ∈ l, x = 0) → leNat l = 0 := by
  induction l with
  | nil => intro _; rfl
  | cons a l ih => intro h; simp [leNat, ih (fun x hx => h x (List.mem_cons_of_mem _ hx)), h a List.mem_cons_self]
theorem slice_zero (l : List Byte) (h : ∀ x ∈ l, x = 0) (a n : Nat) : ∀ x ∈ slice l a n, x = 0 := by
  intro x hx
  simp only [slice, List.mem_append, List.mem_replicate] at hx
  rcases hx with hx | ⟨_, hx⟩
  · exact h x (List.mem_of_mem_drop (List.mem_of_mem_take hx))
  · exact hx
/-- A block whose body is all zero holds no record. -/
theorem records_zero (base z : List Byte) (hz : ∀ x ∈ z, x = 0) (hl : 8 ≤ z.length) (k : Nat) : records base z (k + 1) 0 = some [] := by
  have h2 : leAt z 0 8 = 0 := leNat_zeros _ (slice_zero _ hz 0 8)
  have h4 : ¬ z.length < 0 + 8 := by omega
  rw [records, if_neg h4, h2]
  simp [fld]
  exact fun x hx => hz x (List.mem_of_mem_drop hx)
theorem zeroBlock_records (base z : List Byte) (hz : ∀ x ∈ z, x = 0) (hl : z.length = 65532) : blockRecords base (sealed z) = some [] := by
  have h1 : (sealed z).take 65532 = z := by unfold sealed; rw [← hl]; exact List.take_left
  rw [blockRecords, h1]
  exact records_zero base z hz (by rw [hl]; decide) 8192

/-- A component whose unconfirmed image has a pentimento. -/
def anImage (v : Nat) : Image := { version := v, timingRev := 0, settingsFmt := 0, bytes := [] }
def unconfirmed (fails : Nat) : FwComp := { FwComp.blank with running := anImage 2, pent := some (anImage 1), unconf := true, fails := fails }
def updating (u : Option Update) (x : FwComp) : State := { ready with update := u, flash := { ready.flash with fw3 := x } }
def anUpdate (c : Option Nat) (next : Nat) : Update :=
  { maxTransfer := 65536, tabled := c.isSome, component := c, imageSize := 131072, next := next, blocks := 3, retries := 0, header := [], out := [] }
theorem test_meets_FirmwareUpdate_paths : ready.pldmPath .ma = true ∧ ready.update = none ∧ (updating (some (anUpdate none 0)) FwComp.blank).update = some (anUpdate none 0) ∧
    (anUpdate none 0).component = none ∧ (anUpdate none 0).tabled = false ∧ ({ anUpdate none 0 with tabled := true } : Update).tabled = true ∧ (anUpdate (some 3) 0).component ≠ none ∧ (updating (some (anUpdate none 0)) FwComp.blank).flash.fw1.pending = none ∧ (anUpdate (some 3) 0).component = some 3 ∧
    ((updating none (unconfirmed 0)).flash.comp 3).unconf = true ∧ ((updating none (unconfirmed 0)).flash.comp 3).pent = some (anImage 1) ∧
    ((updating none (unconfirmed 0)).flash.comp 3).pending = none ∧ (0x8 : BitVec 5).getLsbD 3 = true ∧ 3 ≤ 4 ∧
    (∀ d : Fin 5, 1 ≤ d.val → d.val ≠ 3 → ((updating none (unconfirmed 0)).flash.comp d.val).unconf = false) := by decide +kernel
/-- Block 0 of a timing image: version 1 over the base 0, two blocks, 16 bytes. -/
def headerFront : List Byte :=
  leBytes 4 0x44574642 ++ leBytes 2 1 ++ leBytes 2 3 ++ leBytes 4 0x880 ++ leBytes 4 0 ++ leBytes 8 1 ++ leBytes 8 0 ++ sha384 [] ++ sha384 (List.replicate 16 0) ++
    leBytes 4 16 ++ leBytes 4 2 ++ leBytes 4 0 ++ List.replicate 116 0
def headerBody (n : Nat) : List Byte := headerFront ++ List.replicate n 0
theorem headerFront_length : headerFront.length = 256 := by decide +kernel
theorem headerBody_length (n : Nat) : (headerBody n).length = 256 + n := by unfold headerBody; rw [List.length_append, headerFront_length, List.length_replicate]
theorem front_at (k a n : Nat) (h : a + n ≤ 256) : slice (sealed (headerBody k)) a n = slice headerFront a n := by
  unfold sealed headerBody
  rw [List.append_assoc, slice_first _ _ a n (by rw [headerFront_length]; exact h)]
theorem back_zero (k lo hi : Nat) (h1 : 256 ≤ lo) (h2 : lo ≤ hi) (h3 : hi ≤ 256 + k) : zeros (sealed (headerBody k)) lo hi = true := by
  have d : (headerBody k).drop lo = List.replicate (256 + k - lo) 0 := by
    unfold headerBody
    rw [List.drop_append, List.drop_eq_nil_of_le (by rw [headerFront_length]; exact h1), headerFront_length, List.nil_append, List.drop_replicate]
    congr 1; omega
  have e : ∀ x ∈ slice (sealed (headerBody k)) lo (hi - lo), x = 0 := by
    intro x hx
    unfold sealed slice at hx
    rw [List.drop_append_of_le_length (by rw [headerBody_length]; omega), d,
      List.take_append_of_le_length (by rw [List.length_replicate]; omega)] at hx
    rcases List.mem_append.1 hx with hx | hx
    · exact (List.mem_replicate.1 (List.mem_of_mem_take hx)).2
    · exact (List.mem_replicate.1 hx).2
  unfold zeros; rw [List.all_eq_true]; exact fun x hx => decide_eq_true (e x hx)
theorem test_meets_FirmwareUpdate_header (k : Nat) (hk : k = 65276) :
    (updating (some { anUpdate (some 3) 0 with imageSize := 131072 }) FwComp.blank).headerCheck 3 131072 (sealed (headerBody k)) = none := by
  have ok := sealed_ok (headerBody k) ((headerBody_length k).trans (by omega))
  have h1 : leAt (sealed (headerBody k)) 0x06 2 = 3 := by unfold leAt; rw [front_at _ _ _ (by decide)]; decide +kernel
  have h2 : leAt (sealed (headerBody k)) 0x84 4 = 2 := by unfold leAt; rw [front_at _ _ _ (by decide)]; decide +kernel
  have h3 : leAt (sealed (headerBody k)) 0x80 4 = 16 := by unfold leAt; rw [front_at _ _ _ (by decide)]; decide +kernel
  have h4 : leAt (sealed (headerBody k)) 0 4 = 0x44574642 := by unfold leAt; rw [front_at _ _ _ (by decide)]; decide +kernel
  have h5 : leAt (sealed (headerBody k)) 4 2 = 1 := by unfold leAt; rw [front_at _ _ _ (by decide)]; decide +kernel
  have h6 : leAt (sealed (headerBody k)) 0x8A 1 = 0 := by unfold leAt; rw [front_at _ _ _ (by decide)]; decide +kernel
  have h7 : zeros (sealed (headerBody k)) 0x8B 0x100 = true := by unfold zeros; rw [front_at _ _ _ (by decide)]; decide +kernel
  have h8 : leAt (sealed (headerBody k)) 0x08 4 = 0x880 := by unfold leAt; rw [front_at _ _ _ (by decide)]; decide +kernel
  have h9 : leAt (sealed (headerBody k)) 0x18 8 = 0 := by unfold leAt; rw [front_at _ _ _ (by decide)]; decide +kernel
  have h10 : slice (sealed (headerBody k)) 0x20 48 = sha384 [] := by rw [front_at _ _ _ (by decide)]; decide +kernel
  have h11 : leAt (sealed (headerBody k)) 0x10 8 = 1 := by unfold leAt; rw [front_at _ _ _ (by decide)]; decide +kernel
  have h12 : leAt (sealed (headerBody k)) 0x0C 4 = 0 := by unfold leAt; rw [front_at _ _ _ (by decide)]; decide +kernel
  have z1 := back_zero k 0x160 0x200 (by decide) (by decide) (by omega)
  have z2 := back_zero k 0x1413 65532 (by decide) (by decide) (by omega)

  have c1 : ((updating (some { anUpdate (some 3) 0 with imageSize := 131072 }) FwComp.blank).flash.comp 3) = FwComp.blank := rfl
  simp only [State.headerCheck, ok, h1, h2, h3, h4, h5, h6, h7, h8, h9, h10, h11, h12, z1, z2, c1]
  decide +kernel
/-- Where both signatures verify (free: `Config.verifies`), the last block of an image of 16 zero bytes completes it; the digest that fails is that of no image. -/
def lastOf (digest : List Byte) (n : Nat) : Update :=
  { anUpdate (some 3) 1 with blocks := 2, header := List.replicate 0x50 0 ++ digest ++ leBytes 4 n ++ List.replicate 124 0 }
theorem test_meets_FirmwareUpdate_block : 0 < (lastOf (sha384 []) 0).next ∧ blockOk [] = false ∧ (anUpdate (some 3) 1).retries < 3 ∧
    (lastOf (sha384 []) 0).blocks ≤ (lastOf (sha384 []) 0).next + 1 ∧ ((lastOf (sha384 []) 0).out ++ []).length = leAt (lastOf (sha384 []) 0).header 0x80 4 ∧
    sha384 ((lastOf (sha384 []) 0).out ++ []) = slice (lastOf (sha384 []) 0).header 0x50 48 ∧
    sha384 ((lastOf (List.replicate 48 0) 0).out ++ []) ≠ slice (lastOf (List.replicate 48 0) 0).header 0x50 48 ∧
    (anUpdate (some 3) 1).next + 1 < (anUpdate (some 3) 1).blocks := by decide +kernel
/-- The body of its block: an intact block without record. -/
theorem test_meets_FirmwareUpdate_intact :
    ∃ b, blockOk b = true ∧ blockRecords ((updating (some (lastOf (sha384 []) 0)) FwComp.blank).flash.comp 3).running.bytes b = some [] :=
  ⟨_, sealed_ok _ List.length_replicate, zeroBlock_records _ (List.replicate 65532 0) (fun _ hx => (List.mem_replicate.1 hx).2) List.length_replicate⟩
theorem test_meets_FirmwareUpdate_signed (h : ∀ a k m x, Config.verifies a k m x = true) : (lastOf (sha384 []) 0).signed = true := by
  simp [Update.signed, h]
def booting (x : FwComp) : State := { updating none x with startup := { ready.startup with ready := false, stage := 8 } }
theorem test_meets_FirmwareUpdate_boot : (booting (unconfirmed 0)).bootPoint 3 = true ∧ (booting (unconfirmed 2)).bootPoint 3 = true ∧
    ((booting (unconfirmed 0)).flash.comp 3).fails + 1 < 3 ∧ 3 ≤ ((booting (unconfirmed 2)).flash.comp 3).fails + 1 ∧
    ((booting (unconfirmed 2)).flash.comp 3).pent = some (anImage 1) ∧ ((booting (unconfirmed 2)).flash.comp 3).pending = none := by decide +kernel
theorem test_meets_QueriesAnswered : ready.pldmPath .ma = true ∧ ready.spdmPath .mb = true ∧
    ({ ready with spdm := [(0, { versioned := true, capable := true, negotiated := true })] } : State).spdmOf .ma = { versioned := true, capable := true, negotiated := true } ∧
    (ready.spdmOf .ma).negotiated = false := by decide +kernel

/-! ### Values and single steps worked out from the manual, or from the standard that it names -/

/-- The check value of CRC-32C, and of the unit CRC's generator with reflected bytes, of "123456789". -/
def nineDigits : List Byte := [0x31, 0x32, 0x33, 0x34, 0x35, 0x36, 0x37, 0x38, 0x39]
theorem test_crc32c : crc32c nineDigits = 0xE3069283 := by decide +kernel
theorem test_crc64 : crc64 nineDigits = 0x995DC9BBDF1939FA := by decide +kernel
/-- SHA-384 of "abc" (FIPS 180-4). -/
theorem test_sha384 : (sha384 [0x61, 0x62, 0x63]).take 8 = [0xCB, 0x00, 0x75, 0x3F, 0x45, 0xA3, 0x5E, 0x8B] := by decide +kernel
/-- Canonical NaNs (03, R65). -/
theorem test_canonical_nan : canonNan 0x01 = 0x7FF8000000000000 ∧ canonNan 0x02 = 0x7FC00000 ∧ canonNan 0x03 = 0x7E00 ∧ canonNan 0x04 = 0x7FC0 ∧
    canonNan 0x05 = 0x7F ∧ canonNan 0x06 = 0x7E ∧ canonNan 0x13 = 0xFF := by decide +kernel
/-- The largest finite values: 448 of E4M3, 57,344 of E5M2 (03, R64). -/
theorem test_largest : decodeElem 0x05 0x7E = .fin false 14 5 ∧ decodeElem 0x06 0x7B = .fin false 7 13 := by decide +kernel
/-- 1.0 + 1.0 is 2.0, and 1.0 / 0.0 is infinity with DIVZERO (03, R71, R73), in FP32. -/
theorem test_add : (vectorOp 0x01 0x02 0 (decodeElem 0x02 0x3F800000) (decodeElem 0x02 0x3F800000) (.fin false 0 0)).1 = decodeElem 0x02 0x40000000 ∧
    (vectorOp 0x05 0x02 0 (decodeElem 0x02 0x3F800000) (decodeElem 0x02 0) (.fin false 0 0)) = (decodeElem 0x02 0x7F800000, fDivZero) := by decide +kernel
/-- Reset leaves Standby: no converter, no partition, no time (14, R312). -/
theorem test_reset_standby : State.reset.power.convOn = false ∧ State.reset.startup.ready = false ∧ State.reset.tb.running = false ∧
    (State.reset.part 0).st = .absent ∧ State.reset.pending = [] := by decide +kernel
/-- SSET of scalar 2 to 9, and LOOP of three passes, which goes on behind itself (04, R109, and the table of SSET). -/
theorem test_sset : ∃ t, exec (.sset ⟨c0, [], []⟩) (issuing equipped (anSset 0)) = .next t ∧ (t.core c0).scalar 2 = 9 ∧ (t.core c0).pc = 1 := ⟨_, rfl, by decide +kernel, by decide +kernel⟩
theorem test_loop : ∃ t, exec (.loop ⟨c0, [], []⟩) (issuing equipped aLoop) = .next t ∧ (t.core c0).loops = [{ body := 1, left := 3 }] ∧ (t.core c0).pc = 1 :=
  ⟨_, rfl, by decide +kernel, by decide +kernel⟩
end Sys2Proof.Tests
end

section
/-! PROOF. Power, start-up and the cold reset (00, R7, R8; 14, R312-R317; 15, R332-R351): what the rows of the converter do, said once for all causes of a
stop, and the statements on the cold reset, on the converter that turns off, and on the way back to step 3. -/

namespace Sys2Proof.Machine

/-! ### Rows of power and start-up -/

theorem exec_coldReset (s : State) : exec .coldReset s = .next s.coldReset := rfl
theorem exec_mainBusReturn (s : State) (v : BitVec 10) : exec (.mainBusReturn v) s = .next (s.busReads v) := rfl
theorem exec_prechargeBypassClose (s : State) (v : BitVec 10) : exec (.prechargeBypassClose v) s = .next
    (if (s.busReads v).starting ∧ (s.busReads v).startup.stage = 2 ∧ !(s.busReads v).power.convOn
      then { s.busReads v with power := { (s.busReads v).power with precharged := true } } else s.busReads v) := rfl
theorem exec_dieTrip_unpowered {s : State} (h : s.power.convOn = false) (d : DieReading) : exec (.dieTrip d) s = .next s := by
  simp [exec, execDieTrip, h]
theorem exec_mainBusLoss_not_ready {s : State} (h : s.startup.ready = false) : exec .mainBusLoss s = .next s := by
  simp [exec, execMainBusLoss, h]

/-- Step 3 or a later step of start-up runs where start-up runs, the standby input is there, and the loop and the bus have begun step 3. -/
theorem State.starting_iff (s : State) : s.starting = true ↔ s.startup.ready = false ∧ s.startup.stopped = false ∧ s.power.stbyOk = true ∧
    (3 ≤ s.startup.stage ∨ s.startup.stage = 2 ∧ s.power.hvilClosed = true ∧ 720 ≤ s.power.vbus.toNat ∧ s.power.vbus.toNat ≤ 840) := by
  simp [State.starting, busInRange, and_assoc]

/-! ### Flash and the update under way (14, R325-R329) -/

/-- A component put into flash changes the components alone. -/
theorem Flash.setComp_frame (f : Flash) (c : Nat) (x : FwComp) : f.setComp c x =
    { f with fw1 := (f.setComp c x).fw1, fw2 := (f.setComp c x).fw2, fw3 := (f.setComp c x).fw3, fw4 := (f.setComp c x).fw4 } := by
  unfold Flash.setComp; split <;> rfl

@[simp] theorem State.abortUpdate_update (s : State) : s.abortUpdate.update = none := by
  unfold State.abortUpdate
  split
  · split <;> rfl
  · assumption
@[simp] theorem State.abortUpdate_pending (s : State) : s.abortUpdate.pending = s.pending := by
  unfold State.abortUpdate
  split
  · split <;> rfl
  · rfl

/-! ### The cold reset (00, R8; 14, R316, R317; 16, R359) -/

/-- Where no register is stored every register reads its reset value. -/
theorem cfg_of_regs_nil {s : State} (h : s.regs = []) (r : Reg) : cfg s r.kind r.i r.j = r.reset := by simp [cfg, h]
/-- Where no partition is listed every partition is as after reset. -/
theorem State.part_of_parts_nil {s : State} (h : s.parts = []) (n : Nat) : s.part n = Part.reset := by simp [State.part, h]
/-- Where no port is listed every port is as after reset. -/
theorem State.port_of_ports_nil {s : State} (h : s.ports = []) (p : Nat) : s.port p = FPort.reset := by simp [State.port, h]

@[simp] theorem State.coldReset_pending (s : State) : s.coldReset.pending = s.pending := by simp [State.coldReset]
@[simp] theorem State.coldReset_update (s : State) : s.coldReset.update = none := by simp [State.coldReset, State.reset]
@[simp] theorem State.coldReset_regs (s : State) : s.coldReset.regs = [] := by simp [State.coldReset, State.reset]
@[simp] theorem State.coldReset_parts (s : State) : s.coldReset.parts = [] := by simp [State.coldReset, State.reset]
@[simp] theorem State.coldReset_ports (s : State) : s.coldReset.ports = [] := by simp [State.coldReset, State.reset]
@[simp] theorem State.coldReset_tb (s : State) : s.coldReset.tb = { State.reset.tb with refOk := s.tb.refOk } := by simp [State.coldReset]
@[simp] theorem State.coldReset_power (s : State) : s.coldReset.power =
    { State.reset.power with hvilClosed := s.power.hvilClosed, stbyOk := true, vbus := s.power.vbus } := by simp [State.coldReset]
/-- The report of the last start-up stays; the settings in force are those that flash holds. -/
theorem State.coldReset_startup (s : State) : s.coldReset.startup =
    { State.reset.startup with
      hostCur := s.coldReset.flash.hostCfg, bootCur := s.coldReset.flash.bootPorts, failStep := s.startup.failStep, failPart := s.startup.failPart
      failCode := s.startup.failCode, lastReset := s.startup.lastReset } := by
  simp [State.coldReset]
/-- Of flash the firmware components alone may change. -/
theorem State.coldReset_flash_frame (s : State) : s.coldReset.flash =
    { s.flash with fw1 := s.coldReset.flash.fw1, fw2 := s.coldReset.flash.fw2, fw3 := s.coldReset.flash.fw3, fw4 := s.coldReset.flash.fw4 } := by
  simp only [State.coldReset, State.alarmEdge_flash]
  split
  · rw [Flash.setComp_frame]; rfl
  · rfl

/-- Settles O3: at reset nothing is stored, so every register, partition and port reads its default. -/
theorem resetValues : Obligations.ResetValues := by
  have hpart : ∀ n, State.reset.part n = Part.reset := State.part_of_parts_nil rfl
  have hport : ∀ p, State.reset.port p = FPort.reset := State.port_of_ports_nil rfl
  refine ⟨rfl, rfl, rfl, rfl, fun n => ?_, fun p => ?_, cfg_of_regs_nil rfl, rfl, rfl, rfl⟩
  · rw [hpart]; exact ⟨rfl, rfl, rfl⟩
  · rw [hport]; rfl

/-- Settles O6: the reset state but for what the cold reset carries over, of flash the components alone changed. -/
theorem coldResetEffect : Obligations.ColdResetEffect := by
  intro s
  have hport : ∀ p, s.coldReset.port p = FPort.reset := State.port_of_ports_nil s.coldReset_ports
  have hf := s.coldReset_flash_frame
  refine ⟨s.coldReset, exec_coldReset s, ?_⟩
  rw [s.coldReset_startup, s.coldReset_tb, s.coldReset_power]
  exact ⟨rfl, rfl, rfl, rfl, rfl, rfl, rfl, State.part_of_parts_nil s.coldReset_parts, fun p => by rw [hport]; rfl, cfg_of_regs_nil s.coldReset_regs, rfl, rfl,
    s.coldReset_update, by rw [hf], by rw [hf], by rw [hf], by rw [hf], by rw [hf], by rw [hf], s.coldReset_pending⟩

/-! ### The dies without power (15, R337) -/

@[simp] theorem State.dieLoss_update (s : State) (b : Bool) : (s.dieLoss b).update = s.update := by simp [State.dieLoss]

/-- From `s` to `t` the converter has turned off: no partition is left, the count stands, and flash and the queue are as they were. -/
structure State.LosesPower (s t : State) : Prop where
  convOn : t.power.convOn = false
  precharged : t.power.precharged = false
  absent : ∀ n, (t.part n).st = .absent
  stands : t.tb.running = false
  flash : t.flash = s.flash
  pending : t.pending = s.pending

/-- Where the module is Ready, the converter's stop is a loss of the main bus: Standby, before step 3. -/
theorem State.converterOff_ready {s : State} (h : s.startup.ready = true) (code part : Nat) : s.LosesPower (s.converterOff code part) ∧
    (s.converterOff code part).startup = { s.startup with ready := false, stage := 2, cause := 3 } := by
  simp only [State.converterOff, State.busLoss, h, if_true]
  refine ⟨⟨rfl, rfl, fun n => ?_, ?_, ?_, ?_⟩, ?_⟩
  · exact (congrArg Part.st (State.platform_part _ _ _ n)).trans (s.dieLoss_absent true n)
  · simpa using s.dieLoss_stands true
  all_goals simp

/-- From step 3 of a start-up on, the converter's stop ends the start-up, with its report. -/
theorem State.converterOff_starting {s : State} (h : s.starting = true) (code part : Nat) : s.LosesPower (s.converterOff code part) ∧
    (s.converterOff code part).startup =
      { s.startup with stopped := true, failStep := s.startup.stage + 1, failPart := part, failCode := code } := by
  obtain ⟨hr, hs, -, -⟩ := s.starting_iff.1 h
  simp only [State.converterOff, State.startupStop, h, hr, hs, Bool.false_eq_true, or_self, if_true, if_false]
  refine ⟨⟨rfl, rfl, fun n => ?_, ?_, ?_, ?_⟩, ?_⟩
  · exact (congrArg Part.st (State.platform_part _ _ _ n)).trans (s.dieLoss_absent true n)
  · simpa using s.dieLoss_stands true
  all_goals simp [hr]

/-- Before step 3, the converter's stop turns the converter off and touches nothing else. -/
theorem State.converterOff_before_step3 {s : State} (hr : s.startup.ready = false) (hs : s.starting = false) (code part : Nat) :
    s.converterOff code part =
      { s with power := { s.power with convOn := false, precharged := false, stopping := s.power.convOn || s.power.stopping } } := by
  simp [State.converterOff, hr, hs]

/-! ### The rows that stop the converter (15, R332, R334, R337, R351) -/

/-- A row stops the converter, with the code and the part that the report of a start-up under way then names. -/
inductive State.RowStops (s : State) : Instr → Nat → Nat → Prop
  | mainBusLoss (h : s.startup.ready = true) : s.RowStops .mainBusLoss 3 0x7F
  | hvilOpen : s.RowStops .hvilOpen 4 0x7F
  | dieTrip (d : DieReading) (hd : 120 ≤ d.celsius) (hc : s.power.convOn = true) : s.RowStops (.dieTrip d) 0 (canDie d.die.val)
  | converterStop (e : InputEvent) (v : BitVec 10) (he : e ≠ .aboveAbsoluteMax) : s.RowStops (.converterStop e v) 3 0x7F

/-- Every row that stops the converter is `State.converterOff`, from a state that differs at most in a reading kept or a free value taken, and then notes its cause
in the power registers, with the converter and the pre-charge left off. -/
theorem State.RowStops.exec_eq {s : State} {i : Instr} {code part : Nat} (h : s.RowStops i code part) :
    ∃ (u : State) (p : Power), exec i s = .next { u.converterOff code part with power := p } ∧ u.startup = s.startup ∧ u.power = s.power ∧ u.flash = s.flash ∧
      u.pending = s.pending ∧ p.convOn = false ∧ p.precharged = false := by
  cases h with
  | mainBusLoss h => exact ⟨s.takeFresh.2, _, by simp only [exec, execMainBusLoss, h, if_true]; rfl, rfl, rfl, rfl, rfl, rfl, rfl⟩
  | hvilOpen => exact ⟨s, _, rfl, rfl, rfl, rfl, rfl, rfl, rfl⟩
  | dieTrip d hd hc =>
    exact ⟨{ s with dieTemps := Tab.put s.dieTemps d.die.val d.celsius }, _, by simp only [exec, execDieTrip, hc, hd, if_true]; rfl,
      rfl, rfl, rfl, rfl, rfl, rfl⟩
  | converterStop e v he =>
    cases e with
    | aboveAbsoluteMax => exact absurd rfl he
    | below300 | lowRideThrough | highRideThrough | above440 => exact ⟨s, _, rfl, rfl, rfl, rfl, rfl, rfl, rfl⟩

/-- Writing the power registers with the converter and the pre-charge off keeps what the loss of power says, and so does a start from another state with
the same flash and queue. -/
theorem State.LosesPower.of_eq {s u t : State} {p : Power} (h : u.LosesPower t) (hf : u.flash = s.flash) (hq : u.pending = s.pending) (hc : p.convOn = false)
    (hp : p.precharged = false) : s.LosesPower { t with power := p } :=
  ⟨hc, hp, h.absent, h.stands, h.flash.trans hf, h.pending.trans hq⟩

/-- With the module Ready, a row that stops the converter takes it to Standby before step 3. -/
theorem State.RowStops.to_standby {s : State} {i : Instr} {code part : Nat} (h : s.RowStops i code part) (hr : s.startup.ready = true) :
    ∃ t, exec i s = .next t ∧ s.LosesPower t ∧ t.startup = { s.startup with ready := false, stage := 2, cause := 3 } := by
  obtain ⟨u, p, he, hst, -, hf, hq, hc, hp⟩ := h.exec_eq
  obtain ⟨hl, hs⟩ := State.converterOff_ready (hst ▸ hr) code part
  exact ⟨_, he, hl.of_eq hf hq hc hp, hst ▸ hs⟩

/-- From step 3 of a start-up on, a row that stops the converter stops the start-up. -/
theorem State.RowStops.stops_startup {s : State} {i : Instr} {code part : Nat} (h : s.RowStops i code part) (hr : s.starting = true) :
    ∃ t, exec i s = .next t ∧ s.LosesPower t ∧
      t.startup = { s.startup with stopped := true, failStep := s.startup.stage + 1, failPart := part, failCode := code } := by
  obtain ⟨u, p, he, hst, hpw, hf, hq, hc, hp⟩ := h.exec_eq
  have hu : u.starting = true := by rw [State.starting_iff, hst, hpw]; exact s.starting_iff.1 hr
  obtain ⟨hl, hs⟩ := State.converterOff_starting hu code part
  exact ⟨_, he, hl.of_eq hf hq hc hp, hst ▸ hs⟩

/-- A loss of the main bus while the module is Ready is latched as an input below 360 V, and start-up waits for the bus (log 87). -/
theorem mainBusLoss_latches_uv {s : State} (h : s.startup.ready = true) :
    ∃ t, exec .mainBusLoss s = .next t ∧ t.power.evtUv = true ∧ t.power.vbus.toNat < 720 ∧ t.starting = false := by
  have hs := (State.converterOff_ready (s := s.takeFresh.2) h 3 0x7F).2
  have hv : (BitVec.ofNat 10 (Config.lostBus s.fresh % 720)).toNat < 720 := by rw [BitVec.toNat_ofNat]; omega
  refine ⟨_, by simp only [exec, execMainBusLoss, h, if_true]; rfl, rfl, hv, ?_⟩
  rw [Bool.eq_false_iff, ne_eq, State.starting_iff, hs]
  rintro ⟨-, -, -, h3 | ⟨-, -, hlow, -⟩⟩
  · simp at h3
  · exact absurd hv (Nat.not_lt.2 hlow)

/-- Loss of the standby input: the dies lose their power, both headframe controllers stop, and a transfer ends (15, R338). -/
theorem standbyLoss_effect (s : State) : ∃ t, exec .standbyLoss s = .next t ∧ s.abortUpdate.LosesPower t ∧ t.power.stbyOk = false ∧
    t.startup.ready = false ∧ t.startup.stage = 0 ∧ t.hf.e0Up = false ∧ t.hf.e1Up = false ∧ t.update = none :=
  ⟨_, rfl, ⟨rfl, rfl, State.dieLoss_absent _ true, State.dieLoss_stands _ true, State.dieLoss_flash _ true, State.dieLoss_pending _ true⟩, rfl, rfl, rfl, rfl, rfl,
    (State.dieLoss_update _ true).trans s.abortUpdate_update⟩

/-- With the converter off and no start-up from step 3 on, an open loop is noted, and pre-charge is off. -/
theorem hvilOpen_before_step3 {s : State} (hc : s.power.convOn = false) (hr : s.startup.ready = false) (hs : s.starting = false)
    (hp : s.power.stopping = false) : exec .hvilOpen s = .next { s with power := { s.power with hvilClosed := false, precharged := false } } := by
  simp [exec, execHvilOpen, State.converterOff_before_step3 hr hs, hc, hp]

/-- A reading of a die at 120 °C or more is latched as the cause of the stop; a lower one is kept (15, R351). -/
theorem dieTrip_powered {s : State} (hc : s.power.convOn = true) (d : DieReading) :
    (120 ≤ d.celsius → ∃ t, exec (.dieTrip d) s = .next t ∧ t.power.evtDieTrip = true) ∧
      (d.celsius < 120 → exec (.dieTrip d) s = .next { s with dieTemps := Tab.put s.dieTemps d.die.val d.celsius }) := by
  constructor <;> intro hd
  · exact ⟨_, by simp only [exec, execDieTrip, hc, hd, if_true]; rfl, rfl⟩
  · simp [exec, execDieTrip, hc, Nat.not_le.2 hd]

/-- Settles O7: the rows that stop the converter are one operation, `State.converterOff`, seen in its three cases. -/
theorem converterTurnsOff : Obligations.ConverterTurnsOff := by
  refine ⟨⟨fun s => ⟨?_, fun hr i hi => ?_, mainBusLoss_latches_uv, fun hs i code part hi => ?_, exec_mainBusLoss_not_ready, fun hc =>
    ⟨exec_dieTrip_unpowered hc, hvilOpen_before_step3 hc⟩⟩, fun s hc => ⟨dieTrip_powered hc, ?_, fun e v he => ?_, fun e v he => ?_⟩⟩, fun s v => rfl⟩
  · obtain ⟨t, he, hl, hb, hr, hst, h0, h1, hu⟩ := standbyLoss_effect s
    exact ⟨t, he, hl.convOn, hl.precharged, hb, hr, hst, h0, h1, hu, hl.absent, hl.stands, hl.flash, hl.pending.trans s.abortUpdate_pending⟩
  · have hrow : ∃ code part, s.RowStops i code part := by
      rcases hi with rfl | ⟨hc, rfl | ⟨d, rfl, hd⟩ | ⟨e, v, rfl, he⟩⟩
      · exact ⟨_, _, .mainBusLoss hr⟩
      · exact ⟨_, _, .hvilOpen⟩
      · exact ⟨_, _, .dieTrip d hd hc⟩
      · exact ⟨_, _, .converterStop e v he⟩
    obtain ⟨code, part, hrow⟩ := hrow
    obtain ⟨t, he, hl, hst⟩ := hrow.to_standby hr
    exact ⟨t, he, hl.convOn, hl.precharged, by rw [hst], by rw [hst], by rw [hst], by rw [hst], hl.absent, hl.stands, hl.flash, hl.pending⟩
  · have hrow : s.RowStops i code part := by
      rcases hi with ⟨rfl, rfl, rfl⟩ | ⟨d, rfl, hd, hc, rfl, rfl⟩ | ⟨e, v, rfl, he, rfl, rfl⟩
      · exact .hvilOpen
      · exact .dieTrip d hd hc
      · exact .converterStop e v he
    obtain ⟨t, he, hl, hst⟩ := hrow.stops_startup hs
    have hready : s.startup.ready = false := (s.starting_iff.1 hs).1
    exact ⟨t, he, hl.convOn, by rw [hst], by rw [hst]; exact hready, by rw [hst], by rw [hst], by rw [hst], hl.absent, hl.flash, hl.pending⟩
  · exact ⟨_, rfl, by simp [hc], rfl⟩
  · rcases he with rfl | rfl <;> exact ⟨_, rfl, by simp [hc], rfl⟩
  · rcases he with rfl | rfl <;> exact ⟨_, rfl, by simp [hc], rfl⟩

/-! ### The way back to step 3 (14, R312; 15, R332-R334) -/

/-- Step 3 waits for nothing but the converter: start-up runs, stands after step 2, and the loop and the bus voltage `v` allow it. -/
def State.step3Open (s : State) (v : BitVec 10) : Prop :=
  s.startup.ready = false ∧ s.startup.stopped = false ∧ s.power.stbyOk = true ∧ s.startup.stage = 2 ∧ s.power.hvilClosed = true ∧ 720 ≤ v.toNat ∧ v.toNat ≤ 840

/-- A reading of the bus is kept unless the converter runs and the reading lies outside the range. -/
theorem State.busReads_eq (s : State) (v : BitVec 10) : s.busReads v = { s with power :=
    if s.power.convOn = true ∧ ¬ (720 ≤ v.toNat ∧ v.toNat ≤ 840) then s.power else { s.power with vbus := v, stopping := false } } := by
  by_cases hr : 720 ≤ v.toNat ∧ v.toNat ≤ 840 <;> cases hc : s.power.convOn <;> simp [State.busReads, busInRange, hr, hc]

/-- With the converter off every reading of the bus is kept. -/
theorem State.busReads_unpowered {s : State} (h : s.power.convOn = false) (v : BitVec 10) :
    s.busReads v = { s with power := { s.power with vbus := v, stopping := false } } := by simp [s.busReads_eq, h]

/-- A bus within its range starts what waits at step 3. -/
theorem State.step3Open.starting {s : State} {v : BitVec 10} (h : s.step3Open v) : (s.busReads v).starting = true := by
  obtain ⟨hr, hs, hb, hst, hh, hlo, hhi⟩ := h
  rw [State.starting_iff, State.busReads_eq, if_neg fun hn => hn.2 ⟨hlo, hhi⟩]
  exact ⟨hr, hs, hb, .inr ⟨hst, hh, hlo, hhi⟩⟩

/-- The bypass may close exactly where step 3 is open at the voltage read and the converter is off. -/
theorem State.bypassCloses_iff (s : State) (v : BitVec 10) :
    ((s.busReads v).starting ∧ (s.busReads v).startup.stage = 2 ∧ !(s.busReads v).power.convOn) ↔ s.step3Open v ∧ s.power.convOn = false := by
  have hstage : (s.busReads v).startup = s.startup := by rw [State.busReads_eq]
  have hconv : (s.busReads v).power.convOn = s.power.convOn := by rw [State.busReads_eq]; dsimp only; split <;> rfl
  rw [hstage, hconv, Bool.not_eq_true']
  constructor
  · rintro ⟨ho, hst, hc⟩
    rw [State.starting_iff, s.busReads_unpowered hc] at ho
    obtain ⟨hr, hs, hb, h3 | ⟨-, hh, hlo, hhi⟩⟩ := ho
    · exact absurd (hst ▸ h3) (by decide)
    · exact ⟨⟨hr, hs, hb, hst, hh, hlo, hhi⟩, hc⟩
  · rintro ⟨ho, hc⟩
    exact ⟨ho.starting, ho.2.2.2.1, hc⟩

/-- Settles O8: every row of the way back is a reading of the bus, and the bypass closes exactly where step 3 is open. -/
theorem powerComesBack : Obligations.PowerComesBack := by
  intro s v on p hon hp
  have hbus : s.busReads v = { s with power := p } := by rw [hp]; exact s.busReads_eq v
  have hopen : on ↔ s.step3Open v := hon
  refine ⟨rfl, by rw [exec_mainBusReturn, hbus], fun h => hbus ▸ (hopen.1 h).starting, fun h => ?_, fun h => ?_⟩
  · have hc := (s.bypassCloses_iff v).2 ⟨hopen.1 h.1, h.2⟩
    rw [exec_prechargeBypassClose, if_pos hc, s.busReads_unpowered h.2]
  · have hc := fun hc => h ((and_congr_left' hopen).2 ((s.bypassCloses_iff v).1 hc))
    rw [exec_prechargeBypassClose, if_neg hc, hbus]

end Sys2Proof.Machine
end

section
/-! PROOF. The bytes of the stores as places of their own: what a write of a core changes there, and what it leaves (04, R92; 05, R117). -/

namespace Sys2Proof.Machine

/-! ### Places of bytes -/

theorem coreIx_inj {c d : CoreId} (h : d.ix = c.ix) : d = c := by
  obtain ⟨⟨a, ha⟩, ⟨b, hb⟩, ⟨e, he⟩⟩ := c
  obtain ⟨⟨a', ha'⟩, ⟨b', hb'⟩, ⟨e', he'⟩⟩ := d
  simp only [CoreId.ix] at h
  simp only [CoreId.mk.injEq, Fin.mk.injEq]
  omega

theorem cluIx_lt (c : CoreId) : c.cluIx < 66 := by
  have hd := c.die.isLt
  have hk := c.clu.isLt
  unfold CoreId.cluIx
  omega

theorem spotOf_core {a : Int} {o : Nat} (h : spotOf a = .core o) : a = o := by
  unfold spotOf at h
  dsimp only at h
  split_ifs at h
  simp only [Spot.core.injEq] at h
  omega

theorem spotOf_cluster {a : Int} {o : Nat} (h : spotOf a = .cluster o) : a = 0x1000000 + o := by
  unfold spotOf at h
  dsimp only at h
  split_ifs at h
  simp only [Spot.cluster.injEq] at h
  omega

/-- What a store holds at an offset. -/
def State.byteAt (s : State) : StoreId × Nat → Byte
  | (.core c, o) => Mem.read (Tab.get [] s.coreMem c.ix) o
  | (.cluster k, o) => Mem.read (Tab.get [] s.cluMem k.val) o

/-- The three kinds of addresses of a core: a byte of its own store, one of its cluster's, or none. -/
theorem byteOf_cases (c : CoreId) (a : Int) :
    (∃ o, spotOf a = .core o ∧ byteOf c a = some (.core c, o)) ∨
    (∃ o, spotOf a = .cluster o ∧ byteOf c a = some (.cluster ⟨c.cluIx, cluIx_lt c⟩, o)) ∨
    (byteOf c a = none ∧ storeOk a = false ∧ ∀ (s : State) (b : Byte), s.writeSt c a b = s) := by
  unfold byteOf storeOk State.writeSt
  cases spotOf a with
  | core o => exact .inl ⟨o, rfl, rfl⟩
  | cluster o => exact .inr (.inl ⟨o, rfl, by simp [Nat.mod_eq_of_lt (cluIx_lt c)]⟩)
  | acc | out => exact .inr (.inr ⟨rfl, rfl, fun _ _ => rfl⟩)

/-- An allowed address is the place of a byte. -/
theorem byteOf_of_storeOk (c : CoreId) {a : Int} (h : storeOk a = true) : ∃ p, byteOf c a = some p := by
  rcases byteOf_cases c a with ⟨o, -, e⟩ | ⟨o, -, e⟩ | ⟨-, e, -⟩
  · exact ⟨_, e⟩
  · exact ⟨_, e⟩
  · rw [h] at e; cases e

/-- Different addresses of a core are different places. -/
theorem byteOf_inj {c : CoreId} {a b : Int} {p : StoreId × Nat} (ha : byteOf c a = some p) (hb : byteOf c b = some p) : a = b := by
  rcases byteOf_cases c a with ⟨o, sa, ea⟩ | ⟨o, sa, ea⟩ | ⟨ea, -, -⟩ <;> rcases byteOf_cases c b with ⟨o', sb, eb⟩ | ⟨o', sb, eb⟩ | ⟨eb, -, -⟩ <;>
    rw [ea] at ha <;> rw [eb] at hb <;> cases ha <;> cases hb
  · rw [spotOf_core sa, spotOf_core sb]
  · rw [spotOf_cluster sa, spotOf_cluster sb]

/-- A core reads at an address the byte of its place. -/
theorem State.readSt_of_byteOf (s : State) {c : CoreId} {a : Int} {p : StoreId × Nat} (h : byteOf c a = some p) : s.readSt c a = s.byteAt p := by
  unfold State.readSt
  rcases byteOf_cases c a with ⟨o, sa, ea⟩ | ⟨o, sa, ea⟩ | ⟨ea, -, -⟩ <;> rw [ea] at h <;> cases h <;> rw [sa] <;> rfl

/-- Where both memories are as they were, so is every byte. -/
theorem State.byteAt_congr {s t : State} (hc : t.coreMem = s.coreMem) (hl : t.cluMem = s.cluMem) (p : StoreId × Nat) : t.byteAt p = s.byteAt p := by
  obtain ⟨c | k, o⟩ := p <;> simp [State.byteAt, hc, hl]

/-! ### Writes -/

/-- A byte written leaves every other byte of its memory. -/
theorem Mem.read_write_other (m : Tab Byte) {a b : Nat} (x : Byte) (h : b ≠ a) : Mem.read (Mem.write m a x) b = Mem.read m b := by
  unfold Mem.read Mem.write Tab.write
  split
  · simp [Tab.get, Tab.find_erase_other m h]
  · exact Tab.get_put_other _ m x h

theorem State.noteAhead_coreMem (s : State) (c : CoreId) (o : Nat) : (s.noteAhead c o).coreMem = s.coreMem := by rw [State.noteAhead_frame]
theorem State.noteAhead_cluMem (s : State) (c : CoreId) (o : Nat) : (s.noteAhead c o).cluMem = s.cluMem := by rw [State.noteAhead_frame]

/-- A write of a core leaves every place but that of its address. -/
theorem State.byteAt_writeSt_other (s : State) (c : CoreId) (a : Int) (b : Byte) {p : StoreId × Nat} (h : byteOf c a ≠ some p) :
    (s.writeSt c a b).byteAt p = s.byteAt p := by
  rcases byteOf_cases c a with ⟨o, sa, ea⟩ | ⟨o, sa, ea⟩ | ⟨-, -, hw⟩
  · rw [ea] at h
    unfold State.writeSt; rw [sa]; dsimp only
    rw [State.noteAhead_coreMem]
    obtain ⟨d | k, o'⟩ := p
    · by_cases hd : d.ix = c.ix
      · cases coreIx_inj hd
        have ho : o' ≠ o := fun e => h (by rw [e])
        simp only [State.byteAt, Tab.get_put_same]
        exact Mem.read_write_other _ _ ho
      · simp only [State.byteAt, Tab.get_put_other _ _ _ hd]
    · simp only [State.byteAt, State.noteAhead_cluMem]
  · rw [ea] at h
    unfold State.writeSt; rw [sa]
    obtain ⟨d | k, o'⟩ := p
    · rfl
    · by_cases hk : k.val = c.cluIx
      · have ho : o' ≠ o := fun e => h (by rw [e, show k = ⟨c.cluIx, cluIx_lt c⟩ from Fin.ext hk])
        simp only [State.byteAt, hk, Tab.get_put_same]
        exact Mem.read_write_other _ _ ho
      · simp only [State.byteAt, Tab.get_put_other _ _ _ hk]
  · rw [hw]

/-- What a core writes at a place stands there. -/
theorem State.byteAt_writeSt_same {s : State} (hm : s.memoryWf) {c : CoreId} {a : Int} (b : Byte) {p : StoreId × Nat} (h : byteOf c a = some p) :
    (s.writeSt c a b).byteAt p = b := by
  rcases byteOf_cases c a with ⟨o, sa, ea⟩ | ⟨o, sa, ea⟩ | ⟨ea, -, -⟩ <;> rw [ea] at h <;> cases h
  all_goals
    unfold State.writeSt
    rw [sa]
    simp only [State.byteAt, State.noteAhead_coreMem, Tab.get_put_same]
  · rw [Mem.read_write (hm.1 _), if_pos rfl]
  · rw [Mem.read_write (hm.2.1 _), if_pos rfl]

/-- A list of writes leaves every place that none of them names. -/
theorem State.byteAt_writeStAt_other (s : State) (c : CoreId) {l : List (Int × Byte)} {p : StoreId × Nat} (h : ∀ w ∈ l, byteOf c w.1 ≠ some p) :
    (s.writeStAt c l).byteAt p = s.byteAt p := by
  unfold State.writeStAt
  induction l generalizing s with
  | nil => rfl
  | cons w l ih =>
    obtain ⟨hw, hl⟩ := List.forall_mem_cons.1 h
    rw [List.foldl_cons, ih _ hl, State.byteAt_writeSt_other s c _ _ hw]

/-- Of the writes that name a place, the last stands. -/
theorem State.byteAt_writeStAt_last {s : State} (hm : s.memoryWf) {c : CoreId} {l : List (Int × Byte)} {p : StoreId × Nat} {w : Int × Byte}
    (h : (l.reverse.find? fun e => decide (byteOf c e.1 = some p)) = some w) : (s.writeStAt c l).byteAt p = w.2 := by
  unfold State.writeStAt
  induction l using List.reverseRecOn with
  | nil => simp at h
  | append_singleton l e ih =>
    rw [List.reverse_append, List.reverse_singleton, List.singleton_append, List.find?_cons] at h
    rw [List.foldl_append, List.foldl_cons, List.foldl_nil]
    by_cases he : byteOf c e.1 = some p
    · rw [decide_eq_true he] at h
      cases h
      exact State.byteAt_writeSt_same (State.memoryWf_writeStAt hm c l) _ he
    · rw [decide_eq_false he] at h
      rw [State.byteAt_writeSt_other _ _ _ _ he]
      exact ih h

/-- Where all the writes that name a place bring the same byte, and one does, that byte stands. -/
theorem State.byteAt_writeStAt_agree {s : State} (hm : s.memoryWf) {c : CoreId} {l : List (Int × Byte)} {p : StoreId × Nat} {w : Int × Byte}
    (hw : w ∈ l) (hp : byteOf c w.1 = some p) (hall : ∀ e ∈ l, byteOf c e.1 = some p → e.2 = w.2) : (s.writeStAt c l).byteAt p = w.2 := by
  obtain ⟨e, he⟩ : ∃ e, (l.reverse.find? fun e => decide (byteOf c e.1 = some p)) = some e :=
    Option.isSome_iff_exists.1 (List.find?_isSome.2 ⟨w, List.mem_reverse.2 hw, decide_eq_true hp⟩)
  rw [State.byteAt_writeStAt_last hm he]
  exact hall e (List.mem_reverse.1 (List.mem_of_find?_eq_some he)) (by simpa using List.find?_some he)

/-- Bytes laid down at different addresses all stand. -/
theorem State.readSt_writeStAt_zip {s : State} (hm : s.memoryWf) {c : CoreId} {as : List Int} {bs : List Byte} (hn : as.Nodup) {i : Nat} {a : Int} {b : Byte}
    (ha : as[i]? = some a) (hb : bs[i]? = some b) (hok : storeOk a = true) : (s.writeStAt c (as.zip bs)).readSt c a = b := by
  obtain ⟨p, hp⟩ := byteOf_of_storeOk c hok
  rw [State.readSt_of_byteOf _ hp]
  have hi : (as.zip bs)[i]? = some (a, b) := by rw [List.getElem?_zip_eq_some]; exact ⟨ha, hb⟩
  refine State.byteAt_writeStAt_agree hm (w := (a, b)) (List.mem_of_getElem? hi) hp fun e he hpe => ?_
  obtain ⟨j, hj⟩ := List.mem_iff_getElem?.1 he
  obtain ⟨hja, hjb⟩ := List.getElem?_zip_eq_some.1 hj
  have hij : i = j := by
    rw [byteOf_inj hpe hp] at hja
    exact (List.getElem?_inj (List.getElem?_eq_some_iff.1 ha).1 hn).1 (ha.trans hja.symm)
  subst hij
  rw [hb] at hjb
  exact (Option.some.inj hjb).symm

/-- Every byte that no address of a list names is as it was, where the places say so. -/
theorem State.storesKept_of_byteAt {s t : State} {c : CoreId} {as : List Int}
    (h : ∀ p, (∀ a ∈ as, byteOf c a ≠ some p) → t.byteAt p = s.byteAt p) : s.storesKept t c as := by
  intro d a hok hne
  obtain ⟨p, hp⟩ := byteOf_of_storeOk d hok
  rw [State.readSt_of_byteOf _ hp, State.readSt_of_byteOf _ hp]
  exact h p fun b hb => hp ▸ hne b hb

end Sys2Proof.Machine
end

section
/-! PROOF. What applying the effect of an engine command does to the state, without poison and outside assay mode (02, R53; 05, R117). -/

namespace Sys2Proof.Machine

/-! ### The effect of a command, outside assay mode -/

/-- Whether assay mode is on is a matter of the registers. -/
theorem State.assayEn_congr {s t : State} (h : t.regs = s.regs) (n : Nat) : t.assayEn n = s.assayEn n := by unfold State.assayEn cfg; rw [h]

theorem State.assayChk_off {s : State} {n : Nat} (h : s.assayEn n = false) (i : Nat) : s.assayChk n i = false := by simp [State.assayChk, h]
theorem State.setTags_off {s : State} {n : Nat} (h : s.assayEn n = false) (l : List Nat) (t : Nat) : s.setTags n l t = s := by simp [State.setTags, h]
theorem State.putTags_off {s : State} {n : Nat} (h : s.assayEn n = false) (l : List (Nat × Nat)) : s.putTags n l = s := by simp [State.putTags, h]
theorem State.handOn_off {s : State} {n : Nat} (h : s.assayEn n = false) (c : CoreId) (q : Nat) : s.handOn n c q = ([], s) := by simp [State.handOn, h]
theorem State.takeClock_off {s : State} {n : Nat} (h : s.assayEn n = false) (c : CoreId) (q key : Nat) : s.takeClock n c q key = s := by simp [State.takeClock, h]
theorem State.checkFormats_off {s : State} {n : Nat} (h : s.assayEn n = false) (c : CoreId) (q cmd : Nat) (e : Effect) : s.checkFormats n c q cmd e = s := by
  simp [State.checkFormats, State.assayChk_off h]
theorem State.assayCommand_off {s : State} {n : Nat} (h : s.assayEn n = false) (c : CoreId) (q : Nat) (x : QCmd) (e : Effect) : s.assayCommand n c q x e = s := by
  simp [State.assayCommand, h]

/-- Where the cores are as they were, so is each. -/
theorem State.core_congr {s t : State} (h : t.cores = s.cores) (c : CoreId) : t.core c = s.core c := by unfold State.core; rw [h]

/-! No word is poisoned (05, R117). -/

theorem State.poisonedAt_clean {s : State} (h : s.poison = []) (c : CoreId) (as : List Int) : s.poisonedAt c as = none := by simp [State.poisonedAt, h]
theorem State.partialPoison_clean {s : State} (h : s.poison = []) (c : CoreId) (as : List Int) : s.partialPoison c as = none := by simp [State.partialPoison, h]
theorem State.clearPoison_clean {s : State} (h : s.poison = []) (c : CoreId) (as : List Int) : s.clearPoison c as = s := by simp [State.clearPoison, h]
theorem State.checkCommand_clean {s : State} {n : Nat} (h : s.poison = []) (ha : s.assayEn n = false) (c : CoreId) (q : Nat) (x : QCmd) (e : Effect) :
    s.checkCommand n c q x e = s := by simp [State.checkCommand, State.poisonedAt_clean h, State.partialPoison_clean h, State.assayCommand_off ha]

/-- From `s` to `t` a core has written bytes of its stores: of the cores, only what its sequencer had read ahead may have changed. -/
structure State.Writes (s t : State) (c : CoreId) : Prop where
  frame : t = { s with cores := t.cores, coreMem := t.coreMem, cluMem := t.cluMem, fresh := t.fresh }
  core : t.core c = { s.core c with ahead := (t.core c).ahead }
  others : s.otherCores t c

theorem State.Writes.refl (s : State) (c : CoreId) : s.Writes s c := ⟨rfl, rfl, fun _ _ => rfl⟩

theorem State.Writes.trans {s t u : State} {c : CoreId} (h : s.Writes t c) (k : t.Writes u c) : s.Writes u c :=
  ⟨by rw [k.frame, h.frame], by rw [k.core, h.core], fun d hd => (k.others d hd).trans (h.others d hd)⟩

theorem State.noteAhead_writes (s : State) (c : CoreId) (o : Nat) : s.Writes (s.noteAhead c o) c := by
  unfold State.noteAhead
  dsimp only
  split
  · refine ⟨rfl, ?_, fun d hd => State.core_setCore_other _ _ hd⟩
    rw [State.core_setCore_same]
  · exact .refl s c

theorem State.writeSt_writes (s : State) (c : CoreId) (a : Int) (b : Byte) : s.Writes (s.writeSt c a b) c := by
  unfold State.writeSt
  split
  · exact (State.noteAhead_writes s c _).trans ⟨rfl, rfl, fun _ _ => rfl⟩
  · exact ⟨rfl, rfl, fun _ _ => rfl⟩
  · exact .refl s c

theorem State.writeStAt_writes (s : State) (c : CoreId) (l : List (Int × Byte)) : s.Writes (s.writeStAt c l) c := by
  unfold State.writeStAt
  induction l generalizing s with
  | nil => exact .refl s c
  | cons w l ih => exact (State.writeSt_writes s c w.1 w.2).trans (ih _)

/-- Events counted for a command change the counters alone. -/
theorem State.countAll_frame (s : State) (c : CoreId) (n : Nat) (l : List (Ev × Nat)) :
    ∃ ev cs, l.foldl (fun s p => if p.2 = 0 then s else s.countN p.1 (.core c) (some n) p.2) s = { s with events := ev, counts := cs } := by
  induction l generalizing s with
  | nil => exact ⟨_, _, rfl⟩
  | cons p l ih =>
    rw [List.foldl_cons]
    split
    · exact ih s
    · obtain ⟨ev, cs, h⟩ := ih (s.countN p.1 (.core c) (some n) p.2)
      exact ⟨ev, cs, h⟩

/-- From `s` to `t` an effect has been applied to a core: its bytes are written, its banks and scalars set and its flags raised. -/
structure State.Applies (s t : State) (c : CoreId) (e : Effect) : Prop where
  frame : t = { s with cores := t.cores, coreMem := t.coreMem, cluMem := t.cluMem, events := t.events, counts := t.counts, fresh := t.fresh }
  core : t.core c = { s.core c with
    ahead := (t.core c).ahead, headBanks := (t.core c).headBanks, spread := (t.core c).spread
    banks := e.banks.foldl (fun m b => Tab.put m b.1 b.2) (s.core c).banks
    fpstat := (s.core c).fpstat ||| e.fp
    sc := e.sc.foldl (fun m b => Tab.put m b.1 b.2) (s.core c).sc }
  others : s.otherCores t c
  bytes : ∀ p, t.byteAt p = (s.writeStAt c e.writes).byteAt p

/-- The banks, scalars and flags of a core after an effect. -/
def Core.takes (k : Core) (gen : Nat) (e : Effect) : Core :=
  { k with
    banks := e.banks.foldl (fun m b => Tab.put m b.1 b.2) k.banks
    headBanks := if gen = k.gen then e.banks.map (·.1) ++ k.headBanks else k.headBanks
    fpstat := k.fpstat ||| e.fp
    sc := e.sc.foldl (fun m b => Tab.put m b.1 b.2) k.sc
    spread := e.spread.foldl (fun m t => if m.contains t then m else m ++ [t]) k.spread }

/-- With no poison and outside assay mode an effect writes its bytes, sets its core's registers and is counted. -/
theorem State.applyEffect_eq {s : State} {n : Nat} (hp : s.poison = []) (ha : s.assayEn n = false) (c : CoreId) (gen : Nat) (e : Effect) :
    ∃ ev cs, s.applyEffect n c gen e = { (s.writeStAt c e.writes).updCore c (·.takes gen e) with events := ev, counts := cs } := by
  have hw := (State.writeStAt_writes s c e.writes).frame
  have hpoison : (s.writeStAt c e.writes).poison = [] := by rw [hw]; exact hp
  have hregs : ((s.writeStAt c e.writes).updCore c (·.takes gen e)).regs = s.regs := by rw [State.updCore_regs, hw]
  have tags (l : List (Nat × List Int)) {t : State} (ht : t.assayEn n = false) :
      l.foldl (fun s (p : Nat × List Int) => s.setTags n (dedup (p.2.filterMap (granuleKey c))) p.1) t = t := by
    induction l with
    | nil => rfl
    | cons p l ih => rw [List.foldl_cons, State.setTags_off ht, ih]
  obtain ⟨ev, cs, hcount⟩ := State.countAll_frame ((s.writeStAt c e.writes).updCore c (·.takes gen e)) c n e.counts
  have hoff : ({ (s.writeStAt c e.writes).updCore c (·.takes gen e) with events := ev, counts := cs } : State).assayEn n = false :=
    (State.assayEn_congr hregs n).trans ha
  refine ⟨ev, cs, ?_⟩
  unfold State.applyEffect
  dsimp only
  rw [State.clearPoison_clean hpoison]
  -- the update of the core that `applyEffect` writes out is `Core.takes`
  erw [hcount]
  rw [State.setTags_off hoff, tags _ hoff, State.putTags_off hoff]

/-- Applying an effect does that and nothing else. -/
theorem State.applyEffect_applies {s : State} {n : Nat} (hp : s.poison = []) (ha : s.assayEn n = false) (c : CoreId) (gen : Nat) (e : Effect) :
    s.Applies (s.applyEffect n c gen e) c e := by
  obtain ⟨ev, cs, heq⟩ := State.applyEffect_eq hp ha c gen e
  have hw := State.writeStAt_writes s c e.writes
  have hcore (d : CoreId) : (s.applyEffect n c gen e).core d = ((s.writeStAt c e.writes).updCore c (·.takes gen e)).core d :=
    State.core_congr (by rw [heq]) d
  refine ⟨?_, ?_, fun d hd => (hcore d).trans ((State.core_updCore_other _ _ hd).trans (hw.others d hd)), State.byteAt_congr (by rw [heq]; rfl) (by rw [heq]; rfl)⟩
  · rw [heq, hw.frame]; rfl
  · rw [hcore, State.core_updCore_same, hw.core]; rfl

end Sys2Proof.Machine
end

section
/-! PROOF. What the steps of the passes in the cubes touch, up to the present cycle (02, R42, R43, R53, R61; log 73). -/

namespace Sys2Proof.Machine

/-! ### The steps of passes on one core -/

/-- No vector command that runs owes its effect (02, R53). -/
def Core.owesNothing (k : Core) : Prop := ∀ r, Tab.find k.run 4 = some r → r.owed = false

/-- From `k` to `l` a core differs in what steps of passes, and the reads of sets by its vector command, move. -/
structure Core.Steps (k l : Core) : Prop where
  frame : l = { k with accs := l.accs, wpend := l.wpend, rpend := l.rpend, run := l.run, stalls := l.stalls, lampWait := l.lampWait, lost := l.lost,
                       retryItems := l.retryItems, refreshItems := l.refreshItems }
  owes : k.owesNothing → l.owesNothing

theorem Core.Steps.refl (k : Core) : k.Steps k := ⟨rfl, id⟩
theorem Core.Steps.trans {k l m : Core} (h : k.Steps l) (g : l.Steps m) : k.Steps m := ⟨by rw [g.frame, h.frame], fun o => g.owes (h.owes o)⟩

theorem Core.addLost_steps (k : Core) (a b : Nat) : k.Steps (k.addLost a b) := by
  unfold Core.addLost
  split
  · exact .refl k
  · exact ⟨rfl, id⟩
theorem Core.beginWait_steps (k : Core) (a b : Nat) : k.Steps (k.beginWait a b) := by
  unfold Core.beginWait
  split
  · exact .refl k
  · exact ⟨rfl, id⟩
theorem Core.endWait_steps (k : Core) (a b t : Nat) : k.Steps (k.endWait a b t) := by
  obtain ⟨l, m, h⟩ := k.endWait_frame a b t
  rw [h]
  exact ⟨rfl, id⟩
theorem Core.endStall_steps (k : Core) (a t : Nat) : k.Steps (k.endStall a t) := by
  obtain ⟨l, m, h⟩ := k.endStall_frame a t
  rw [h]
  exact ⟨rfl, id⟩
theorem Core.beginStall_steps (k : Core) (q : Nat) (x : Stall) : k.Steps (k.beginStall q x) := by
  unfold Core.beginStall
  split
  · split
    · exact .refl k
    · exact (k.endStall_steps q x.since).trans ⟨rfl, id⟩
  · exact ⟨rfl, id⟩

/-- A unit other than the vector engine runs something else. -/
theorem Core.putRun_steps (k : Core) {u : Nat} (r : Running) (hu : u ≠ 4) : k.Steps { k with run := Tab.put k.run u r } :=
  ⟨rfl, fun o r' h => o r' (by rwa [Tab.find_put_other _ _ (Ne.symm hu)] at h)⟩

/-- The vector engine's command goes on, and owes what it owed. -/
theorem Core.putVector_steps (k : Core) {r r' : Running} (h : Tab.find k.run 4 = some r) (ho : r'.owed = r.owed) : k.Steps { k with run := Tab.put k.run 4 r' } := by
  refine ⟨rfl, fun o y hy => ?_⟩
  rw [Tab.find_put_same] at hy
  cases hy
  exact ho.trans (o r h)

theorem Core.readsDone_steps (k : Core) (now : Nat) : k.Steps (k.readsDone now) := by
  unfold Core.readsDone
  split
  · rename_i r hr
    dsimp only
    split
    · exact .refl k
    · generalize dropSets k.rpend _ = rp
      exact Core.Steps.trans (l := { k with rpend := rp }) ⟨rfl, id⟩ (Core.putVector_steps { k with rpend := rp } hr rfl)
  · exact .refl k

/-! ### The steps of passes on the module -/

/-- No word is poisoned, and no partition is in assay mode. -/
def State.calm (s : State) : Prop := s.poison = [] ∧ ∀ n, s.assayEn n = false

/-- From `s` to `t` only what a core's steps move has changed, on any core. -/
def State.OnlySteps (s t : State) : Prop := t = { s with cores := t.cores } ∧ ∀ c, (s.core c).Steps (t.core c)

/-- From `s` to `t` steps of passes have been taken, and vector commands that owed their effect may have had it. -/
structure State.Steps (s t : State) : Prop where
  frame : t = { s with cores := t.cores, coreMem := t.coreMem, cluMem := t.cluMem, events := t.events, counts := t.counts, fresh := t.fresh }
  core : ∀ c, t.core c = { s.core c with
    ahead := (t.core c).ahead, banks := (t.core c).banks, headBanks := (t.core c).headBanks, fpstat := (t.core c).fpstat, sc := (t.core c).sc, spread := (t.core c).spread
    accs := (t.core c).accs, wpend := (t.core c).wpend, rpend := (t.core c).rpend, run := (t.core c).run, stalls := (t.core c).stalls, lampWait := (t.core c).lampWait
    lost := (t.core c).lost, retryItems := (t.core c).retryItems, refreshItems := (t.core c).refreshItems }
  only : (∀ c, (s.core c).owesNothing) → s.OnlySteps t

theorem State.OnlySteps.refl (s : State) : s.OnlySteps s := ⟨rfl, fun _ => .refl _⟩
theorem State.OnlySteps.trans {s t u : State} (h : s.OnlySteps t) (k : t.OnlySteps u) : s.OnlySteps u :=
  ⟨by rw [k.1, h.1], fun c => (h.2 c).trans (k.2 c)⟩
theorem State.OnlySteps.steps {s t : State} (h : s.OnlySteps t) : s.Steps t :=
  ⟨by rw [h.1], fun c => by rw [(h.2 c).frame], fun _ => h⟩

theorem State.Steps.refl (s : State) : s.Steps s := (State.OnlySteps.refl s).steps
theorem State.Steps.trans {s t u : State} (h : s.Steps t) (k : t.Steps u) : s.Steps u where
  frame := by rw [k.frame, h.frame]
  core c := by rw [k.core, h.core]
  only o := (h.only o).trans (k.only fun c => ((h.only o).2 c).owes (o c))
theorem State.Steps.calm {s t : State} (h : s.Steps t) (k : s.calm) : t.calm :=
  ⟨by rw [h.frame]; exact k.1, fun n => (State.assayEn_congr (by rw [h.frame]) n).trans (k.2 n)⟩

/-- One core takes steps. -/
theorem State.setCore_onlySteps {s : State} {c : CoreId} {k : Core} (h : (s.core c).Steps k) : s.OnlySteps (s.setCore c k) := by
  refine ⟨rfl, fun d => ?_⟩
  by_cases hd : d.ix = c.ix
  · rw [coreIx_inj hd, State.core_setCore_same]; exact h
  · rw [State.core_setCore_other _ _ hd]; exact .refl _
theorem State.updCore_onlySteps {s : State} {c : CoreId} {f : Core → Core} (h : (s.core c).Steps (f (s.core c))) : s.OnlySteps (s.updCore c f) := State.setCore_onlySteps h

/-- Results enter their sets (02, R42, R53). -/
theorem State.writeSet_steps {s : State} (h : s.calm) (n : Nat) (c : CoreId) (k : Nat) (p : PassRun) : s.OnlySteps (s.writeSet n c k p).1 := by
  unfold State.writeSet
  split
  · dsimp only
    rw [State.checkFormats_off (h.2 n), ite_self]
    generalize hv : s.updCore c _ = v
    have hs : s.OnlySteps v := by rw [← hv]; exact State.updCore_onlySteps ⟨rfl, id⟩
    have hoff := (hs.steps.calm h).2 n
    rw [State.setTags_off hoff, State.wroteSetClock, hoff]
    exact hs
  · exact .refl s

theorem State.writeSets_steps {s : State} (h : s.calm) (n : Nat) (c : CoreId) (k : Nat) (ps : List PassRun) : s.OnlySteps (s.writeSets n c k ps).1 := by
  induction ps generalizing s with
  | nil => exact .refl s
  | cons p ps ih =>
    have hp := State.writeSet_steps h n c k p
    exact hp.trans (ih (hp.steps.calm h))

/-- What a read of the next set leaves of a running vector command (02, R53). -/
theorem Core.readNext_keeps {k : Core} {at_ : Nat} {r r' : Running} {w : Nat} (h : k.readNext at_ r = some (r', w)) :
    r' = { r with reads := r'.reads, readAt := r'.readAt, cycles := r.cycles + (Nat.max r.readAt at_ - r.readAt), got := r'.got } ∧
      r'.readAt = Nat.max r.readAt at_ + 2 ∧ w = Nat.max r.readAt at_ - r.readAt := by
  unfold Core.readNext at h
  split at h
  · split at h
    · cases h
    · cases h; exact ⟨rfl, rfl, rfl⟩
  · cases h

theorem State.takeReads_steps (s : State) (c : CoreId) (at_ fuel : Nat) : s.OnlySteps (s.takeReads c at_ fuel) := by
  induction fuel generalizing s with
  | zero => exact .refl s
  | succ fuel ih =>
    unfold State.takeReads
    split
    · rename_i r hr
      split
      · rename_i r' w hw
        have ho : r'.owed = r.owed := by rw [(Core.readNext_keeps hw).1]
        exact (State.updCore_onlySteps (((s.core c).putVector_steps hr ho).trans (Core.addLost_steps _ _ _))).trans (ih _)
      · exact .refl s
    · exact .refl s

/-- A vector command that owes its effect has it once its sets are read; where none owes one, nothing happens (02, R53; log 26). -/
theorem State.settle_steps {s : State} (h : s.calm) (n : Nat) (c : CoreId) : s.Steps (s.settle n c) := by
  unfold State.settle
  split
  · rename_i r hr
    split
    · rename_i hcond
      dsimp only
      generalize State.vectorEffect _ c r.q = e
      generalize hv : s.updCore c _ = v
      have hcore (d : CoreId) : v.core d = { s.core d with run := (v.core d).run } := by
        rw [← hv]
        by_cases hd : d.ix = c.ix
        · rw [coreIx_inj hd, State.core_updCore_same]
        · rw [State.core_updCore_other _ _ hd]
      have hcalm : v.calm := by rw [← hv]; exact h
      have hframe : v = { s with cores := v.cores } := by rw [← hv]; rfl
      rw [State.checkCommand_clean hcalm.1 (hcalm.2 n), ite_self]
      have only (o : ∀ c, (s.core c).owesNothing) : False := by rw [o c r hr] at hcond; simp at hcond
      split
      · have ha := State.applyEffect_applies hcalm.1 (hcalm.2 n) c r.q.gen e
        refine ⟨by rw [ha.frame, hframe], fun d => ?_, fun o => (only o).elim⟩
        by_cases hd : d.ix = c.ix
        · rw [coreIx_inj hd, ha.core, hcore]
        · rw [ha.others d hd, hcore]
      · exact ⟨by rw [hframe], fun d => by rw [hcore], fun o => (only o).elim⟩
    · exact .refl s
  · exact .refl s

theorem State.freeze_steps (s : State) (n : Nat) (c : CoreId) {u : Nat} (r : Running) (hu : u ≠ 4) : s.OnlySteps (s.freeze n c u r) :=
  State.updCore_onlySteps (Core.putRun_steps _ _ hu)

theorem State.assayLine_off {s : State} {n : Nat} (h : s.assayEn n = false) (c : CoreId) (x : QCmd) (l : Nat) : s.assayLine n c x l = s := by simp [State.assayLine, h]

/-- One step of a chain reads its lines and moves its engine (02, R42). -/
theorem State.oneStep_steps {s : State} (h : s.calm) (n : Nat) (c : CoreId) {eng : Nat} (r : Running) (at_ : Nat) (he : 2 * eng ≠ 4) :
    s.OnlySteps (s.oneStep n c eng r at_).1 := by
  have hline : s.poisonedLine c r = none := by
    unfold State.poisonedLine
    refine List.findSome?_eq_none_iff.2 fun p _ => ?_
    dsimp only
    rw [State.poisonedAt_clean h.1]
    simp
  have hassay (l : List PassRun) : l.foldl (fun s p => if r.step - p.start < p.q.cmd.lines then s.assayLine n c p.q (r.step - p.start) else s) s = s := by
    induction l with
    | nil => rfl
    | cons p l ih => rw [List.foldl_cons, State.assayLine_off (h.2 n), ite_self, ih]
  unfold State.oneStep
  rw [hline]
  dsimp only
  rw [hassay, ite_self]
  exact State.updCore_onlySteps (((Core.endStall_steps _ _ _).trans (Core.endWait_steps _ _ _ _)).trans (Core.putRun_steps _ _ he))

theorem State.runSteps_steps {s : State} (h : s.calm) (n : Nat) (c : CoreId) {eng : Nat} (fuel : Nat) (he : 2 * eng ≠ 4) : s.Steps (s.runSteps n c eng fuel) := by
  induction fuel generalizing s with
  | zero => exact .refl s
  | succ fuel ih =>
    unfold State.runSteps
    split
    · exact .refl s
    · rename_i r hr
      split
      · exact .refl s
      · have h1 := (State.writeSets_steps h n c r.step r.passes).steps
        generalize s.writeSets n c r.step r.passes = w at h1
        obtain ⟨v, ps⟩ := w
        dsimp only at h1 ⊢
        have h2 : s.Steps (v.updCore c fun k => { k with run := Tab.put k.run (2 * eng) { r with passes := ps } }) :=
          h1.trans (State.updCore_onlySteps (Core.putRun_steps _ _ he)).steps
        generalize v.updCore c _ = v2 at h2
        have h3 : s.Steps (v2.takeReads c r.stepAt 128) := h2.trans (State.takeReads_steps v2 c r.stepAt 128).steps
        have h4 : s.Steps ((v2.takeReads c r.stepAt 128).settle n c) := h3.trans (State.settle_steps (h3.calm h) n c)
        generalize (v2.takeReads c r.stepAt 128).settle n c = v4 at h4
        split
        · exact h4
        · split
          · exact h4.trans ((State.updCore_onlySteps (Core.beginStall_steps _ _ _)).trans (State.freeze_steps _ n c _ he)).steps
          · exact h4.trans (State.updCore_onlySteps (Core.beginWait_steps _ _ _)).steps
          · rename_i cyc _
            split
            · exact h4
            · have h5 := h4.trans (State.oneStep_steps (h4.calm h) n c { r with passes := ps } (Nat.max r.stepAt cyc) he).steps
              split
              · exact h5.trans (ih (h5.calm h))
              · exact h5

theorem State.catchUpCore_steps {s : State} (h : s.calm) (c : CoreId) : s.Steps (s.catchUpCore c) := by
  have turns (n : Nat) (l : List Nat) (hl : ∀ e ∈ l, 2 * e ≠ 4) : s.Steps (l.foldl (fun (s : State) eng => s.runSteps n c eng 80) s) := by
    induction l using List.reverseRecOn with
    | nil => exact .refl s
    | append_singleton l e ih =>
      rw [List.foldl_append, List.foldl_cons, List.foldl_nil]
      have hl' := ih fun x hx => hl x (List.mem_append_left _ hx)
      exact hl'.trans (State.runSteps_steps (hl'.calm h) n c 80 (hl e (by simp)))
  unfold State.catchUpCore
  split
  · split
    · exact (turns _ [0, 1, 0, 1] (by decide)).trans (State.setCore_onlySteps (Core.readsDone_steps _ _)).steps
    · exact .refl s
  · exact .refl s

/-- All passes of the module go on to the present cycle. -/
theorem State.catchUp_steps {s : State} (h : s.calm) : s.Steps s.catchUp := by
  unfold State.catchUp
  generalize s.cores.filter _ = l
  induction l generalizing s with
  | nil => exact .refl s
  | cons e l ih =>
    have he := State.catchUpCore_steps h (coreOfIx e.1)
    exact he.trans (ih (he.calm h))

end Sys2Proof.Machine
end

section
/-! PROOF. How the head of an engine queue starts: the lamps it draws, the queue it leaves and the unit on which it runs (02, R53; 04, R87, R88;
07, R164-R169). -/

namespace Sys2Proof.Machine

/-- Where the partitions are as they were, so is each. -/
theorem State.part_congr {s t : State} (h : t.parts = s.parts) (n : Nat) : t.part n = s.part n := by unfold State.part; rw [h]

/-! ### Lamps drawn and the rotation (07, R164, R168, R169) -/

/-- From `s` to `t` a core has drawn lamps: of its partition only the holding and the turn have changed, of the core only what it holds and keeps. -/
structure State.Draws (s t : State) (n : Nat) (c : CoreId) (cost : Nat) : Prop where
  frame : t = { s with parts := t.parts, cores := t.cores, lampRoom := t.lampRoom }
  part : t.part n = { s.part n with lampHeld := (t.part n).lampHeld, lampHist := (t.part n).lampHist, lampTurn := (t.part n).lampTurn }
  otherParts : s.otherParts t n
  core : t.core c = { s.core c with held := (s.core c).held + cost, kept := (t.core c).kept }
  otherCores : s.otherCores t c

theorem State.drawView_eq (s : State) (n : Nat) (c : CoreId) (u : Nat) : ∃ h, s.drawView n c u = { s.part n with lampHist := h } := by
  unfold State.drawView Part.keepLamps
  dsimp only
  split
  · split
    · exact ⟨_, rfl⟩
    · exact ⟨_, rfl⟩
  · exact ⟨_, rfl⟩

theorem State.drawLamps_draws (s : State) (n : Nat) (c : CoreId) (u cost : Nat) : s.Draws (s.drawLamps n c u cost) n c cost := by
  obtain ⟨h, hv⟩ := s.drawView_eq n c u
  unfold State.drawLamps
  dsimp only
  rw [hv]
  refine ⟨rfl, ?_, fun m hm => ?_, ?_, fun d hd => State.core_updCore_other _ _ hd⟩
  · simp [State.part, State.updCore, State.setCore, State.updPart, State.setPart, Tab.get_put_same, Part.setHeld]
  · simp [State.part, State.updCore, State.setCore, State.updPart, State.setPart, Tab.get_put_other _ _ _ hm]
  · rw [State.core_updCore_same]; rfl

theorem State.Draws.turnOn {s t : State} {n : Nat} {c : CoreId} {cost : Nat} (h : s.Draws t n c cost) : s.Draws (t.turnOn n c) n c cost where
  frame := by rw [h.frame]; rfl
  part := by unfold State.turnOn; rw [State.part_updPart_same, h.part]
  otherParts m hm := (State.part_updPart_other t _ hm).trans (h.otherParts m hm)
  core := h.core
  otherCores := h.otherCores

/-! ### A command begins -/

/-- The reads of a vector command that has just begun wait for nothing behind their own cycles: its length stays (02, R53, R54). -/
theorem State.takeReads_vector (s : State) (c : CoreId) (at_ fuel : Nat) {r : Running} (hr : Tab.find (s.core c).run 4 = some r) (hat : at_ ≤ r.readAt) :
    s.takeReads c at_ fuel = { s with cores := (s.takeReads c at_ fuel).cores } ∧ s.otherCores (s.takeReads c at_ fuel) c ∧
      (s.takeReads c at_ fuel).core c = { s.core c with run := ((s.takeReads c at_ fuel).core c).run, lost := ((s.takeReads c at_ fuel).core c).lost } ∧
      ∃ r', Tab.find ((s.takeReads c at_ fuel).core c).run 4 = some r' ∧ r'.q = r.q ∧ r'.lamps = r.lamps ∧ r'.startCyc = r.startCyc ∧ r'.cycles = r.cycles := by
  induction fuel generalizing s r with
  | zero => exact ⟨rfl, fun _ _ => rfl, rfl, r, hr, rfl, rfl, rfl, rfl⟩
  | succ fuel ih =>
    unfold State.takeReads
    rw [hr]
    dsimp only
    split
    · rename_i r' w hw
      obtain ⟨hframe, hread, -⟩ := Core.readNext_keeps hw
      have hmax : Nat.max r.readAt at_ = r.readAt := Nat.max_eq_left hat
      rw [hmax] at hread hframe
      have hcycles : r'.cycles = r.cycles := by rw [hframe]; simp
      have hk : ∃ l, (({ s.core c with run := Tab.put (s.core c).run 4 r' } : Core).addLost 7 (1000000 * w / opMHz s.op.cur)) =
          { s.core c with run := Tab.put (s.core c).run 4 r', lost := l } := by
        unfold Core.addLost; split <;> exact ⟨_, rfl⟩
      obtain ⟨l, hl⟩ := hk
      generalize hv : s.updCore c _ = v
      have hcore : v.core c = { s.core c with run := Tab.put (s.core c).run 4 r', lost := l } := by rw [← hv, State.core_updCore_same, hl]
      have hfr : v = { s with cores := v.cores } := by rw [← hv]; rfl
      have hoth : s.otherCores v c := fun d hd => by rw [← hv]; exact State.core_updCore_other _ _ hd
      obtain ⟨g1, g2, g3, r2, g4, g5, g6, g7, g8⟩ := ih v (r := r') (by rw [hcore, Tab.find_put_same]) (by omega)
      refine ⟨by rw [g1, hfr], fun d hd => (g2 d hd).trans (hoth d hd), by rw [g3, hcore], r2, g4, ?_, ?_, ?_, g8.trans hcycles⟩
      · rw [g5, hframe]
      · rw [g6, hframe]
      · rw [g7, hframe]
    · exact ⟨rfl, fun _ _ => rfl, rfl, r, hr, rfl, rfl, rfl, rfl⟩

/-- From `s` to `t` the head `x` of a queue has left it and runs on its unit, with its lamps. -/
structure State.Begins (s t : State) (n : Nat) (c : CoreId) (q : Nat) (x : QCmd) (e : Effect) : Prop where
  frame : t = { s with parts := t.parts, cores := t.cores, lampRoom := t.lampRoom }
  part : t.part n = { s.part n with lampHeld := (t.part n).lampHeld, lampHist := (t.part n).lampHist, lampTurn := (t.part n).lampTurn }
  otherParts : s.otherParts t n
  core : t.core c = { s.core c with
    queues := Tab.put (s.core c).queues q (((s.core c).queue q).drop 1), held := (s.core c).held + x.cmd.lamps
    run := (t.core c).run, kept := (t.core c).kept, stalls := (t.core c).stalls, lampWait := (t.core c).lampWait, lost := (t.core c).lost }
  otherCores : s.otherCores t c
  runs : ∃ r, Tab.find (t.core c).run x.cmd.unit = some r ∧ r.q = x ∧ r.lamps = x.cmd.lamps ∧ r.startCyc = s.cycles c ∧ r.cycles = e.cycles

/-- The head of a queue that starts ends what it waited for. -/
theorem Core.leaves_eq (k : Core) (q t : Nat) : ∃ st lw lo, ((((k.endWait q 5 t).endWait (5 + q) 7 t).endFull q).endStall q t).pop q =
    { k with queues := Tab.put k.queues q ((k.queue q).drop 1), stalls := st, lampWait := lw, lost := lo } := by
  obtain ⟨l1, m1, e1⟩ := k.endWait_frame q 5 t
  obtain ⟨l2, m2, e2⟩ := (k.endWait q 5 t).endWait_frame (5 + q) 7 t
  obtain ⟨l3, m3, e3⟩ := (((k.endWait q 5 t).endWait (5 + q) 7 t).endFull q).endStall_frame q t
  rw [e3, e2, e1]
  exact ⟨_, _, _, rfl⟩

theorem State.begin_begins {s : State} {n : Nat} {c : CoreId} {x : QCmd} (q : Nat) (e : Effect) (hr : Tab.find (s.core c).run x.cmd.unit = none) :
    s.Begins (s.begin n c q x e) n c q x e := by
  unfold State.begin
  dsimp only
  rw [hr]
  dsimp only [Option.isSome_none]
  rw [if_neg Bool.false_ne_true]
  generalize hrun : ({ q := x, lamps := x.cmd.lamps, .. } : Running) = r
  have hd : ∀ v, v = (if x.cmd.lamps ≤ s.keptBy c x.cmd.unit then s.drawLamps n c x.cmd.unit x.cmd.lamps
      else (s.drawLamps n c x.cmd.unit x.cmd.lamps).turnOn n c) → s.Draws v n c x.cmd.lamps := by
    intro v hv
    rw [hv]
    split
    · exact s.drawLamps_draws n c _ _
    · exact (s.drawLamps_draws n c _ _).turnOn
  generalize hv : (if x.cmd.lamps ≤ s.keptBy c x.cmd.unit then _ else _ : State) = v
  have hd := hd v hv.symm
  clear hv
  obtain ⟨st, lw, lo, hk⟩ := (v.core c).leaves_eq q s.now
  generalize hw : v.updCore c _ = w
  have hcore : w.core c = { v.core c with queues := Tab.put (v.core c).queues q (((v.core c).queue q).drop 1), stalls := st, lampWait := lw, lost := lo
                                          run := Tab.put (v.core c).run x.cmd.unit r } := by
    rw [← hw, State.core_updCore_same, hk]
  have hframe : w = { v with cores := w.cores } := by rw [← hw]; rfl
  have hother : v.otherCores w c := fun d hd' => by rw [← hw]; exact State.core_updCore_other _ _ hd'
  have hb : s.Begins w n c q x e := by
    refine ⟨by rw [hframe, hd.frame], ?_, fun m hm => ?_, ?_, fun d hd' => (hother d hd').trans (hd.otherCores d hd'), r, ?_, ?_⟩
    · rw [State.part_congr (s := v) (by rw [hframe]), hd.part]
    · rw [State.part_congr (s := v) (by rw [hframe]), hd.otherParts m hm]
    · rw [hcore, hd.core]; rfl
    · rw [hcore, Tab.find_put_same]
    · rw [← hrun]; exact ⟨rfl, rfl, rfl, rfl⟩
  split
  · rename_i hu
    have hfind : Tab.find (w.core c).run 4 = some r := by rw [hcore, hu, Tab.find_put_same]
    obtain ⟨g1, g2, g3, r', g4, g5, g6, g7, g8⟩ := w.takeReads_vector c (s.cycles c) 128 hfind (by rw [← hrun])
    have hpart (m : Nat) : (w.takeReads c (s.cycles c) 128).part m = w.part m := State.part_congr (by rw [g1]) m
    refine ⟨by rw [g1, hb.frame], by rw [hpart, hb.part], fun m hm => (hpart m).trans (hb.otherParts m hm), by rw [g3, hb.core],
      fun d hd' => (g2 d hd').trans (hb.otherCores d hd'), r', by rw [hu]; exact g4, ?_⟩
    rw [g5, g6, g7, g8, ← hrun]
    exact ⟨rfl, rfl, rfl, rfl⟩
  · exact hb

end Sys2Proof.Machine
end

section
/-! PROOF. ENGINE_COMMAND_START (04, R87, R88, R104-R107; 07, R164): a head that may start acts and begins, a SEND without its credit stalls, and a WAIT takes from
its flag. -/

namespace Sys2Proof.Machine

/-! ### A head that may start -/

/-- Where the partition of a core runs, the row has the head of the queue try to start, after the passes. -/
theorem exec_engineCommandStart_run {s : State} {c : CoreId} {n : Nat} {q : Queue} (ecc : List EccAt) (hn : s.catchUp.partOf c = some n)
    (hr : (s.catchUp.part n).st = .run) (hq : q ≠ .seq) : exec (.engineCommandStart c q ecc) s = .next (s.catchUp.startHead n c q.code ecc) := by
  simp [exec, execEngineCommandStart, hn, State.detects, hr, hq]

section
variable {u : State} {c : CoreId} {n : Nat} {q : Queue} {x : QCmd} {rest : List QCmd} {ecc : List EccAt}

theorem State.starts.runs (h : u.starts c n q x rest) : u.partOf c = some n ∧ (u.part n).st = .run ∧ q ≠ .seq := by
  obtain ⟨⟨hn, hr, hq, -⟩, -⟩ := h
  exact ⟨hn, hr, hq⟩
theorem State.starts.queue_eq (h : u.starts c n q x rest) : (u.core c).queue q.code = x :: rest := by
  obtain ⟨⟨-, -, -, hq, -⟩, -⟩ := h
  exact hq
theorem State.starts.unit_free (h : u.starts c n q x rest) : Tab.find (u.core c).run x.cmd.unit = none := by
  obtain ⟨⟨-, -, -, -, -, -, -, hu, -⟩, -⟩ := h
  exact hu
theorem State.starts.noCause (h : u.starts c n q x rest) : u.startCause n c x (u.effectOf c x) = none := by
  obtain ⟨⟨-, -, -, -, -, -, -, -, -, -, hc, -⟩, -⟩ := h
  exact hc
theorem State.starts.poison (h : u.starts c n q x rest) : u.poison = [] := by
  obtain ⟨⟨-, -, -, -, -, -, -, -, -, -, -, -, -, -, -, -, -, -, hp⟩, -⟩ := h
  exact hp

/-- An engine command at the head whose unit is free starts as `State.startEngine` says. -/
theorem State.starts.startHead_eq (h : u.starts c n q x rest) (ecc : List EccAt) : u.startHead n c q.code ecc = u.startEngine n c q.code x ecc := by
  obtain ⟨⟨-, -, -, hqueue, h31, h38, h39, hunit, -⟩, -⟩ := h
  unfold State.startHead
  simp [hqueue, h31, h38, h39, hunit]

theorem State.starts.exec_eq (h : u.starts c n q x rest) {s : State} (hu : u = s.catchUp) (ecc : List EccAt) :
    exec (.engineCommandStart c q ecc) s = .next (u.startEngine n c q.code x ecc) := by
  obtain ⟨hn, hr, hq⟩ := h.runs
  rw [← h.startHead_eq ecc, hu]
  rw [hu] at hn hr
  exact exec_engineCommandStart_run ecc hn hr hq

/-- The conditions of a start all hold: what is left to a SEND is its turn, and then the command acts and begins. -/
theorem State.starts.startEngine_eq (h : u.starts c n q x rest) (hc : cleanReads ecc) :
    (∀ t0 t, u.sendTurn n c x (u.effectOf c x) = .done t0 → u.act n c x (u.effectOf c x) = .done t →
      u.startEngine n c q.code x ecc = t.begin n c q.code x (u.effectOf c x)) ∧
    (∀ limit item need kind, u.sendTurn n c x (u.effectOf c x) = .stall limit item need kind →
      u.startEngine n c q.code x ecc = u.stallHead c q.code limit item need kind) := by
  obtain ⟨⟨-, hrun, -, -, -, -, -, hunit, hgrant, hstencil, hcause, hbank, hwrites, howes, hmemq, hslot, hfit, hturn, hpoison⟩, hassay⟩ := h
  have hwait : ¬((x.cmd.opcode = 0x28 ∨ x.cmd.opcode = 0x29) ∧ 32 ≤ (u.core c).memq.length) := fun ⟨ho, hl⟩ => Nat.not_le.2 (hmemq ho) hl
  have hpass : ¬(u.keptBy c x.cmd.unit < x.cmd.lamps ∧ u.passedOver n c q.code = true) := fun ⟨hk, hp⟩ => by
    rcases hturn with h | h
    · exact Nat.not_le.2 hk h
    · rw [h] at hp; cases hp
  have hcheck := State.checkCommand_clean (n := n) hpoison hassay c q.code x (u.effectOf c x)
  have hread := State.poisonedAt_clean hpoison c (x.startReads (u.effectOf c x))
  have herr (stop : Bool) := State.readErrors_clean u n c q.code x.idx (u.effectOf c x).reads stop hc
  refine ⟨fun t0 t ht ha => ?_, fun limit item need kind ht => ?_⟩
  · unfold State.startEngine
    simp [hrun, hunit, hgrant, hstencil, hcause, hbank, hwrites, howes, hslot, hfit, hwait, hpass, hcheck, hread, herr, ht, ha]
  · unfold State.startEngine
    simp [hrun, hunit, hgrant, hstencil, hcause, hbank, hwrites, hslot, hfit, hwait, hpass, ht]

end

/-! ### The effect at the start (log 26) -/

/-- From `s` to `t` a command other than a SEND has acted: its effect is applied, and a FETCH or STORE stands in the decoupling queue. -/
structure State.Acts (s t : State) (c : CoreId) (x : QCmd) (e : Effect) : Prop where
  frame : t = { s with cores := t.cores, coreMem := t.coreMem, cluMem := t.cluMem, events := t.events, counts := t.counts, fresh := t.fresh }
  core : t.core c = { s.core c with
    ahead := (t.core c).ahead, headBanks := (t.core c).headBanks, spread := (t.core c).spread
    banks := e.banks.foldl (fun m b => Tab.put m b.1 b.2) (s.core c).banks
    fpstat := (s.core c).fpstat ||| e.fp
    sc := e.sc.foldl (fun m b => Tab.put m b.1 b.2) (s.core c).sc
    memq := (s.core c).memq ++ (if x.cmd.opcode = 0x28 ∨ x.cmd.opcode = 0x29 then [s.memReq c x []] else []) }
  others : s.otherCores t c
  bytes : ∀ p, t.byteAt p = (s.writeStAt c e.writes).byteAt p

theorem State.act_acts {s : State} {n : Nat} {x : QCmd} (hp : s.poison = []) (ha : s.assayEn n = false) (c : CoreId) (e : Effect) (ho : x.cmd.opcode ≠ 0x30) :
    ∃ t, s.act n c x e = .done t ∧ s.Acts t c x e := by
  have happ := State.applyEffect_applies hp ha c x.gen e
  have hoff : (s.applyEffect n c x.gen e).assayEn n = false := (State.assayEn_congr (by rw [happ.frame]) n).trans ha
  by_cases hmem : x.cmd.opcode = 0x28 ∨ x.cmd.opcode = 0x29
  · refine ⟨(s.applyEffect n c x.gen e).updCore c fun k => { k with memq := k.memq ++ [s.memReq c x []] }, ?_, ?_⟩
    · unfold State.act
      dsimp only
      rw [State.handOn_off hoff]
      rcases hmem with h | h <;> (rw [h]; rfl)
    · refine ⟨by rw [happ.frame]; rfl, ?_, fun d hd => (State.core_updCore_other _ _ hd).trans (happ.others d hd), fun p => (State.byteAt_congr rfl rfl p).trans (happ.bytes p)⟩
      rw [State.core_updCore_same, happ.core, if_pos hmem]
  · obtain ⟨h28, h29⟩ := not_or.1 hmem
    refine ⟨s.applyEffect n c x.gen e, ?_, happ.frame, ?_, happ.others, happ.bytes⟩
    · unfold State.act
      split
      · contradiction
      · contradiction
      · contradiction
      · rfl
    · rw [happ.core, if_neg hmem, List.append_nil]

/-- An engine command other than a SEND that may start acts, with its whole effect, and begins. -/
theorem exec_engineCommandStart_acts {s u : State} {c : CoreId} {n : Nat} {q : Queue} {x : QCmd} {rest : List QCmd} {ecc : List EccAt} (hu : u = s.catchUp)
    (h : u.starts c n q x rest) (hc : cleanReads ecc) (ho : x.cmd.opcode ≠ 0x30) :
    ∃ v t, exec (.engineCommandStart c q ecc) s = .next t ∧ u.Acts v c x (u.effectOf c x) ∧ v.Begins t n c q.code x (u.effectOf c x) := by
  obtain ⟨v, hact, hacts⟩ := State.act_acts h.poison h.2 c (u.effectOf c x) ho
  have hturn : u.sendTurn n c x (u.effectOf c x) = .done u := by simp [State.sendTurn, ho]
  refine ⟨v, v.begin n c q.code x (u.effectOf c x), ?_, hacts, State.begin_begins q.code _ (by rw [hacts.core]; exact h.unit_free)⟩
  rw [h.exec_eq hu, (h.startEngine_eq hc).1 u v hturn hact]

/-! ### SEND (04, R104; 08, R194; 09, R209) -/

/-- A command that only reads has no effect on the state but to list its core. -/
theorem State.applyEffect_reads {s : State} {n : Nat} (hp : s.poison = []) (ha : s.assayEn n = false) (c : CoreId) (gen : Nat) (r : List Int) :
    s.applyEffect n c gen { reads := r } = s.setCore c (s.core c) := by
  have hoff : (s.setCore c (s.core c)).assayEn n = false := ha
  unfold State.applyEffect
  simp [State.writeStAt, State.clearPoison_clean hp, State.updCore, State.setTags_off hoff, State.putTags_off hoff]

/-- A SEND's message on the mesh. -/
def meshMsg (n : Nat) (c : CoreId) (gen idx : Nat) (x : Cmd) (bs : List Byte) : MeshMsg :=
  { pt := n, src := c, dst := x.dest, slot := x.sendSlot, flag := x.sendFlag, dfen := x.sendDfen, tag := roleTag gen x.role, bytes := bs, cmd := idx, vc := [] }

/-- The credit of a slot is not at home any more. -/
def Core.spendCredit (k : Core) (i : Nat) : Core := k.setSlot i { k.slot i with creditHome := false }

/-- The message of a SEND leaves on the mesh, and takes the credit of its slot. -/
def State.sendMesh (s : State) (n : Nat) (c : CoreId) (gen idx : Nat) (x : Cmd) (bs : List Byte) : State :=
  ({ s.updCore x.dest (·.spendCredit (slotIx gen x.sendSlot)) with mesh := s.mesh ++ [meshMsg n c gen idx x bs] } : State).updPart n
    fun p => { p with meshSent := p.meshSent + b2n x.sendDfen }

/-- On the mesh a SEND that has its slot's credit leaves. -/
theorem State.trySend_mesh {s : State} {n : Nat} {c : CoreId} {gen : Nat} {x : Cmd} (ha : s.assayEn n = false) (idx : Nat) (bs : List Byte) (hr : x.sendRoute = 0)
    (hcredit : ((s.core x.dest).slot (slotIx gen x.sendSlot)).creditHome = true) :
    s.trySend n c gen idx x bs = .done (s.sendMesh n c gen idx x bs) := by
  unfold State.trySend
  simp only [hr, hcredit, if_true, State.takeClock_off ha, State.handOn_off ha]
  rfl

/-- Without the credit it stalls on the slot. -/
theorem State.trySend_noCredit {s : State} {n : Nat} {c : CoreId} {gen : Nat} {x : Cmd} (idx : Nat) (bs : List Byte) (hr : x.sendRoute = 0)
    (hcredit : ((s.core x.dest).slot (slotIx gen x.sendSlot)).creditHome = false) :
    s.trySend n c gen idx x bs = .stall (s.limit n (wf x.w2 21 10)) (slotItem x.sendSlot) 0 2 := by
  unfold State.trySend
  simp [hr, hcredit]

/-- Flits for a shaft wait at its port, behind those that are there, and its core notes the slot. -/
def State.sendShaft (s : State) (n : Nat) (c : CoreId) (gen : Nat) (x : Cmd) (p shaft : Nat) (bs : List Byte) : State :=
  (s.updCore c fun k => { k with remote := k.remote ++ [{ domain := 0, devid := 0, dst := c, slot := slotIx gen x.sendSlot, shaft := some x.shaftIx }] }).shaftOut n (some c) p
    shaft gen x.role (pieces 240 (ceilDiv bs.length 240) bs)

/-- On a shaft whose port has room and switched tables its bytes wait at the port as flits. -/
theorem State.trySend_shaft {s : State} {n : Nat} {c : CoreId} {gen : Nat} {x : Cmd} (idx : Nat) (bs : List Byte) {p shaft : Nat} (hr : x.sendRoute = 1)
    (hs : ((s.core c).sendsOf gen)[x.shaftIx]? = some (p, shaft)) (ho : (s.port p).outstanding < 16384) (hcal : s.calendarHas n p shaft gen = true)
    (hfree : ∀ r ∈ (s.core c).remote, ¬ (r.shaft = some x.shaftIx ∧ r.slot = slotIx gen x.sendSlot)) :
    s.trySend n c gen idx x bs = .done (s.sendShaft n c gen x p shaft bs) := by
  have hany : ((s.core c).remote.any fun r => r.shaft = some x.shaftIx ∧ r.slot = slotIx gen x.sendSlot) = false := by
    rw [List.any_eq_false]; intro r hm; simpa using hfree r hm
  unfold State.trySend
  simp only [hr, hs]
  rw [if_neg (by rw [hany]; exact Bool.false_ne_true), if_neg (by simp [hcal, ho])]
  rfl

end Sys2Proof.Machine
end

section
/-! PROOF. The heads that act on flags, credits and ports: stalls, WAIT, and the two routes of SEND (04, R104-R108; 08, R194). -/

namespace Sys2Proof.Machine

/-! ### Stalls and flags (04, R106-R108) -/

theorem Core.beginStall_frame (k : Core) (q : Nat) (x : Stall) : ∃ st lo, k.beginStall q x = { k with stalls := st, lost := lo } := by
  obtain ⟨l, m, h⟩ := k.endStall_frame q x.since
  unfold Core.beginStall
  split
  · split
    · exact ⟨_, _, rfl⟩
    · rw [h]; exact ⟨_, _, rfl⟩
  · exact ⟨_, _, rfl⟩

/-- A stall that begins, or goes on, is on its item. -/
theorem Core.beginStall_item (k : Core) (q : Nat) (x : Stall) : ∃ y, Tab.find (k.beginStall q x).stalls q = some y ∧ y.item = x.item := by
  unfold Core.beginStall
  split
  · rename_i y hy
    split
    · rename_i hs; exact ⟨y, hy, hs.1⟩
    · exact ⟨x, Tab.find_put_same _ _ _, rfl⟩
  · exact ⟨x, Tab.find_put_same _ _ _, rfl⟩

/-- A head that stalls changes its own stall and the times of its waits. -/
theorem State.stallHead_stalls (s : State) (c : CoreId) (q limit item need kind : Nat) :
    s.stallHead c q limit item need kind = s.setCore c ((s.stallHead c q limit item need kind).core c) ∧
      (∃ y, Tab.find ((s.stallHead c q limit item need kind).core c).stalls q = some y ∧ y.item = item) ∧
      ∃ st lo lw, (s.stallHead c q limit item need kind).core c = { s.core c with stalls := st, lost := lo, lampWait := lw } := by
  obtain ⟨l1, m1, e1⟩ := (s.core c).endWait_frame q 5 s.now
  obtain ⟨l2, m2, e2⟩ := ((s.core c).endWait q 5 s.now).endWait_frame (5 + q) 7 s.now
  obtain ⟨st, lo, e3⟩ := (((s.core c).endWait q 5 s.now).endWait (5 + q) 7 s.now).beginStall_frame q
    { since := s.now, edges := 0, limit := limit, item := item, need := need, kind := kind }
  unfold State.stallHead
  rw [State.core_updCore_same]
  refine ⟨rfl, Core.beginStall_item _ _ _, ?_⟩
  rw [e3, e2, e1]
  exact ⟨_, _, _, rfl⟩

/-- A WAIT whose count is there and whose turn it is takes N from its flag. -/
theorem State.tryWait_takes {s : State} {n : Nat} {c : CoreId} {q : Nat} {x : Cmd} (ha : s.assayEn n = false) (hN : x.waitN ≤ (s.core c).flag x.waitFlag)
    (ht : (s.core c).waitTurn q x.waitFlag x.waitN s.now = true) :
    ∃ st lo ri rf, s.tryWait n c q x = .done (s.setCore c { s.core c with
      flags := Tab.put (s.core c).flags x.waitFlag ((s.core c).flag x.waitFlag - x.waitN), stalls := st, lost := lo, retryItems := ri, refreshItems := rf }) := by
  obtain ⟨l, m, e⟩ := (s.core c).endStall_frame q s.now
  unfold State.tryWait
  rw [if_pos ⟨hN, ht⟩, e]
  exact ⟨l, m, Tab.erase (s.core c).retryItems x.waitFlag, Tab.erase (s.core c).refreshItems x.waitFlag,
    congrArg Attempt.done (State.takeClock_off (s := s.setCore c _) ha c q _)⟩

/-! ### What the row does -/

section
variable {s u : State} {c : CoreId} {n : Nat} {q : Queue} {x : QCmd} {rest : List QCmd} {ecc : List EccAt}

/-- What the bytes of the stores are after an engine command has begun. -/
theorem State.Acts.byteAt_begun {v t : State} {e : Effect} (ha : u.Acts v c x e) (hb : v.Begins t n c q.code x e) (p : StoreId × Nat) :
    t.byteAt p = (u.writeStAt c e.writes).byteAt p :=
  (State.byteAt_congr (by rw [hb.frame]) (by rw [hb.frame]) p).trans (ha.bytes p)

theorem State.Acts.storesKept {v t : State} {e : Effect} (ha : u.Acts v c x e) (hb : v.Begins t n c q.code x e) : u.storesKept t c (e.writes.map (·.1)) :=
  State.storesKept_of_byteAt fun p hp => (ha.byteAt_begun hb p).trans
    (State.byteAt_writeStAt_other u c fun w hw => hp w.1 (List.mem_map_of_mem hw))

/-- Of the bytes that a command writes the last at each place stands. -/
theorem State.Acts.lastWrite {v t : State} {e : Effect} (ha : u.Acts v c x e) (hb : v.Begins t n c q.code x e) (hm : u.memoryWf) {a : Int} {w : Int × Byte}
    (hok : storeOk a = true) (hw : (e.writes.reverse.find? fun w => decide (byteOf c w.1 = byteOf c a)) = some w) : t.readSt c a = w.2 := by
  obtain ⟨p, hp⟩ := byteOf_of_storeOk c hok
  rw [State.readSt_of_byteOf _ hp, ha.byteAt_begun hb]
  exact State.byteAt_writeStAt_last hm (by rw [← hp]; exact hw)

/-- The queue of a head that has begun, and what it holds. -/
theorem State.Begins.queue_eq {v t : State} {e : Effect} (hb : v.Begins t n c q.code x e) (hq : (v.core c).queue q.code = x :: rest) : (t.core c).queue q.code = rest := by
  rw [hb.core]
  unfold Core.queue at hq ⊢
  rw [Tab.get_put_same, hq]
  rfl

end

/-! ### A SEND that leaves (04, R104; 08, R194; 09, R209) -/

/-- A core listed as it is reads as it is. -/
theorem State.core_relist (s : State) (c d : CoreId) : (s.setCore c (s.core c)).core d = s.core d := by
  by_cases hd : d.ix = c.ix
  · rw [coreIx_inj hd, State.core_setCore_same]
  · rw [State.core_setCore_other _ _ hd]

/-- A message on the mesh spends the credit at its destination. -/
theorem State.core_sendMesh (s : State) (n : Nat) (c : CoreId) (gen idx : Nat) (x : Cmd) (bs : List Byte) (d : CoreId) :
    (s.sendMesh n c gen idx x bs).core d = if d.ix = x.dest.ix then (s.core x.dest).spendCredit (slotIx gen x.sendSlot) else s.core d := by
  have hbase : (s.sendMesh n c gen idx x bs).core d = (s.updCore x.dest (·.spendCredit (slotIx gen x.sendSlot))).core d := rfl
  rw [hbase]
  split
  · rename_i hd; rw [coreIx_inj hd, State.core_updCore_same]
  · rename_i hd; rw [State.core_updCore_other _ _ hd]

theorem Core.spendCredit_slot (k : Core) (i : Nat) : ((k.spendCredit i).slot i).creditHome = false := by
  simp [Core.spendCredit, Core.setSlot, Core.slot, Tab.get_put_same]

section
variable (s : State) (n : Nat) (c : CoreId) (gen : Nat) (x : Cmd) (p shaft : Nat) (bs : List Byte)

theorem State.shaftOut_core (c : Option CoreId) (role : Nat) (l : List (List Byte)) (d : CoreId) : (s.shaftOut n c p shaft gen role l).core d = s.core d := rfl

theorem State.sendShaft_core_same : (s.sendShaft n c gen x p shaft bs).core c =
    { s.core c with remote := (s.core c).remote ++ [{ domain := 0, devid := 0, dst := c, slot := slotIx gen x.sendSlot, shaft := some x.shaftIx }] } := by
  unfold State.sendShaft
  rw [State.shaftOut_core, State.core_updCore_same]

theorem State.sendShaft_core_other {d : CoreId} (hd : d.ix ≠ c.ix) : (s.sendShaft n c gen x p shaft bs).core d = s.core d := by
  unfold State.sendShaft
  rw [State.shaftOut_core, State.core_updCore_other _ _ hd]

theorem State.sendShaft_port_same : (s.sendShaft n c gen x p shaft bs).port p =
    { s.port p with
      shaftq := (s.port p).shaftq ++ (pieces 240 (ceilDiv bs.length 240) bs).map fun b =>
        { pt := n, gen := gen, shaft := shaft, role := roleTag gen x.role, payload := b, src := some c } } := by
  unfold State.sendShaft State.shaftOut
  exact State.port_updPort_same _ p _

theorem State.sendShaft_port_other {r : Nat} (hr : r ≠ p) : (s.sendShaft n c gen x p shaft bs).port r = s.port r := by
  unfold State.sendShaft State.shaftOut
  exact State.port_updPort_other _ _ hr

end

section
variable {s u : State} {c : CoreId} {n : Nat} {q : Queue} {x : QCmd} {rest : List QCmd} {ecc : List EccAt}

/-- A SEND's only effect is that of its turn. -/
theorem State.starts.send_acts (h : u.starts c n q x rest) (ho : x.cmd.opcode = 0x30) :
    u.sendTurn n c x (u.effectOf c x) = u.trySend n c x.gen x.idx x.cmd ((u.sendAddrs c x).map (u.readSt c)) ∧
      u.act n c x (u.effectOf c x) = (u.setCore c (u.core c)).trySend n c x.gen x.idx x.cmd ((u.sendAddrs c x).map (u.readSt c)) := by
  have heff : u.effectOf c x = { reads := u.sendAddrs c x } := by unfold State.effectOf; dsimp only; rw [ho]; rfl
  refine ⟨?_, ?_⟩
  · unfold State.sendTurn; rw [if_pos ho, heff]
  · unfold State.act; dsimp only; rw [heff, State.applyEffect_reads h.poison h.2, ho]; rfl

/-- A SEND whose turn has come begins, after what its turn does. -/
theorem State.starts.send_begins (h : u.starts c n q x rest) (hu : u = s.catchUp) (hc : cleanReads ecc) (ho : x.cmd.opcode = 0x30) {t0 v : State}
    (h0 : u.trySend n c x.gen x.idx x.cmd ((u.sendAddrs c x).map (u.readSt c)) = .done t0)
    (hv : (u.setCore c (u.core c)).trySend n c x.gen x.idx x.cmd ((u.sendAddrs c x).map (u.readSt c)) = .done v)
    (hrun : (v.core c).run = (u.core c).run) :
    ∃ t, exec (.engineCommandStart c q ecc) s = .next t ∧ v.Begins t n c q.code x (u.effectOf c x) := by
  obtain ⟨hturn, hact⟩ := h.send_acts ho
  refine ⟨_, ?_, State.begin_begins q.code _ (by rw [hrun]; exact h.unit_free)⟩
  rw [h.exec_eq hu, (h.startEngine_eq hc).1 t0 v (hturn.trans h0) (hact.trans hv)]

end

/-! ### A WAIT at the head (04, R107) -/

/-- A core that accepts no old generation has none to retire (01, R37). -/
theorem State.retire_of_no_old {s : State} {c : CoreId} (n : Nat) (h : (s.core c).old = none) : s.retire n c = s := by
  unfold State.retire
  simp [h]

/-- The head that acts in place, a WAIT among them, ends its stall and its waits, and leaves its queue. -/
theorem Core.acted_eq (k : Core) (q t : Nat) : ∃ st lw lo, (((k.endStall q t).endWait (5 + q) 7 t).endFull q).pop q =
    { k with queues := Tab.put k.queues q ((k.queue q).drop 1), stalls := st, lampWait := lw, lost := lo } := by
  obtain ⟨l1, m1, e1⟩ := k.endStall_frame q t
  obtain ⟨l2, m2, e2⟩ := (k.endStall q t).endWait_frame (5 + q) 7 t
  rw [e2, e1]
  exact ⟨_, _, _, rfl⟩

theorem State.setCore_setCore (s : State) (c : CoreId) (k l : Core) : (s.setCore c k).setCore c l = s.setCore c l := by
  unfold State.setCore
  rw [Tab.put_put]

/-- A WAIT at the head that can act leaves its core as its turn left it, less the head. -/
theorem State.startHead_wait_done {s : State} {n : Nat} {c : CoreId} {q : Nat} {x : QCmd} {rest : List QCmd} {k : Core} (ecc : List EccAt) (hrun : (s.part n).st = .run)
    (ha : s.assayEn n = false) (hq : (s.core c).queue q = x :: rest) (ho : x.cmd.opcode = 0x39) (htake : s.tryWait n c q x.cmd = .done (s.setCore c k)) (hold : k.old = none) :
    s.startHead n c q ecc = s.setCore c ((((k.endStall q s.now).endWait (5 + q) 7 s.now).endFull q).pop q) := by
  obtain ⟨st, lw, lo, hacted⟩ := k.acted_eq q s.now
  have hkeep : (((((s.setCore c k).updCore c fun k => (((k.endStall q s.now).endWait (5 + q) 7 s.now).endFull q).pop q)).core c)).old = none := by
    rw [State.core_updCore_same, State.core_setCore_same, hacted]; exact hold
  unfold State.startHead
  simp only [hq, ho, or_true, if_true, hrun]
  unfold State.flowHead
  simp only [ho, ha, Bool.false_eq_true, if_false, htake]
  exact (State.retire_of_no_old n hkeep).trans (by rw [State.updCore, State.core_setCore_same, State.setCore_setCore])

/-- A WAIT at the head of a queue takes N from its flag and leaves the queue. -/
theorem State.startHead_wait {s : State} {n : Nat} {c : CoreId} {q : Nat} {x : QCmd} {rest : List QCmd} (ecc : List EccAt) (hrun : (s.part n).st = .run) (ha : s.assayEn n = false)
    (hold : (s.core c).old = none) (hq : (s.core c).queue q = x :: rest) (ho : x.cmd.opcode = 0x39) (hN : x.cmd.waitN ≤ (s.core c).flag x.cmd.waitFlag)
    (ht : (s.core c).waitTurn q x.cmd.waitFlag x.cmd.waitN s.now = true) :
    ∃ st lo lw ri rf, s.startHead n c q ecc = s.setCore c { s.core c with
      queues := Tab.put (s.core c).queues q rest, flags := Tab.put (s.core c).flags x.cmd.waitFlag ((s.core c).flag x.cmd.waitFlag - x.cmd.waitN)
      stalls := st, lost := lo, lampWait := lw, retryItems := ri, refreshItems := rf } := by
  obtain ⟨st, lo, ri, rf, htake⟩ := State.tryWait_takes (n := n) (q := q) ha hN ht
  have hdone := State.startHead_wait_done ecc hrun ha hq ho htake hold
  obtain ⟨st', lw', lo', hacted⟩ := Core.acted_eq { s.core c with
    flags := Tab.put (s.core c).flags x.cmd.waitFlag ((s.core c).flag x.cmd.waitFlag - x.cmd.waitN), stalls := st, lost := lo, retryItems := ri, refreshItems := rf } q s.now
  refine ⟨st', lo', lw', ri, rf, ?_⟩
  rw [hdone, hacted]
  unfold Core.queue at hq ⊢
  rw [hq]
  rfl

end Sys2Proof.Machine
end

section
/-! PROOF. ENGINE_COMMAND_START by what stands at the head: an engine's command, a SEND on the mesh or on a shaft, a WAIT (04, R87, R88, R104-R107). -/

namespace Sys2Proof.Machine

section
variable {s u : State} {c : CoreId} {n : Nat} {q : Queue} {x : QCmd} {rest : List QCmd} {ecc : List EccAt}

/-- A SEND with the credit of its destination's slot takes it, and its bytes leave on the mesh (04, R104, R105). -/
theorem exec_send_mesh (hu : u = s.catchUp) (h : u.starts c n q x rest) (hc : cleanReads ecc) (ho : x.cmd.opcode = 0x30) (hr : x.cmd.sendRoute = 0)
    (hcredit : ((u.core x.cmd.dest).slot (slotIx x.gen x.cmd.sendSlot)).creditHome = true) :
    ∃ t, exec (.engineCommandStart c q ecc) s = .next t ∧ (t.core c).queue q.code = rest ∧ ((t.core x.cmd.dest).slot (slotIx x.gen x.cmd.sendSlot)).creditHome = false ∧
      t.mesh = u.mesh ++ [meshMsg n c x.gen x.idx x.cmd ((u.sendAddrs c x).map (u.readSt c))] ∧ (t.part n).meshSent = (u.part n).meshSent + b2n x.cmd.sendDfen ∧ u.otherParts t n ∧
      (∀ d : CoreId, d.ix ≠ c.ix → d.ix ≠ x.cmd.dest.ix → t.core d = u.core d) ∧ t = { u with parts := t.parts, cores := t.cores, mesh := t.mesh, lampRoom := t.lampRoom } := by
  have hv := State.trySend_mesh (s := u.setCore c (u.core c)) (c := c) h.2 x.idx ((u.sendAddrs c x).map (u.readSt c)) hr (by rw [State.core_relist]; exact hcredit)
  have hcore (d : CoreId) := State.core_sendMesh (u.setCore c (u.core c)) n c x.gen x.idx x.cmd ((u.sendAddrs c x).map (u.readSt c)) d
  simp only [State.core_relist] at hcore
  generalize hw : (u.setCore c (u.core c)).sendMesh n c x.gen x.idx x.cmd ((u.sendAddrs c x).map (u.readSt c)) = v at hv hcore
  have hown : v.core c = { u.core c with slotSt := (v.core c).slotSt } := by
    rw [hcore]
    split
    case isTrue hd => rw [coreIx_inj hd]; rfl
    case isFalse => rfl
  obtain ⟨t, he, hb⟩ := h.send_begins hu hc ho (State.trySend_mesh h.2 _ _ hr hcredit) hv (by rw [hown])
  have hslot : (t.core x.cmd.dest).slotSt = (v.core x.cmd.dest).slotSt := by
    by_cases hd : x.cmd.dest.ix = c.ix
    · rw [coreIx_inj hd, hb.core]
    · rw [hb.otherCores _ hd]
  refine ⟨t, he, hb.queue_eq (by rw [hown]; exact h.queue_eq), ?_, ?_, ?_, fun m hm => (hb.otherParts m hm).trans ?_, fun d hd hd' => ?_, ?_⟩
  · unfold Core.slot
    rw [hslot, hcore, if_pos rfl]
    exact Core.spendCredit_slot _ _
  · rw [hb.frame, ← hw]; rfl
  · rw [hb.part, ← hw]
    exact congrArg Part.meshSent (State.part_updPart_same _ n _)
  · rw [← hw]
    exact State.part_updPart_other _ _ hm
  · rw [hb.otherCores d hd, hcore, if_neg hd']
  · rw [hb.frame, ← hw]; rfl

/-- Without the credit it stalls on its slot (04, R108). -/
theorem exec_send_noCredit (hu : u = s.catchUp) (h : u.starts c n q x rest) (hc : cleanReads ecc) (ho : x.cmd.opcode = 0x30) (hr : x.cmd.sendRoute = 0)
    (hcredit : ((u.core x.cmd.dest).slot (slotIx x.gen x.cmd.sendSlot)).creditHome = false) :
    ∃ t y, exec (.engineCommandStart c q ecc) s = .next t ∧ t = u.setCore c (t.core c) ∧ Tab.find (t.core c).stalls q.code = some y ∧ y.item = slotItem x.cmd.sendSlot ∧
      t.core c = { u.core c with stalls := (t.core c).stalls, lost := (t.core c).lost, lampWait := (t.core c).lampWait } := by
  have hturn := (h.send_acts ho).1.trans (State.trySend_noCredit x.idx _ hr hcredit)
  obtain ⟨hset, ⟨y, hy, hitem⟩, st, lo, lw, hcore⟩ := u.stallHead_stalls c q.code (u.limit n (wf x.cmd.w2 21 10)) (slotItem x.cmd.sendSlot) 0 2
  exact ⟨_, y, by rw [h.exec_eq hu, (h.startEngine_eq hc).2 _ _ _ _ hturn], hset, hy, hitem, by rw [hcore]⟩

/-- The flits of a SEND on a shaft wait at its port (08, R194). -/
theorem exec_send_shaft (hu : u = s.catchUp) (h : u.starts c n q x rest) (hc : cleanReads ecc) (ho : x.cmd.opcode = 0x30) (hr : x.cmd.sendRoute = 1) {p shaft : Nat}
    (hs : ((u.core c).sendsOf x.gen)[x.cmd.shaftIx]? = some (p, shaft)) (hroom : (u.port p).outstanding < 16384) (hcal : u.calendarHas n p shaft x.gen = true)
    (hfree : ∀ r ∈ (u.core c).remote, ¬ (r.shaft = some x.cmd.shaftIx ∧ r.slot = slotIx x.gen x.cmd.sendSlot)) :
    ∃ t bs, exec (.engineCommandStart c q ecc) s = .next t ∧ (t.core c).queue q.code = rest ∧ bs = (u.sendAddrs c x).map (u.readSt c) ∧
      t.port p = { u.port p with shaftq := (u.port p).shaftq ++ (pieces 240 (ceilDiv bs.length 240) bs).map fun b =>
        { pt := n, gen := x.gen, shaft := shaft, role := roleTag x.gen x.cmd.role, payload := b, src := some c } } ∧
      u.otherPorts t p ∧ u.otherCores t c ∧ t = { u with parts := t.parts, cores := t.cores, ports := t.ports, lampRoom := t.lampRoom } := by
  have hv := State.trySend_shaft (s := u.setCore c (u.core c)) (n := n) x.idx ((u.sendAddrs c x).map (u.readSt c)) hr (by rw [State.core_relist]; exact hs) hroom hcal
    (by rw [State.core_relist]; exact hfree)
  have hown := (u.setCore c (u.core c)).sendShaft_core_same n c x.gen x.cmd p shaft ((u.sendAddrs c x).map (u.readSt c))
  rw [State.core_relist] at hown
  obtain ⟨t, he, hb⟩ := h.send_begins hu hc ho (State.trySend_shaft x.idx _ hr hs hroom hcal hfree) hv (by rw [hown])
  have hport (r : Nat) : t.port r = ((u.setCore c (u.core c)).sendShaft n c x.gen x.cmd p shaft ((u.sendAddrs c x).map (u.readSt c))).port r := by
    unfold State.port; rw [hb.frame]
  refine ⟨t, _, he, hb.queue_eq (by rw [hown]; exact h.queue_eq), rfl, (hport p).trans (State.sendShaft_port_same _ _ _ _ _ _ _ _),
    fun r hr' => (hport r).trans (State.sendShaft_port_other _ _ _ _ _ _ _ _ hr'), fun d hd => ?_, ?_⟩
  · rw [hb.otherCores d hd, State.sendShaft_core_other _ _ _ _ _ _ _ _ hd, State.core_relist]
  · rw [hb.frame]; rfl

end

/-- Settles O26: the passes take steps and no more; a head that may start acts and begins, in that order, and a SEND or a WAIT that cannot act stalls. -/
theorem engineStart : Obligations.EngineStart := by
  refine ⟨fun s h => State.catchUp_idle h, fun s hp ha => ?_, fun s u c n q x rest ecc hu h hc => ⟨fun ho => ?_, fun ho hr i hi => ?_,
    fun ho hr p shaft hs hroom hcal hfree => exec_send_shaft hu h hc ho hr hs hroom hcal hfree⟩, fun s u c n q x rest ecc hu hn hrun hq ha hold hqueue ho hN ht => ?_⟩
  · have h := State.catchUp_steps ⟨hp, ha⟩
    refine ⟨h.frame, fun c => ?_, fun o => ⟨(h.only o).1, fun c => ⟨_, ((h.only o).2 c).frame⟩⟩⟩
    rw [h.core c]
    exact ⟨rfl, rfl, rfl, rfl, rfl⟩
  · obtain ⟨v, t, he, hv, hb⟩ := exec_engineCommandStart_acts hu h hc ho
    have hqueue : (v.core c).queue q.code = x :: rest := by rw [hv.core]; exact h.queue_eq
    have hcycles : v.cycles c = u.cycles c := by rw [hv.frame]; rfl
    have hcore := hb.core
    rw [hv.core] at hcore
    obtain ⟨r, hr, hrx, hrl, hrs, hrc⟩ := hb.runs
    refine ⟨t, he, hb.queue_eq hqueue, ⟨r, hr, hrx, hrl, hrs.trans hcycles, hrc⟩, by rw [hcore], by rw [hcore], by rw [hcore], by rw [hcore], by rw [hcore], by rw [hcore], by rw [hcore],
      by rw [hcore], by rw [hcore], by rw [hcore], hv.storesKept hb, fun d hd => (hb.otherCores d hd).trans (hv.others d hd), fun hm a w hok hw => hv.lastWrite hb hm hok hw, ?_⟩
    rw [hb.frame, hv.frame]
  · subst hi
    exact ⟨exec_send_mesh hu h hc ho hr, exec_send_noCredit hu h hc ho hr⟩
  · obtain ⟨st, lo, lw, ri, rf, hstart⟩ := State.startHead_wait ecc hrun ha hold hqueue ho hN ht
    have he := exec_engineCommandStart_run (s := s) ecc (hu ▸ hn) (hu ▸ hrun) hq
    rw [← hu, hstart] at he
    refine ⟨_, he, ?_⟩
    rw [State.core_setCore_same]
    exact ⟨rfl, Tab.get_put_same _ _ _ _, Tab.get_put_same _ _ _ _, fun f hf => Tab.get_put_other _ _ _ hf, rfl⟩

end Sys2Proof.Machine
end

section
/-! PROOF. What MOVE copies (04, R97), and what the row blocks of a pass sum on their way through the cubes (02, R40-R42, R60). -/

namespace Sys2Proof.Machine

/-! ### MOVE (04, R97) -/

/-- A command that may start writes allowed addresses alone (04, R92). -/
theorem State.starts.writes_ok {u : State} {c : CoreId} {n : Nat} {q : Queue} {x : QCmd} {rest : List QCmd} (h : u.starts c n q x rest) :
    ∀ w ∈ (u.effectOf c x).writes, storeOk w.1 = true := by
  intro w hw
  have hnone := h.noCause
  unfold State.startCause State.storeFault at hnone
  dsimp only at hnone
  split at hnone
  · cases hnone
  · rename_i hfault
    split at hfault
    · cases hfault
    · split at hfault
      · cases hfault
      · rename_i hall
        simpa using List.find?_eq_none.1 hall w hw

/-- A MOVE without transposition writes the source's bytes in their order. -/
theorem State.moveEffect_writes {u : State} {c : CoreId} {x : QCmd} {a b : Shape} (hx : wf x.cmd.w0 6 4 = 0) (hg : x.gen = (u.core c).gen)
    (ha : (u.core c).shape (wf x.cmd.w0 22 15) = some a) (hb : (u.core c).shape (wf x.cmd.w0 14 7) = some b) :
    (u.moveEffect c x).writes = (b.addrs x.b).zip ((a.addrs x.a).map (u.readSt c)) := by
  unfold Core.shape at ha hb
  have hsa : (u.core c).shapeAt x.gen (wf x.cmd.w0 22 15) = a := by unfold Core.shapeAt; simp [hg, ha]
  have hsb : (u.core c).shapeAt x.gen (wf x.cmd.w0 14 7) = b := by unfold Core.shapeAt; simp [hg, hb]
  unfold State.moveEffect
  simp [hx, hsa, hsb]

theorem State.storesKept_mono {s t : State} {c : CoreId} {as bs : List Int} (h : s.storesKept t c as) (hsub : ∀ a ∈ as, a ∈ bs) : s.storesKept t c bs :=
  fun d a hok hne => h d a hok fun b hb => hne b (hsub b hb)

/-- A MOVE that may start copies its source, byte by byte. -/
theorem exec_move_copies {s u : State} {c : CoreId} {n : Nat} {q : Queue} {x : QCmd} {rest : List QCmd} {ecc : List EccAt} {as bs : List Int} (hu : u = s.catchUp)
    (hm : u.memoryWf) (h : u.starts c n q x rest) (ho : x.cmd.opcode ≠ 0x30) (hc : cleanReads ecc) (hw : (u.effectOf c x).writes = bs.zip (as.map (u.readSt c)))
    (hn : bs.Nodup) :
    ∃ t, exec (.engineCommandStart c q ecc) s = .next t ∧ u.storesKept t c bs ∧ ∀ i (hs : i < as.length) (hd : i < bs.length), t.readSt c bs[i] = u.readSt c as[i] := by
  obtain ⟨v, t, he, hv, hb⟩ := exec_engineCommandStart_acts hu h hc ho
  have hkept := hv.storesKept hb
  rw [hw] at hkept
  refine ⟨t, he, State.storesKept_mono hkept fun a ha => ?_, fun i hs hd => ?_⟩
  · obtain ⟨w, hwm, rfl⟩ := List.mem_map.1 ha
    exact (List.of_mem_zip hwm).1
  · have hsrc : (as.map (u.readSt c))[i]? = some (u.readSt c as[i]) := by simp [hs]
    have hdst : bs[i]? = some bs[i] := List.getElem?_eq_getElem hd
    have hok : storeOk bs[i] = true := h.writes_ok (bs[i], u.readSt c as[i]) (by rw [hw]; exact List.mem_of_getElem? (List.getElem?_zip_eq_some.2 ⟨hdst, hsrc⟩))
    obtain ⟨p, hp⟩ := byteOf_of_storeOk c hok
    have hread := State.readSt_writeStAt_zip hm (c := c) hn hdst hsrc hok
    rw [State.readSt_of_byteOf _ hp, ← hw, ← hv.byteAt_begun hb] at hread
    rw [State.readSt_of_byteOf _ hp, hread]

/-! ### Numbers in a row -/

theorem upFrom_eq_range' (lo n : Nat) : upFrom lo n = List.range' lo n := by
  induction n generalizing lo with
  | zero => rfl
  | succ n ih => rw [upFrom, ih, List.range'_succ]

theorem upFrom_succ (lo n : Nat) : upFrom lo (n + 1) = upFrom lo n ++ [lo + n] := by
  rw [upFrom_eq_range', upFrom_eq_range', List.range'_1_concat]

theorem mem_upFrom {x lo n : Nat} : x ∈ upFrom lo n ↔ lo ≤ x ∧ x < lo + n := by rw [upFrom_eq_range', List.mem_range'_1]

/-! ### The cubes of one step (02, R41, R42) -/

/-- The cubes that may work in step `t`, by row block and output slice. -/
def cubesAt (t : Nat) : List (Nat × Nat) := (upFrom (t - 6) 7).flatMap fun b => (upFrom 0 4).map fun i => (b, i)

theorem mem_cubesAt {t b i : Nat} : (b, i) ∈ cubesAt t ↔ (t - 6 ≤ b ∧ b < t - 6 + 7) ∧ i < 4 := by
  simp [cubesAt, mem_upFrom]

theorem cubesAt_nodup (t : Nat) : (cubesAt t).Nodup := by
  unfold cubesAt
  simp only [upFrom_eq_range']
  change (List.range' (t - 6) 7 ×ˢ List.range' 0 4).Nodup
  exact (List.nodup_range' _).product (List.nodup_range' _)

/-- A row block meets cube row `t - b - i` of output slice `i` in step `t`. -/
def Cmd.meetsAt (q : Cmd) (t b i : Nat) : Prop := b + i ≤ t ∧ t - b - i < 4 ∧ b < q.rowBlocks

theorem PassRun.stepCube_keeps (r : PassRun) (bank : Bank) (t b i : Nat) : (r.stepCube bank t b i).q = r.q ∧ (r.stepCube bank t b i).lines = r.lines := by
  unfold PassRun.stepCube
  dsimp only
  split <;> exact ⟨rfl, rfl⟩

theorem PassRun.stepCube_meets {r : PassRun} {bank : Bank} {t b i : Nat} (h : r.q.cmd.meetsAt t b i) :
    Tab.get [] (r.stepCube bank t b i).sums (4 * b + i) =
      r.q.cmd.cube bank (Tab.get [] r.lines (r.q.cmd.lineOf b (t - b - i))) (t - b - i) i (Tab.get [] r.sums (4 * b + i)) := by
  unfold PassRun.stepCube
  dsimp only
  rw [if_pos (show b + i ≤ t ∧ t - b - i < 4 ∧ b < r.q.cmd.rowBlocks from h)]
  exact Tab.get_put_same ..

theorem PassRun.stepCube_idle {r : PassRun} {bank : Bank} {t b i : Nat} (h : ¬ r.q.cmd.meetsAt t b i) : r.stepCube bank t b i = r := if_neg h

/-- A cube leaves the sums of other row blocks and output slices. -/
theorem PassRun.stepCube_other {r : PassRun} {bank : Bank} {t b i b' i' : Nat} (hi : i < 4) (hi' : i' < 4) (hne : (b, i) ≠ (b', i')) :
    Tab.get [] (r.stepCube bank t b' i').sums (4 * b + i) = Tab.get [] r.sums (4 * b + i) := by
  unfold PassRun.stepCube
  dsimp only
  split
  · refine Tab.get_put_other _ _ _ fun hk => hne ?_
    rw [Prod.mk.injEq]
    omega
  · rfl

/-- The cubes of a list, one after the other, in step `t`. -/
def PassRun.stepCubes (bank : Bank) (t : Nat) (l : List (Nat × Nat)) (r : PassRun) : PassRun := l.foldl (fun r e => r.stepCube bank t e.1 e.2) r

theorem PassRun.stepCubes_keeps (bank : Bank) (t : Nat) (l : List (Nat × Nat)) (r : PassRun) :
    (r.stepCubes bank t l).q = r.q ∧ (r.stepCubes bank t l).lines = r.lines := by
  induction l generalizing r with
  | nil => exact ⟨rfl, rfl⟩
  | cons e l ih =>
    obtain ⟨hq, hl⟩ := r.stepCube_keeps bank t e.1 e.2
    exact ⟨(ih _).1.trans hq, (ih _).2.trans hl⟩

theorem PassRun.stepCubes_other {bank : Bank} {t b i : Nat} (hi : i < 4) {l : List (Nat × Nat)} (hl : ∀ e ∈ l, e.2 < 4) (hn : (b, i) ∉ l) (r : PassRun) :
    Tab.get [] (r.stepCubes bank t l).sums (4 * b + i) = Tab.get [] r.sums (4 * b + i) := by
  induction l generalizing r with
  | nil => rfl
  | cons e l ih =>
    obtain ⟨hne, hrest⟩ := List.ne_and_not_mem_of_not_mem_cons hn
    exact (ih (fun e he => hl e (List.mem_cons_of_mem _ he)) hrest _).trans (PassRun.stepCube_other hi (hl e List.mem_cons_self) hne)

/-- Of a list of different cubes the one of block `b` and output slice `i` makes that pair's sums. -/
theorem PassRun.stepCubes_mem {bank : Bank} {t b i : Nat} {l : List (Nat × Nat)} (hl : ∀ e ∈ l, e.2 < 4) (hn : l.Nodup) (hm : (b, i) ∈ l) {r : PassRun}
    (h : r.q.cmd.meetsAt t b i) :
    Tab.get [] (r.stepCubes bank t l).sums (4 * b + i) =
      r.q.cmd.cube bank (Tab.get [] r.lines (r.q.cmd.lineOf b (t - b - i))) (t - b - i) i (Tab.get [] r.sums (4 * b + i)) := by
  obtain ⟨l₁, l₂, rfl⟩ := List.append_of_mem hm
  have hi : i < 4 := hl _ hm
  obtain ⟨h₁, h₂⟩ : (b, i) ∉ l₁ ∧ (b, i) ∉ l₂ := by simpa using (List.nodup_middle.1 hn).notMem
  obtain ⟨hq, hlines⟩ := r.stepCubes_keeps bank t l₁
  have hsums := PassRun.stepCubes_other (bank := bank) (t := t) hi (fun e he => hl e (List.mem_append_left _ he)) h₁ r
  have hsplit : r.stepCubes bank t (l₁ ++ (b, i) :: l₂) = ((r.stepCubes bank t l₁).stepCube bank t b i).stepCubes bank t l₂ := by
    simp [PassRun.stepCubes, List.foldl_append]
  rw [hsplit, PassRun.stepCubes_other hi (fun e he => hl e (by simp [he])) h₂, PassRun.stepCube_meets (hq ▸ h), hq, hlines, hsums]

theorem PassRun.stepCubes_idle {bank : Bank} {t b i : Nat} {l : List (Nat × Nat)} (hl : ∀ e ∈ l, e.2 < 4) (hi : i < 4) {r : PassRun} (h : ¬ r.q.cmd.meetsAt t b i) :
    Tab.get [] (r.stepCubes bank t l).sums (4 * b + i) = Tab.get [] r.sums (4 * b + i) := by
  induction l generalizing r with
  | nil => rfl
  | cons e l ih =>
    have hq := (r.stepCube_keeps bank t e.1 e.2).1
    refine (ih (r := r.stepCube bank t e.1 e.2) (fun e he => hl e (List.mem_cons_of_mem _ he)) (hq ▸ h)).trans ?_
    by_cases he : (b, i) = e
    · subst he
      rw [PassRun.stepCube_idle h]
    · exact PassRun.stepCube_other hi (hl e List.mem_cons_self) he

/-! ### A step and the steps of a pass (02, R42) -/

/-- The pass with the lines that step `t` holds in the grid. -/
def PassRun.takeLine (r : PassRun) (t : Nat) (line : Option (List Byte)) : PassRun :=
  { r with lines := line.elim (r.lines.filter fun e => decide (t < e.1 + 7)) (Tab.put (r.lines.filter fun e => decide (t < e.1 + 7)) t) }

theorem PassRun.stepOn_eq (r : PassRun) (bank : Bank) (t : Nat) (line : Option (List Byte)) :
    r.stepOn bank t line = (r.takeLine t line).stepCubes bank t (cubesAt t) := by
  unfold PassRun.stepOn PassRun.stepCubes cubesAt PassRun.takeLine
  rw [List.foldl_flatMap]
  simp only [List.foldl_map]
  cases line with
  | none => exact rfl
  | some bs => exact rfl

/-- The lines in the grid after a step: its own, and the ones before it that came less than 7 steps ago. -/
theorem PassRun.get_takeLine (r : PassRun) (t : Nat) (line : Option (List Byte)) {l : Nat} (h : t < l + 7) :
    Tab.get [] (r.takeLine t line).lines l = if l = t then line.getD (Tab.get [] r.lines l) else Tab.get [] r.lines l := by
  have hold : Tab.get [] (r.lines.filter fun e => decide (t < e.1 + 7)) l = Tab.get [] r.lines l := by
    unfold Tab.get
    rw [Tab.find_filter r.lines (fun k => decide (t < k + 7)), if_pos (by simpa using h)]
  unfold PassRun.takeLine
  cases line with
  | none => simp [hold]
  | some bs =>
    by_cases hl : l = t
    · simp [hl, Tab.get_put_same]
    · simp [hl, Tab.get_put_other, hold]

/-- The line that a block meets in a cube row was read at most 6 steps before the step in which it meets it (02, R42, R60). -/
theorem Cmd.meetsAt.reads {q : Cmd} {n b i : Nat} (h : q.meetsAt n b i) (hi : i < 4) :
    q.lineOf b (n - b - i) < q.lines ∧ q.lineOf b (n - b - i) ≤ n ∧ n < q.lineOf b (n - b - i) + 7 := by
  obtain ⟨hle, hj, hb⟩ := h
  unfold Cmd.lineOf Cmd.lines
  split <;> omega

/-- Of the cubes of step `n` the one that a row block meets is among those that work. -/
theorem Cmd.meetsAt.mem_cubesAt {q : Cmd} {n b i : Nat} (h : q.meetsAt n b i) (hi : i < 4) : (b, i) ∈ cubesAt n := by
  obtain ⟨hle, hj, hb⟩ := h
  rw [Machine.mem_cubesAt]
  omega

theorem cubesAt_lt {n : Nat} : ∀ e ∈ cubesAt n, e.2 < 4 := fun _ he => (mem_cubesAt.1 he).2

/-- What the reduction slices below `k` add to the sums of block `b` and output slice `i`. -/
def Cmd.sumThrough (q : Cmd) (bank : Bank) (line : Nat → List Byte) (b i k : Nat) : List W32 :=
  (upFrom 0 k).foldl (fun sums j => q.cube bank (line (q.lineOf b j)) j i sums) []

theorem Cmd.sumThrough_succ (q : Cmd) (bank : Bank) (line : Nat → List Byte) (b i k : Nat) :
    q.sumThrough bank line b i (k + 1) = q.cube bank (line (q.lineOf b k)) k i (q.sumThrough bank line b i k) := by
  unfold Cmd.sumThrough
  rw [upFrom_succ, List.foldl_append, Nat.zero_add]
  rfl

/-- A pass after its first `n` steps, each with the line that it reads. -/
def PassRun.stepsOn (p : PassRun) (bank : Bank) (line : Nat → List Byte) (n : Nat) : PassRun :=
  (upFrom 0 n).foldl (fun r t => r.stepOn bank t (if t < p.q.cmd.lines then some (line t) else none)) p

section
variable (p : PassRun) (bank : Bank) (line : Nat → List Byte)

theorem PassRun.stepsOn_succ (n : Nat) :
    p.stepsOn bank line (n + 1) =
      ((p.stepsOn bank line n).takeLine n (if n < p.q.cmd.lines then some (line n) else none)).stepCubes bank n (cubesAt n) := by
  rw [← PassRun.stepOn_eq]
  unfold PassRun.stepsOn
  rw [upFrom_succ, List.foldl_append, Nat.zero_add]
  rfl

theorem PassRun.stepsOn_q (n : Nat) : (p.stepsOn bank line n).q = p.q := by
  induction n with
  | zero => rfl
  | succ n ih => rw [stepsOn_succ, (stepCubes_keeps ..).1]; exact ih

/-- The lines that the grid holds as step `n` works are those read in it and in the 6 steps before. -/
theorem PassRun.line_inStep {l n : Nat} (hl : l < p.q.cmd.lines) (hle : l ≤ n) (hn : n < l + 7) :
    Tab.get [] ((p.stepsOn bank line n).takeLine n (if n < p.q.cmd.lines then some (line n) else none)).lines l = line l := by
  induction n with
  | zero =>
    obtain rfl : l = 0 := by omega
    rw [get_takeLine _ _ _ hn, if_pos rfl, if_pos hl]
    rfl
  | succ n ih =>
    rw [get_takeLine _ _ _ hn]
    split
    case isTrue h => rw [← h, if_pos hl]; rfl
    case isFalse h => rw [stepsOn_succ, (stepCubes_keeps ..).2, ih (by omega) (by omega)]

/-- After `n` steps the sums of a row block have passed through the cubes it has met (02, R41, R42). -/
theorem PassRun.sums_stepsOn (hs : p.sums = []) {b i : Nat} (hb : b < p.q.cmd.rowBlocks) (hi : i < 4) (n : Nat) :
    Tab.get [] (p.stepsOn bank line n).sums (4 * b + i) = p.q.cmd.sumThrough bank line b i (min 4 (n - (b + i))) := by
  induction n with
  | zero =>
    have h0 : Tab.get [] p.sums (4 * b + i) = [] := by rw [hs]; rfl
    simpa [stepsOn, upFrom, Cmd.sumThrough] using h0
  | succ n ih =>
    rw [stepsOn_succ]
    generalize hr : (p.stepsOn bank line n).takeLine n (if n < p.q.cmd.lines then some (line n) else none) = r
    have hq : r.q = p.q := by rw [← hr]; exact p.stepsOn_q bank line n
    have hsums : r.sums = (p.stepsOn bank line n).sums := by rw [← hr]; rfl
    by_cases hmeet : r.q.cmd.meetsAt n b i
    · obtain ⟨hlt, hle, hn⟩ := hmeet.reads hi
      have ⟨hbi, hj, _⟩ := hmeet
      have hk : min 4 (n - (b + i)) = n - b - i := by omega
      have hk' : min 4 (n + 1 - (b + i)) = n - b - i + 1 := by omega
      rw [stepCubes_mem cubesAt_lt (cubesAt_nodup n) (hmeet.mem_cubesAt hi) hmeet, hsums, ih, hk, hk', Cmd.sumThrough_succ]
      rw [hq] at hlt hle hn ⊢
      rw [← hr, line_inStep p bank line hlt hle hn]
    · have hk : min 4 (n + 1 - (b + i)) = min 4 (n - (b + i)) := by
        have hno : ¬ (b + i ≤ n ∧ n - b - i < 4) := fun h => hmeet (hq ▸ ⟨h.1, h.2, hb⟩)
        omega
      rw [stepCubes_idle cubesAt_lt hi hmeet, hsums, ih, hk]

end

/-- Settles O27: a MOVE's copy is its write list, and a row block's sums are followed from step to step through the cubes it meets. -/
theorem moveCopies : Obligations.MoveCopies := by
  unfold Obligations.MoveCopies
  refine ⟨?_, ?_⟩
  · intro s u c n q x rest ecc a b hu hm h ho hc hx hg ha hb hbytes hn
    have heff : u.effectOf c x = u.moveEffect c x := by
      unfold State.effectOf
      dsimp only
      rw [ho]
      rfl
    exact exec_move_copies hu hm h (by rw [ho]; decide) hc (heff ▸ State.moveEffect_writes hx hg ha hb) hn
  · intro p bank line b i hl hs hb hi
    have hsum := p.sums_stepsOn bank line hs hb hi (b + i + 4)
    rwa [Nat.add_sub_cancel_left, Nat.min_self] at hsum

end Sys2Proof.Machine
end

section
/-! PROOF. The completion of a unit's command (04, R87; 07, R163; 02, R42, R43) and the timeouts of stalls (04, R108). -/

namespace Sys2Proof.Machine

theorem EngUnit.code_eq_five {u : EngUnit} : u.code = 5 ↔ u = .x := by cases u <;> decide

/-! ### Retirement (01, R37) -/

theorem Core.retireOld_keeps (k : Core) : k.retireOld.run = k.run ∧ k.retireOld.held = k.held := by
  unfold Core.retireOld
  split
  · split <;> exact ⟨rfl, rfl⟩
  · exact ⟨rfl, rfl⟩

theorem State.endOverlap_cores (s : State) (n : Nat) : (s.endOverlap n).cores = s.cores := by
  unfold State.endOverlap
  dsimp only
  split <;> rfl

/-- Retirement leaves what the units run and the lamps that the core holds. -/
theorem State.retire_keeps (s : State) (n : Nat) (c : CoreId) :
    ((s.retire n c).core c).run = (s.core c).run ∧ ((s.retire n c).core c).held = (s.core c).held ∧ s.otherCores (s.retire n c) c := by
  obtain ⟨hrun, hheld⟩ := (s.core c).retireOld_keeps
  unfold State.retire
  dsimp only
  split
  · refine ⟨?_, ?_, fun d hd => ?_⟩
    · rw [State.core_congr (State.endOverlap_cores ..), State.forgetBanks, State.core_setCore_same, State.core_setCore_same]; exact hrun
    · rw [State.core_congr (State.endOverlap_cores ..), State.forgetBanks, State.core_setCore_same, State.core_setCore_same]; exact hheld
    · rw [State.core_congr (State.endOverlap_cores ..), State.forgetBanks, State.core_setCore_other _ _ hd]
      exact State.core_setCore_other _ _ hd
  · exact ⟨rfl, rfl, fun _ _ => rfl⟩

/-! ### The return of lamps (07, R163) -/

/-- `t` is `s` after core `c` of partition `n` has given `cost` lamps back. -/
structure State.Returns (s t : State) (n : Nat) (c : CoreId) (cost : Nat) : Prop where
  frame : t = { s with parts := t.parts, cores := t.cores, lampRoom := t.lampRoom }
  core : t.core c = { s.core c with held := (s.core c).held - cost }
  otherCores : s.otherCores t c
  otherParts : s.otherParts t n

theorem State.returnLamps_returns (s : State) (n : Nat) (c : CoreId) (cost : Nat) : s.Returns (s.returnLamps n c cost) n c cost := by
  unfold State.returnLamps
  refine ⟨rfl, State.core_updCore_same .., fun d hd => State.core_updCore_other _ _ hd, fun m hm => ?_⟩
  exact State.part_updPart_other { s with lampRoom := _ } (fun p => p.setHeld c.die.val (p.heldOn c.die.val - cost) s.now) hm

/-! ### Completion (04, R87; 02, R53) -/

/-- `t` is `s` after unit `u` of core `c` has completed `r`, but for a generation retired with it. -/
structure State.Completes (s t : State) (n : Nat) (c : CoreId) (u : Nat) (r : Running) : Prop where
  run : (t.core c).run = Tab.erase (s.core c).run u
  held : (t.core c).held = (s.core c).held - r.lamps
  otherCores : s.otherCores t c
  frame : (s.core c).old = none → t = { s with parts := t.parts, cores := t.cores, lampRoom := t.lampRoom }
  otherParts : (s.core c).old = none → s.otherParts t n
  core : (s.core c).old = none →
    t.core c = { s.core c with run := (t.core c).run, held := (t.core c).held, kept := (t.core c).kept, rpend := (t.core c).rpend }

theorem State.completeUnit_completes (s : State) (n : Nat) (c : CoreId) (u : Nat) (r : Running) : s.Completes (s.completeUnit n c u r) n c u r := by
  unfold State.completeUnit
  dsimp only
  have hret := s.returnLamps_returns n c r.lamps
  generalize s.returnLamps n c r.lamps = w at hret
  generalize ht : (w.updCore c fun k =>
    { k with run := Tab.erase k.run u, kept := Tab.put k.kept u (r.lamps, w.cycles c, w.now), rpend := dropSets k.rpend (r.reads.map (·.1)) }) = t
  have hcore : t.core c = { w.core c with
      run := Tab.erase (w.core c).run u, kept := Tab.put (w.core c).kept u (r.lamps, w.cycles c, w.now), rpend := dropSets (w.core c).rpend (r.reads.map (·.1)) } := by
    rw [← ht, State.core_updCore_same]
  have hother : s.otherCores t c := fun d hd => by rw [← ht, State.core_updCore_other _ _ hd]; exact hret.otherCores d hd
  have hframe : t = { w with cores := t.cores } := by rw [← ht]; rfl
  have hold : (t.core c).old = (s.core c).old := by rw [hcore, hret.core]
  obtain ⟨hrun, hheld, hcores⟩ := t.retire_keeps n c
  refine ⟨?_, ?_, fun d hd => (hcores d hd).trans (hother d hd), fun ho => ?_, fun ho => ?_, fun ho => ?_⟩
  · rw [hrun, hcore, hret.core]
  · rw [hheld, hcore, hret.core]
  · rw [State.retire_of_no_old n (hold.trans ho), hframe, hret.frame]
  · intro m hm
    have hparts : t.part m = w.part m := State.part_congr (by rw [hframe]) m
    rw [State.retire_of_no_old n (hold.trans ho), hparts]
    exact hret.otherParts m hm
  · rw [State.retire_of_no_old n (hold.trans ho), hcore, hret.core]

section
variable {s v : State} {c : CoreId} {n : Nat} {u : EngUnit} {r : Running}

/-- In Run a unit that runs something completes, waits or goes on. -/
theorem exec_engineCommandComplete_run (hv : v = s.catchUp) (hp : v.partOf c = some n) (hst : (v.part n).st = .run) (hr : Tab.find (v.core c).run u.code = some r) :
    exec (.engineCommandComplete c u) s = .next (if v.finished c u.code r then (v.updCore c fun k => k.endWait 12 7 v.now).completeUnit n c u.code r
      else if u = .x ∧ r.startCyc + r.cycles ≤ v.cycles c then v.updCore c fun k => k.beginWait 12 (v.countOf c (r.startCyc + r.cycles)) else v) := by
  show execEngineCommandComplete c u s = _
  unfold execEngineCommandComplete
  dsimp only
  rw [← hv]
  simp only [hp, hr]
  rw [if_neg (not_not.2 hst)]

/-- A pass chain is finished with its last step. -/
theorem State.finished_pass (ho : r.q.cmd.opcode = 0x01) (h : r.passes = [] ∧ r.stepAt ≤ v.cycles c) : v.finished c u.code r = true := by
  unfold State.finished
  rw [if_pos ho, h.1]
  simpa using h.2

/-- Any other command is finished with its cycles, its effect and, for a SEND, its packets and flits. -/
theorem State.finished_other (ho : r.q.cmd.opcode ≠ 0x01) :
    v.finished c u.code r = true ↔
      r.owed = false ∧ r.startCyc + r.cycles ≤ v.cycles c ∧ (u = .x → (v.core c).inject = [] ∧ v.heldAtPort c = false) := by
  unfold State.finished
  rw [if_neg ho]
  simp only [Bool.and_eq_true, Bool.or_eq_true, Bool.not_eq_true', decide_eq_true_eq, List.isEmpty_iff, and_assoc, ne_eq, EngUnit.code_eq_five]
  rw [← imp_iff_not_or]

/-- What runs out leaves its unit free, with its lamps returned. -/
theorem exec_complete_finished (hv : v = s.catchUp) (hp : v.partOf c = some n) (hst : (v.part n).st = .run) (hr : Tab.find (v.core c).run u.code = some r)
    (hrise : Tab.rising none (v.core c).run = true) (hf : v.finished c u.code r = true) :
    ∃ t, exec (.engineCommandComplete c u) s = .next t ∧ Tab.find (t.core c).run u.code = none ∧ (∀ w, w ≠ u.code → Tab.find (t.core c).run w = Tab.find (v.core c).run w) ∧
      (t.core c).held = (v.core c).held - r.lamps ∧ v.otherCores t c ∧
      ((v.core c).old = none →
        t = { v with parts := t.parts, cores := t.cores, lampRoom := t.lampRoom } ∧ v.otherParts t n ∧
        t.core c = { v.core c with run := (t.core c).run, held := (t.core c).held, kept := (t.core c).kept, rpend := (t.core c).rpend, lampWait := (t.core c).lampWait, lost := (t.core c).lost }) := by
  obtain ⟨lw, lo, hwait⟩ := (v.core c).endWait_frame 12 7 v.now
  generalize hw : (v.updCore c fun k => k.endWait 12 7 v.now) = w
  have hcore : w.core c = { v.core c with lampWait := lw, lost := lo } := by rw [← hw, State.core_updCore_same, hwait]
  have hother : v.otherCores w c := fun d hd => by rw [← hw, State.core_updCore_other _ _ hd]
  have hframe : w = { v with cores := w.cores } := by rw [← hw]; rfl
  have hdone := w.completeUnit_completes n c u.code r
  refine ⟨w.completeUnit n c u.code r, ?_, ?_, fun e he => ?_, ?_, fun d hd => (hdone.otherCores d hd).trans (hother d hd), fun ho => ?_⟩
  · rw [exec_engineCommandComplete_run hv hp hst hr, if_pos hf, hw]
  · rw [hdone.run, hcore]; exact Tab.find_erase_same _ hrise
  · rw [hdone.run, hcore]; exact Tab.find_erase_other _ he
  · rw [hdone.held, hcore]
  · have ho' : (w.core c).old = none := by rw [hcore]; exact ho
    refine ⟨by rw [hdone.frame ho', hframe], fun m hm => ?_, by rw [hdone.core ho', hcore]⟩
    rw [hdone.otherParts ho' m hm]
    exact State.part_congr (by rw [hframe]) m

end

/-! ### Timeouts (04, R108) -/

section
variable {s v : State} {c : CoreId} {n : Nat} {q : Queue} {x : Stall}

/-- In Run what has reached its limit stops the partition. -/
theorem exec_waitTimeout_run (hv : v = s.catchUp) (hp : v.partOf c = some n) (hst : (v.part n).st = .run) {cmd item : Nat} (h : v.timedOut n c q = some (cmd, item)) :
    exec (.waitTimeout c q) s = .next (v.faultStop n { code := cTIMEOUT, core := some c, queue := q.code, cmd := cmd, item := item }) := by
  have hdet : v.detects n c q.code = true := by simp [State.detects, hst]
  show execWaitTimeout c q s = _
  unfold execWaitTimeout
  dsimp only
  rw [← hv]
  simp only [hp, h, hdet, if_true]

theorem exec_waitTimeout_none (hv : v = s.catchUp) (hp : v.partOf c = some n) (h : v.timedOut n c q = none) : exec (.waitTimeout c q) s = .next v := by
  show execWaitTimeout c q s = _
  unfold execWaitTimeout
  dsimp only
  rw [← hv]
  simp only [hp, h]

/-- A pass in the cubes is named before the head of its queue. -/
theorem State.timedOut_pass {i : Nat} (hq : q.code < 2) (hx : Tab.find (v.core c).stalls (5 + q.code) = some x) (hl : x.limit ≤ x.edges)
    (hi : (v.core c).passStalls q.code = some i) : v.timedOut n c q = some (i, x.item) := by
  unfold State.timedOut
  simp [hq, hx, hl, hi, Option.filter]

/-- Without one the command of the queue is named, or the sequencer's. -/
theorem State.timedOut_queue (hx : Tab.find (v.core c).stalls q.code = some x) (hl : x.limit ≤ x.edges) (hh : v.stallHolds n c q.code x = true)
    (hp : q.code < 2 → (v.core c).passStalls q.code = none ∨ Tab.find (v.core c).stalls (5 + q.code) = none) :
    ∃ cmd, v.timedOut n c q = some (cmd, x.item) ∧ (q = .seq → cmd = (v.core c).pc) ∧ (q ≠ .seq → ∀ y rest, (v.core c).queue q.code = y :: rest → cmd = y.idx) := by
  have hcubes : (if q.code < 2 then ((Tab.find (v.core c).stalls (5 + q.code)).filter fun x => decide (x.limit ≤ x.edges)).bind fun x =>
      ((v.core c).passStalls q.code).map fun i => (i, x.item) else none) = none := by
    split
    case isTrue hq => rcases hp hq with h | h <;> simp [h]
    case isFalse => rfl
  unfold State.timedOut
  dsimp only
  rw [hcubes]
  simp only [hx, Option.filter, hl, decide_true, if_true, hh, Option.map_some]
  exact ⟨_, rfl, fun hq => if_pos hq, fun hq y rest hy => by rw [if_neg hq, hy]⟩

end

/-- Settles O28: the completion is followed from the end of the wait through the return of the lamps to the retirement, and a timeout from the stall that names it. -/
theorem engineCompletes : Obligations.EngineCompletes := by
  unfold Obligations.EngineCompletes
  intro s v c n hv hp hst
  refine ⟨fun u r hrise hr => ⟨fun hother hpass => ?_, fun ho hcyc => ?_, fun ho howed hu => ?_, fun ho hcyc hu hleft => ?_⟩, fun q x hx hl hh hnone => ?_,
    fun q x i hq hx hl hi => exec_waitTimeout_run hv hp hst (State.timedOut_pass hq hx hl hi), fun q h => exec_waitTimeout_none hv hp h⟩
  · refine exec_complete_finished hv hp hst hr hrise ?_
    by_cases ho : r.q.cmd.opcode = 0x01
    · exact State.finished_pass ho (hpass ho)
    · exact (State.finished_other ho).2 (hother ho)
  · have hno : ¬ v.finished c u.code r = true := fun hf => by
      have hran := ((State.finished_other ho).1 hf).2.1
      omega
    rw [exec_engineCommandComplete_run hv hp hst hr, if_neg hno, if_neg fun hx => by omega]
  · have hno : ¬ v.finished c u.code r = true := fun hf => by
      have hpaid := ((State.finished_other ho).1 hf).1
      rw [howed] at hpaid
      cases hpaid
    rw [exec_engineCommandComplete_run hv hp hst hr, if_neg hno, if_neg fun hx => hu hx.1]
  · have hno : ¬ v.finished c u.code r = true := fun hf => by
      obtain ⟨hinject, hport⟩ := ((State.finished_other ho).1 hf).2.2 hu
      rcases hleft with h | h
      · exact h hinject
      · rw [hport] at h; cases h
    refine ⟨_, by rw [exec_engineCommandComplete_run hv hp hst hr, if_neg hno, if_pos ⟨hu, hcyc⟩], ?_, ?_⟩
    · rw [State.core_updCore_same]; rfl
    · rw [State.core_updCore_same]
      unfold Core.beginWait
      split <;> rfl
  · obtain ⟨cmd, hlate, hnamed⟩ := State.timedOut_queue hx hl hh hnone
    exact ⟨cmd, exec_waitTimeout_run hv hp hst hlate, hnamed⟩

end Sys2Proof.Machine
end

section
/-! PROOF. The way of a message or request (07, R177; 13, R300), and the completion of memory requests (04, R102; 05, R128, R134, R141). -/

namespace Sys2Proof.Machine

/-! ### A core that stands in the table of cores -/

/-- The table of cores lists the core as it reads. -/
def State.lists (s : State) (c : CoreId) : Prop := Tab.put s.cores c.ix (s.core c) = s.cores

theorem State.lists_congr {s t : State} (h : t.cores = s.cores) {c : CoreId} (hs : s.lists c) : t.lists c := by
  unfold State.lists at *
  rw [State.core_congr h, h, hs]

theorem State.setCore_lists (s : State) (c : CoreId) (k : Core) : (s.setCore c k).lists c := by
  unfold State.lists
  rw [State.core_setCore_same]
  exact Tab.put_put ..

/-! ### The way (07, R177, R179; 13, R300; 05, R142) -/

/-- From `s` to `t` something of core `c` has passed along its way: counters, crossings, and the time that the core has lost. -/
structure State.Travels (s t : State) (c : CoreId) : Prop where
  frame : t = { s with cores := t.cores, crossings := t.crossings, fifos := t.fifos, events := t.events, counts := t.counts, canAcc := t.canAcc }
  core : t.core c = { s.core c with lost := (t.core c).lost }
  others : s.otherCores t c
  lists : s.lists c → t.lists c

theorem State.Travels.trans {s t u : State} {c : CoreId} (h : s.Travels t c) (k : t.Travels u c) : s.Travels u c :=
  ⟨by rw [k.frame, h.frame], by rw [k.core, h.core], fun d hd => (k.others d hd).trans (h.others d hd), k.lists ∘ h.lists⟩

/-- What leaves the cores alone. -/
theorem State.Travels.of_cores {s t : State} (c : CoreId)
    (hf : t = { s with crossings := t.crossings, fifos := t.fifos, events := t.events, counts := t.counts, canAcc := t.canAcc }) : s.Travels t c := by
  have hcores : t.cores = s.cores := by rw [hf]
  refine ⟨?_, ?_, fun d _ => State.core_congr hcores d, State.lists_congr hcores⟩
  · rw [hcores]; exact hf
  · rw [State.core_congr hcores]

theorem State.addLost_travels (s : State) (c : CoreId) (cause ps : Nat) : s.Travels (s.updCore c fun k => k.addLost cause ps) c := by
  refine ⟨rfl, ?_, fun d hd => State.core_updCore_other _ _ hd, fun _ => State.setCore_lists ..⟩
  rw [State.core_updCore_same]
  unfold Core.addLost
  split <;> rfl

theorem State.countHolds_travels (s : State) (c : CoreId) (x : Nat) (pt : Option Nat) (k : Nat) : s.Travels (s.countHolds x pt k) c := by
  refine .of_cores c ?_
  unfold State.countHolds
  dsimp only
  split
  · rfl
  · split <;> rfl

theorem State.crossOver_travels (s : State) (n : Nat) (c : CoreId) (p : Passage) : s.Travels (s.crossOver n c p) c := by
  unfold State.crossOver
  dsimp only
  have hpass (f : Crossing → Crossing) (k : Nat) : s.Travels ((s.updCrossing p.crossing.val f).countHolds p.crossing.val (some n) k) c :=
    (State.Travels.of_cores c rfl).trans (State.countHolds_travels ..)
  split
  · exact (hpass _ _).trans (State.addLost_travels ..)
  · exact hpass _ _

theorem State.passFifo_travels (s : State) (c : CoreId) (p : FifoPassage) : s.Travels (s.passFifo c p) c := by
  unfold State.passFifo
  dsimp only
  have hpass (m : Tab Nat) : s.Travels { s with fifos := m } c := .of_cores c rfl
  split
  · exact (hpass _).trans (State.addLost_travels ..)
  · exact hpass _

theorem State.edgeRetries_travels (s : State) (c : CoreId) (pt : Option Nat) (r : Fin 13 × Nat) : s.Travels (s.edgeRetries pt r) c := by
  refine .of_cores c ?_
  unfold State.edgeRetries
  split <;> rfl

theorem State.queueWait_travels (s : State) (c : CoreId) (n : Nat) (w : QueueWait) : s.Travels (s.queueWait n w) c := by
  refine .of_cores c ?_
  unfold State.queueWait
  split <;> rfl

theorem State.foldl_travels {α : Type} {c : CoreId} {f : State → α → State} (h : ∀ (s : State) x, s.Travels (f s x) c) (l : List α) (s : State) : s.Travels (l.foldl f s) c := by
  induction l generalizing s with
  | nil => exact .of_cores c rfl
  | cons x l ih => exact (h s x).trans (ih _)

theorem State.travel_travels (s : State) (n : Nat) (c : CoreId) (w : Way) : s.Travels (s.travel n c w) c := by
  unfold State.travel
  exact (((State.foldl_travels (fun s p => s.crossOver_travels n c p) _ _).trans (State.foldl_travels (fun s p => s.passFifo_travels c p) _ _)).trans
    (State.foldl_travels (fun s r => s.edgeRetries_travels c (some n) r) _ _)).trans (State.foldl_travels (fun s q => s.queueWait_travels c n q) _ _)

/-! ### A request leaves its queue and passes its way (04, R102) -/

/-- `w` is `s` after request `i` of core `c` has left the decoupling queue and passed its way. -/
structure State.Leaves (s w : State) (c : CoreId) (i : Nat) : Prop where
  frame : w = { s with cores := w.cores, crossings := w.crossings, fifos := w.fifos, events := w.events, counts := w.counts, canAcc := w.canAcc }
  core : w.core c = { s.core c with memq := dropAt (s.core c).memq i, lost := (w.core c).lost }
  lists : w.lists c

theorem State.takeRequestOut_leaves (s : State) (n : Nat) (c : CoreId) (i : Nat) (way : Way) : s.Leaves ((s.takeRequestOut c i).travel n c way) c i := by
  have hway := (s.takeRequestOut c i).travel_travels n c way
  refine ⟨hway.frame, ?_, hway.lists (State.setCore_lists ..)⟩
  rw [hway.core, State.takeRequestOut, State.core_updCore_same]

/-! ### The arrival flag (04, R102, R106) -/

/-- `t` is `s` after the arrival flag of request `r` has risen, when it names one. -/
structure State.Arrives (s t : State) (c : CoreId) (r : MemReq) : Prop where
  frame : t = { s with cores := t.cores }
  core : t.core c = { s.core c with flags := (t.core c).flags, refreshItems := (t.core c).refreshItems }
  flag : ∀ f, (t.core c).flag f = (s.core c).flag f + (if f < 64 ∧ f = r.flag then 1 else 0)
  others : s.otherCores t c
  cores : s.lists c → t.cores = Tab.put s.cores c.ix (t.core c)

/-- An increment of a flag that is not full. -/
theorem State.incFlag_rises {s : State} {n : Nat} {c : CoreId} {f : Nat} (vc : Tab Nat) (ha : s.assayEn n = false) (hf : (s.core c).flag f < 65535) :
    s.incFlag n c f vc = s.updCore c fun k => { k with flags := Tab.put k.flags f ((s.core c).flag f + 1) } := by
  unfold State.incFlag State.addFlag
  dsimp only
  rw [if_pos hf, if_neg]
  rw [State.assayEn_congr (State.updCore_regs ..), ha]
  exact Bool.false_ne_true

theorem State.arrive_arrives {s : State} {n : Nat} {c : CoreId} {r : MemReq} (vc : Tab Nat) (ha : s.assayEn n = false) (hf : r.flag < 64 → (s.core c).flag r.flag < 65535) :
    s.Arrives (s.arrive n c r vc) c r := by
  unfold State.arrive
  split
  case isTrue hno =>
    refine ⟨rfl, rfl, fun f => ?_, fun _ _ => rfl, fun hl => hl.symm⟩
    rw [if_neg (by omega), Nat.add_zero]
  case isFalse hflag =>
    dsimp only
    generalize hw : (if r.refreshNs = 0 then s else s.updCore c fun k => { k with refreshItems := Tab.put k.refreshItems r.flag (Nat.max r.refreshNs (Tab.get 0 k.refreshItems r.flag)) }) = w
    have hframe : w = { s with cores := w.cores } := by rw [← hw]; split <;> rfl
    have hcore : w.core c = { s.core c with refreshItems := (w.core c).refreshItems } := by
      rw [← hw]
      split
      · rfl
      · rw [State.core_updCore_same]
    have hother : s.otherCores w c := fun d hd => by
      rw [← hw]
      split
      · rfl
      · exact State.core_updCore_other _ _ hd
    have hcores (k : Core) : Tab.put w.cores c.ix k = Tab.put s.cores c.ix k := by
      rw [← hw]
      split
      · rfl
      · exact Tab.put_put ..
    have hold (f : Nat) : (w.core c).flag f = (s.core c).flag f := by rw [hcore]; rfl
    rw [State.incFlag_rises vc ((State.assayEn_congr (by rw [hframe]) n).trans ha) (by rw [hold]; exact hf (by omega))]
    refine ⟨?_, ?_, fun f => ?_, fun d hd => (State.core_updCore_other _ _ hd).trans (hother d hd), fun _ => ?_⟩
    · rw [State.updCore, State.setCore, hframe]
    · rw [State.core_updCore_same, hcore]
    · rw [State.core_updCore_same]
      show Tab.get 0 (Tab.put (w.core c).flags r.flag ((w.core c).flag r.flag + 1)) f = _
      rw [Tab.get_put, ← hold]
      split
      case isTrue h => rw [if_pos ⟨by omega, h⟩, h]
      case isFalse h => rw [if_neg fun hx => h hx.2]; rfl
    · rw [State.core_updCore_same]
      exact hcores _

/-! ### Sectors, where none is poisoned and the code finds nothing (05, R130) -/

theorem State.readSectors_clean {s : State} (h : s.hbmPoison = []) (n : Nat) (as : List Nat) {ecc : List EccAt} (hc : cleanReads ecc) : s.readSectors n as ecc = (s, none) := by
  unfold State.readSectors
  have hnone : s.hbmPoisonAt n as = none := by simp [State.hbmPoisonAt, h]
  rw [hnone]
  dsimp only
  induction ecc with
  | nil => rfl
  | cons e ecc ih =>
    obtain ⟨he, hrest⟩ := List.forall_mem_cons.1 hc
    rw [List.foldl_cons]
    simp only [he, ite_self]
    exact ih hrest

theorem State.clearHbmPoison_clean {s : State} (h : s.hbmPoison = []) (n : Nat) (as : List Nat) : s.clearHbmPoison n as = s := by simp [State.clearHbmPoison, h]

theorem State.assayHbm_off {s : State} {n : Nat} (h : s.assayEn n = false) (c : CoreId) (cmd : Nat) (vc : Tab Nat) (w : Bool) (as : List Nat) :
    s.assayHbm n c cmd vc w as = (vc, s) := by simp [State.assayHbm, State.assayChk_off h]

theorem State.assayLanding_off {s : State} {n : Nat} (h : s.assayEn n = false) (c d : CoreId) (cmd : Nat) (vc : Tab Nat) (as : List Int) :
    s.assayLanding n c d cmd vc as = ([], s) := by simp [State.assayLanding, h]

end Sys2Proof.Machine
end

section
/-! PROOF. What a FETCH and a STORE do when they complete (04, R101, R102; 05, R128, R134, R141). -/

namespace Sys2Proof.Machine

/-! ### The bytes of a FETCH land (04, R101, R102) -/

/-- `t` is `s` after the bytes `bs` of request `r` have landed in the stores of core `c`. -/
structure State.Lands (s t : State) (c : CoreId) (r : MemReq) (bs : List Byte) : Prop where
  frame : t = { s with cores := t.cores, coreMem := t.coreMem, cluMem := t.cluMem, fresh := t.fresh }
  core : t.core c = { s.core c with flags := (t.core c).flags, refreshItems := (t.core c).refreshItems, ahead := (t.core c).ahead }
  flag : ∀ f, (t.core c).flag f = (s.core c).flag f + (if f < 64 ∧ f = r.flag then 1 else 0)
  others : s.otherCores t c
  kept : s.storesKept t c (r.stAddr.map fun (a : Nat) => (a : Int))
  bytes : s.memoryWf → r.stAddr.Nodup → ∀ (j x : Nat) b, storeOk (x : Nat) = true → r.stAddr[j]? = some x → bs[j]? = some b → t.readSt c (x : Nat) = b

section
variable {s : State} {n : Nat} {c : CoreId} {r : MemReq}

/-- Without poison and outside assay mode a landing is a list of writes and the arrival flag. -/
theorem State.land_eq (hp : s.poison = []) (ha : s.assayEn n = false) (bs : List Byte) :
    s.land n c r bs = (s.writeStAt c ((r.stAddr.map fun (a : Nat) => (a : Int)).zip bs)).arrive n c r [] := by
  have hw := (s.writeStAt_writes c ((r.stAddr.map fun (a : Nat) => (a : Int)).zip bs)).frame
  unfold State.land
  dsimp only
  rw [State.partialPoison_clean hp]
  generalize s.writeStAt c ((r.stAddr.map fun (a : Nat) => (a : Int)).zip bs) = w at hw
  have hoff : w.assayEn n = false := (State.assayEn_congr (by rw [hw]) n).trans ha
  dsimp only
  rw [State.clearPoison_clean (by rw [hw]; exact hp), State.setTags_off hoff, State.assayHbm_off hoff, ite_self]
  dsimp only
  rw [State.assayLanding_off hoff]

theorem State.land_lands (hp : s.poison = []) (ha : s.assayEn n = false) (hf : r.flag < 64 → (s.core c).flag r.flag < 65535) (bs : List Byte) :
    s.Lands (s.land n c r bs) c r bs := by
  rw [State.land_eq hp ha]
  generalize has : (r.stAddr.map fun (a : Nat) => (a : Int)) = as
  have hw := s.writeStAt_writes c (as.zip bs)
  have hflags (f : Nat) : ((s.writeStAt c (as.zip bs)).core c).flag f = (s.core c).flag f := by rw [hw.core]; rfl
  have hoff : (s.writeStAt c (as.zip bs)).assayEn n = false := (State.assayEn_congr (by rw [hw.frame]) n).trans ha
  have har := State.arrive_arrives (c := c) (r := r) [] hoff (by rw [hflags]; exact hf)
  generalize (s.writeStAt c (as.zip bs)).arrive n c r [] = t at har
  have hbyte (p : StoreId × Nat) : t.byteAt p = (s.writeStAt c (as.zip bs)).byteAt p := State.byteAt_congr (by rw [har.frame]) (by rw [har.frame]) p
  refine ⟨by rw [har.frame, hw.frame], by rw [har.core, hw.core], fun f => by rw [har.flag, hflags], fun d hd => (har.others d hd).trans (hw.others d hd), ?_, ?_⟩
  · rw [has]
    refine State.storesKept_of_byteAt fun p hout => (hbyte p).trans (State.byteAt_writeStAt_other s c fun w hwm => hout _ ?_)
    exact (List.of_mem_zip hwm).1
  · intro hm hn j x b hok hx hb
    obtain ⟨p, hpl⟩ := byteOf_of_storeOk c hok
    have hxs : as[j]? = some (x : Int) := by rw [← has, List.getElem?_map, hx]; rfl
    have hread := State.readSt_writeStAt_zip hm (c := c) (as := as) (by rw [← has]; exact hn.map Nat.cast_injective) hxs hb hok
    rw [State.readSt_of_byteOf _ hpl, hbyte, ← State.readSt_of_byteOf _ hpl, hread]

end

/-- What a FETCH lays down: the bytes of the stacks, or those the host gave. -/
def State.fetched (s : State) (n : Nat) (r : MemReq) (hostBytes : List Byte) : List Byte :=
  if r.gallery then spread r.memAddr hostBytes else r.memAddr.map fun x => x.elim 0 (s.readHbm n)

theorem State.readHbm_congr {s t : State} (hr : t.regs = s.regs) (hh : t.hbm = s.hbm) (n a : Nat) : t.readHbm n a = s.readHbm n a := by
  unfold State.readHbm
  rw [State.extents_congr hr, hh]

/-- A FETCH without error lands after its way. -/
theorem exec_fetchLanded {s u : State} {c : CoreId} {n i : Nat} {r : MemReq} {ecc : List EccAt} (bs : List Byte) (way : Way) (hu : u = s.catchUp) (hn : n = u.ownerOf c)
    (hp : u.hbmPoison = []) (hr : u.request c i false = some r) (hc : cleanReads ecc) :
    exec (.fetchLanded c ⟨i, way⟩ bs ecc) s = .next (((u.takeRequestOut c i).travel n c way).land n c r (u.fetched n r bs)).catchUp := by
  have hway := u.takeRequestOut_leaves n c i way
  have hread (a : Nat) : ((u.takeRequestOut c i).travel n c way).readHbm n a = u.readHbm n a := State.readHbm_congr (by rw [hway.frame]) (by rw [hway.frame]) n a
  show execFetchLanded c ⟨i, way⟩ bs ecc s = _
  unfold execFetchLanded State.fetched
  dsimp only
  rw [← hu, hr]
  dsimp only
  rw [← hn]
  split
  · rfl
  · rw [State.readSectors_clean (by rw [hway.frame]; exact hp) n r.mem hc]
    refine congrArg (fun l => Host.Outcome.next (State.catchUp (State.land _ n c r l))) (List.map_congr_left fun x _ => ?_)
    cases x with
    | none => rfl
    | some a => exact hread a

/-! ### The bytes of a STORE in the stacks (05, R128, R134) -/

/-- A byte of a stack. -/
def State.hbmAt (s : State) (p : Nat × Nat) : Byte := Mem.read (Tab.get [] s.hbm p.1) p.2

theorem State.readHbm_of_locate {s : State} {n a : Nat} {p : Nat × Nat} (h : locate (s.extents n) a = some p) : s.readHbm n a = s.hbmAt p := by
  unfold State.readHbm
  rw [h]
  rfl

theorem State.extents_writeHbm (s : State) (n a : Nat) (b : Byte) (m : Nat) : (s.writeHbm n a b).extents m = s.extents m :=
  State.extents_congr (by rw [State.writeHbm_frame]) m

theorem State.hbmAt_writeHbm_other (s : State) {n a : Nat} (b : Byte) {p : Nat × Nat} (h : locate (s.extents n) a ≠ some p) : (s.writeHbm n a b).hbmAt p = s.hbmAt p := by
  unfold State.writeHbm
  split
  case h_1 k x ha =>
    split
    · rfl
    · unfold State.hbmAt
      by_cases hk : p.1 = k
      · have hx : p.2 ≠ x := fun hx => h (by rw [ha, ← hk, ← hx])
        dsimp only
        rw [hk, Tab.get_put_same, Mem.read_write_other _ _ hx]
      · exact congrArg (Mem.read · p.2) (Tab.get_put_other _ _ _ hk)
  case h_2 => rfl

theorem State.hbmAt_writeHbm_same {s : State} (hm : s.memoryWf) {n a : Nat} (b : Byte) {p : Nat × Nat} (h : locate (s.extents n) a = some p) :
    (s.writeHbm n a b).hbmAt p = if (s.stack p.1).tripped then s.hbmAt p else b := by
  split
  case isTrue ht => rw [State.writeHbm_tripped n a b h ht]
  case isFalse ht =>
    have hread := State.readHbm_writeHbm hm n a a b h (by simpa using ht)
    have hat : locate ((s.writeHbm n a b).extents n) a = some p := by rw [State.extents_writeHbm]; exact h
    rw [← State.readHbm_of_locate hat, hread, if_pos h]

/-- A list of bytes written in a region, one after the other. -/
def State.writeHbmAt (s : State) (n : Nat) (l : List (Nat × Byte)) : State := l.foldl (fun s w => s.writeHbm n w.1 w.2) s

theorem State.writeHbmAt_frame (s : State) (n : Nat) (l : List (Nat × Byte)) : s.writeHbmAt n l = { s with hbm := (s.writeHbmAt n l).hbm } := by
  induction l generalizing s with
  | nil => rfl
  | cons w l ih =>
    show (s.writeHbm n w.1 w.2).writeHbmAt n l = { s with hbm := ((s.writeHbm n w.1 w.2).writeHbmAt n l).hbm }
    rw [ih, State.writeHbm_frame]

/-- A list of writes leaves every place of the stacks that none of them reaches. -/
theorem State.hbmAt_writeHbmAt_other (s : State) {n : Nat} {l : List (Nat × Byte)} {p : Nat × Nat} (h : ∀ w ∈ l, locate (s.extents n) w.1 ≠ some p) :
    (s.writeHbmAt n l).hbmAt p = s.hbmAt p := by
  induction l generalizing s with
  | nil => rfl
  | cons w l ih =>
    obtain ⟨hw, hl⟩ := List.forall_mem_cons.1 h
    exact (ih _ (by rw [State.extents_writeHbm]; exact hl)).trans (State.hbmAt_writeHbm_other s _ hw)

/-- Of writes that reach different places each stands, but for those on a tripped stack. -/
theorem State.hbmAt_writeHbmAt_zip {s : State} (hm : s.memoryWf) {n : Nat} {as : List Nat} {bs : List Byte} (hn : (as.filterMap (locate (s.extents n))).Nodup) {j a : Nat}
    {b : Byte} {p : Nat × Nat} (ha : as[j]? = some a) (hb : bs[j]? = some b) (hp : locate (s.extents n) a = some p) :
    (s.writeHbmAt n (as.zip bs)).hbmAt p = if (s.stack p.1).tripped then s.hbmAt p else b := by
  induction as generalizing s bs j with
  | nil => cases ha
  | cons a' as ih =>
    cases bs with
    | nil => cases hb
    | cons b' bs =>
      show ((s.writeHbm n a' b').writeHbmAt n (as.zip bs)).hbmAt p = _
      cases j with
      | zero =>
        obtain rfl : a' = a := Option.some.inj ha
        obtain rfl : b' = b := Option.some.inj hb
        rw [List.filterMap_cons_some hp] at hn
        have hnew := (List.nodup_cons.1 hn).1
        rw [State.hbmAt_writeHbmAt_other, State.hbmAt_writeHbm_same hm _ hp]
        intro w hw hwp
        rw [State.extents_writeHbm] at hwp
        exact hnew (List.mem_filterMap.2 ⟨w.1, (List.of_mem_zip hw).1, hwp⟩)
      | succ j =>
        have hmem : p ∈ as.filterMap (locate (s.extents n)) := List.mem_filterMap.2 ⟨a, List.mem_of_getElem? ha, hp⟩
        have hne : locate (s.extents n) a' ≠ some p := fun h => by
          rw [List.filterMap_cons_some h] at hn
          exact (List.nodup_cons.1 hn).1 hmem
        have htail : (as.filterMap (locate ((s.writeHbm n a' b').extents n))).Nodup := by
          rw [State.extents_writeHbm]
          exact hn.sublist ((List.sublist_cons_self ..).filterMap _)
        rw [ih (State.memoryWf_writeHbm hm n a' b') htail ha hb (by rw [State.extents_writeHbm]; exact hp), State.hbmAt_writeHbm_other s _ hne]
        have hstk : (s.writeHbm n a' b').stack p.1 = s.stack p.1 := by rw [State.writeHbm_frame]; rfl
        rw [hstk]

/-- The region bytes that no write of a list reaches are as they were, of every partition. -/
theorem State.readHbm_writeHbmAt_other (s : State) {n : Nat} {l : List (Nat × Byte)} {m a : Nat}
    (h : locate (s.extents m) a ∉ l.map fun w => locate (s.extents n) w.1) : (s.writeHbmAt n l).readHbm m a = s.readHbm m a := by
  have hext : (s.writeHbmAt n l).extents m = s.extents m := State.extents_congr (by rw [State.writeHbmAt_frame]) m
  cases hp : locate (s.extents m) a with
  | none => unfold State.readHbm; rw [hext, hp]
  | some p =>
    rw [State.readHbm_of_locate (hext ▸ hp), State.readHbm_of_locate hp]
    exact State.hbmAt_writeHbmAt_other s fun w hw hwp => h (List.mem_map.2 ⟨w, hw, hwp.trans hp.symm⟩)

end Sys2Proof.Machine
end

section
/-! PROOF. The completion of a STORE (04, R102; 05, R128, R134, R141), and what the completion of a memory request does. -/

namespace Sys2Proof.Machine

/-- `v` is `w` after the bytes of STORE `r` have gone to the stacks, or to the host through the gallery. -/
structure State.Stores (w v : State) (n : Nat) (r : MemReq) : Prop where
  frame : v = { w with hbm := v.hbm, outbox := v.outbox }
  gallery : r.gallery = true → v.hbm = w.hbm ∧ ∀ o f, Tab.find (w.part n).gal (r.handle % 4096) = some o → w.owner n = some f →
    v.outbox = w.outbox ++ (runsOf (r.mem.zip r.data)).map fun x => .hostWrite f (o.base + x.1) x.2
  region : r.gallery = false → v = w.writeHbmAt n (r.mem.zip r.data)

/-- Without error a STORE writes its bytes, and its flag rises. -/
theorem State.storeDone_stores {w : State} {n : Nat} (c : CoreId) (r : MemReq) {ecc : List EccAt} (hp : w.hbmPoison = []) (ha : w.assayEn n = false) (hc : cleanReads ecc) :
    ∃ v vc, w.storeDone n c r ecc = v.arrive n c r vc ∧ w.Stores v n r := by
  unfold State.storeDone
  dsimp only
  split
  case isTrue hg =>
    have hno : ¬ r.gallery = false := by rw [hg]; decide
    split
    case h_1 o f ho hf =>
      refine ⟨_, r.vc, rfl, ?_⟩
      rw [foldl_emit]
      refine ⟨rfl, fun _ => ⟨rfl, fun o' f' ho' hf' => ?_⟩, fun h => absurd h hno⟩
      obtain rfl : o = o' := Option.some.inj (ho.symm.trans ho')
      obtain rfl : f = f' := Option.some.inj (hf.symm.trans hf')
      rfl
    case h_2 hnone => exact ⟨w, r.vc, rfl, rfl, fun _ => ⟨rfl, fun o f ho hf => (hnone o f ho hf).elim⟩, fun h => absurd h hno⟩
  case isFalse hg =>
    rw [State.readSectors_clean hp _ _ hc]
    dsimp only
    have hframe := w.writeHbmAt_frame n (r.mem.zip r.data)
    have hfold : (r.mem.zip r.data).foldl (fun s x => s.writeHbm n x.1 x.2) w = w.writeHbmAt n (r.mem.zip r.data) := rfl
    rw [hfold, State.clearHbmPoison_clean (by rw [hframe]; exact hp), State.assayHbm_off ((State.assayEn_congr (by rw [hframe]) n).trans ha)]
    exact ⟨_, r.vc, rfl, by rw [hframe], fun h => absurd h hg, fun _ => rfl⟩

section
variable {w v : State} {n : Nat} {r : MemReq}

/-- A STORE changes the region bytes that it reaches, and no other. -/
theorem State.Stores.readHbm_other (h : w.Stores v n r) {m a : Nat} (hout : locate (w.extents m) a ∉ r.mem.map (locate (w.extents n))) : v.readHbm m a = w.readHbm m a := by
  cases hg : r.gallery with
  | true => exact State.readHbm_congr (by rw [h.frame]) (h.gallery hg).1 m a
  | false =>
    rw [h.region hg]
    refine State.readHbm_writeHbmAt_other w fun hin => hout ?_
    obtain ⟨e, he, hloc⟩ := List.mem_map.1 hin
    exact List.mem_map.2 ⟨e.1, (List.of_mem_zip he).1, hloc⟩

/-- Each byte of a STORE stands at its place, but for those on a tripped stack. -/
theorem State.Stores.readHbm_same (h : w.Stores v n r) (hm : w.memoryWf) (hg : r.gallery = false) (hn : (r.mem.filterMap (locate (w.extents n))).Nodup) {j k o : Nat}
    (hj : j < r.mem.length) (hd : j < r.data.length) (hloc : locate (w.extents n) r.mem[j] = some (k, o)) :
    v.readHbm n r.mem[j] = if (w.stack k).tripped then w.readHbm n r.mem[j] else r.data[j] := by
  have hext : v.extents n = w.extents n := State.extents_congr (by rw [h.frame]) n
  rw [State.readHbm_of_locate (hext ▸ hloc), State.readHbm_of_locate hloc, h.region hg]
  exact State.hbmAt_writeHbmAt_zip hm hn (List.getElem?_eq_getElem hj) (List.getElem?_eq_getElem hd) hloc

end

/-- A state that differs from another in one listed core, the stacks and the outputs. -/
theorem State.eq_setCore {w t : State} {c : CoreId} (hf : t = { w with cores := t.cores, hbm := t.hbm, outbox := t.outbox }) (hc : t.cores = Tab.put w.cores c.ix (t.core c)) :
    t = { w.setCore c (t.core c) with hbm := t.hbm, outbox := t.outbox } := by
  unfold State.setCore
  rw [← hc]
  exact hf

theorem exec_storeWritten {s : State} {c : CoreId} {n i : Nat} {r : MemReq} (ecc : List EccAt) (way : Way) (hn : n = s.ownerOf c) (hr : s.request c i true = some r) :
    exec (.storeWritten c ⟨i, ecc, way⟩) s = .next (((s.takeRequestOut c i).travel n c way).storeDone n c r ecc) := by
  show execStoreWritten c ⟨i, ecc, way⟩ s = _
  unfold execStoreWritten
  dsimp only
  rw [hr, hn]

theorem exec_galleryHostError {s : State} {c : CoreId} {n i : Nat} {r : MemReq} (hn : n = s.ownerOf c) (hr : (s.core c).memq[i]? = some r) (hg : r.gallery = true)
    (hs : r.store = false) :
    ∃ link, exec (.galleryHostError c i) s = .next ((s.updCore c fun k => { k with memq := dropAt k.memq i }).faultStop n
      { code := cHOSTLINK, core := some c, item := some link, counted := r.handle }) ∧ ∀ f, s.owner n = some f → link = f.link.ix := by
  have hexec : exec (.galleryHostError c i) s = .next ((s.takeRequestOut c i).faultStop n
      { code := cHOSTLINK, core := some c, item := some ((s.owner n).elim 0 fun f => f.link.ix), counted := r.handle }) := by
    show execGalleryHostError c i s = _
    unfold execGalleryHostError
    rw [hr]
    dsimp only
    rw [if_pos ⟨hg, by rw [hs]; rfl⟩, ← hn]
    cases s.owner n <;> rfl
  exact ⟨_, hexec, fun f hf => by rw [hf]; rfl⟩

/-- Settles O30: a request leaves its queue and passes its way, its bytes are written one by one at places that differ, and its flag rises. -/
theorem memoryRequests : Obligations.MemoryRequests := by
  unfold Obligations.MemoryRequests
  refine ⟨?_, ?_, fun s c n i r hn hr hg hs => exec_galleryHostError hn hr hg hs⟩
  · intro s u w c n i r bs ecc way hu hn hw hm hp hhp ha hf hr hc
    have hleave : u.Leaves w c i := hw ▸ u.takeRequestOut_leaves n c i way
    have hflags (f : Nat) : (w.core c).flag f = (u.core c).flag f := by rw [hleave.core]; rfl
    have hoff : w.assayEn n = false := (State.assayEn_congr (by rw [hleave.frame]) n).trans ha
    have hmw : w.memoryWf := State.memoryWf_congr (by rw [hleave.frame]) (by rw [hleave.frame]) (by rw [hleave.frame]) hm
    have hland := State.land_lands (c := c) (r := r) (by rw [hleave.frame]; exact hp) hoff (by rw [hflags]; exact hf) (u.fetched n r bs)
    refine ⟨_, (exec_fetchLanded bs way hu hn hhp hr hc).trans (by rw [← hw]), by rw [hland.core, hleave.core], hland.core, fun f => by rw [hland.flag, hflags],
      hland.kept, hland.others, fun hg hn j x a hok hx hma => ?_, fun hg hn j x b hok hx hb => ?_, hland.frame⟩
    · refine hland.bytes hmw hn j x _ hok hx ?_
      unfold State.fetched
      rw [if_neg (by rw [hg]; exact Bool.false_ne_true), List.getElem?_map, hma]
      cases a <;> rfl
    · refine hland.bytes hmw hn j x b hok hx ?_
      unfold State.fetched
      rwa [if_pos hg]
  · intro s w c n i r ecc way hn hw hm hhp ha hf hr hc
    have hleave : s.Leaves w c i := hw ▸ s.takeRequestOut_leaves n c i way
    have hmw : w.memoryWf := State.memoryWf_congr (by rw [hleave.frame]) (by rw [hleave.frame]) (by rw [hleave.frame]) hm
    obtain ⟨v, vc, hdone, hst⟩ := State.storeDone_stores (w := w) (n := n) c r (by rw [hleave.frame]; exact hhp) ((State.assayEn_congr (by rw [hleave.frame]) n).trans ha) hc
    have hcores : v.cores = w.cores := by rw [hst.frame]
    have hcore : v.core c = w.core c := State.core_congr hcores c
    have hflags (f : Nat) : (v.core c).flag f = (s.core c).flag f := by rw [hcore, hleave.core]; rfl
    have hoff : v.assayEn n = false := (State.assayEn_congr (by rw [hst.frame, hleave.frame]) n).trans ha
    have har := State.arrive_arrives (c := c) (r := r) vc hoff (by rw [hflags]; exact hf)
    generalize ht : v.arrive n c r vc = t at har
    have hread (m a : Nat) : t.readHbm m a = v.readHbm m a := State.readHbm_congr (by rw [har.frame]) (by rw [har.frame]) m a
    have hreadw (m a : Nat) : w.readHbm m a = s.readHbm m a := State.readHbm_congr (by rw [hleave.frame]) (by rw [hleave.frame]) m a
    have hext (m : Nat) : w.extents m = s.extents m := State.extents_congr (by rw [hleave.frame]) m
    refine ⟨t, ?_, ?_, ?_, fun f => by rw [har.flag, hflags], ?_, fun hg => ⟨?_, fun o f ho hf => ?_⟩, fun hg => ?_, fun m a hout => ?_, fun hg hnd j hj hd k o hloc => ?_⟩
    · rw [exec_storeWritten ecc way hn hr, ← hw, hdone, ht]
    · rw [har.core, hcore, hleave.core]
    · rw [har.core, hcore]
    · refine State.eq_setCore (by rw [har.frame, hst.frame]) ?_
      rw [har.cores (State.lists_congr hcores hleave.lists), hcores]
    · rw [har.frame, (hst.gallery hg).1, hleave.frame]
    · have hown : w.owner n = s.owner n := by rw [hleave.frame]; rfl
      have hpart : w.part n = s.part n := State.part_congr (by rw [hleave.frame]) n
      rw [har.frame, (hst.gallery hg).2 o f (hpart ▸ ho) (hown ▸ hf), hleave.frame]
    · rw [har.frame, hst.region hg, State.writeHbmAt_frame, hleave.frame]
    · rw [hread, hst.readHbm_other (by simpa only [hext] using hout), hreadw]
    · have hstk : w.stack k = s.stack k := by rw [hleave.frame]; rfl
      rw [hread, hst.readHbm_same hmw hg (by rw [hext]; exact hnd) hj hd (by rw [hext]; exact hloc), hreadw, hstk]

end Sys2Proof.Machine
end

section
/-! PROOF. Numbers in bytes and elements in bytes: what is read back from what was packed (00, Conventions; 03, R66). -/

namespace Sys2Proof.Machine

/-! ### Numbers in a row -/

@[simp] theorem upFrom_length (lo n : Nat) : (upFrom lo n).length = n := by rw [upFrom_eq_range', List.length_range']

theorem getElem?_upFrom {lo n i : Nat} (h : i < n) : (upFrom lo n)[i]? = some (lo + i) := by
  rw [upFrom_eq_range', List.getElem?_range' h, Nat.one_mul]

@[simp] theorem getElem_upFrom {lo n i : Nat} (h : i < (upFrom lo n).length) : (upFrom lo n)[i] = lo + i :=
  (List.getElem_eq_iff h).2 (getElem?_upFrom (by simpa using h))

/-- Entry `i` of what a function gives from 0 on. -/
theorem getD_map_upFrom {α : Type} (g : Nat → α) (d : α) {n i : Nat} (h : i < n) : ((upFrom 0 n).map g).getD i d = g i := by
  rw [List.getD_eq_getElem?_getD, List.getElem?_map, getElem?_upFrom h, Option.map_some, Option.getD_some, Nat.zero_add]

/-- A list is what a function gives from 0 on, when it is so place by place. -/
theorem map_upFrom_eq {α : Type} {g : Nat → α} {n : Nat} {l : List α} (hl : l.length = n) (h : ∀ i (hi : i < l.length), g i = l[i]) : (upFrom 0 n).map g = l := by
  refine List.ext_getElem (by simp [hl]) fun i _ hi => ?_
  rw [List.getElem_map, getElem_upFrom, Nat.zero_add, h i hi]

/-! ### Little-endian numbers (00, Conventions) -/

@[simp] theorem length_leBytes (n v : Nat) : (leBytes n v).length = n := by
  induction n generalizing v with
  | zero => rfl
  | succ n ih => simp [leBytes, ih]

theorem leNat_leBytes (n v : Nat) : leNat (leBytes n v) = v % 256 ^ n := by
  induction n generalizing v with
  | zero => rw [Nat.pow_zero, Nat.mod_one]; rfl
  | succ n ih => rw [leBytes, leNat, ih, BitVec.toNat_ofNat, Nat.pow_succ' (m := 256), Nat.mod_mul]

theorem leNat_leBytes_of_lt {n v : Nat} (h : v < 2 ^ (8 * n)) : leNat (leBytes n v) = v := by
  rw [leNat_leBytes, Nat.mod_eq_of_lt (by rwa [Nat.pow_mul] at h)]

theorem leNat_lt (l : List Byte) : leNat l < 256 ^ l.length := by
  induction l with
  | nil => simp [leNat]
  | cons b l ih => have := b.isLt; rw [leNat, List.length_cons, Nat.pow_succ']; omega

theorem leNat_append (l m : List Byte) : leNat (l ++ m) = leNat l + 256 ^ l.length * leNat m := by
  induction l with
  | nil => simp [leNat]
  | cons b l ih => rw [List.cons_append, leNat, leNat, ih, List.length_cons, Nat.pow_succ']; ring

theorem leNat_replicate_zero (n : Nat) : leNat (List.replicate n (0 : Byte)) = 0 := by
  induction n with
  | zero => rfl
  | succ n ih => rw [List.replicate_succ, leNat, ih]; rfl

/-- The first bytes are the low part of the number. -/
theorem leNat_take (l : List Byte) (n : Nat) : leNat (l.take n) = leNat l % 256 ^ n := by
  induction l generalizing n with
  | nil => simp [leNat]
  | cons b l ih =>
    cases n with
    | zero => simp [leNat, Nat.mod_one]
    | succ n =>
      have hb := b.isLt
      rw [List.take_succ_cons, leNat, leNat, ih, Nat.pow_succ', Nat.mod_mul, Nat.add_mul_mod_self_left, Nat.mod_eq_of_lt (show b.toNat < 256 from hb),
        Nat.add_mul_div_left _ _ (by decide), Nat.div_eq_of_lt (show b.toNat < 256 from hb), Nat.zero_add]

theorem leAt_eq (bs : List Byte) (off n : Nat) : leAt bs off n = leNat (bs.drop off) % 256 ^ n := by
  unfold leAt slice
  dsimp only
  rw [leNat_append, leNat_replicate_zero, Nat.mul_zero, Nat.add_zero, leNat_take]

/-- Bytes cut off behind cost a number its high part alone. -/
theorem leAt_take (bs : List Byte) (m off n : Nat) : leAt (bs.take m) off n = leAt bs off n % 256 ^ (m - off) := by
  rw [leAt_eq, leAt_eq, List.drop_take, leNat_take]
  rcases Nat.le_total n (m - off) with h | h
  · rw [Nat.mod_mod_of_dvd _ (pow_dvd_pow _ h), Nat.mod_eq_of_lt ((Nat.mod_lt _ (by positivity)).trans_le (Nat.pow_le_pow_right (by decide) h))]
  · rw [Nat.mod_mod_of_dvd _ (pow_dvd_pow _ h), Nat.mod_eq_of_lt ((Nat.mod_lt _ (by positivity)).trans_le (Nat.pow_le_pow_right (by decide) h))]

/-- In a row of pieces of `n` bytes each number stands at its place. -/
theorem leAt_flatMap {α : Type} {g : α → List Byte} {n : Nat} (hg : ∀ x, (g x).length = n) (l : List α) {i : Nat} (h : i < l.length) :
    leAt (l.flatMap g) (i * n) n = leNat (g l[i]) := by
  induction l generalizing i with
  | nil => cases h
  | cons x l ih =>
    rw [List.flatMap_cons]
    cases i with
    | zero =>
      rw [leAt_eq, Nat.zero_mul, List.drop_zero, leNat_append, hg, Nat.add_mul_mod_self_left, Nat.mod_eq_of_lt (by rw [← hg x]; exact leNat_lt _)]
      rfl
    | succ i =>
      have hd : (g x ++ l.flatMap g).drop ((i + 1) * n) = (l.flatMap g).drop (i * n) := by
        rw [List.drop_append, hg, Nat.succ_mul, Nat.add_sub_cancel, List.drop_eq_nil_of_le (by rw [hg]; omega), List.nil_append]
      rw [leAt_eq, hd, ← leAt_eq, ih (by simpa using h)]
      rfl

/-! ### Packed elements (03, R66) -/

theorem fmtBits_cases (f : Nat) : fmtBits f = 4 ∨ fmtBits f = 6 ∨ fmtBits f = 8 ∨ fmtBits f = 16 ∨ fmtBits f = 32 ∨ fmtBits f = 64 := by
  unfold fmtBits fmt fmtOf
  split <;> decide

theorem getD_lt {xs : List Nat} {b : Nat} (hb : 0 < b) (hx : ∀ x ∈ xs, x < b) (i : Nat) : xs.getD i 0 < b := by
  rcases Nat.lt_or_ge i xs.length with h | h
  · rw [List.getD_eq_getElem _ _ h]; exact hx _ (List.getElem_mem h)
  · rwa [List.getD_eq_default _ _ h]

/-- The value of a group of four elements of six bits. -/
def sixGroup (xs : List Nat) (i : Nat) : Nat := xs.getD (4 * i) 0 + at_ (xs.getD (4 * i + 1) 0) 6 + at_ (xs.getD (4 * i + 2) 0) 12 + at_ (xs.getD (4 * i + 3) 0) 18

theorem pack_four {f : Nat} (h : fmtBits f = 4) (xs : List Nat) :
    pack f xs = (upFrom 0 (ceilDiv xs.length 2)).map fun i => BitVec.ofNat 8 (xs.getD (2 * i) 0 + 16 * xs.getD (2 * i + 1) 0) := by
  unfold pack; rw [h]; rfl

theorem pack_six {f : Nat} (h : fmtBits f = 6) (xs : List Nat) :
    pack f xs = ((upFrom 0 (ceilDiv xs.length 4)).flatMap fun i => leBytes 3 (sixGroup xs i)).take (fmtBytes f xs.length) := by
  unfold pack; rw [h]; rfl

theorem pack_bytes {f n : Nat} (h : fmtBits f = 8 * n) (xs : List Nat) : pack f xs = xs.flatMap (leBytes n) := by
  unfold pack
  rw [h]
  split
  · omega
  · omega
  · rw [Nat.mul_div_cancel_left _ (by decide)]

/-- Packed elements fill the bytes that R66 counts. -/
theorem length_pack (f : Nat) (xs : List Nat) : (pack f xs).length = fmtBytes f xs.length := by
  rcases (fmtBits_cases f) with h | h | h | h | h | h
  · rw [pack_four h, List.length_map, upFrom_length, fmtBytes, h, ceilDiv, ceilDiv]; omega
  · rw [pack_six h, List.length_take, List.length_flatMap, fmtBytes, h]
    simp only [length_leBytes, List.map_const', List.sum_replicate, upFrom_length, ceilDiv, smul_eq_mul]
    omega
  all_goals
    rw [pack_bytes (n := fmtBits f / 8) (by rw [h]), List.length_flatMap, fmtBytes, h]
    simp only [length_leBytes, List.map_const', List.sum_replicate, ceilDiv, smul_eq_mul]
    omega

theorem elemAt_bytes {f n : Nat} (h : fmtBits f = 8 * n) (bs : List Byte) (i : Nat) : elemAt f bs i = leAt bs (i * n) n := by
  unfold elemAt
  rw [h]
  split
  · omega
  · omega
  · rw [Nat.mul_div_cancel_left _ (by decide)]

theorem elemAt_four {f : Nat} (h : fmtBits f = 4) (bs : List Byte) (i : Nat) : elemAt f bs i = (bs.getD (i / 2) 0).toNat / 2 ^ (4 * (i % 2)) % 2 ^ 4 := by
  unfold elemAt fld
  rw [h]
  show (_ >>> _) % _ = _
  rw [Nat.shiftRight_eq_div_pow, show 4 * (i % 2) + 3 + 1 - 4 * (i % 2) = 4 by omega]

theorem elemAt_six {f : Nat} (h : fmtBits f = 6) (bs : List Byte) (i : Nat) : elemAt f bs i = leAt bs (3 * (i / 4)) 3 / 2 ^ (6 * (i % 4)) % 2 ^ 6 := by
  unfold elemAt fld
  rw [h]
  show (_ >>> _) % _ = _
  rw [Nat.shiftRight_eq_div_pow, show 6 * (i % 4) + 5 + 1 - 6 * (i % 4) = 6 by omega]

/-- Bits below those that a number loses. -/
theorem mod_div_mod_two_pow (x : Nat) {n k w : Nat} (h : k + w ≤ n) : x % 2 ^ n / 2 ^ k % 2 ^ w = x / 2 ^ k % 2 ^ w := by
  refine Nat.eq_of_testBit_eq fun j => ?_
  simp only [Nat.testBit_mod_two_pow, Nat.testBit_div_two_pow]
  by_cases hj : j < w
  · rw [decide_eq_true (show j + k < n by omega), Bool.true_and]
  · simp [hj]

/-- An element of six bits at its place in its group of three bytes. -/
theorem sixGroup_elem {xs : List Nat} (hx : ∀ i, xs.getD i 0 < 64) (i : Nat) : sixGroup xs (i / 4) / 2 ^ (6 * (i % 4)) % 2 ^ 6 = xs.getD i 0 := by
  obtain ⟨g, r, rfl, hr⟩ : ∃ g r, i = 4 * g + r ∧ r < 4 := ⟨i / 4, i % 4, by omega, by omega⟩
  have h0 := hx (4 * g)
  have h1 := hx (4 * g + 1)
  have h2 := hx (4 * g + 2)
  have h3 := hx (4 * g + 3)
  rw [show (4 * g + r) / 4 = g by omega, show (4 * g + r) % 4 = r by omega]
  simp only [sixGroup, at_, Nat.shiftLeft_eq]
  interval_cases r
  all_goals
    simp only [Nat.add_zero, Nat.reduceMul, Nat.reducePow]
    omega

/-- An element of four bits at its place in its byte. -/
theorem fourPair_elem {xs : List Nat} (hx : ∀ i, xs.getD i 0 < 16) (i : Nat) :
    (xs.getD (2 * (i / 2)) 0 + 16 * xs.getD (2 * (i / 2) + 1) 0) % 2 ^ 8 / 2 ^ (4 * (i % 2)) % 2 ^ 4 = xs.getD i 0 := by
  obtain ⟨g, r, rfl, hr⟩ : ∃ g r, i = 2 * g + r ∧ r < 2 := ⟨i / 2, i % 2, by omega, by omega⟩
  have h0 := hx (2 * g)
  have h1 := hx (2 * g + 1)
  rw [show (2 * g + r) / 2 = g by omega, show (2 * g + r) % 2 = r by omega]
  interval_cases r
  all_goals
    simp only [Nat.add_zero, Nat.reduceMul, Nat.reducePow]
    omega

/-- What is read at a place of packed elements is the element. -/
theorem elemAt_pack {f : Nat} {xs : List Nat} (hx : ∀ x ∈ xs, x < 2 ^ fmtBits f) {i : Nat} (hi : i < xs.length) : elemAt f (pack f xs) i = xs[i] := by
  have hd : xs.getD i 0 = xs[i] := List.getD_eq_getElem _ _ hi
  rcases fmtBits_cases f with h | h | h | h | h | h
  · rw [h] at hx
    rw [elemAt_four h, pack_four h, getD_map_upFrom _ _ (by unfold ceilDiv; omega), BitVec.toNat_ofNat, ← hd]
    exact fourPair_elem (getD_lt (by decide) hx) i
  · rw [h] at hx
    have hgroup : i / 4 < (upFrom 0 (ceilDiv xs.length 4)).length := by rw [upFrom_length]; unfold ceilDiv; omega
    have hbits : 6 * (i % 4) + 6 ≤ 8 * (fmtBytes f xs.length - 3 * (i / 4)) := by unfold fmtBytes ceilDiv; rw [h]; omega
    rw [elemAt_six h, pack_six h, leAt_take, Nat.mul_comm 3, leAt_flatMap (fun _ => length_leBytes _ _) _ hgroup, getElem_upFrom, leNat_leBytes, Nat.zero_add, Nat.mul_comm _ 3,
      show 256 = 2 ^ 8 from rfl, ← Nat.pow_mul, ← Nat.pow_mul, mod_div_mod_two_pow _ hbits, mod_div_mod_two_pow _ (by omega), ← hd,
      ← sixGroup_elem (getD_lt (by decide) hx)]
  all_goals
    rw [h] at hx
    have hb : fmtBits f = 8 * (fmtBits f / 8) := by rw [h]
    rw [elemAt_bytes hb, pack_bytes hb, leAt_flatMap (fun _ => length_leBytes _ _) _ hi, leNat_leBytes_of_lt (by rw [h]; exact hx _ (List.getElem_mem hi))]

end Sys2Proof.Machine
end

section
/-! PROOF. Every conversion gives bits of its format, and no more (03, R63, R64, R74, R75, R362). -/

namespace Sys2Proof.Machine

/-! ### The formats (03, R63, R64) -/

/-- A floating-point format is a sign, an exponent and a mantissa. -/
theorem fmt_flt {c : Nat} (h : (fmt c).kind = .flt) : (fmt c).width = (fmt c).eb + (fmt c).mb + 1 ∧ canonNan c < 2 ^ (fmt c).width := by
  revert h
  unfold fmt fmtOf canonNan
  split <;> simp +decide

theorem fmt_scale {c : Nat} (h : (fmt c).kind = .scale) : (fmt c).width = 8 := by
  revert h
  unfold fmt fmtOf
  split <;> simp +decide

/-! ### Rounding to a precision -/

theorem b2n_le (b : Bool) : b2n b ≤ 1 := by cases b <;> decide

theorem lt_two_pow_log2 (m : Nat) : m < 2 ^ (log2 m + 1) := Nat.lt_log2_self

/-- Cut at `b` places below its leading bit or higher, a value keeps `b + 1` bits at most. -/
theorem cutAt_quot_lt {m b : Nat} {e q : Int} (h : (log2 m : Int) + e - b ≤ q) : (cutAt m e q).quot < 2 ^ (b + 1) := by
  have hm := lt_two_pow_log2 m
  unfold cutAt
  split
  · rename_i hq
    calc m * 2 ^ (e - q).toNat < 2 ^ (log2 m + 1) * 2 ^ (e - q).toNat := Nat.mul_lt_mul_of_pos_right hm (by positivity)
      _ = 2 ^ (log2 m + 1 + (e - q).toNat) := (Nat.pow_add _ _ _).symm
      _ ≤ 2 ^ (b + 1) := Nat.pow_le_pow_right (by decide) (by omega)
  · rename_i hq
    refine (Nat.div_lt_iff_lt_mul (by positivity)).2 (hm.trans_le ?_)
    rw [← Nat.pow_add]
    exact Nat.pow_le_pow_right (by decide) (by omega)

/-- A rounded value has the bits of its mantissa, or is the next power of two. -/
theorem roundTo_m_le (f : Fmt) (rnd : Nat) (neg : Bool) (m : Nat) (e : Int) : (roundTo f rnd neg m e).m ≤ 2 ^ (f.mb + 1) := by
  unfold roundTo
  split
  · exact Nat.zero_le _
  · dsimp only
    have hup := b2n_le ((cutAt m e (if (log2 m : Int) + e - f.mb < f.qmin then f.qmin else (log2 m : Int) + e - f.mb)).up rnd neg)
    have hquot := cutAt_quot_lt (m := m) (b := f.mb) (e := e) (q := if (log2 m : Int) + e - f.mb < f.qmin then f.qmin else (log2 m : Int) + e - f.mb) (by split <;> omega)
    omega

/-! ### Bits of a floating-point format (03, R64) -/

theorem Fmt.maxFinite_lt (f : Fmt) : f.maxFinite.1 < 2 ^ (f.mb + 1) := by
  have : 0 < 2 ^ (f.mb + 1) := by positivity
  unfold Fmt.maxFinite
  split <;> dsimp only <;> omega

theorem Fmt.maxFinite_exp_le (f : Fmt) : f.maxFinite.2 - f.qmin + 1 ≤ (f.emaxField : Int) := by
  unfold Fmt.maxFinite Fmt.qmin
  split <;> dsimp only <;> omega

theorem ltVal_irrefl (m : Nat) (e : Int) : ltVal m e m e = false := by simp [ltVal]

/-- With a mantissa of `mb + 1` bits, what does not exceed the largest finite value has no greater exponent. -/
theorem Fmt.exp_le_of_not_lt {f : Fmt} {m : Nat} {q d : Int} (hd : 0 ≤ d ∧ d ≤ 1) (h : ltVal f.maxFinite.1 f.maxFinite.2 m q = false) (hm : 2 ^ (f.mb + d.toNat) ≤ m) : q + d ≤ f.maxFinite.2 := by
  by_contra hlt
  have hmax := f.maxFinite_lt
  have hexp : f.maxFinite.2 ≤ q := by omega
  have hge : 2 ^ (f.mb + 1) ≤ m * 2 ^ (q - f.maxFinite.2).toNat := by
    calc 2 ^ (f.mb + 1) ≤ 2 ^ (f.mb + d.toNat + (q - f.maxFinite.2).toNat) := Nat.pow_le_pow_right (by decide) (by omega)
      _ = 2 ^ (f.mb + d.toNat) * 2 ^ (q - f.maxFinite.2).toNat := Nat.pow_add _ _ _
      _ ≤ m * 2 ^ (q - f.maxFinite.2).toNat := Nat.mul_le_mul_right _ hm
  unfold ltVal at h
  rw [if_pos hexp, decide_eq_false_iff_not] at h
  exact h (hmax.trans_le hge)

theorem Fmt.signed_lt {f : Fmt} (hw : f.width = f.eb + f.mb + 1) (neg : Bool) {x : Nat} (hx : x < 2 ^ (f.eb + f.mb)) : b2n neg * 2 ^ (f.width - 1) + x < 2 ^ f.width := by
  have hneg := Nat.mul_le_mul_right (2 ^ (f.eb + f.mb)) (b2n_le neg)
  rw [hw, Nat.add_sub_cancel, Nat.pow_succ]
  omega

theorem Fmt.exponent_lt (f : Fmt) {x y : Nat} (hx : x ≤ f.emaxField) (hy : y < 2 ^ f.mb) : x * 2 ^ f.mb + y < 2 ^ (f.eb + f.mb) := by
  have h := Nat.mul_le_mul_right (2 ^ f.mb) hx
  have hpos : 2 ^ f.mb ≤ 2 ^ f.eb * 2 ^ f.mb := Nat.le_mul_of_pos_left _ (by positivity)
  rw [Fmt.emaxField, Nat.sub_mul, Nat.one_mul] at h
  rw [Nat.pow_add]
  omega

theorem Fmt.pack_lt {f : Fmt} (hw : f.width = f.eb + f.mb + 1) (neg : Bool) {m : Nat} {q : Int} (hm : m ≤ 2 ^ (f.mb + 1)) (h : ltVal f.maxFinite.1 f.maxFinite.2 m q = false) :
    f.pack neg m q < 2 ^ f.width := by
  have hmb : 2 ^ (f.mb + 1) = 2 ^ f.mb * 2 := Nat.pow_succ _ _
  have hpos : 0 < 2 ^ f.mb := by positivity
  have hmax := f.maxFinite_exp_le
  unfold Fmt.pack
  by_cases hover : 2 ^ (f.mb + 1) ≤ m
  · have hq := Fmt.exp_le_of_not_lt (d := 1) (by decide) h hover
    simp only [if_pos hover]
    rw [if_neg (by omega), Nat.add_assoc]
    exact Fmt.signed_lt hw neg (Fmt.exponent_lt f (by omega) (by omega))
  · simp only [if_neg hover]
    split
    · exact Fmt.signed_lt hw neg (by simpa using Fmt.exponent_lt f (x := 0) (Nat.zero_le _) ‹_›)
    · have hq := Fmt.exp_le_of_not_lt (d := 0) (by decide) h (by simpa using Nat.le_of_not_lt ‹_›)
      rw [Nat.add_assoc]
      exact Fmt.signed_lt hw neg (Fmt.exponent_lt f (by omega) (by omega))

theorem Fmt.maxBits_lt {f : Fmt} (hw : f.width = f.eb + f.mb + 1) (neg : Bool) : f.maxBits neg < 2 ^ f.width :=
  Fmt.pack_lt hw neg f.maxFinite_lt.le (ltVal_irrefl _ _)

theorem Fmt.infBits_lt {f : Fmt} (hw : f.width = f.eb + f.mb + 1) (neg : Bool) : f.infBits neg < 2 ^ f.width :=
  Fmt.signed_lt hw neg (by simpa using Fmt.exponent_lt f (y := 0) le_rfl (by positivity))

/-! ### Conversions (03, R74, R75, R362) -/

theorem toFlt_lt {c : Nat} (h : (fmt c).kind = .flt) (rnd : Nat) (sat : Bool) (v : Val) : (toFlt c rnd sat v).1 < 2 ^ fmtBits c := by
  obtain ⟨hw, hnan⟩ := fmt_flt h
  have hmax := Fmt.maxBits_lt hw
  have hinf := Fmt.infBits_lt hw
  unfold toFlt fmtBits
  cases v with
  | nan sig =>
    dsimp only
    split
    · positivity
    · exact hnan
  | inf neg =>
    dsimp only
    split
    · exact hmax neg
    · split
      · exact hmax neg
      · exact hnan
    · split
      · exact hmax neg
      · exact hinf neg
  | fin neg m e =>
    dsimp only
    split
    · split
      · exact hmax neg
      · split
        · exact hnan
        · split
          · exact hinf neg
          · exact hmax neg
    · exact Fmt.pack_lt hw neg (roundTo_m_le _ _ _ _ _) (Bool.eq_false_iff.2 ‹_›)

theorem unsigned_lt (n : Nat) (x : Int) : unsigned n x < 2 ^ n := by
  have hpos : (0 : Int) < ((2 ^ n : Nat) : Int) := by positivity
  have h0 := Int.emod_nonneg x hpos.ne'
  have h1 := Int.emod_lt_of_pos x hpos
  unfold unsigned
  omega

theorem toIntBits_lt (w rnd : Nat) (v : Val) : (toIntBits w rnd v).1 < 2 ^ w := by
  unfold toIntBits
  cases v with
  | nan sig => show 0 < _; positivity
  | inf neg => exact unsigned_lt _ _
  | fin neg m e =>
    dsimp only
    split
    · exact unsigned_lt _ _
    · split <;> exact unsigned_lt _ _

/-- A scale's exponent within the range of E8M0, or the end of the range. -/
theorem scaleBits_lt (top : Int) (up : Bool) (f g h : FlagSet) :
    (if top < -127 then ((if top + (b2n up : Int) ≤ -127 then 0 else (top + (b2n up : Int) + 127).toNat), f)
      else if 127 < top + (b2n up : Int) then (0xFE, g) else ((top + (b2n up : Int) + 127).toNat, h) : Coded).1 < 2 ^ 8 := by
  have hb := b2n_le up
  split
  · rw [if_pos (by omega)]; show 0 < _; decide
  · split
    · show 0xFE < _; decide
    · dsimp only; omega

theorem toScale_lt (rnd : Nat) (v : Val) : (toScale rnd v).1 < 2 ^ 8 := by
  have hnan : 0xFF < 2 ^ 8 := by decide
  unfold toScale
  cases v with
  | nan sig => exact hnan
  | inf neg => exact hnan
  | fin neg m e =>
    dsimp only
    split
    · exact hnan
    · exact scaleBits_lt _ _ _ _ _

/-- An element has the bits of its format. -/
theorem toElem_lt (c rnd : Nat) (sat : Bool) (v : Val) : (toElem c rnd sat v).1 < 2 ^ fmtBits c := by
  unfold toElem fmtBits
  dsimp only
  cases h : (fmt c).kind with
  | flt => exact toFlt_lt h rnd sat v
  | int => exact toIntBits_lt _ rnd v
  | mxint => exact toIntBits_lt _ rnd v
  | scale => rw [fmt_scale h]; exact toScale_lt rnd v

theorem isMx_cases {c : Nat} (h : isMx c = true) : c = 0x0A ∨ c = 0x0B ∨ c = 0x0C ∨ c = 0x0D ∨ c = 0x0E ∨ c = 0x0F := by
  simp only [isMx, Bool.and_eq_true, decide_eq_true_eq] at h
  omega

/-- The MX formats but MXINT8 are floating-point formats. -/
theorem mx_flt {c : Nat} (h : isMx c = true) (hint : c ≠ 0x0F) : (fmt c).kind = .flt := by
  rcases isMx_cases h with rfl | rfl | rfl | rfl | rfl | hc
  exacts [rfl, rfl, rfl, rfl, rfl, absurd hc hint]

theorem mxElem_lt {c : Nat} (h : isMx c = true) (rnd : Nat) (shared : Int) (v : Val) : (mxElem c rnd shared v).1 < 2 ^ fmtBits c := by
  unfold mxElem
  cases v with
  | fin neg m e =>
    dsimp only
    split
    · subst c
      show _ < 2 ^ 8
      split
      · show 127 < _; decide
      · split
        · exact unsigned_lt 8 (-127)
        · exact unsigned_lt 8 _
    · exact toFlt_lt (mx_flt h ‹_›) rnd true _
  | nan | inf => show 0 < _; positivity

/-- A block has a code for each of its elements, and each has the bits of its format. -/
theorem mxBlock_codes {c : Nat} (h : isMx c = true) (rnd : Nat) (vs : List Val) : (mxBlock c rnd vs).2.1.length = vs.length ∧ ∀ x ∈ (mxBlock c rnd vs).2.1, x < 2 ^ fmtBits c := by
  have hzero : ∀ x ∈ vs.map (fun _ : Val => 0), x < 2 ^ fmtBits c := by
    intro x hx
    obtain ⟨v, -, rfl⟩ := List.mem_map.1 hx
    positivity
  unfold mxBlock
  split
  · exact ⟨List.length_map _, hzero⟩
  · split
    · exact ⟨List.length_map _, hzero⟩
    · refine ⟨by simp, fun x hx => ?_⟩
      obtain ⟨r, hr, rfl⟩ := List.mem_map.1 hx
      obtain ⟨v, -, rfl⟩ := List.mem_map.1 hr
      exact mxElem_lt h _ _ _

end Sys2Proof.Machine
end

section
/-! PROOF. What a core reads where a command has written, and SPLIT, GATHER, SCATTER and VCOMB through it (03, R77, R78, R80-R82; 04, R96-R100). -/

namespace Sys2Proof.Machine

/-! ### Bytes read where they were written (04, R92) -/

/-- Of a list of writes, each with which no other at its address disagrees is what the core reads there. -/
def State.took (t : State) (c : CoreId) (l : List (Int × Byte)) : Prop := ∀ w ∈ l, (∀ e ∈ l, e.1 = w.1 → e.2 = w.2) → t.readSt c w.1 = w.2

/-- An engine command that may start has its step, and all but a SEND have then made their writes. -/
theorem exec_engineCommandStart_took {s u : State} {c : CoreId} {n : Nat} {q : Queue} {x : QCmd} {rest : List QCmd} {ecc : List EccAt} (hu : u = s.catchUp) (hm : u.memoryWf)
    (h : u.starts c n q x rest) (hc : cleanReads ecc) :
    ∃ t, exec (.engineCommandStart c q ecc) s = .next t ∧ (x.cmd.opcode ≠ 0x30 → t.took c (u.effectOf c x).writes) := by
  by_cases ho : x.cmd.opcode = 0x30
  · exact ⟨_, h.exec_eq hu ecc, fun hn => absurd ho hn⟩
  · obtain ⟨v, t, he, hv, hb⟩ := exec_engineCommandStart_acts hu h hc ho
    refine ⟨t, he, fun _ w hw hall => ?_⟩
    obtain ⟨p, hp⟩ := byteOf_of_storeOk c (h.writes_ok w hw)
    rw [State.readSt_of_byteOf _ hp, hv.byteAt_begun hb]
    exact State.byteAt_writeStAt_agree hm hw hp fun e he hpe => hall e he (byteOf_inj hpe hp)

theorem State.took.of_nodup {t : State} {c : CoreId} {l : List (Int × Byte)} (h : t.took c l) (hn : (l.map (·.1)).Nodup) {w : Int × Byte} (hw : w ∈ l) : t.readSt c w.1 = w.2 :=
  h w hw fun _ he heq => congrArg Prod.snd (List.inj_on_of_nodup_map hn he hw heq)

theorem getElem?_eq_getD {α : Type} {l : List α} {i : Nat} (d : α) (h : i < l.length) : l[i]? = some (l.getD i d) := by
  rw [List.getD_eq_getElem _ _ h, List.getElem?_eq_getElem h]

theorem mem_zip_upFrom {α : Type} {l : List α} {n i : Nat} {a : α} : (a, i) ∈ l.zip (upFrom 0 n) ↔ l[i]? = some a ∧ i < n := by
  rw [List.mem_iff_getElem?]
  simp only [List.getElem?_zip_eq_some]
  constructor
  · rintro ⟨j, ha, hj⟩
    obtain ⟨hlt, hij⟩ := List.getElem?_eq_some_iff.1 hj
    rw [getElem_upFrom, Nat.zero_add] at hij
    exact hij ▸ ⟨ha, by simpa using hlt⟩
  · rintro ⟨ha, hi⟩
    exact ⟨i, ha, by rw [getElem?_upFrom hi, Nat.zero_add]⟩

theorem mem_placed {a : Int} {bs : List Byte} {w : Int × Byte} : w ∈ placed a bs ↔ ∃ i, bs[i]? = some w.2 ∧ w.1 = a + (i : Nat) := by
  unfold placed
  rw [List.mem_map]
  constructor
  · rintro ⟨⟨b, i⟩, hb, rfl⟩
    exact ⟨i, (mem_zip_upFrom.1 hb).1, rfl⟩
  · rintro ⟨i, hb, ha⟩
    exact ⟨(w.2, i), mem_zip_upFrom.2 ⟨hb, (List.getElem?_eq_some_iff.1 hb).1⟩, Prod.ext ha.symm rfl⟩

theorem placed_nodup (a : Int) (bs : List Byte) : ((placed a bs).map (·.1)).Nodup := by
  have h : (placed a bs).map (·.1) = (upFrom 0 bs.length).map fun i : Nat => a + (i : Int) := by
    unfold placed
    rw [List.map_map, show ((·.1) ∘ fun p : Byte × Nat => (a + (p.2 : Int), p.1)) = (fun i : Nat => a + (i : Int)) ∘ Prod.snd from rfl, ← List.map_map, List.map_snd_zip (by simp)]
  rw [h, upFrom_eq_range']
  exact (List.nodup_range' 1).map fun i j hij => by simpa using hij

/-- Bytes that stand at their places, read one after the other. -/
theorem State.readStN_of_placed {t : State} {c : CoreId} {a : Int} {bs : List Byte} {n : Nat} (hn : bs.length = n) (h : ∀ w ∈ placed a bs, t.readSt c w.1 = w.2) : t.readStN c a n = bs :=
  map_upFrom_eq hn fun i hi => h (a + (i : Nat), bs[i]) (mem_placed.2 ⟨i, List.getElem?_eq_getElem hi, rfl⟩)

/-- A number that a command writes among its bytes, read back. -/
theorem State.took.leNat_placed {t : State} {c : CoreId} {l : List (Int × Byte)} (h : t.took c l) (hn : (l.map (·.1)).Nodup) {a : Int} {n v : Nat} (hv : v < 2 ^ (8 * n))
    (hsub : placed a (leBytes n v) ⊆ l) : leNat (t.readStN c a n) = v := by
  rw [State.readStN_of_placed (length_leBytes n v) fun w hw => h.of_nodup hn (hsub hw), leNat_leBytes_of_lt hv]

@[simp] theorem length_readStN (s : State) (c : CoreId) (a : Int) (n : Nat) : (s.readStN c a n).length = n := by simp [State.readStN]

theorem getElem?_readStN {s : State} {c : CoreId} {a : Int} {n i : Nat} (h : i < n) : (s.readStN c a n)[i]? = some (s.readSt c (a + (i : Nat))) := by
  unfold State.readStN
  rw [List.getElem?_map, getElem?_upFrom h, Nat.zero_add]
  rfl

/-! ### The digits of an integer (03, R77) -/

/-- What digits make up, the most significant first. -/
def digitsValue (l : List Nat) : Int := l.foldl (fun (a : Int) d => 256 * a + signed 8 d) 0

theorem digitsValue_cons (d : Nat) (l : List Nat) : digitsValue (d :: l) = signed 8 d * 256 ^ l.length + digitsValue l := by
  have hacc (a : Int) : l.foldl (fun (a : Int) d => 256 * a + signed 8 d) a = a * 256 ^ l.length + digitsValue l := by
    unfold digitsValue
    induction l using List.reverseRecOn with
    | nil => simp
    | append_singleton l e ih => rw [List.foldl_append, List.foldl_append, ih, List.length_append]; simp [pow_succ]; ring
  unfold digitsValue at hacc ⊢
  rw [List.foldl_cons, hacc]
  ring

/-- One digit of the pseudocode of R77, with the carry into the next. -/
def digitStep (s : Nat) (xi : Int) (st : List Nat × Nat) (t : Nat) : List Nat × Nat :=
  let v := unsigned 8 (xi / 2 ^ (8 * (s - 1 - t))) + st.2
  if 128 ≤ v then (v % 256 :: st.1, 1) else (v :: st.1, 0)

/-- The lower `m` digits, and their carry. -/
def lowDigits (s : Nat) (xi : Int) (m : Nat) : List Nat × Nat := ((upFrom (s - m) m).reverse).foldl (digitStep s xi) ([], 0)

theorem digitsOf_eq {s : Nat} (hs : 1 ≤ s) (xi : Int) :
    digitsOf s xi = unsigned 8 (xi / 2 ^ (8 * (s - 1)) + ((lowDigits s xi (s - 1)).2 : Int)) :: (lowDigits s xi (s - 1)).1 := by
  unfold lowDigits
  rw [Nat.sub_sub_self hs]
  rfl

theorem lowDigits_succ {s m : Nat} (h : m < s) (xi : Int) : lowDigits s xi (m + 1) = digitStep s xi (lowDigits s xi m) (s - (m + 1)) := by
  unfold lowDigits
  rw [upFrom, show s - (m + 1) + 1 = s - m by omega, List.reverse_cons, List.foldl_append]
  rfl

/-- A byte and a carry into it are a signed digit and a carry out of it. -/
theorem digitStep_spec (s : Nat) (xi : Int) (st : List Nat × Nat) (t : Nat) (hc : st.2 ≤ 1) : ∃ d c, digitStep s xi st t = (d :: st.1, c) ∧ c ≤ 1 ∧
    xi / 2 ^ (8 * (s - 1 - t)) + st.2 = 256 * (xi / 2 ^ (8 * (s - 1 - t)) / 256 + c) + signed 8 d := by
  generalize hy : xi / 2 ^ (8 * (s - 1 - t)) = y
  have hv : ((unsigned 8 y : Nat) : Int) = y % 256 := by unfold unsigned; omega
  unfold digitStep
  dsimp only
  rw [hy]
  split
  · refine ⟨_, 1, rfl, le_rfl, ?_⟩
    unfold signed
    split <;> omega
  · refine ⟨_, 0, rfl, Nat.zero_le _, ?_⟩
    unfold signed
    split <;> omega

/-- The lower digits of an integer, with their carry, make up its lower part. -/
theorem lowDigits_spec {s m : Nat} (h : m < s) (xi : Int) : (lowDigits s xi m).1.length = m ∧ (lowDigits s xi m).2 ≤ 1 ∧
    xi = (xi / 256 ^ m + (lowDigits s xi m).2) * 256 ^ m + digitsValue (lowDigits s xi m).1 := by
  induction m with
  | zero => exact ⟨rfl, Nat.zero_le _, by simp [lowDigits, upFrom, digitsValue]⟩
  | succ m ih =>
    obtain ⟨hl, hc, hx⟩ := ih (by omega)
    obtain ⟨d, c, hstep, hc', hy⟩ := digitStep_spec s xi (lowDigits s xi m) (s - (m + 1)) hc
    rw [show 8 * (s - 1 - (s - (m + 1))) = 8 * m by omega, pow_mul, show (2 : Int) ^ 8 = 256 by decide, Int.ediv_ediv_of_nonneg (by positivity), ← pow_succ] at hy
    rw [lowDigits_succ (by omega), hstep]
    refine ⟨by simp [hl], hc', ?_⟩
    rw [digitsValue_cons, hl]
    linear_combination hx + 256 ^ m * hy

theorem signed_unsigned_eight {z : Int} (h : -128 ≤ z ∧ z < 128) : signed 8 (unsigned 8 z) = z := by
  unfold signed unsigned
  split <;> omega

theorem digitsOf_length {s : Nat} (hs : 1 ≤ s) (xi : Int) : (digitsOf s xi).length = s := by
  rw [digitsOf_eq hs, List.length_cons, (lowDigits_spec (by omega) xi).1]
  omega

/-- The digits make up the integer (03, R77). -/
theorem digitsValue_digitsOf {s : Nat} (hs : 1 ≤ s) {xi : Int} (h : xi.natAbs ≤ 2 ^ (8 * s - 2)) : digitsValue (digitsOf s xi) = xi := by
  obtain ⟨hl, hc, hx⟩ := lowDigits_spec (s := s) (m := s - 1) (by omega) xi
  have hpow : 2 ^ (8 * s - 2) = 64 * 256 ^ (s - 1) := by
    rw [show 8 * s - 2 = 6 + 8 * (s - 1) by omega, Nat.pow_add, Nat.pow_mul]
  have habs : |xi| ≤ 64 * 256 ^ (s - 1) := by rw [Int.abs_eq_natAbs]; rw [hpow] at h; exact_mod_cast h
  obtain ⟨hlow, hhigh⟩ := abs_le.1 habs
  have hpos : (0 : Int) < 256 ^ (s - 1) := by positivity
  have htop : -64 ≤ xi / 256 ^ (s - 1) := (Int.le_ediv_iff_mul_le hpos).2 (by linarith)
  have htop' : xi / 256 ^ (s - 1) ≤ 64 := Int.ediv_le_of_le_mul hpos hhigh
  rw [digitsOf_eq hs, digitsValue_cons, hl, pow_mul, show (2 : Int) ^ 8 = 256 by decide, signed_unsigned_eight (by omega), ← hx]

/-! ### SPLIT (03, R77, R78; 04, R98) -/

theorem blockEntry_lt (spread : Bool) (e : Int) : 2 ^ 14 * b2n spread + unsigned 12 e < 2 ^ 16 := by
  have hb := b2n_le spread
  have he := unsigned_lt 12 e
  omega

/-- The entry of a block has 16 bits, and each of its values has its digits. -/
theorem splitBlock_spec (s : Nat) (vs : List Val) :
    (splitBlock s vs).1 < 2 ^ 16 ∧ (splitBlock s vs).2.1.length = vs.length ∧ (1 ≤ s → ∀ l ∈ (splitBlock s vs).2.1, l.length = s) := by
  have hzero : 1 ≤ s → ∀ l ∈ vs.map (fun _ => List.replicate s 0), l.length = s := by
    intro _ l hl
    obtain ⟨v, -, rfl⟩ := List.mem_map.1 hl
    exact List.length_replicate
  unfold splitBlock
  dsimp only
  split
  · have := Config.nonfiniteExp.isLt
    exact ⟨by dsimp only; omega, List.length_map _, hzero⟩
  · split
    · exact ⟨by show 0x800 < _; decide, List.length_map _, hzero⟩
    · refine ⟨blockEntry_lt _ _, by simp, fun hs l hl => ?_⟩
      obtain ⟨r, -, rfl⟩ := List.mem_map.1 hl
      exact digitsOf_length hs _

/-- Block `j` of a row of numbers. -/
theorem block_upFrom {n j : Nat} (h : 32 * (j + 1) ≤ n) : ((upFrom 0 n).drop (32 * j)).take 32 = upFrom (32 * j) 32 := by
  simp only [upFrom_eq_range', List.drop_range', List.take_range'_of_length_ge (show 32 ≤ n - 32 * j by omega)]
  rw [Nat.zero_add, Nat.mul_one]

theorem getElem?_blocks32 {α : Type} {n j : Nat} (h : j < n) (l : List α) : (blocks32 n l)[j]? = some ((l.drop (32 * j)).take 32) := by
  induction n generalizing j l with
  | zero => cases h
  | succ n ih =>
    cases j with
    | zero => rfl
    | succ j => rw [blocks32, List.getElem?_cons_succ, ih (by omega), List.drop_drop, show 32 + 32 * j = 32 * (j + 1) by ring]

theorem State.effectOf_split {x : QCmd} (h : x.cmd.opcode = 0x21) (u : State) (c : CoreId) : u.effectOf c x = u.splitEffect c x := by
  simp only [State.effectOf, h]

/-- What a SPLIT reads. -/
def State.splitBytes (u : State) (c : CoreId) (x : QCmd) : List Byte := (((u.core c).shapeAt x.gen (wf x.cmd.w0 18 11)).addrs x.a).map (u.readSt c)

/-- What a SPLIT makes of block `j`. -/
def State.splitOf (u : State) (c : CoreId) (x : QCmd) (j : Nat) : Nat × List (List Nat) × Bool :=
  splitBlock x.cmd.scount ((upFrom (32 * j) 32).map fun i => decodeElem 0x01 (elemAt 0x01 (u.splitBytes c x) i))

/-- Among the writes of a SPLIT are the entry of each block and its digits, each in its plane. -/
theorem State.splitEffect_writes {u : State} {c : CoreId} {x : QCmd} {j : Nat} (hj : 256 * (j + 1) ≤ (u.splitBytes c x).length) :
    placed ((lowAddr x.cmd.w2 + 2 * j : Nat) : Int) (leBytes 2 (u.splitOf c x j).1) ⊆ (u.splitEffect c x).writes ∧
    ∀ i g ds d, (u.splitOf c x j).2.1[i]? = some ds → i < 32 → ds[g]? = some d → g < x.cmd.scount →
      (x.b + (g * wf x.cmd.w2 63 32 + 32 * j + i : Nat), BitVec.ofNat 8 d) ∈ (u.splitEffect c x).writes := by
  have hn : 32 * (j + 1) ≤ (u.splitBytes c x).length / 8 := by omega
  have hb : j < (u.splitBytes c x).length / 8 / 32 := by omega
  have hblock : (u.splitOf c x j, j) ∈ ((blocks32 ((u.splitBytes c x).length / 8 / 32) ((unpack 0x01 ((u.splitBytes c x).length / 8) (u.splitBytes c x)).map (decodeElem 0x01))).map
      (splitBlock x.cmd.scount)).zip (upFrom 0 ((u.splitBytes c x).length / 8 / 32)) := by
    refine mem_zip_upFrom.2 ⟨?_, hb⟩
    rw [List.getElem?_map, getElem?_blocks32 hb, unpack, List.map_map, ← List.map_drop, ← List.map_take, block_upFrom hn]
    rfl
  constructor
  · exact fun w hw => List.mem_append_right _ (List.mem_flatMap.2 ⟨_, hblock, hw⟩)
  · exact fun i g ds d hi hi32 hg hsc => List.mem_append_left _ (List.mem_flatMap.2 ⟨_, hblock, List.mem_flatMap.2 ⟨(ds, i), mem_zip_upFrom.2 ⟨hi, hi32⟩,
      List.mem_map.2 ⟨(d, g), mem_zip_upFrom.2 ⟨hg, hsc⟩, rfl⟩⟩⟩)

/-- What a SPLIT leaves: each block's entry, and the digits of its values. -/
theorem State.took.split {t u : State} {c : CoreId} {x : QCmd} (ht : t.took c (u.effectOf c x).writes) (ho : x.cmd.opcode = 0x21) (hnd : ((u.effectOf c x).writes.map (·.1)).Nodup)
    {j : Nat} (hj : 256 * (j + 1) ≤ (u.splitBytes c x).length) :
    leNat (t.readStN c ((lowAddr x.cmd.w2 + 2 * j : Nat) : Int) 2) = (u.splitOf c x j).1 ∧
      ∀ i g, i < 32 → g < x.cmd.scount → t.readSt c (x.b + (g * wf x.cmd.w2 63 32 + 32 * j + i : Nat)) = BitVec.ofNat 8 (((u.splitOf c x j).2.1.getD i []).getD g 0) := by
  rw [State.effectOf_split ho] at ht hnd
  obtain ⟨hentry, hdigits⟩ := State.splitEffect_writes hj
  obtain ⟨hlt, hlen, hds⟩ := splitBlock_spec x.cmd.scount ((upFrom (32 * j) 32).map fun i => decodeElem 0x01 (elemAt 0x01 (u.splitBytes c x) i))
  rw [List.length_map, upFrom_length] at hlen
  refine ⟨ht.leNat_placed hnd hlt hentry, fun i g hi hg => ?_⟩
  have hiv : (u.splitOf c x j).2.1[i]? = some ((u.splitOf c x j).2.1.getD i []) :=
    getElem?_eq_getD _ (by rw [State.splitOf, hlen]; exact hi)
  have hgv : ((u.splitOf c x j).2.1.getD i [])[g]? = some (((u.splitOf c x j).2.1.getD i []).getD g 0) :=
    getElem?_eq_getD _ (by rw [hds (by omega) _ (List.mem_of_getElem? hiv)]; exact hg)
  exact ht.of_nodup hnd (hdigits i g _ _ hiv hi hgv hg)

/-! ### GATHER and SCATTER (04, R99, R100) -/

theorem State.effectOf_gather {x : QCmd} (h : x.cmd.opcode = 0x22) (u : State) (c : CoreId) : u.effectOf c x = u.rowsEffect c x true := by
  simp only [State.effectOf, h]

theorem State.effectOf_scatter {x : QCmd} (h : x.cmd.opcode = 0x23) (u : State) (c : CoreId) : u.effectOf c x = u.rowsEffect c x false := by
  simp only [State.effectOf, h]

def Cmd.rowCount (q : Cmd) : Nat := wf q.w0 22 6
def Cmd.rowBytes (q : Cmd) : Nat := wf q.w3 63 48

/-- Entry `i` of the stencil of a GATHER or SCATTER. -/
def State.rowOf (u : State) (c : CoreId) (x : QCmd) (i : Nat) : Entry := entryOf (leNat (u.readStN c ((lowAddr x.cmd.w2 + 4 * i : Nat) : Int) 4)) (wf x.cmd.w3 31 0)

/-- Address of row `i` of the dense side, and of row `r` of the table (04, R100). -/
def QCmd.denseAt (x : QCmd) (i : Nat) : Int := x.b + (i * x.cmd.rowBytes : Nat)
def QCmd.tableAt (x : QCmd) (r : Nat) : Int := x.a + (r * wf x.cmd.w2 63 32 : Nat)

theorem State.mem_stencil {u : State} {c : CoreId} {x : QCmd} {e : Entry} {i : Nat} :
    (e, i) ∈ (u.stencil c (lowAddr x.cmd.w2 : Nat) (wf x.cmd.w0 22 6) (wf x.cmd.w3 31 0)).zip (upFrom 0 (wf x.cmd.w0 22 6)) ↔ i < x.cmd.rowCount ∧ e = u.rowOf c x i := by
  rw [mem_zip_upFrom]
  unfold State.stencil State.rowOf Cmd.rowCount
  constructor
  · rintro ⟨he, hi⟩
    rw [List.getElem?_map, getElem?_upFrom hi, Option.map_some, Option.some.injEq, Nat.zero_add] at he
    exact ⟨hi, by rw [← he]; push_cast; rfl⟩
  · rintro ⟨hi, rfl⟩
    rw [List.getElem?_map, getElem?_upFrom hi, Option.map_some, Nat.zero_add]
    exact ⟨by push_cast; rfl, hi⟩

/-- A GATHER writes each row of the dense side: the row that its entry names, or zeros. -/
def State.gathered (u : State) (c : CoreId) (x : QCmd) (i : Nat) : List Byte :=
  match u.rowOf c x i with
  | .used r => u.readStN c (x.tableAt r) x.cmd.rowBytes
  | _ => List.replicate x.cmd.rowBytes 0

theorem State.gathered_used {u : State} {c : CoreId} {x : QCmd} {i r : Nat} (h : u.rowOf c x i = .used r) : u.gathered c x i = u.readStN c (x.tableAt r) x.cmd.rowBytes := by
  unfold State.gathered
  rw [h]

theorem State.gathered_unused {u : State} {c : CoreId} {x : QCmd} {i : Nat} (h : ∀ r, u.rowOf c x i ≠ .used r) : u.gathered c x i = List.replicate x.cmd.rowBytes 0 := by
  unfold State.gathered
  cases hr : u.rowOf c x i with
  | used r => exact absurd hr (h r)
  | invalid | clipped => rfl

theorem State.gathered_length (u : State) (c : CoreId) (x : QCmd) (i : Nat) : (u.gathered c x i).length = x.cmd.rowBytes := by
  unfold State.gathered
  split
  · exact length_readStN _ _ _ _
  · exact List.length_replicate

theorem State.mem_gather_writes {u : State} {c : CoreId} {x : QCmd} {w : Int × Byte} :
    w ∈ (u.rowsEffect c x true).writes ↔ ∃ i < x.cmd.rowCount, w ∈ placed (x.denseAt i) (u.gathered c x i) := by
  show w ∈ _ ++ _ ↔ _
  simp only [if_true, List.mem_append, List.mem_flatMap, Prod.exists, State.mem_stencil]
  constructor
  · rintro (⟨_, i, ⟨hi, rfl⟩, hw⟩ | ⟨a, b, ⟨_, i, ⟨hi, rfl⟩, hab⟩, hw⟩)
    · cases hr : u.rowOf c x i with
      | used r => rw [hr] at hw; cases hw
      | invalid | clipped => rw [hr] at hw; exact ⟨i, hi, by rw [State.gathered_unused (by simp [hr])]; exact hw⟩
    · cases hr : u.rowOf c x i with
      | used r =>
        rw [hr] at hab
        cases List.mem_singleton.1 hab
        exact ⟨i, hi, by rw [State.gathered_used hr]; exact hw⟩
      | invalid | clipped => rw [hr] at hab; cases hab
  · rintro ⟨i, hi, hw⟩
    cases hr : u.rowOf c x i with
    | used r =>
      rw [State.gathered_used hr] at hw
      exact .inr ⟨x.tableAt r, x.denseAt i, ⟨.used r, i, ⟨hi, hr.symm⟩, List.mem_singleton.2 rfl⟩, hw⟩
    | invalid | clipped =>
      rw [State.gathered_unused (by simp [hr])] at hw
      exact .inl ⟨_, i, ⟨hi, hr.symm⟩, hw⟩

/-- Each byte of the dense side lies in one row. -/
theorem QCmd.denseAt_inj {x : QCmd} {i j k l : Nat} (hk : k < x.cmd.rowBytes) (hl : l < x.cmd.rowBytes) (h : x.denseAt i + (k : Nat) = x.denseAt j + (l : Nat)) : i = j ∧ k = l := by
  have h' : x.cmd.rowBytes * i + k = x.cmd.rowBytes * j + l := by
    unfold QCmd.denseAt at h
    rw [Nat.mul_comm _ i, Nat.mul_comm _ j]
    omega
  have hi : i = j := by
    have := congrArg (· / x.cmd.rowBytes) h'
    simpa [Nat.mul_add_div (show 0 < x.cmd.rowBytes by omega), Nat.div_eq_of_lt hk, Nat.div_eq_of_lt hl] using this
  exact ⟨hi, by subst hi; omega⟩

/-- What a GATHER leaves. -/
theorem State.took.gather {t u : State} {c : CoreId} {x : QCmd} (ht : t.took c (u.effectOf c x).writes) (ho : x.cmd.opcode = 0x22) {i : Nat} (hi : i < x.cmd.rowCount) :
    t.readStN c (x.denseAt i) x.cmd.rowBytes = u.gathered c x i := by
  rw [State.effectOf_gather ho] at ht
  refine State.readStN_of_placed (u.gathered_length c x i) fun w hw => ht w (State.mem_gather_writes.2 ⟨i, hi, hw⟩) fun e he heq => ?_
  obtain ⟨j, -, he⟩ := State.mem_gather_writes.1 he
  obtain ⟨k, hk, hwk⟩ := mem_placed.1 hw
  obtain ⟨l, hl, hel⟩ := mem_placed.1 he
  have hlt (m : Nat) (n : Nat) (b : Byte) (h : (u.gathered c x m)[n]? = some b) : n < x.cmd.rowBytes := u.gathered_length c x m ▸ (List.getElem?_eq_some_iff.1 h).1
  obtain ⟨rfl, rfl⟩ := QCmd.denseAt_inj (hlt _ _ _ hl) (hlt _ _ _ hk) (hel.symm.trans (heq.trans hwk))
  exact Option.some.inj (hl.symm.trans hk)

/-- What a SCATTER leaves where no two of its writes meet. -/
theorem State.took.scatter {t u : State} {c : CoreId} {x : QCmd} (ht : t.took c (u.effectOf c x).writes) (ho : x.cmd.opcode = 0x23) (hnd : ((u.effectOf c x).writes.map (·.1)).Nodup)
    {i r : Nat} (hi : i < x.cmd.rowCount) (hr : u.rowOf c x i = .used r) :
    t.readStN c (x.tableAt r) x.cmd.rowBytes = u.readStN c (x.denseAt i) x.cmd.rowBytes := by
  rw [State.effectOf_scatter ho] at ht hnd
  refine State.readStN_of_placed (length_readStN _ _ _ _) fun w hw => ht.of_nodup hnd ?_
  refine List.mem_append_right _ (List.mem_flatMap.2 ⟨(x.denseAt i, x.tableAt r), List.mem_flatMap.2 ⟨(.used r, i), State.mem_stencil.2 ⟨hi, hr.symm⟩, ?_⟩, hw⟩)
  exact List.mem_singleton.2 rfl

/-! ### VCOMB (03, R80-R82; 04, R96) -/

theorem State.effectOf_vcomb {x : QCmd} (h : x.cmd.opcode = 0x12) (u : State) (c : CoreId) : u.effectOf c x = u.vcombEffect c x := by
  simp only [State.effectOf, h]

/-- Address of the output in row `i` and column `j` of a tile (04, R96). -/
def Cmd.outAddr (q : Cmd) (t i j : Nat) : Int := ((highAddr q.w3 + 2048 * t + 256 * i + 8 * j : Nat) : Int)

/-- An output of the combine has the 64 bits of FP64. -/
theorem State.combine_bits_lt (u : State) (c : CoreId) (x : QCmd) (t i j : Nat) : (u.combine c x t i j).bits < 2 ^ 64 := by
  unfold State.combine
  dsimp only
  split
  · show 0 < _; decide
  · dsimp only
    split
    · show canonNan 0x01 < _; decide
    · exact toFlt_lt (c := 0x01) rfl 0 false _

section
variable {u : State} {c : CoreId} {x : QCmd} {t i j : Nat}

/-- The combine of each output of a VCOMB stands among its tiles. -/
theorem State.mem_tiles {g : CombOut → Nat → Nat → Nat → List (Int × Byte)} (ht : t < x.cmd.tiles) (hi : i < 8) (hj : j < 32) {w : Int × Byte} (hw : w ∈ g (u.combine c x t i j) t i j) :
    w ∈ (((upFrom 0 x.cmd.tiles).map fun t => (upFrom 0 8).flatMap fun i => (upFrom 0 32).map fun j => ((i, j), u.combine c x t i j)).zip (upFrom 0 x.cmd.tiles)).flatMap
      fun (p : List ((Nat × Nat) × CombOut) × Nat) => p.1.flatMap fun o => g o.2 p.2 o.1.1 o.1.2 := by
  refine List.mem_flatMap.2 ⟨(_, t), mem_zip_upFrom.2 ⟨by rw [List.getElem?_map, getElem?_upFrom ht, Option.map_some, Nat.zero_add], ht⟩, ?_⟩
  refine List.mem_flatMap.2 ⟨((i, j), u.combine c x t i j), List.mem_flatMap.2 ⟨i, mem_upFrom.2 ⟨Nat.zero_le _, by omega⟩, List.mem_map.2 ⟨j, mem_upFrom.2 ⟨Nat.zero_le _, by omega⟩, rfl⟩⟩, hw⟩

theorem State.vcomb_keeps_acc (hp : x.cmd.phase ≠ 3) (ht : t < x.cmd.tiles) (hi : i < 8) (hj : j < 32) :
    placed (x.cmd.accAddr t i j) (leBytes 24 (unsigned 192 (u.combine c x t i j).acc)) ⊆ (u.vcombEffect c x).writes := by
  intro w hw
  refine List.mem_append_left _ (List.mem_append_left _ ?_)
  rw [if_pos (decide_eq_true hp)]
  exact State.mem_tiles (g := fun o t i j => placed (x.cmd.accAddr t i j) (leBytes 24 (unsigned 192 o.acc))) ht hi hj hw

theorem State.vcomb_writes_out (hp : x.cmd.phase = 0 ∨ x.cmd.phase = 3) (ht : t < x.cmd.tiles) (hi : i < 8) (hj : j < 32) :
    placed (x.cmd.outAddr t i j) (leBytes 8 (u.combine c x t i j).bits) ⊆ (u.vcombEffect c x).writes := by
  intro w hw
  refine List.mem_append_left _ (List.mem_append_right _ ?_)
  rw [if_pos (by simpa using hp)]
  exact State.mem_tiles (g := fun o t i j => placed (x.cmd.outAddr t i j) (leBytes 8 o.bits)) ht hi hj hw

variable {v : State}

theorem State.took.vcomb_acc (h : v.took c (u.effectOf c x).writes) (ho : x.cmd.opcode = 0x12) (hnd : ((u.effectOf c x).writes.map (·.1)).Nodup) (hp : x.cmd.phase ≠ 3)
    (ht : t < x.cmd.tiles) (hi : i < 8) (hj : j < 32) : leNat (v.readStN c (x.cmd.accAddr t i j) 24) = unsigned 192 (u.combine c x t i j).acc := by
  rw [State.effectOf_vcomb ho] at h hnd
  exact h.leNat_placed hnd (unsigned_lt 192 _) (State.vcomb_keeps_acc hp ht hi hj)

theorem State.took.vcomb_out (h : v.took c (u.effectOf c x).writes) (ho : x.cmd.opcode = 0x12) (hnd : ((u.effectOf c x).writes.map (·.1)).Nodup)
    (hp : x.cmd.phase = 0 ∨ x.cmd.phase = 3) (ht : t < x.cmd.tiles) (hi : i < 8) (hj : j < 32) : leNat (v.readStN c (x.cmd.outAddr t i j) 8) = (u.combine c x t i j).bits := by
  rw [State.effectOf_vcomb ho] at h hnd
  exact h.leNat_placed hnd (u.combine_bits_lt c x t i j) (State.vcomb_writes_out hp ht hi hj)

/-! ### A VCOMB of one K-block (03, R80) -/

/-- A single K-block contributes where neither side is ZERO. -/
theorem State.contribs_single (hk : x.cmd.ktotal = 1) (row col : Nat) : u.contribs c x row col =
    if (u.rowEntry c x row 0).zero || (u.colEntry c x col 0).zero then [] else
      [{ b := 0, sum := (u.rowEntry c x row 0).exp + (u.colEntry c x col 0).exp, spread := (u.rowEntry c x row 0).spreadIn || (u.colEntry c x col 0).spreadIn,
         nan := (u.rowEntry c x row 0).nonfinite || (u.colEntry c x col 0).nonfinite }] := by
  unfold State.contribs
  rw [hk]
  simp only [upFrom, List.filterMap_cons, List.filterMap_nil]
  split_ifs <;> rfl

theorem State.combine_zero (hk : x.cmd.ktotal = 1) (h : (u.rowEntry c x (8 * t + i) 0).zero = true ∨ (u.colEntry c x j 0).zero = true) : (u.combine c x t i j).bits = 0 := by
  unfold State.combine
  dsimp only
  rw [State.contribs_single hk, if_pos (by simpa using h)]
  rfl

theorem blockRange_pos (n : Nat) : 0 < blockRange n := by unfold blockRange; split <;> decide

theorem State.combine_single (hp : x.cmd.phase = 0) (hk : x.cmd.ktotal = 1) (hh : x.cmd.khere = 1) (hf : x.cmd.kfirst = 0) {ea eb : ExpEntry} (hea : u.rowEntry c x (8 * t + i) 0 = ea)
    (heb : u.colEntry c x j 0 = eb) (hza : ea.zero = false) (hzb : eb.zero = false) (hna : ea.nonfinite = false) (hnb : eb.nonfinite = false) {z : Int}
    (hz : wrap192 ((u.core c).slicesOf x.cmd t 0 (32 * i + j)) = z) :
    (u.combine c x t i j).bits = (toFlt 0x01 0 false (.fin (decide (z < 0)) z.natAbs (ea.exp + eb.exp + 6 - 16 * (x.cmd.scount : Int)))).1 := by
  have hw := blockRange_pos x.cmd.scount
  unfold State.combine
  dsimp only
  rw [State.contribs_single hk, hea, heb, if_neg (by simp [hza, hzb])]
  simp only [sumRange, List.foldl_nil]
  rw [if_neg (show ¬ ea.exp + eb.exp < ea.exp + eb.exp - blockRange x.cmd.scount by omega)]
  simp [hp, hh, hf, hna, hnb, shiftInt, hz]

end

end Sys2Proof.Machine
end

section
/-! PROOF. What a VOP writes (03, R64-R67, R71-R75; 04, R95), and with it what the vector and move engines compute. -/

namespace Sys2Proof.Machine

/-! ### Blocks of 32 (03, R75) -/

section
variable {α β : Type} {h : List α → List β}

theorem length_flatMap_blocks32 (hlen : ∀ b, (h b).length = b.length) {n : Nat} {l : List α} (hn : l.length ≤ 32 * n) : ((blocks32 n l).flatMap h).length = l.length := by
  induction n generalizing l with
  | zero =>
    obtain rfl : l = [] := List.eq_nil_of_length_eq_zero (by omega)
    rfl
  | succ n ih =>
    rw [blocks32, List.flatMap_cons, List.length_append, hlen, ih (by rw [List.length_drop]; omega), List.length_take, List.length_drop]
    omega

/-- What comes of a whole block stands where the block does. -/
theorem getElem?_flatMap_blocks32 (hlen : ∀ b, (h b).length = b.length) {n j i : Nat} {l : List α} (hl : 32 * (j + 1) ≤ l.length) (hn : j < n) (hi : i < 32) :
    ((blocks32 n l).flatMap h)[32 * j + i]? = (h ((l.drop (32 * j)).take 32))[i]? := by
  induction n generalizing j l with
  | zero => cases hn
  | succ n ih =>
    have hfirst : (h (l.take 32)).length = 32 := by rw [hlen, List.length_take]; omega
    rw [blocks32, List.flatMap_cons]
    cases j with
    | zero => rw [List.getElem?_append_left (by omega), Nat.mul_zero, Nat.zero_add, List.drop_zero]
    | succ j =>
      rw [List.getElem?_append_right (by omega), hfirst, show 32 * (j + 1) + i - 32 = 32 * j + i by omega, ih (by rw [List.length_drop]; omega) (by omega), List.drop_drop,
        show 32 + 32 * j = 32 * (j + 1) by ring]

end

/-! ### The values that are written (04, R95) -/

theorem State.operandVals_eq (u : State) (c : CoreId) (f : Nat) (a : Int) (n : Nat) : u.operandVals c f a n = (upFrom 0 n).map (u.elem c f a n) := by
  unfold State.operandVals State.elem unpack
  dsimp only
  split
  · refine List.ext_getElem (by simp) fun i h h' => ?_
    have hi : i < n := by simpa using h'
    have hscale : (u.readStN c (a + (fmtBytes f n : Nat)) (ceilDiv n 32)).getD (i / 32) 0 = u.readSt c (a + (fmtBytes f n : Nat) + (i / 32 : Nat)) := by
      rw [List.getD_eq_getElem?_getD, getElem?_readStN (by unfold ceilDiv; omega)]
      rfl
    simp only [List.getElem_map, List.getElem_zip, getElem_upFrom, Nat.zero_add, hscale]
  · rw [List.map_map]
    rfl

/-- A source as a VOP takes it: each element converted into the compute format. -/
theorem State.readVals_operand (u : State) (c : CoreId) (q : Cmd) (f : Nat) (a : Int) (n : Nat) :
    (readVals f (computeFmt q.fmtD) q.rnd q.sat (u.operandVals c f a n)).1 = (upFrom 0 n).map fun i => q.convert f (u.elem c f a n i) := by
  unfold readVals
  rw [State.operandVals_eq]
  simp only [List.map_map]
  rfl

theorem mapOp_map {α : Type} (vopc cf rnd : Nat) (a b z : α → Val) (l : List α) :
    (mapOp vopc cf rnd (l.map a) (l.map b) (l.map z)).1 = l.map fun i => (vectorOp vopc cf rnd (a i) (b i) (z i)).1 := by
  induction l with
  | nil => rfl
  | cons i l ih => simp only [List.map_cons, mapOp, ih]

section
variable (u : State) (c : CoreId) (x : QCmd)

/-- Element `i` of a VOP's first source in its compute format; of its second; of its third. A source that the operation does not use stands for the first. -/
def State.srcA (i : Nat) : Val := x.cmd.convert x.cmd.fmtA (u.elem c x.cmd.fmtA x.a x.cmd.count i)
def State.srcB (i : Nat) : Val := if vopUsesB x.cmd.vopc then x.cmd.convert x.cmd.fmtB (u.elem c x.cmd.fmtB (highAddr x.cmd.w2 : Nat) x.cmd.count i) else u.srcA c x i
def State.srcC (i : Nat) : Val := if vopUsesC x.cmd.vopc then x.cmd.convert x.cmd.fmtC (u.elem c x.cmd.fmtC (lowAddr x.cmd.w2 : Nat) x.cmd.count i) else u.srcA c x i

theorem State.vopVals_srcA : (readVals x.cmd.fmtA (computeFmt x.cmd.fmtD) x.cmd.rnd x.cmd.sat (u.operandVals c x.cmd.fmtA x.a x.cmd.count)).1 = (upFrom 0 x.cmd.count).map (u.srcA c x) :=
  u.readVals_operand c x.cmd _ _ _

theorem State.vopVals_conv (h : x.cmd.vopc = 0x0B) : (u.vopVals c x).1 = (upFrom 0 x.cmd.count).map (u.elem c x.cmd.fmtA x.a x.cmd.count) := by
  unfold State.vopVals
  dsimp only
  rw [if_pos h, State.operandVals_eq]

theorem State.vopVals_op (hconv : x.cmd.vopc ≠ 0x0B) (hsum : x.cmd.vopc ≠ 0x0C) (hmax : x.cmd.vopc ≠ 0x0D) :
    (u.vopVals c x).1 = (upFrom 0 x.cmd.count).map fun i => (vectorOp x.cmd.vopc (computeFmt x.cmd.fmtD) x.cmd.rnd (u.srcA c x i) (u.srcB c x i) (u.srcC c x i)).1 := by
  have hB : (if vopUsesB x.cmd.vopc then readVals x.cmd.fmtB (computeFmt x.cmd.fmtD) x.cmd.rnd x.cmd.sat (u.operandVals c x.cmd.fmtB (highAddr x.cmd.w2) x.cmd.count)
      else ((upFrom 0 x.cmd.count).map (u.srcA c x), 0)).1 = (upFrom 0 x.cmd.count).map (u.srcB c x) := by
    unfold State.srcB
    split
    · exact u.readVals_operand c x.cmd _ _ _
    · rfl
  have hC : (if vopUsesC x.cmd.vopc then readVals x.cmd.fmtC (computeFmt x.cmd.fmtD) x.cmd.rnd x.cmd.sat (u.operandVals c x.cmd.fmtC (lowAddr x.cmd.w2) x.cmd.count)
      else ((upFrom 0 x.cmd.count).map (u.srcA c x), 0)).1 = (upFrom 0 x.cmd.count).map (u.srcC c x) := by
    unfold State.srcC
    split
    · exact u.readVals_operand c x.cmd _ _ _
    · rfl
  unfold State.vopVals
  dsimp only
  rw [if_neg hconv]
  split
  · contradiction
  · contradiction
  · rw [State.vopVals_srcA, hB, hC]
    exact mapOp_map _ _ _ _ _ _ _

theorem State.vopVals_reduce (h : x.cmd.vopc = 0x0C ∨ x.cmd.vopc = 0x0D) :
    (u.vopVals c x).1 = [(reduce (x.cmd.vopc = 0x0C) (computeFmt x.cmd.fmtD) x.cmd.rnd ((upFrom 0 x.cmd.count).map (u.srcA c x))).1] := by
  unfold State.vopVals
  dsimp only
  rw [if_neg (by omega)]
  rcases h with h | h <;> simp [h, State.vopVals_srcA]

theorem State.effectOf_vop {x : QCmd} (h : x.cmd.opcode = 0x10) : u.effectOf c x = u.vopEffect c x := by simp only [State.effectOf, h]

/-- Rounding mode and SAT of the conversion of a VOP's results. -/
def Cmd.outMode (q : Cmd) : Nat × Bool := if q.vopc = 0x0B then convMode q.fmtA q.fmtD q.rnd q.sat else (q.rnd, q.sat)

/-- Where a VOP of `n` results in an MX format puts their scales (04, R95). -/
def QCmd.scalesAt (x : QCmd) (n : Nat) : Int := if x.cmd.vopc = 0x0B then (lowAddr x.cmd.w2 : Int) else x.b + (fmtBytes x.cmd.fmtD n : Nat)

/-- Blocks of an MX destination. -/
def mxBlocks (f rnd : Nat) (vs : List Val) : List (Nat × List Nat × FlagSet) := (blocks32 (ceilDiv vs.length 32) vs).map (mxBlock f rnd)

theorem State.vopEffect_writes_plain (h : isMx x.cmd.fmtD = false) :
    (u.vopEffect c x).writes = placed x.b (pack x.cmd.fmtD ((u.vopVals c x).1.map fun v => (toElem x.cmd.fmtD x.cmd.outMode.1 x.cmd.outMode.2 v).1)) := by
  show (writeVals _ _ _ _ _ _).1 = _
  unfold writeVals
  dsimp only
  rw [if_neg (by simp [h]), List.map_map]
  rfl

theorem State.vopEffect_writes_mx (h : isMx x.cmd.fmtD = true) :
    (u.vopEffect c x).writes = placed x.b (pack x.cmd.fmtD ((mxBlocks x.cmd.fmtD x.cmd.outMode.1 (u.vopVals c x).1).flatMap fun b => b.2.1)) ++
      placed (x.scalesAt (u.vopVals c x).1.length) ((mxBlocks x.cmd.fmtD x.cmd.outMode.1 (u.vopVals c x).1).map fun b => BitVec.ofNat 8 b.1) := by
  show (writeVals _ _ _ _ _ _).1 = _
  unfold writeVals
  dsimp only
  rw [if_pos h]
  rfl

end

/-! ### The results read back (03, R66, R75) -/

/-- Elements that stand packed at an address, read back. -/
theorem State.elemAt_of_placed {t : State} {c : CoreId} {f n : Nat} {a : Int} {xs : List Nat} (hx : ∀ y ∈ xs, y < 2 ^ fmtBits f) (hn : xs.length = n)
    (h : ∀ w ∈ placed a (pack f xs), t.readSt c w.1 = w.2) {i : Nat} (hi : i < xs.length) : elemAt f (t.readStN c a (fmtBytes f n)) i = xs[i] := by
  rw [State.readStN_of_placed (by rw [length_pack, hn]) h, elemAt_pack hx hi]

section
variable {t u : State} {c : CoreId} {x : QCmd}

theorem State.took.vop_plain (h : t.took c (u.effectOf c x).writes) (ho : x.cmd.opcode = 0x10) (hf : isMx x.cmd.fmtD = false) {vs : List Val} (hv : (u.vopVals c x).1 = vs) {i : Nat}
    (hi : i < vs.length) : elemAt x.cmd.fmtD (t.readStN c x.b (fmtBytes x.cmd.fmtD vs.length)) i = (toElem x.cmd.fmtD x.cmd.outMode.1 x.cmd.outMode.2 vs[i]).1 := by
  rw [State.effectOf_vop _ _ ho, State.vopEffect_writes_plain _ _ _ hf, hv] at h
  have hx : ∀ y ∈ vs.map (fun v => (toElem x.cmd.fmtD x.cmd.outMode.1 x.cmd.outMode.2 v).1), y < 2 ^ fmtBits x.cmd.fmtD := by
    intro y hy
    obtain ⟨v, -, rfl⟩ := List.mem_map.1 hy
    exact toElem_lt _ _ _ _
  rw [State.elemAt_of_placed hx (List.length_map _) (fun w hw => h.of_nodup (placed_nodup _ _) hw) (by rwa [List.length_map]), List.getElem_map]

theorem State.took.vop_mx (h : t.took c (u.effectOf c x).writes) (ho : x.cmd.opcode = 0x10) (hf : isMx x.cmd.fmtD = true) (hnd : ((u.effectOf c x).writes.map (·.1)).Nodup)
    {vs : List Val} (hv : (u.vopVals c x).1 = vs) {j : Nat} (hj : 32 * (j + 1) ≤ vs.length) {bl : Nat × List Nat × FlagSet}
    (hbl : bl = mxBlock x.cmd.fmtD x.cmd.outMode.1 ((vs.drop (32 * j)).take 32)) :
    t.readSt c (x.scalesAt vs.length + (j : Nat)) = BitVec.ofNat 8 bl.1 ∧
      ∀ i (hi : i < bl.2.1.length), elemAt x.cmd.fmtD (t.readStN c x.b (fmtBytes x.cmd.fmtD vs.length)) (32 * j + i) = bl.2.1[i] := by
  have hcodes := mxBlock_codes hf x.cmd.outMode.1
  have hblock : j < ceilDiv vs.length 32 := by unfold ceilDiv; omega
  rw [State.effectOf_vop _ _ ho, State.vopEffect_writes_mx _ _ _ hf, hv] at h hnd
  constructor
  · refine h.of_nodup hnd (w := (x.scalesAt vs.length + (j : Nat), BitVec.ofNat 8 bl.1)) (List.mem_append_right _ (mem_placed.2 ⟨j, ?_, rfl⟩))
    rw [mxBlocks, List.map_map, List.getElem?_map, getElem?_blocks32 hblock, hbl]
    rfl
  · intro i hi
    have hlen : bl.2.1.length = 32 := by rw [hbl, (hcodes _).1, List.length_take, List.length_drop]; omega
    have hflat : (mxBlocks x.cmd.fmtD x.cmd.outMode.1 vs).flatMap (fun b => b.2.1) = (blocks32 (ceilDiv vs.length 32) vs).flatMap fun b => (mxBlock x.cmd.fmtD x.cmd.outMode.1 b).2.1 :=
      List.flatMap_map ..
    rw [hflat] at h hnd
    have hcode := getElem?_flatMap_blocks32 (h := fun b => (mxBlock x.cmd.fmtD x.cmd.outMode.1 b).2.1) (fun b => (hcodes b).1) hj hblock (hlen ▸ hi)
    rw [← hbl, List.getElem?_eq_getElem hi] at hcode
    obtain ⟨hlt, heq⟩ := List.getElem?_eq_some_iff.1 hcode
    rw [← heq]
    refine State.elemAt_of_placed ?_ (length_flatMap_blocks32 (fun b => (hcodes b).1) (by unfold ceilDiv; omega)) (fun w hw => h.of_nodup hnd (List.mem_append_left _ hw)) hlt
    intro y hy
    obtain ⟨b, -, hyb⟩ := List.mem_flatMap.1 hy
    exact (hcodes b).2 y hyb

end

/-! ### The values of a VOP and its results -/

section
variable {u : State} {c : CoreId} {x : QCmd} {val : Nat → Val}

/-- The values of a CONV are its source's own. -/
theorem State.vopVals_of_conv (hb : x.cmd.vopc = 0x0B) (h : ∀ i, i < x.cmd.count → val i = u.elem c x.cmd.fmtA x.a x.cmd.count i) :
    (u.vopVals c x).1 = (upFrom 0 x.cmd.count).map val := by
  rw [State.vopVals_conv u c x hb]
  exact List.map_congr_left fun i hi => (h i (by simpa using (mem_upFrom.1 hi).2)).symm

/-- The values of an elementwise operation are its results on the converted sources. -/
theorem State.vopVals_of_op (hb : x.cmd.vopc ≠ 0x0B) (hc : x.cmd.vopc ≠ 0x0C) (hd : x.cmd.vopc ≠ 0x0D)
    (h : ∀ i, i < x.cmd.count → val i = (vectorOp x.cmd.vopc (computeFmt x.cmd.fmtD) x.cmd.rnd (u.srcA c x i) (u.srcB c x i) (u.srcC c x i)).1) :
    (u.vopVals c x).1 = (upFrom 0 x.cmd.count).map val := by
  rw [State.vopVals_op u c x hb hc hd]
  exact List.map_congr_left fun i hi => (h i (by simpa using (mem_upFrom.1 hi).2)).symm

variable {t : State}

/-- An elementwise VOP leaves each of its values as an element of its destination. -/
theorem State.took.vop_elem (ht : t.took c (u.effectOf c x).writes) (ho : x.cmd.opcode = 0x10) (hf : isMx x.cmd.fmtD = false) (hv : (u.vopVals c x).1 = (upFrom 0 x.cmd.count).map val)
    {i : Nat} (hi : i < x.cmd.count) : elemAt x.cmd.fmtD (t.readStN c x.b (fmtBytes x.cmd.fmtD x.cmd.count)) i = (toElem x.cmd.fmtD x.cmd.outMode.1 x.cmd.outMode.2 (val i)).1 := by
  have h := ht.vop_plain ho hf hv (i := i) (by simpa using hi)
  simpa only [List.length_map, upFrom_length, List.getElem_map, getElem_upFrom, Nat.zero_add] using h

/-- In an MX format it leaves each whole block of 32 with its scale. -/
theorem State.took.vop_block (ht : t.took c (u.effectOf c x).writes) (ho : x.cmd.opcode = 0x10) (hf : isMx x.cmd.fmtD = true) (hnd : ((u.effectOf c x).writes.map (·.1)).Nodup)
    (hv : (u.vopVals c x).1 = (upFrom 0 x.cmd.count).map val) {j : Nat} (hj : 32 * (j + 1) ≤ x.cmd.count) {bl : Nat × List Nat × FlagSet}
    (hbl : bl = mxBlock x.cmd.fmtD x.cmd.outMode.1 ((upFrom (32 * j) 32).map val)) :
    t.readSt c (x.scalesAt x.cmd.count + (j : Nat)) = BitVec.ofNat 8 bl.1 ∧
      ∀ i (hi : i < bl.2.1.length), elemAt x.cmd.fmtD (t.readStN c x.b (fmtBytes x.cmd.fmtD x.cmd.count)) (32 * j + i) = bl.2.1[i] := by
  have h := ht.vop_mx ho hf hnd hv (j := j) (bl := bl) (by simpa using hj) (by rw [hbl, ← List.map_drop, ← List.map_take, block_upFrom hj])
  simpa only [List.length_map, upFrom_length] using h

/-- A reduction leaves its one result. -/
theorem State.took.vop_reduce (ht : t.took c (u.effectOf c x).writes) (ho : x.cmd.opcode = 0x10) (hf : isMx x.cmd.fmtD = false) (hr : x.cmd.vopc = 0x0C ∨ x.cmd.vopc = 0x0D) :
    elemAt x.cmd.fmtD (t.readStN c x.b (fmtBytes x.cmd.fmtD 1)) 0 = (toElem x.cmd.fmtD x.cmd.rnd x.cmd.sat
      (reduce (x.cmd.vopc = 0x0C) (computeFmt x.cmd.fmtD) x.cmd.rnd ((upFrom 0 x.cmd.count).map (u.srcA c x))).1).1 := by
  have h := ht.vop_plain ho hf (State.vopVals_reduce u c x hr) (i := 0) (by simp)
  rwa [Cmd.outMode, if_neg (by omega)] at h

end

/-- Settles O32: every write of the command stands where no other meets it, so that what it lists among its writes is what is read back. -/
theorem vectorResults : Obligations.VectorResults := by
  refine ⟨fun s u c n q x rest ecc hu hm hst hc => ?_, fun k v hk hv => ⟨digitsOf_length hk v, digitsValue_digitsOf hk hv⟩⟩
  obtain ⟨t, he, ht⟩ := exec_engineCommandStart_took hu hm hst hc
  refine ⟨t, he, fun ho f k hf hk => ?_, fun ho hnd tile i j htile hi hj => ?_, fun ho hnd bs sc j bl hbs hsc hj hbl => ?_, fun ho i e w hi hw hent => ?_⟩
  · replace ht := ht (by rw [ho]; decide)
    subst hf hk
    refine ⟨fun val m hsum hmax hconv hop => ?_, fun hf hr => ht.vop_reduce ho hf hr⟩
    have hvals : m = x.cmd.outMode ∧ (u.vopVals c x).1 = (upFrom 0 x.cmd.count).map val := by
      unfold Cmd.outMode
      by_cases hb : x.cmd.vopc = 0x0B
      · rw [if_pos hb]
        exact ⟨(hconv hb).1, State.vopVals_of_conv hb (hconv hb).2⟩
      · rw [if_neg hb]
        exact ⟨(hop hb).1, State.vopVals_of_op hb hsum hmax fun i hi => (hop hb).2 i _ _ _ hi rfl rfl rfl⟩
    obtain ⟨rfl, hvals⟩ := hvals
    exact ⟨fun hf i hi => ht.vop_elem ho hf hvals hi, fun hf hnd j bl hj hbl => ht.vop_block ho hf hnd hvals hj hbl⟩
  · replace ht := ht (by rw [ho]; decide)
    refine ⟨fun hp => ht.vcomb_acc ho hnd hp htile hi hj, fun hp => ht.vcomb_out ho hnd hp htile hi hj, fun ea eb hp hk hh hf hea heb => ?_⟩
    have hout := ht.vcomb_out ho hnd (.inl hp) htile hi hj
    subst hea heb
    exact ⟨fun hz => hout.trans (State.combine_zero hk hz), fun hza hzb hna hnb z hz => hout.trans (State.combine_single hp hk hh hf rfl rfl hza hzb hna hnb hz.symm)⟩
  · subst hbs hsc hbl
    exact (ht (by rw [ho]; decide)).split ho hnd hj
  · subst hw
    have hne : x.cmd.opcode ≠ 0x30 := by omega
    obtain rfl : e = u.rowOf c x i := hent
    exact ⟨fun r ho he => ((ht hne).gather ho hi).trans (State.gathered_used he), fun ho he => ((ht hne).gather ho hi).trans (State.gathered_unused he),
      fun r ho he hnd => (ht hne).scatter ho hnd hi he⟩

end Sys2Proof.Machine
end

section
/-! PROOF. The memories and the stored registers of the module as one value, and the operations that leave it as it is: of all that a command can touch, none of these is a
byte of a store, a byte of a stack, or a stored register (05; 16). -/

namespace Sys2Proof.Machine

/-! ### The value -/

/-- The bytes of the core stores, of the cluster stores and of the stacks, and the stored registers. -/
abbrev Tables := Tab (Tab Byte) × Tab (Tab Byte) × Tab (Tab Byte) × Tab W32

/-- The three memories and the stored registers: all that the canonical form speaks of. -/
def State.tables (s : State) : Tables := (s.coreMem, s.cluMem, s.hbm, s.regs)

/-- A state written out has the tables that stand in it; the other fields, named by their place, are not looked at. -/
@[simp] theorem State.tables_mk {a0 a1 a2 a3 a4 a5 a6 a7 a8 a9 a10 r a12 a13 a14 a15 a16 a17 a18 a19 a20 a21 a22 a23 a24 a25 m m₁ m₂ a29 a30 a31 a32 a33 a34 a35 a36 a37 a38 a39 a40 a41 a42 a43 a44 a45 a46} :
    (State.mk a0 a1 a2 a3 a4 a5 a6 a7 a8 a9 a10 r a12 a13 a14 a15 a16 a17 a18 a19 a20 a21 a22 a23 a24 a25 m m₁ m₂ a29 a30 a31 a32 a33 a34 a35 a36 a37 a38 a39 a40 a41 a42 a43 a44 a45 a46).tables = (m, m₁, m₂, r) := rfl

@[simp] theorem State.tables_eta (s : State) : (s.coreMem, s.cluMem, s.hbm, s.regs) = s.tables := rfl

@[simp] theorem State.tables_ite (p : Prop) [Decidable p] (s t : State) : (if p then s else t).tables = if p then s.tables else t.tables := apply_ite _ _ _ _

/-- What every change of a run leaves as it is, the run leaves as it is. -/
theorem State.tables_foldl {α : Type} {f : State → α → State} (h : ∀ s a, (f s a).tables = s.tables) (l : List α) (s : State) : (l.foldl f s).tables = s.tables :=
  List.foldlRecOn (motive := fun t => t.tables = s.tables) l f rfl fun t ht a _ => (h t a).trans ht

/-! ### Shared operations: parts, outputs, counted events, stores and regions, stops, flags -/

@[simp] theorem State.tables_setPart (s : State) (n : Nat) (p : Part) : (s.setPart n p).tables = s.tables := by rfl

@[simp] theorem State.tables_updPart (s : State) (n : Nat) (f : Part → Part) : (s.updPart n f).tables = s.tables := by rfl

@[simp] theorem State.tables_setCore (s : State) (c : CoreId) (k : Core) : (s.setCore c k).tables = s.tables := by rfl

@[simp] theorem State.tables_updCore (s : State) (c : CoreId) (f : Core → Core) : (s.updCore c f).tables = s.tables := by rfl

@[simp] theorem State.tables_setPort (s : State) (n : Nat) (p : FPort) : (s.setPort n p).tables = s.tables := by rfl

@[simp] theorem State.tables_updPort (s : State) (n : Nat) (f : FPort → FPort) : (s.updPort n f).tables = s.tables := by rfl

@[simp] theorem State.tables_setStack (s : State) (n : Nat) (k : Stack) : (s.setStack n k).tables = s.tables := by rfl

@[simp] theorem State.tables_updStack (s : State) (n : Nat) (f : Stack → Stack) : (s.updStack n f).tables = s.tables := by rfl

@[simp] theorem State.tables_updRegion (s : State) (n : Nat) (f : Region → Region) : (s.updRegion n f).tables = s.tables := by rfl

@[simp] theorem State.tables_updDomain (s : State) (n : Nat) (f : Domain → Domain) : (s.updDomain n f).tables = s.tables := by rfl

@[simp] theorem State.tables_updCrossing (s : State) (n : Nat) (f : Crossing → Crossing) : (s.updCrossing n f).tables = s.tables := by rfl

@[simp] theorem State.tables_updLink (s : State) (l : Link) (f : HostLink → HostLink) : (s.updLink l f).tables = s.tables := by rfl

@[simp] theorem State.tables_setRing (s : State) (q : Nat) (r : Ring) : (s.setRing q r).tables = s.tables := by rfl

@[simp] theorem State.tables_updRing (s : State) (q : Nat) (f : Ring → Ring) : (s.updRing q f).tables = s.tables := by rfl

@[simp] theorem State.tables_updCan (s : State) (n : Nat) (f : Canary → Canary) : (s.updCan n f).tables = s.tables := by rfl

@[simp] theorem State.tables_emit (s : State) (o : Out) : (s.emit o).tables = s.tables := by rfl

@[simp] theorem State.tables_takeFresh (s : State) : s.takeFresh.2.tables = s.tables := by rfl

@[simp] theorem State.tables_platform (s : State) (k : EventKind) (arg : Nat) : (s.platform k arg).tables = s.tables := by simp [State.platform]

@[simp] theorem State.tables_alarmEdge (s : State) (before : Bool) : (s.alarmEdge before).tables = s.tables := by simp [State.alarmEdge]

@[simp] theorem State.tables_countN (s : State) (e : Ev) (wh : Where) (pt : Option Nat) (n : Nat) : (s.countN e wh pt n).tables = s.tables := by rfl

@[simp] theorem State.tables_count (s : State) (e : Ev) (wh : Where) (pt : Option Nat) : (s.count e wh pt).tables = s.tables := by rfl

@[simp] theorem State.tables_advance (s : State) (t : Count) : (s.advance t).tables = s.tables := by simp [State.advance]

@[simp] theorem State.tables_canInput (s : State) (part i n : Nat) : (s.canInput part i n).tables = s.tables := by rfl

@[simp] theorem State.tables_noteAhead (s : State) (c : CoreId) (o : Nat) : (s.noteAhead c o).tables = s.tables := by simp [State.noteAhead]

@[simp] theorem State.tables_clearPoison (s : State) (c : CoreId) (as : List Int) : (s.clearPoison c as).tables = s.tables := by simp [State.clearPoison]

@[simp] theorem State.tables_clearHbmPoison (s : State) (n : Nat) (as : List Nat) : (s.clearHbmPoison n as).tables = s.tables := by simp [State.clearHbmPoison]

@[simp] theorem State.tables_pushRec (s : State) (q : Nat) (r : Rec) : (s.pushRec q r).tables = s.tables := by rfl

@[simp] theorem State.tables_complete (s : State) (n : Nat) (d : Desc) (r : Rec) : (s.complete n d r).tables = s.tables := by rfl

@[simp] theorem State.tables_finish (s : State) (n : Nat) (d : Desc) (status : Nat) : (s.finish n d status).tables = s.tables := by rfl

@[simp] theorem State.tables_unsolicited (s : State) (n : Nat) (r : Rec) : (s.unsolicited n r).tables = s.tables := by
  unfold State.unsolicited
  split <;> rfl

@[simp] theorem State.tables_flushEvq (s : State) (n : Nat) : (s.flushEvq n).tables = s.tables := by
  unfold State.flushEvq
  split
  · exact State.tables_foldl (fun s r => State.tables_pushRec s _ r) _ s
  · rfl

@[simp] theorem State.tables_event (s : State) (n ev : Nat) (detail : Word) : (s.event n ev detail).tables = s.tables := by simp [State.event]

@[simp] theorem State.tables_queueJobStop (s : State) (p : Nat) (b : JobStopBody) : (s.queueJobStop p b).tables = s.tables := by rfl

@[simp] theorem State.tables_flood (s : State) (b : JobStopBody) (received : Bool) : (s.flood b received).tables = s.tables := by
  rw [State.flood_frame]
  rfl

@[simp] theorem State.tables_abortFlight (s : State) (n : Nat) : (s.abortFlight n).tables = s.tables :=
  State.tables_foldl (fun s d => State.tables_finish s n d stABORTED) _ s

@[simp] theorem State.tables_repaintReached (s : State) (r : Repaint) (status : Nat) : (s.repaintReached r status).tables = s.tables := by
  unfold State.repaintReached
  repeat' split
  all_goals rfl

@[simp] theorem State.tables_repaintLeft (s : State) (r : Option Repaint) : (s.repaintLeft r).tables = s.tables := by
  unfold State.repaintLeft
  split <;> simp

@[simp] theorem State.tables_discardUnissued (s : State) (n : Nat) : (s.discardUnissued n).tables = s.tables :=
  State.tables_foldl (fun s c => by dsimp only; split <;> rfl) _ s

@[simp] theorem State.tables_amend (s : State) (n : Nat) (old new : FaultRec) : (s.amend n old new).tables = s.tables := by
  unfold State.amend
  dsimp only
  repeat' split
  all_goals rfl

@[simp] theorem State.tables_amendReason (s : State) (key old new : Nat) : (s.amendReason key old new).tables = s.tables := by
  refine State.tables_foldl (fun s e => ?_) _ _
  split
  · split <;> simp
  · rfl

@[simp] theorem State.tables_stopOne (s : State) (n : Nat) (c : Cause) : (s.stopOne n c).tables = s.tables := by
  unfold State.stopOne
  dsimp only
  repeat' split
  all_goals simp

@[simp] theorem State.tables_stopKey (s : State) (key : Nat) (c : Cause) : (s.stopKey key c).tables = s.tables :=
  State.tables_foldl (fun s n => State.tables_stopOne s n c) _ s

@[simp] theorem State.tables_floodKeys (s : State) (code : Nat) (keys : List Nat) : (s.floodKeys code keys).tables = s.tables :=
  State.tables_foldl (fun s key => by rw [State.tables_foldl fun s m => State.tables_stopOne s m _, State.tables_flood]) _ s

@[simp] theorem State.tables_faultStopAll (s : State) (ns : List Nat) (c : Cause) : (s.faultStopAll ns c).tables = s.tables := by
  have stops : (ns.foldl (fun s n => s.stopOne n c) s).tables = s.tables := State.tables_foldl (fun s n => State.tables_stopOne s n c) _ s
  unfold State.faultStopAll
  dsimp only
  split
  · exact stops
  · rw [State.tables_floodKeys, stops]

@[simp] theorem State.tables_faultStop (s : State) (n : Nat) (c : Cause) : (s.faultStop n c).tables = s.tables := by simp [State.faultStop]

@[simp] theorem State.tables_ledgerFault (s : State) (ns : List Nat) (c : Cause) : (s.ledgerFault ns c).tables = s.tables := by simp [State.ledgerFault]

@[simp] theorem State.tables_addFlag (s : State) (n : Nat) (c : CoreId) (f : Nat) : (s.addFlag n c f).tables = s.tables := by simp [State.addFlag]

@[simp] theorem State.tables_lateIncrement (s : State) (n : Nat) (c : CoreId) (f : Nat) (ok : Bool) : (s.lateIncrement n c f ok).tables = s.tables := by simp [State.lateIncrement]

/-! ### Resets and the loss of power (00, R7, R8; 07, R162; 12, R268, R279; 14, R312-R318) -/

@[simp] theorem State.tables_gate (s : State) (n : Nat) : (s.gate n).tables = s.tables := by rfl

@[simp] theorem State.tables_dropRunning (s : State) (n : Nat) : (s.dropRunning n).tables = s.tables := by rfl

@[simp] theorem State.tables_repaintAborted (s : State) (n : Nat) : (s.repaintAborted n).tables = s.tables := by
  unfold State.repaintAborted
  repeat' split
  all_goals rfl

@[simp] theorem State.tables_abortUpdate (s : State) : s.abortUpdate.tables = s.tables := by
  unfold State.abortUpdate
  repeat' split
  all_goals rfl

@[simp] theorem State.tables_saveAccs (s : State) : s.saveAccs.tables = s.tables := by rfl

/-! ### The refresh calendars of the stacks (05, R128-R135) -/

@[simp] theorem State.tables_noteWait (s : State) (ks : List Nat) (name : Nat × Nat) : (s.noteWait ks name).tables = s.tables :=
  State.tables_foldl (fun s k => by split <;> rfl) _ s

@[simp] theorem State.tables_readWait (s : State) (n a len : Nat) : (s.readWait n a len).tables = s.tables :=
  State.tables_foldl (fun s k => by split <;> rfl) _ s

@[simp] theorem State.tables_poisonSector (s : State) (k x : Nat) (n : Option Nat) : (s.poisonSector k x n).tables = s.tables := by simp [State.poisonSector]

@[simp] theorem State.tables_correctSector (s : State) (k : Nat) (n : Option Nat) : (s.correctSector k n).tables = s.tables := by rfl

@[simp] theorem State.tables_sectorError (s : State) (n : Nat) (c : Option CoreId) (a : Nat) : (s.sectorError n c a).tables = s.tables := by
  unfold State.sectorError
  split <;> simp

@[simp] theorem State.tables_readSectors (s : State) (n : Nat) (as : List Nat) (ecc : List EccAt) : (s.readSectors n as ecc).1.tables = s.tables := by
  unfold State.readSectors
  split
  · rfl
  · refine List.foldlRecOn (motive := fun (r : State × Option Nat) => r.1.tables = s.tables) ecc _ rfl fun r hr e _ => ?_
    split
    · exact hr
    · split <;> simp [hr]

@[simp] theorem State.tables_hostRead (s : State) (n a len : Nat) (ecc : List EccAt) : (s.hostRead n a len ecc).tables = s.tables := by
  refine State.tables_foldl (fun s e => ?_) _ _
  split
  · split
    · split <;> simp
    · simp
    · rfl
  · rfl

@[simp] theorem State.tables_startEmergency (s : State) (k : Nat) (t held : Count) : (s.startEmergency k t held).tables = s.tables := by rfl

@[simp] theorem State.tables_payDeficit (s : State) (k : Nat) (t held : Count) : (s.payDeficit k t held).tables = s.tables := by simp [State.payDeficit]

@[simp] theorem State.tables_openWindow (s : State) (k : Nat) : (s.openWindow k).tables = s.tables := by rfl

@[simp] theorem State.tables_openWindows (s : State) (ks : List Nat) : (s.openWindows ks).tables = s.tables :=
  State.tables_foldl (fun s k => by split <;> simp) _ s

/-! ### Assay mode (06, R153-R160) -/

@[simp] theorem State.tables_putClock (s : State) (key : Nat) (v : Tab Nat) : (s.putClock key v).tables = s.tables := by rfl

@[simp] theorem State.tables_joinInto (s : State) (key : Nat) (v : Tab Nat) : (s.joinInto key v).tables = s.tables := by rfl

@[simp] theorem State.tables_handOn (s : State) (n : Nat) (c : CoreId) (q : Nat) : (s.handOn n c q).2.tables = s.tables := by
  unfold State.handOn
  split <;> rfl

@[simp] theorem State.tables_takeClock (s : State) (n : Nat) (c : CoreId) (q key : Nat) : (s.takeClock n c q key).tables = s.tables := by simp [State.takeClock]

@[simp] theorem State.tables_readSetsClock (s : State) (n : Nat) (c : CoreId) (q : Nat) (sets : List Nat) : (s.readSetsClock n c q sets).tables = s.tables := by
  unfold State.readSetsClock
  split
  · rfl
  · dsimp only
    rw [State.tables_foldl fun s i => State.tables_joinInto s _ _, State.tables_handOn, State.tables_foldl fun s i => State.tables_takeClock s n c q _]

@[simp] theorem State.tables_wroteSetClock (s : State) (n : Nat) (c : CoreId) (q set : Nat) : (s.wroteSetClock n c q set).tables = s.tables := by simp [State.wroteSetClock]

@[simp] theorem State.tables_beatClock (s : State) (n : Nat) (c : CoreId) : (s.beatClock n c).tables = s.tables := by
  unfold State.beatClock
  split
  · exact State.tables_foldl (fun s q => State.tables_putClock s _ _) _ s
  · rfl

@[simp] theorem State.tables_setTags (s : State) (n : Nat) (keys : List Nat) (tag : Nat) : (s.setTags n keys tag).tables = s.tables := by simp [State.setTags]

@[simp] theorem State.tables_putTags (s : State) (n : Nat) (l : List (Nat × Nat)) : (s.putTags n l).tables = s.tables := by simp [State.putTags]

/-! ### The loose class (09, R218-R222) -/

@[simp] theorem State.tables_incFlag (s : State) (n : Nat) (c : CoreId) (f : Nat) (vc : Tab Nat) : (s.incFlag n c f vc).tables = s.tables := by simp [State.incFlag]

@[simp] theorem State.tables_setLimiter (s : State) (g : Nat) (l : Limiter) : (s.setLimiter g l).tables = s.tables := by rfl

@[simp] theorem State.tables_halve (s : State) (domain devid : Nat) : (s.halve domain devid).tables = s.tables := by simp [State.halve]

@[simp] theorem State.tables_linkLost (s : State) (t : Tracked) (e : Ev) : (s.linkLost t e).tables = s.tables := by
  unfold State.linkLost
  dsimp only
  repeat' split
  all_goals rfl

@[simp] theorem State.tables_takeDelivered (s : State) (k : LoosePkt) : (s.takeDelivered k).tables = s.tables := by
  unfold State.takeDelivered
  split <;> simp

@[simp] theorem State.tables_takeCredit (s : State) (k : LoosePkt) : (s.takeCredit k).tables = s.tables := by
  unfold State.takeCredit
  split <;> rfl

@[simp] theorem State.tables_takeResponse (s : State) (k : LoosePkt) : (s.takeResponse k).tables = s.tables := by
  unfold State.takeResponse
  repeat' split
  all_goals simp

@[simp] theorem State.tables_respond (s : State) (k : LoosePkt) : (s.respond k).tables = s.tables := by
  unfold State.respond
  repeat' split
  all_goals simp

@[simp] theorem State.tables_fillSlot (s : State) (c : CoreId) (i : Nat) (src : MsgSrc) : (s.fillSlot c i src).tables = s.tables := by rfl

@[simp] theorem State.tables_takeSet (s : State) (n : Nat) (k : LoosePkt) (own : OwnSend) : (s.takeSet n k own).tables = s.tables := by simp [State.takeSet]

/-! ### Flags, slots and messages (04, R103-R108) -/

@[simp] theorem State.tables_readError (s : State) (n : Nat) (c : CoreId) (e : EccAt) : (s.readError n c e).tables = s.tables := by
  unfold State.readError
  repeat' split
  all_goals rfl

@[simp] theorem State.tables_readErrors (s : State) (n : Nat) (c : CoreId) (q cmd : Nat) (reads : List Int) (stop : Bool) (es : List EccAt) :
    (s.readErrors n c q cmd reads stop es).tables = s.tables := by
  have reading : ((es.filter fun e => reads.contains (e.addr : Int)).foldl (fun s e => s.readError n c e) s).tables = s.tables :=
    State.tables_foldl (fun s e => State.tables_readError s n c e) _ s
  unfold State.readErrors
  dsimp only
  split
  · rw [State.tables_faultStop, reading]
  · exact reading

@[simp] theorem State.tables_creditPacket (s : State) (n : Nat) (c : CoreId) (gen slot domain devid : Nat) (src : CoreId) : (s.creditPacket n c gen slot domain devid src).tables = s.tables := by simp [State.creditPacket]

@[simp] theorem State.tables_release (s : State) (n : Nat) (c : CoreId) (q gen slot : Nat) : (s.release n c q gen slot).tables = s.tables := by
  unfold State.release
  dsimp only
  repeat' split
  all_goals simp

@[simp] theorem State.tables_shaftOut (s : State) (n : Nat) (c : Option CoreId) (p shaft gen role : Nat) (payloads : List (List Byte)) : (s.shaftOut n c p shaft gen role payloads).tables = s.tables := by rfl

@[simp] theorem State.tables_replayFull (s : State) (n p : Nat) : (s.replayFull n p).tables = s.tables := by rfl

@[simp] theorem State.tables_noteReplayFull (s : State) (n p : Nat) (c : CoreId) (q : Nat) : (s.noteReplayFull n p c q).tables = s.tables := by simp [State.noteReplayFull]

/-! ### What traffic meets on its way (07, R176-R179) -/

@[simp] theorem State.tables_countHolds (s : State) (x : Nat) (pt : Option Nat) (k : Nat) : (s.countHolds x pt k).tables = s.tables := by simp [State.countHolds]

@[simp] theorem State.tables_crossOver (s : State) (n : Nat) (c : CoreId) (p : Passage) : (s.crossOver n c p).tables = s.tables := by simp [State.crossOver]

@[simp] theorem State.tables_passFifo (s : State) (c : CoreId) (p : FifoPassage) : (s.passFifo c p).tables = s.tables := by simp [State.passFifo]

@[simp] theorem State.tables_edgeRetries (s : State) (pt : Option Nat) (r : Fin 13 × Nat) : (s.edgeRetries pt r).tables = s.tables := by simp [State.edgeRetries]

@[simp] theorem State.tables_queueWait (s : State) (n : Nat) (w : QueueWait) : (s.queueWait n w).tables = s.tables := by
  unfold State.queueWait
  split <;> rfl

@[simp] theorem State.tables_travel (s : State) (n : Nat) (c : CoreId) (w : Way) : (s.travel n c w).tables = s.tables := by
  unfold State.travel
  dsimp only
  rw [State.tables_foldl fun s q => State.tables_queueWait s n q, State.tables_foldl fun s r => State.tables_edgeRetries s (some n) r,
    State.tables_foldl fun s p => State.tables_passFifo s c p, State.tables_foldl fun s p => State.tables_crossOver s n c p]

/-! ### An engine command's effect (02, R50, R53; 05, R117) -/

@[simp] theorem State.tables_stopAt (s : State) (n : Nat) (c : CoreId) (q : Nat) (x : QCmd) (code sub addr : Nat) : (s.stopAt n c q x code sub addr).tables = s.tables := by simp [State.stopAt]

/-! ### Passes in the cubes (02, R42, R43, R53, R61) -/

@[simp] theorem State.tables_freeze (s : State) (n : Nat) (c : CoreId) (u : Nat) (r : Running) : (s.freeze n c u r).tables = s.tables := by rfl

@[simp] theorem State.tables_takeReads (s : State) (c : CoreId) (at_ fuel : Nat) : (s.takeReads c at_ fuel).tables = s.tables := by
  induction fuel generalizing s with
  | zero => rfl
  | succ fuel ih =>
    unfold State.takeReads
    split
    · split
      · rw [ih, State.tables_updCore]
      · rfl
    · rfl

/-! ### The core sequencer (04, R87-R91, R105-R112) -/

@[simp] theorem State.tables_startSegment (s : State) (n : Nat) (c : CoreId) : (s.startSegment n c).tables = s.tables := by simp [State.startSegment]

@[simp] theorem State.tables_refuse (s : State) (n : Nat) (c : CoreId) (q : Cmd) (sub : Nat) : (s.refuse n c q sub).tables = s.tables := by simp [State.refuse]

@[simp] theorem State.tables_lateSet (s : State) (n : Nat) (c : CoreId) (q gen : Nat) (x : Cmd) : (s.lateSet n c q gen x).tables = s.tables := by simp [State.lateSet]

@[simp] theorem State.tables_enqueue (s : State) (n : Nat) (c : CoreId) (q : Nat) (x : Cmd) : (s.enqueue n c q x).tables = s.tables := by simp [State.enqueue]

@[simp] theorem State.tables_loop (s : State) (c : CoreId) (q : Cmd) : (s.loop c q).tables = s.tables := by simp [State.loop]

@[simp] theorem State.tables_endloop (s : State) (c : CoreId) : (s.endloop c).tables = s.tables := by
  unfold State.endloop
  dsimp only
  repeat' split
  all_goals rfl

@[simp] theorem State.tables_freshIf (s : State) (b : Bool) : (s.freshIf b).tables = s.tables := by simp [State.freshIf]

@[simp] theorem State.tables_pset (s : State) (c : CoreId) (q : Cmd) : (s.pset c q).tables = s.tables := by simp [State.pset]

@[simp] theorem State.tables_sset (s : State) (c : CoreId) (q : Cmd) : (s.sset c q).tables = s.tables := by simp [State.sset]

@[simp] theorem State.tables_pace (s : State) (c : CoreId) (q : Cmd) : (s.pace c q).tables = s.tables := by simp [State.pace]

@[simp] theorem State.tables_beat (s : State) (n : Nat) (c : CoreId) : (s.beat n c).tables = s.tables := by simp [State.beat]

/-! ### The engines of a core (02, R42-R62; 04, R87, R88) -/

@[simp] theorem State.tables_drawLamps (s : State) (n : Nat) (c : CoreId) (u cost : Nat) : (s.drawLamps n c u cost).tables = s.tables := by rfl

@[simp] theorem State.tables_returnLamps (s : State) (n : Nat) (c : CoreId) (cost : Nat) : (s.returnLamps n c cost).tables = s.tables := by rfl

@[simp] theorem State.tables_turnOn (s : State) (n : Nat) (c : CoreId) : (s.turnOn n c).tables = s.tables := by rfl

@[simp] theorem State.tables_forgetBanks (s : State) (c : CoreId) : (s.forgetBanks c).tables = s.tables := by rfl

@[simp] theorem State.tables_endOverlap (s : State) (n : Nat) : (s.endOverlap n).tables = s.tables := by simp [State.endOverlap]

@[simp] theorem State.tables_retire (s : State) (n : Nat) (c : CoreId) : (s.retire n c).tables = s.tables := by
  unfold State.retire
  dsimp only
  repeat' split
  all_goals simp

@[simp] theorem State.tables_missChain (s : State) (c : CoreId) (u : Nat) : (s.missChain c u).tables = s.tables := by
  unfold State.missChain
  split <;> rfl

@[simp] theorem State.tables_begin (s : State) (n : Nat) (c : CoreId) (q : Nat) (x : QCmd) (e : Effect) : (s.begin n c q x e).tables = s.tables := by simp [State.begin]

@[simp] theorem State.tables_stallHead (s : State) (c : CoreId) (q limit item need kind : Nat) : (s.stallHead c q limit item need kind).tables = s.tables := by rfl

@[simp] theorem State.tables_waitHead (s : State) (c : CoreId) (q : Nat) : (s.waitHead c q).tables = s.tables := by rfl

@[simp] theorem State.tables_waitLamps (s : State) (n : Nat) (c : CoreId) (q : Nat) : (s.waitLamps n c q).tables = s.tables := by simp [State.waitLamps]

@[simp] theorem State.tables_sendHold (s : State) (n : Nat) (c : CoreId) (q : Nat) (x : QCmd) : (s.sendHold n c q x).tables = s.tables := by
  unfold State.sendHold
  split <;> simp

@[simp] theorem State.tables_completeUnit (s : State) (n : Nat) (c : CoreId) (u : Nat) (r : Running) : (s.completeUnit n c u r).tables = s.tables := by simp [State.completeUnit]

/-! ### Arrivals and completions (04, R101-R107; 05, R128-R130) -/

@[simp] theorem State.tables_returnCredit (s : State) (m : MeshMsg) : (s.returnCredit m).tables = s.tables := by rfl

@[simp] theorem State.tables_meshIncrement (s : State) (n : Nat) (c : CoreId) (f : Nat) (vc : Tab Nat) : (s.meshIncrement n c f vc).tables = s.tables := by simp [State.meshIncrement]

@[simp] theorem State.tables_slotLedger (s : State) (n : Nat) (c : CoreId) (slot : Nat) : (s.slotLedger n c slot).tables = s.tables := by simp [State.slotLedger]

@[simp] theorem State.tables_takeRequestOut (s : State) (c : CoreId) (i : Nat) : (s.takeRequestOut c i).tables = s.tables := by rfl

@[simp] theorem State.tables_arrive (s : State) (n : Nat) (c : CoreId) (r : MemReq) (vc : Tab Nat) : (s.arrive n c r vc).tables = s.tables := by simp [State.arrive]

/-! ### The stacks (05, R131-R135) -/

@[simp] theorem State.tables_scrubSector (s : State) (k : Nat) (e : EccAt) : (s.scrubSector k e).tables = s.tables := by
  unfold State.scrubSector
  split <;> simp

@[simp] theorem State.tables_delayRequests (s : State) (k : Nat) (start stop : Nat) : (s.delayRequests k start stop).tables = s.tables := by rfl

/-! ### Power, start-up, host links, headframe controllers -/

@[simp] theorem State.tables_busReads (s : State) (vbus : BitVec 10) : (s.busReads vbus).tables = s.tables := by simp [State.busReads]

@[simp] theorem State.tables_linkDown (s : State) (l : Link) : (s.linkDown l).tables = s.tables := by rfl

/-! ### The timebase (01, R13-R16; 08, R199) -/

@[simp] theorem State.tables_setLocked (s : State) (b : Bool) : (s.setLocked b).tables = s.tables := by simp [State.setLocked]

@[simp] theorem State.tables_tick (s : State) : s.tick.tables = s.tables := by simp [State.tick]

/-! ### The steward's records (11, R243) -/

@[simp] theorem State.tables_updSrv (s : State) (n : Nat) (f : Srv → Srv) : (s.updSrv n f).tables = s.tables := by rfl

/-! ### A canvas takes effect (04, R85, R86; 10, R235) -/

@[simp] theorem State.tables_undefineSets (s : State) (c : CoreId) (accs : Bool) : (s.undefineSets c accs).tables = s.tables := by rfl

@[simp] theorem State.tables_installEntry (s : State) (img : Img) (rearm : Bool) (e : DirEnt) : (s.installEntry img rearm e).tables = s.tables := by rfl

@[simp] theorem State.tables_idleCores (s : State) (n : Nat) : (s.idleCores n).tables = s.tables := by rfl

@[simp] theorem State.tables_dropTraffic (s : State) (n : Nat) : (s.dropTraffic n).tables = s.tables := by rfl

@[simp] theorem State.tables_startClusters (s : State) (n : Nat) : (s.startClusters n).tables = s.tables := by rfl

@[simp] theorem State.tables_checkCables (s : State) (n : Nat) (assumed ports : List Nat) : (s.checkCables n assumed ports).tables = s.tables :=
  State.tables_foldl (fun s p => by
    dsimp only
    split
    · rfl
    · split <;> simp) _ s

@[simp] theorem State.tables_confirm (s : State) (n wgen lastLayer : Nat) : (s.confirm n wgen lastLayer).tables = s.tables := by simp [State.confirm]

@[simp] theorem State.tables_loadWeights (s : State) (n : Nat) (weightless : Bool) : (s.loadWeights n weightless).tables = s.tables := by simp [State.loadWeights]

@[simp] theorem State.tables_refuseLoad (s : State) (n : Nat) : (s.refuseLoad n).tables = s.tables := by rfl

/-! ### Weight bytes (10, R230-R238) -/

@[simp] theorem State.tables_setPos (s : State) (n i : Nat) (x : LayerPos) : (s.setPos n i x).tables = s.tables := by rfl

@[simp] theorem State.tables_layerFailed (s : State) (n : Nat) : (s.layerFailed n).tables = s.tables := by simp [State.layerFailed]

@[simp] theorem State.tables_startRecord (s : State) (n layers : Nat) (b : List Byte) : (s.startRecord n layers b).tables = s.tables := by simp [State.startRecord]

@[simp] theorem State.tables_updTap (s : State) (p : Nat) (f : Tap → Tap) : (s.updTap p f).tables = s.tables := by rfl

@[simp] theorem State.tables_tapDrop (s : State) (p n : Nat) : (s.tapDrop p n).tables = s.tables := by rfl

/-! ### Units of the link (08, R184-R188) -/

@[simp] theorem State.tables_sendBlocks (s : State) (p : Nat) (bs : List Nat) : (s.sendBlocks p bs).tables = s.tables := by simp [State.sendBlocks]

@[simp] theorem State.tables_flushEth (s : State) (p : Nat) : (s.flushEth p).tables = s.tables := by
  unfold State.flushEth
  dsimp only
  repeat' split
  all_goals rfl

@[simp] theorem State.tables_ethSend (s : State) (p cnt : Nat) (bs : List Byte) : (s.ethSend p cnt bs).tables = s.tables := by simp [State.ethSend]

@[simp] theorem State.tables_sendUnit (s : State) (p : Nat) (control isAck : Bool) (bs : List Byte) : (s.sendUnit p control isAck bs).tables = s.tables := by simp [State.sendUnit]

@[simp] theorem State.tables_sendOs (s : State) (p : Nat) (o : OsOut) : (s.sendOs p o).tables = s.tables := by simp [State.sendOs]

/-! ### Retirement, transit, failure of a port (08, R190, R204) -/

@[simp] theorem State.tables_retireOn (s : State) (p v : Nat) : (s.retireOn p v).tables = s.tables := by rfl

@[simp] theorem State.tables_dropFlit (s : State) (p v : Nat) (e : Ev) : (s.dropFlit p v e).tables = s.tables := by rfl

@[simp] theorem State.tables_leftLoose (s : State) (v : Nat) (x : LooseFlit) : (s.leftLoose v x).tables = s.tables := by
  unfold State.leftLoose
  split <;> rfl

@[simp] theorem State.tables_queueLoose (s : State) (p v : Nat) (x : LooseFlit) : (s.queueLoose p v x).tables = s.tables := by rfl

@[simp] theorem State.tables_routeLoose (s : State) (v : Nat) (x : LooseFlit) : (s.routeLoose v x).tables = s.tables := by
  unfold State.routeLoose
  dsimp only
  repeat' split
  all_goals simp

@[simp] theorem State.tables_stopTransit (s : State) (p key : Nat) : (s.stopTransit p key).tables = s.tables := by
  unfold State.stopTransit
  split <;> simp

@[simp] theorem State.tables_forgetFrom (s : State) (p : Nat) : (s.forgetFrom p).tables = s.tables := by rfl

@[simp] theorem State.tables_failPort (s : State) (p : Nat) (st : PortState) : (s.failPort p st).tables = s.tables := by
  unfold State.failPort
  dsimp only
  rw [State.tables_foldl fun s x => State.tables_routeLoose s 2 x, State.tables_foldl fun s x => State.tables_routeLoose s 1 x,
    State.tables_foldl fun s t => State.tables_linkLost s t _, State.tables_foldl fun s k => State.tables_stopTransit s p k]
  simp

@[simp] theorem State.tables_linkLedger (s : State) (p ledger : Nat) (lane : Option Nat) (recorded counted : Nat) : (s.linkLedger p ledger lane recorded counted).tables = s.tables := by simp [State.linkLedger]

/-! ### What arrives on a port (08, R192; 09, R215, R216) -/

@[simp] theorem State.tables_drainLoose (s : State) (p v fuel : Nat) : (s.drainLoose p v fuel).tables = s.tables := by
  induction fuel generalizing s with
  | zero => rfl
  | succ fuel ih =>
    unfold State.drainLoose
    split
    · rfl
    · dsimp only
      split
      · split <;> simp [ih]
      · simp [ih]

@[simp] theorem State.tables_askReset (s : State) (p : Nat) (b : ResetBody) (written : Bool) : (s.askReset p b written).tables = s.tables := by simp [State.askReset]

@[simp] theorem State.tables_askRetrain (s : State) (p : Nat) : (s.askRetrain p).tables = s.tables := by simp [State.askRetrain]

/-! ### Descriptors (12, R271-R275) -/

@[simp] theorem State.tables_started (s : State) (n : Nat) (d : Desc) : (s.started n d).tables = s.tables := by rfl

@[simp] theorem State.tables_finishIf {s : State} (n : Nat) (d : Desc) (bad : Option Nat) {act : State → State} (h : (act s).tables = s.tables) :
    (s.finishIf n d bad act).tables = s.tables := by
  unfold State.finishIf
  split
  · exact State.tables_finish s n d _
  · exact h

/-! ### The weight commands (10, R229-R240) -/

@[simp] theorem State.tables_loadTable (s : State) (n : Nat) : (s.loadTable n).tables = s.tables := by rfl

@[simp] theorem State.tables_completeLive (s : State) (n : Nat) (d : Desc) (r : Rec) : (s.completeLive n d r).tables = s.tables := by simp [State.completeLive]

@[simp] theorem State.tables_inject (s : State) (n : Nat) (d : Desc) (bs : List Byte) : (s.inject n d bs).tables = s.tables := by rfl

/-! ### The steward (11, R241-R261) -/

@[simp] theorem State.tables_galBounds (s : State) (n : Nat) : (s.galBounds n).tables = s.tables := by simp [State.galBounds]

@[simp] theorem State.tables_readPages (s : State) (n : Nat) (ps : List (Nat × Nat)) (ecc : List EccAt) : (s.readPages n ps ecc).tables = s.tables :=
  State.tables_foldl (fun s a => by simp) _ s

@[simp] theorem State.tables_passVariantOver (s : State) (n : Nat) : (s.passVariantOver n).tables = s.tables := by rfl

@[simp] theorem State.tables_passPagesOver (s : State) (n : Nat) : (s.passPagesOver n).tables = s.tables := by rfl

@[simp] theorem State.tables_addFlags (s : State) (n : Nat) (c : CoreId) (f k : Nat) : (s.addFlags n c f k).tables = s.tables := by
  induction k generalizing s with
  | zero => rfl
  | succ k ih => rw [State.addFlags, ih, State.tables_incFlag]

@[simp] theorem State.tables_setGo (s : State) (n h a : Nat) : (s.setGo n h a).tables = s.tables :=
  State.tables_foldl (fun s c => by rw [State.tables_incFlag, State.tables_addFlags]) _ s

@[simp] theorem State.tables_readRecord (s : State) (n h : Nat) (ecc : List EccAt) : (s.readRecord n h ecc).tables = s.tables := by simp [State.readRecord]

/-! ### Beat edges, holds, starts, handovers (01, R17-R39) -/

@[simp] theorem State.tables_auditCore (s : State) (n : Nat) (c : CoreId) : (s.auditCore n c).tables = s.tables := by simp [State.auditCore]

@[simp] theorem State.tables_auditPart (s : State) (n d : Nat) : (s.auditPart n d).tables = s.tables := by simp [State.auditPart]

@[simp] theorem State.tables_auditDie (s : State) (d : Nat) : (s.auditDie d).tables = s.tables := by simp [State.auditDie]

@[simp] theorem State.tables_ledgerHardware (s : State) (e : LedgerErr) : (s.ledgerHardware e).tables = s.tables := by
  unfold State.ledgerHardware
  split <;> simp

@[simp] theorem State.tables_announce (s : State) (target count : Nat) : (s.announce target count).1.tables = s.tables := by
  unfold State.announce
  repeat' split
  all_goals rfl

@[simp] theorem State.tables_askHold (s : State) (n count : Nat) (tag : Option Nat) : (s.askHold n count tag).1.tables = s.tables := by
  unfold State.askHold
  dsimp only
  repeat' split
  all_goals rfl

@[simp] theorem State.tables_askRelease (s : State) (n count : Nat) (tag : Option Nat) : (s.askRelease n count tag).1.tables = s.tables := by
  unfold State.askRelease
  dsimp only
  repeat' split
  all_goals rfl

@[simp] theorem State.tables_finishTag (s : State) (n : Nat) (tag : Option Nat) : (s.finishTag n tag).tables = s.tables := by
  unfold State.finishTag
  split <;> rfl

@[simp] theorem State.tables_resumeCore (s : State) (n : Nat) (c : CoreId) (h q : Count) : (s.resumeCore n c h q).tables = s.tables := by
  unfold State.resumeCore
  dsimp only
  repeat' split
  all_goals simp

@[simp] theorem State.tables_abortStart (s : State) (n : Nat) : (s.abortStart n).tables = s.tables := by
  unfold State.abortStart
  dsimp only
  repeat' split
  all_goals simp

/-! ### Clocks, monitors, crossings (07, R162, R173-R181) -/

@[simp] theorem State.tables_putMonStat (s : State) (d : Nat) (v : W32) : (s.putMonStat d v).tables = s.tables := by rfl

@[simp] theorem State.tables_stretchCores (s : State) (r ps : Nat) : (s.stretchCores r ps).tables = s.tables := by rfl

/-! ### Gallery objects (05, R138, R139) -/

@[simp] theorem State.tables_finishReset (s : State) (n : Nat) : (s.finishReset n).tables = s.tables := by
  unfold State.finishReset
  repeat' split
  all_goals rfl

/-! ### Host accesses to memory and registers -/

@[simp] theorem State.tables_setupFault (s : State) (c : Caller) (reason off : Nat) : (s.setupFault c reason off).tables = s.tables := by
  unfold State.setupFault
  repeat' split
  all_goals rfl

@[simp] theorem State.tables_doorbellErr (s : State) (n reason off : Nat) : (s.doorbellErr n reason off).tables = s.tables := by rfl

@[simp] theorem State.tables_doorbellFault (s : State) (n off : Nat) : (s.doorbellFault n off).tables = s.tables := by rfl

/-! ### Rings (12, R270-R285) -/

@[simp] theorem State.tables_recallEvq (s : State) (n q : Nat) : (s.recallEvq n q).tables = s.tables := by rfl

@[simp] theorem State.tables_putSqTail (s : State) (n q x : Nat) : (s.putSqTail n q x).tables = s.tables := by simp [State.putSqTail]

@[simp] theorem State.tables_ringLedger (s : State) (n q : Nat) : (s.ringLedger n q).tables = s.tables := by simp [State.ringLedger]

@[simp] theorem State.tables_stopRing (s : State) (n q opcode tag status : Nat) : (s.stopRing n q opcode tag status).tables = s.tables := by rfl

@[simp] theorem State.tables_takeDesc (s : State) (n q : Nat) (f : Func) (bytes : List Byte) (entries : Nat) : (s.takeDesc n q f bytes entries).tables = s.tables := by
  unfold State.takeDesc
  dsimp only
  repeat' split
  all_goals rfl

@[simp] theorem State.tables_writeEntry (s : State) (f : Func) (q : Nat) (body : List Byte) : (s.writeEntry f q body).tables = s.tables := by rfl

@[simp] theorem State.tables_signal (s : State) (f : Func) (q : Nat) : (s.signal f q).tables = s.tables := by rfl

/-! ### Staging, load and arming (12, R277) -/

@[simp] theorem State.tables_refuseCanvas (s : State) (n : Nat) (d : Desc) (b : Bad) : (s.refuseCanvas n d b).tables = s.tables := by rfl

@[simp] theorem State.tables_failLoad (s : State) (n : Nat) (d : Desc) (status : Nat) : (s.failLoad n d status).tables = s.tables := by rfl

@[simp] theorem State.tables_abortOthers (s : State) (n : Nat) (d : Desc) : (s.abortOthers n d).tables = s.tables :=
  State.tables_foldl (fun s e => State.tables_finish s n e stABORTED) _ s

/-! ### What leaves a port (08, R189-R195) -/

@[simp] theorem State.tables_noteFull (s : State) (p : Nat) : (s.noteFull p).tables = s.tables := by
  unfold State.noteFull
  split
  · exact State.tables_foldl (fun s x => State.tables_replayFull s _ p) _ s
  · rfl

@[simp] theorem State.tables_sendAck (s : State) (p : Nat) : (s.sendAck p).tables = s.tables := by simp [State.sendAck]

@[simp] theorem State.tables_sendFlit (s : State) (p : Nat) (r : Replay) : (s.sendFlit p r).tables = s.tables := by simp [State.sendFlit]

@[simp] theorem State.tables_sendQueued (s : State) (p : Nat) (o : OsOut) : (s.sendQueued p o).tables = s.tables := by simp [State.sendQueued]

@[simp] theorem State.tables_sendUp (s : State) (p : Nat) : (s.sendUp p).tables = s.tables := by
  unfold State.sendUp
  dsimp only
  repeat' split
  all_goals simp

@[simp] theorem State.tables_sendTraining (s : State) (p : Nat) : (s.sendTraining p).tables = s.tables := by
  unfold State.sendTraining
  dsimp only
  repeat' split
  all_goals simp

/-! ### The link layer (08, R196-R205) -/

@[simp] theorem State.tables_beginReset (s : State) (p : Nat) (b : ResetBody) : (s.beginReset p b).tables = s.tables := by simp [State.beginReset]

@[simp] theorem State.tables_goUp (s : State) (p : Nat) : (s.goUp p).tables = s.tables := by
  unfold State.goUp
  dsimp only
  rw [State.tables_foldl fun s e => by split <;> simp]
  simp

@[simp] theorem State.tables_startTraining (s : State) (p : Nat) : (s.startTraining p).tables = s.tables := by simp [State.startTraining]

@[simp] theorem State.tables_auditOwn (s : State) (p : Nat) : (s.auditOwn p).tables = s.tables := by
  unfold State.auditOwn
  dsimp only
  repeat' split
  all_goals simp

/-! ### Health (13) -/

@[simp] theorem State.tables_updateScore (s : State) (n : Nat) : (s.updateScore n).tables = s.tables := by simp [State.updateScore]

@[simp] theorem State.tables_clearScore (s : State) (n : Nat) (alarm warn : Bool) : (s.clearScore n alarm warn).tables = s.tables := by simp [State.clearScore]

/-! ### Register writes (16) -/

@[simp] theorem State.tables_listLimiters (s : State) : s.listLimiters.tables = s.tables :=
  State.tables_foldl (fun s _ => State.tables_foldl (fun s _ => State.tables_setLimiter s _ _) _ s) _ s

/-! ### Firmware (14, R320-R329) -/

@[simp] theorem State.tables_pldm {s : State} (m : MgmtPath) (cmd : Nat) {run : State → State × List Nat × List Byte} (h : (run s).1.tables = s.tables) :
    (s.pldm m cmd run).tables = s.tables := by
  unfold State.pldm
  split
  · exact h
  · rfl

@[simp] theorem State.tables_toAgent (s : State) (cmd : Nat) (words : List Nat) : (s.toAgent cmd words).tables = s.tables := by rfl

@[simp] theorem State.tables_requestBlock (s : State) (max k : Nat) : (s.requestBlock max k).tables = s.tables :=
  State.tables_foldl (fun s _ => State.tables_toAgent s _ _) _ s

@[simp] theorem State.tables_endTransfer (s : State) (u : Update) (c result cmd : Nat) : (s.endTransfer u c result cmd).tables = s.tables := by rfl

@[simp] theorem State.tables_finishImage (s : State) (u : Update) (c : Nat) (out : List Byte) : (s.finishImage u c out).tables = s.tables := by simp [State.finishImage]

@[simp] theorem State.tables_restartHeadframes (s : State) : s.restartHeadframes.tables = s.tables := by
  unfold State.restartHeadframes
  dsimp only
  split
  · rw [State.tables_platform, foldl_emit]
    simp
  · simp

@[simp] theorem State.tables_startHeadframe (s : State) : s.startHeadframe.tables = s.tables := by
  unfold State.startHeadframe
  dsimp only
  repeat' split
  all_goals simp

@[simp] theorem State.tables_spdmRow (s : State) (m : MgmtPath) (code : Nat) (ready : Spdm → Bool) (next : Spdm → Spdm) (payload : List Byte) : (s.spdmRow m code ready next payload).tables = s.tables := by simp [State.spdmRow]

end Sys2Proof.Machine
end

section
/-! PROOF. The operations that write a byte or a register keep the canonical form: a write of a byte or a register keeps it, zeroing takes entries out, a reset or a loss of power
takes tables away, and every other operation is made of these (05, R117, R121-R136; 16). -/

namespace Sys2Proof.Machine

/-! ### The canonical form -/

/-- The memories and the register table in canonical form. -/
def Canonical (x : Tables) : Prop :=
  (∀ k, Memory.wf (Tab.get [] x.1 k) = true) ∧ (∀ k, Memory.wf (Tab.get [] x.2.1 k) = true) ∧ (∀ k, Memory.wf (Tab.get [] x.2.2.1 k) = true) ∧ Tab.rising none x.2.2.2 = true

theorem State.canonical_iff (s : State) : Canonical s.tables ↔ s.memoryWf ∧ s.regsRise := by
  unfold State.memoryWf State.regsRise
  exact ⟨fun ⟨a, b, c, d⟩ => ⟨⟨a, b, c⟩, d⟩, fun ⟨⟨a, b, c⟩, d⟩ => ⟨a, b, c, d⟩⟩

theorem canonical_nil : Canonical ([], [], [], []) := ⟨fun _ => rfl, fun _ => rfl, fun _ => rfl, rfl⟩

/-- What every change of a run keeps, the run keeps. -/
theorem State.canonical_foldl {α : Type} {f : State → α → State} (h : ∀ s a, Canonical s.tables → Canonical (f s a).tables) (l : List α) {s : State} (hs : Canonical s.tables) :
    Canonical (l.foldl f s).tables :=
  List.foldlRecOn (motive := fun t => Canonical t.tables) l f hs fun t ht a _ => h t a ht

theorem State.canonical_ite {p : Prop} [Decidable p] {s t : State} (hs : Canonical s.tables) (ht : Canonical t.tables) : Canonical (if p then s else t).tables := by
  split
  · exact hs
  · exact ht

/-! ### What writes bytes and no register: stores and regions, reports of assay mode, effects of commands, passes (02, R42, R43, R50, R53; 05, R117; 06, R153-R160) -/

/-- From `z` to `y` bytes were written, in canonical form where that was kept before, and no register. -/
def Fills (z y : Tables) : Prop := (Canonical z → Canonical y) ∧ y.2.2.2 = z.2.2.2

theorem Fills.refl (z : Tables) : Fills z z := ⟨id, rfl⟩
theorem Fills.trans {x y z : Tables} (h : Fills x y) (k : Fills y z) : Fills x z := ⟨fun c => k.1 (h.1 c), k.2.trans h.2⟩
theorem Fills.canonical {y z : Tables} (h : Fills z y) (hz : Canonical z) : Canonical y := h.1 hz

theorem State.fills_foldl {z : Tables} {α : Type} {f : State → α → State} (h : ∀ s a, Fills z s.tables → Fills z (f s a).tables) (l : List α) {s : State} (hs : Fills z s.tables) :
    Fills z (l.foldl f s).tables :=
  List.foldlRecOn (motive := fun t => Fills z t.tables) l f hs fun t ht a _ => h t a ht

@[simp] theorem State.fills_writeSt {z : Tables} {s : State} (hc : Fills z s.tables) (c : CoreId) (a : Int) (b : Byte) : Fills z (s.writeSt c a b).tables := by
  refine hc.trans ⟨fun hs => ?_, by rw [State.writeSt_frame]; rfl⟩
  obtain ⟨hm, hr⟩ := s.canonical_iff.1 hs
  refine (State.canonical_iff _).2 ⟨State.memoryWf_writeSt hm c a b, ?_⟩
  rw [State.writeSt_frame]
  exact hr

@[simp] theorem State.fills_writeStAt {z : Tables} {s : State} (hc : Fills z s.tables) (c : CoreId) (l : List (Int × Byte)) : Fills z (s.writeStAt c l).tables :=
  State.fills_foldl (fun _ ab hs => State.fills_writeSt hs c ab.1 ab.2) l hc

@[simp] theorem State.fills_writeHbm {z : Tables} {s : State} (hc : Fills z s.tables) (n a : Nat) (b : Byte) : Fills z (s.writeHbm n a b).tables := by
  refine hc.trans ⟨fun hs => ?_, by rw [State.writeHbm_frame]; rfl⟩
  obtain ⟨hm, hr⟩ := s.canonical_iff.1 hs
  refine (State.canonical_iff _).2 ⟨State.memoryWf_writeHbm hm n a b, ?_⟩
  rw [State.writeHbm_frame]
  exact hr

@[simp] theorem State.fills_writeHbmN {z : Tables} {s : State} (hc : Fills z s.tables) (n a : Nat) (bs : List Byte) : Fills z (s.writeHbmN n a bs).tables := by
  induction bs generalizing s a with
  | nil => exact hc
  | cons b bs ih => exact ih (State.fills_writeHbm hc n a b) (a + 1)

@[simp] theorem State.fills_putRegion {z : Tables} {s : State} (hc : Fills z s.tables) (n a : Nat) (bs : List Byte) (ecc : List EccAt) : Fills z (s.putRegion n a bs ecc).tables := by
  have hread := State.tables_readSectors s n (partEdges a bs.length) ecc
  unfold State.putRegion
  split <;> rename_i h <;> rw [h] at hread <;> simp [hread, hc]

@[simp] theorem State.fills_ownWrite {z : Tables} {s : State} (hc : Fills z s.tables) (n a : Nat) (bs : List Byte) : Fills z (s.ownWrite n a bs).tables := by
  unfold State.ownWrite
  repeat' split
  all_goals simp [hc]

@[simp] theorem State.fills_report {z : Tables} {s : State} (hc : Fills z s.tables) (n : Nat) (r : Report) : Fills z (s.report n r).tables := by simp [State.report, hc]

@[simp] theorem State.fills_access {z : Tables} {s : State} (hc : Fills z s.tables) (n : Nat) (key : Nat) (me : AssayAcc) (clock : Tab Nat) (rival : AssayAcc → Bool)
    (mk : Nat → Option AssayAcc → Report) : Fills z (s.access n key me clock rival mk).tables :=
  State.fills_foldl (fun _ _ hs => State.fills_report hs n _) _ hc

@[simp] theorem State.fills_assayStores {z : Tables} {s : State} (hc : Fills z s.tables) (n : Nat) (c : CoreId) (q cmd : Nat) (reads writes : List Int) :
    Fills z (s.assayStores n c q cmd reads writes).tables := by
  unfold State.assayStores
  dsimp only
  split
  · split
    · refine State.fills_report (State.fills_foldl (fun s a hs => ?_) _ (State.fills_foldl (fun s a hs => ?_) _ hc)) n _ <;> split <;> simp [hs]
    · refine State.fills_foldl (fun s a hs => ?_) _ (State.fills_foldl (fun s a hs => ?_) _ hc) <;> split <;> simp [hs]
  · exact hc

@[simp] theorem State.fills_assayOverlap {z : Tables} {s : State} (hc : Fills z s.tables) (n : Nat) (c : CoreId) (q cmd : Nat) (exempt : Bool) (reads writes : List Int) : Fills z (s.assayOverlap n c q cmd exempt reads writes).tables := by
  unfold State.assayOverlap
  repeat' split
  all_goals simp [hc]

@[simp] theorem State.fills_assayFormat {z : Tables} {s : State} (hc : Fills z s.tables) (n : Nat) (c : CoreId) (q cmd declared : Nat) (keys : List Nat) (addr : Nat) : Fills z (s.assayFormat n c q cmd declared keys addr).tables := by
  unfold State.assayFormat
  repeat' split
  all_goals simp [hc]

@[simp] theorem State.fills_checkFormats {z : Tables} {s : State} (hc : Fills z s.tables) (n : Nat) (c : CoreId) (q cmd : Nat) (e : Effect) : Fills z (s.checkFormats n c q cmd e).tables := by
  unfold State.checkFormats
  split
  · exact State.fills_foldl (fun s p hs => by simp [hs]) _ (State.fills_foldl (fun s p hs => by split <;> simp [hs]) _ hc)
  · exact hc

@[simp] theorem State.fills_assayCommand {z : Tables} {s : State} (hc : Fills z s.tables) (n : Nat) (c : CoreId) (q : Nat) (x : QCmd) (e : Effect) :
    Fills z (s.assayCommand n c q x e).tables := by
  unfold State.assayCommand
  split
  · have checked : Fills z ((((s.joinInto (threadKey c q) x.vc).checkFormats n c q x.idx e).readSetsClock n c q x.readsSets).assayStores n c q x.idx (x.startReads e) (e.writes.map (·.1))).tables :=
      State.fills_assayStores (by simp [hc]) n c q _ _ _
    dsimp only
    split <;> simp [checked]
  · exact hc

@[simp] theorem State.fills_applyEffect {z : Tables} {s : State} (hc : Fills z s.tables) (n : Nat) (c : CoreId) (gen : Nat) (e : Effect) : Fills z (s.applyEffect n c gen e).tables := by
  unfold State.applyEffect
  dsimp only
  rw [State.tables_putTags, State.tables_foldl fun s p => State.tables_setTags s n _ _, State.tables_setTags, State.tables_foldl fun s p => by split <;> simp]
  simp [hc]

@[simp] theorem State.fills_checkCommand {z : Tables} {s : State} (hc : Fills z s.tables) (n : Nat) (c : CoreId) (q : Nat) (x : QCmd) (e : Effect) : Fills z (s.checkCommand n c q x e).tables := by
  unfold State.checkCommand
  repeat' split
  all_goals simp [hc]

@[simp] theorem State.fills_assayLine {z : Tables} {s : State} (hc : Fills z s.tables) (n : Nat) (c : CoreId) (x : QCmd) (l : Nat) : Fills z (s.assayLine n c x l).tables := by
  unfold State.assayLine
  split <;> simp [hc]

@[simp] theorem State.fills_writeSet {z : Tables} {s : State} (hc : Fills z s.tables) (n : Nat) (c : CoreId) (steps : Nat) (p : PassRun) : Fills z (s.writeSet n c steps p).1.tables := by
  unfold State.writeSet
  dsimp only
  repeat' split
  all_goals simp [hc]

@[simp] theorem State.fills_writeSets {z : Tables} {s : State} (hc : Fills z s.tables) (n : Nat) (c : CoreId) (steps : Nat) (ps : List PassRun) : Fills z (s.writeSets n c steps ps).1.tables := by
  induction ps generalizing s with
  | nil => exact hc
  | cons p ps ih => exact ih (State.fills_writeSet hc n c steps p)

@[simp] theorem State.fills_settle {z : Tables} {s : State} (hc : Fills z s.tables) (n : Nat) (c : CoreId) : Fills z (s.settle n c).tables := by
  unfold State.settle
  dsimp only
  repeat' split
  all_goals simp [hc]

@[simp] theorem State.fills_oneStep {z : Tables} {s : State} (hc : Fills z s.tables) (n : Nat) (c : CoreId) (eng : Nat) (r : Running) (at_ : Nat) :
    Fills z (s.oneStep n c eng r at_).1.tables := by
  unfold State.oneStep
  split
  · dsimp only
    split <;> simp [hc]
  · dsimp only
    split
    · exact State.fills_foldl (fun s p hs => by split <;> simp [hs]) _ hc
    · exact hc

@[simp] theorem State.fills_runSteps {z : Tables} {s : State} (hc : Fills z s.tables) (n : Nat) (c : CoreId) (eng fuel : Nat) : Fills z (s.runSteps n c eng fuel).tables := by
  induction fuel generalizing s with
  | zero => exact hc
  | succ fuel ih =>
    unfold State.runSteps
    split
    · exact hc
    · split
      · exact hc
      · rename_i r _ _
        have hw := State.fills_writeSets hc n c r.step r.passes
        dsimp only
        split
        · simp [hw]
        · split
          · simp [hw]
          · simp [hw]
          · split
            · simp [hw]
            · split
              · exact ih (State.fills_oneStep (by simp [hw]) n c eng _ _)
              · exact State.fills_oneStep (by simp [hw]) n c eng _ _

@[simp] theorem State.fills_catchUpCore {z : Tables} {s : State} (hc : Fills z s.tables) (c : CoreId) : Fills z (s.catchUpCore c).tables := by
  unfold State.catchUpCore
  split
  · split
    · rw [State.tables_setCore]
      exact State.fills_foldl (fun s eng hs => State.fills_runSteps hs _ c eng 80) _ hc
    · exact hc
  · exact hc

@[simp] theorem State.fills_catchUp {z : Tables} {s : State} (hc : Fills z s.tables) : Fills z s.catchUp.tables :=
  State.fills_foldl (fun _ _ hs => State.fills_catchUpCore hs _) _ hc

@[simp] theorem State.canonical_writeSt {s : State} (hc : Canonical s.tables) (c : CoreId) (a : Int) (b : Byte) : Canonical (s.writeSt c a b).tables :=
  (State.fills_writeSt (.refl _) c a b).canonical hc

@[simp] theorem State.canonical_writeStAt {s : State} (hc : Canonical s.tables) (c : CoreId) (l : List (Int × Byte)) : Canonical (s.writeStAt c l).tables :=
  (State.fills_writeStAt (.refl _) c l).canonical hc

@[simp] theorem State.canonical_writeHbm {s : State} (hc : Canonical s.tables) (n a : Nat) (b : Byte) : Canonical (s.writeHbm n a b).tables :=
  (State.fills_writeHbm (.refl _) n a b).canonical hc

@[simp] theorem State.canonical_putRegion {s : State} (hc : Canonical s.tables) (n a : Nat) (bs : List Byte) (ecc : List EccAt) : Canonical (s.putRegion n a bs ecc).tables :=
  (State.fills_putRegion (.refl _) n a bs ecc).canonical hc

@[simp] theorem State.canonical_ownWrite {s : State} (hc : Canonical s.tables) (n a : Nat) (bs : List Byte) : Canonical (s.ownWrite n a bs).tables :=
  (State.fills_ownWrite (.refl _) n a bs).canonical hc

@[simp] theorem State.canonical_report {s : State} (hc : Canonical s.tables) (n : Nat) (r : Report) : Canonical (s.report n r).tables :=
  (State.fills_report (.refl _) n r).canonical hc

@[simp] theorem State.canonical_access {s : State} (hc : Canonical s.tables) (n : Nat) (key : Nat) (me : AssayAcc) (clock : Tab Nat) (rival : AssayAcc → Bool)
    (mk : Nat → Option AssayAcc → Report) : Canonical (s.access n key me clock rival mk).tables :=
  (State.fills_access (.refl _) n key me clock rival mk).canonical hc

@[simp] theorem State.canonical_applyEffect {s : State} (hc : Canonical s.tables) (n : Nat) (c : CoreId) (gen : Nat) (e : Effect) : Canonical (s.applyEffect n c gen e).tables :=
  (State.fills_applyEffect (.refl _) n c gen e).canonical hc

@[simp] theorem State.canonical_checkCommand {s : State} (hc : Canonical s.tables) (n : Nat) (c : CoreId) (q : Nat) (x : QCmd) (e : Effect) : Canonical (s.checkCommand n c q x e).tables :=
  (State.fills_checkCommand (.refl _) n c q x e).canonical hc

@[simp] theorem State.canonical_catchUp {s : State} (hc : Canonical s.tables) : Canonical s.catchUp.tables :=
  (State.fills_catchUp (.refl _)).canonical hc

/-- The steps of passes write no register. -/
@[simp] theorem State.catchUp_regs (s : State) : s.catchUp.regs = s.regs := (State.fills_catchUp (.refl s.tables)).2

/-! ### What a command that tries to act leaves -/

/-- The state that an attempt leaves behind, where it leaves one, is in canonical form. -/
def Attempt.canonical : Attempt → Prop
  | .done t | .stop t => Canonical t.tables
  | .stall _ _ _ _ | .hold => True

@[simp] theorem Attempt.canonical_done (t : State) : (Attempt.done t).canonical ↔ Canonical t.tables := Iff.rfl
@[simp] theorem Attempt.canonical_stop (t : State) : (Attempt.stop t).canonical ↔ Canonical t.tables := Iff.rfl
@[simp] theorem Attempt.canonical_stall (limit item need kind : Nat) : (Attempt.stall limit item need kind).canonical := trivial
@[simp] theorem Attempt.canonical_hold : Attempt.hold.canonical := trivial

/-! ### Registers (16) -/

@[simp] theorem State.canonical_setCfg {s : State} (hc : Canonical s.tables) (k : RegKind) (i j : Nat) (v : W32) : Canonical (setCfg s k i j v).tables :=
  ⟨hc.1, hc.2.1, hc.2.2.1, setCfg_regs_rising s k i j v hc.2.2.2⟩

/-! ### Shared operations: parts, outputs, counted events, stores and regions, stops, flags -/

@[simp] theorem State.canonical_writeStN {s : State} (hc : Canonical s.tables) (c : CoreId) (a : Int) (bs : List Byte) : Canonical (s.writeStN c a bs).tables := by
  induction bs generalizing s a with
  | nil => exact hc
  | cons b bs ih => exact ih (State.canonical_writeSt hc c a b) (a + 1)

@[simp] theorem State.canonical_zeroExtents {s : State} (hc : Canonical s.tables) (n : Nat) : Canonical (s.zeroExtents n).tables := by
  refine State.canonical_foldl (fun s e hs => ?_) _ hc
  dsimp only
  split
  · exact hs
  · exact ⟨hs.1, hs.2.1, wf_put hs.2.2.1 (Memory.wf_clear (hs.2.2.1 _) _), hs.2.2.2⟩

@[simp] theorem State.canonical_zeroStores {s : State} (hc : Canonical s.tables) (n : Nat) : Canonical (s.zeroStores n).tables :=
  ⟨wf_keys (fun k => !s.soleClu n (k / 8)) hc.1, wf_keys (fun k => !s.soleClu n k) hc.2.1, hc.2.2⟩

/-! ### Resets and the loss of power (00, R7, R8; 07, R162; 12, R268, R279; 14, R312-R318) -/

@[simp] theorem State.canonical_dropClaims {s : State} (hc : Canonical s.tables) (cl : List Claim) : Canonical (s.dropClaims cl).tables :=
  State.canonical_foldl (fun s c hs => by split <;> simp [hs]) _ hc

@[simp] theorem State.canonical_resetPart {s : State} (hc : Canonical s.tables) (n : Nat) (hostReset : Bool) : Canonical (s.resetPart n hostReset).tables := by
  have zeroed : Canonical ((((((s.repaintAborted n).dropRunning n).gate n).zeroStores n).zeroExtents n).dropClaims ((s.part n).claims ++ (s.part n).nextClaims)).tables :=
    State.canonical_dropClaims (by simp [hc]) _
  obtain ⟨hcore, hclu, hhbm, hregs⟩ := zeroed
  exact ⟨hcore, hclu, hhbm, Tab.rising_filter _ _ hregs⟩

@[simp] theorem State.canonical_disableRings {s : State} (hc : Canonical s.tables) (n : Nat) : Canonical (s.disableRings n).tables := by
  refine State.canonical_foldl (fun s q hs => ?_) _ hc
  have hsq : Canonical (if s.ownsSq n q ∧ rb (cfg s .sqCfg q 0) 31 then setCfg s .sqCfg q 0 (cfg s .sqCfg q 0 &&& 0x7FFFFFFF) else s).tables := by
    split <;> simp [hs]
  dsimp only
  generalize (if s.ownsSq n q ∧ rb (cfg s .sqCfg q 0) 31 then setCfg s .sqCfg q 0 (cfg s .sqCfg q 0 &&& 0x7FFFFFFF) else s) = t at *
  split
  · split <;> simp [hsq]
  · exact hsq

@[simp] theorem State.canonical_hostResetPart {s : State} (hc : Canonical s.tables) (n : Nat) (l : Link) : Canonical (s.hostResetPart n l).tables := by simp [State.hostResetPart, hc]

@[simp] theorem State.canonical_hostReset {s : State} (hc : Canonical s.tables) (fs : Func → Bool) : Canonical (s.hostReset fs).tables := by
  refine State.canonical_foldl (fun s n hs => ?_) _ hc
  split
  · split <;> simp [hs]
  · exact hs

@[simp] theorem State.canonical_dieLoss {s : State} (bus : Bool) : Canonical (s.dieLoss bus).tables := by
  simp [State.dieLoss, canonical_nil]

@[simp] theorem State.canonical_startupStop {s : State} (hc : Canonical s.tables) (part code : Nat) : Canonical (s.startupStop part code).tables := by
  unfold State.startupStop
  split <;> simp [hc]

@[simp] theorem State.canonical_busLoss {s : State} (hc : Canonical s.tables) : Canonical s.busLoss.tables := by
  unfold State.busLoss
  split <;> simp [hc]

@[simp] theorem State.canonical_converterOff {s : State} (hc : Canonical s.tables) (code part : Nat) : Canonical (s.converterOff code part).tables := by
  unfold State.converterOff
  repeat' split
  all_goals simp [hc]

@[simp] theorem State.canonical_moduleReset {s : State} (cause : Nat) : Canonical (s.moduleReset cause).tables := by
  simp [State.moduleReset]

@[simp] theorem State.canonical_coldReset {s : State} : Canonical s.coldReset.tables := by
  simp [State.coldReset, State.reset, canonical_nil]

@[simp] theorem State.canonical_tree {s : State} (hc : Canonical s.tables) (seq : W32) {run : State → State × List Word} (h : Canonical (run s).1.tables) :
    Canonical (s.tree seq run).tables := by
  unfold State.tree
  split
  · split
    · simp [hc]
    · exact h
  · exact hc

/-! ### The refresh calendars of the stacks (05, R128-R135) -/

@[simp] theorem State.canonical_whenServed {s : State} (hc : Canonical s.tables) (n a len : Nat) (name : Nat × Nat) {act : State → State}
    (h : Canonical (act s).tables) : Canonical (s.whenServed n a len name act).tables := by
  unfold State.whenServed
  dsimp only
  split
  · simp [hc]
  · exact h

@[simp] theorem State.canonical_drainOwn {s : State} (hc : Canonical s.tables) : Canonical s.drainOwn.tables :=
  State.canonical_foldl (fun _ w hs => State.canonical_ownWrite hs w.pt w.addr w.bytes) _ hc

@[simp] theorem State.canonical_closeWindow {s : State} (hc : Canonical s.tables) (k : Nat) : Canonical (s.closeWindow k).tables := by simp [State.closeWindow, hc]

@[simp] theorem State.canonical_closeWindows {s : State} (hc : Canonical s.tables) (ks : List Nat) (stays : Nat → Bool) : Canonical (s.closeWindows ks stays).tables :=
  State.canonical_foldl (fun s k hs => by split <;> simp [hs]) _ hc

@[simp] theorem State.canonical_putCalendar {s : State} (hc : Canonical s.tables) (k : Nat) (v : W32) : Canonical (s.putCalendar k v).tables := by simp [State.putCalendar, hc]

/-! ### Assay mode (06, R153-R160) -/

@[simp] theorem State.canonical_assayLanding {s : State} (hc : Canonical s.tables) (n : Nat) (c by_ : CoreId) (cmd : Nat) (vc : Tab Nat) (writes : List Int) :
    Canonical (s.assayLanding n c by_ cmd vc writes).2.tables := by
  unfold State.assayLanding
  split
  · dsimp only
    split
    · exact State.canonical_foldl (fun _ key hs => State.canonical_access hs n key _ _ _ _) _ hc
    · exact hc
  · exact hc

@[simp] theorem State.canonical_assayHbm {s : State} (hc : Canonical s.tables) (n : Nat) (c : CoreId) (cmd : Nat) (clock : Tab Nat) (write : Bool) (as : List Nat) :
    Canonical (s.assayHbm n c cmd clock write as).2.tables := by
  unfold State.assayHbm
  split
  · exact State.canonical_foldl (fun _ b hs => State.canonical_access hs n _ _ _ _ _) _ hc
  · exact hc

/-! ### The loose class (09, R218-R222) -/

theorem State.canonical_takeToken {s t : State} (hc : Canonical s.tables) {domain devid : Nat} (h : s.takeToken domain devid = some t) : Canonical t.tables := by
  unfold State.takeToken at h
  dsimp only at h
  split at h
  · exact Option.some.inj h ▸ hc
  · cases h

@[simp] theorem State.canonical_landBytes {s : State} (hc : Canonical s.tables) (n : Nat) (c : CoreId) (base : Int) (bs : List Byte) : Canonical (s.landBytes n c base bs).tables := by
  unfold State.landBytes
  dsimp only
  repeat' split
  all_goals simp [hc]

@[simp] theorem State.canonical_takeData {s : State} (hc : Canonical s.tables) (n : Nat) (k : LoosePkt) (own : OwnSend) : Canonical (s.takeData n k own).tables := by
  unfold State.takeData
  extract_lets c x tag credit stray i st fresh same drop
  split
  · exact State.canonical_ite (by rwa [State.tables_respond]) hc
  · rename_i d _
    extract_lets take
    have dropped : ∀ e, Canonical (drop e).tables := fun e => hc
    have taken : ∀ u r, Canonical u.tables → Canonical (take u r).tables := by
      intro u r hu
      have landed : Canonical (u.landBytes n c ((d.base + 224 * k.pktIndex : Nat) : Int) (k.bytes.take k.len)).tables := State.canonical_landBytes hu n c _ _
      dsimp only [take]
      generalize u.landBytes n c ((d.base + 224 * k.pktIndex : Nat) : Int) (k.bytes.take k.len) = v at landed
      refine State.canonical_ite ?_ landed
      rw [State.tables_respond]
      repeat' split
      all_goals simp [State.canonical_assayLanding, landed]
    refine State.canonical_ite (State.canonical_ite (by rwa [State.tables_respond]) hc) (State.canonical_ite ?_ (State.canonical_ite (dropped _) ?_))
    · rwa [State.tables_faultStop, State.tables_respond]
    · split
      · exact taken _ _ hc
      · exact State.canonical_ite (State.canonical_ite (dropped _) (State.canonical_ite (dropped _) (taken _ _ hc))) (State.canonical_ite (taken _ _ (dropped _)) (dropped _))

@[simp] theorem State.canonical_takeRequest {s : State} (hc : Canonical s.tables) (k : LoosePkt) (own : OwnSend) : Canonical (s.takeRequest k own).tables := by
  unfold State.takeRequest
  repeat' split
  all_goals simp [hc]

theorem State.canonical_injectOne {s : State} (hc : Canonical s.tables) {x : LooseOut} {r : State × Bool} (h : s.injectOne x = some r) : Canonical r.1.tables := by
  unfold State.injectOne at h
  split at h
  · cases h
  · rename_i t ht
    have hct := State.canonical_takeToken hc ht
    split at h
    · split at h <;> cases h <;> simp [hct]
    · split at h <;> cases h <;> simp [hct, hc]

@[simp] theorem State.canonical_injectAll {s : State} (hc : Canonical s.tables) (c : CoreId) (rest xs : List LooseOut) : Canonical (s.injectAll c rest xs).tables := by
  induction xs generalizing s rest with
  | nil => exact hc
  | cons x xs ih =>
    unfold State.injectAll
    split
    · exact hc
    · rename_i h
      exact ih (State.canonical_injectOne hc h) rest
    · rename_i h
      have hct := State.canonical_injectOne hc h
      dsimp only at hct ⊢
      split <;> simp [hct]

@[simp] theorem State.canonical_injectWaiting {s : State} (hc : Canonical s.tables) : Canonical s.injectWaiting.tables :=
  State.canonical_foldl (fun _ _ hs => State.canonical_injectAll hs _ _ _) _ hc

/-! ### Flags, slots and messages (04, R103-R108) -/

@[simp] theorem State.canonical_looseOut {s : State} (hc : Canonical s.tables) (n : Nat) (c : CoreId) (q cmd : Nat) (slot : Option Nat) (dst : CoreId) (devid : Nat) (msgId : Nat) (ps : List LoosePkt) : Canonical (s.looseOut n c q cmd slot dst devid msgId ps).tables := by
  unfold State.looseOut
  dsimp only
  repeat' split
  all_goals simp [hc]

/-! ### The core sequencer (04, R87-R91, R105-R112) -/

@[simp] theorem State.canonical_issueRow {s : State} (hc : Canonical s.tables) (c : CoreId) (ecc : List EccAt) (row : Cmd → Bool) {act : State → Nat → Cmd → State}
    (h : ∀ s n q, Canonical s.tables → Canonical (act s n q).tables) : Canonical (s.issueRow c ecc row act).tables := by
  unfold State.issueRow
  split
  · exact hc
  · split
    · dsimp only
      split
      · simp [hc]
      · split
        · exact hc
        · split
          · simp [hc]
          · split
            · simp [hc]
            · split
              · split <;> simp [hc]
              · split
                · exact h _ _ _ (by simp [hc])
                · simp [hc]
    · exact hc

@[simp] theorem State.canonical_issueEngine {s : State} (hc : Canonical s.tables) (c : CoreId) (ecc : List EccAt) (row : Cmd → Bool) : Canonical (s.issueEngine c ecc row).tables :=
  State.canonical_issueRow hc c ecc row fun s n q hs => by simp [hs]

@[simp] theorem State.canonical_actHere {s : State} (hc : Canonical s.tables) (n : Nat) (c : CoreId) (q : Cmd) {a : Attempt} (h : a.canonical) :
    Canonical (s.actHere n c q a).tables := by
  cases a with
  | done t => exact h
  | stop t => exact h
  | stall limit item need kind => exact hc
  | hold =>
    unfold State.actHere
    dsimp only
    split <;> simp [hc]

@[simp] theorem State.canonical_issueFlow {s : State} (hc : Canonical s.tables) (c : CoreId) (ecc : List EccAt) (row : Cmd → Bool) {here : State → Nat → Cmd → Attempt}
    (h : ∀ s n q, Canonical s.tables → (here s n q).canonical) : Canonical (s.issueFlow c ecc row here).tables :=
  State.canonical_issueRow hc c ecc row fun s n q hs => by
    split
    · simp [hs]
    · exact State.canonical_actHere hs n c q (h s n q hs)

/-! ### The engines of a core (02, R42-R62; 04, R87, R88) -/

@[simp] theorem State.canonical_tryWait {s : State} (hc : Canonical s.tables) (n : Nat) (c : CoreId) (q : Nat) (x : Cmd) : (s.tryWait n c q x).canonical := by
  unfold State.tryWait
  dsimp only
  split <;> simp [hc]

@[simp] theorem State.canonical_tryAcquire {s : State} (hc : Canonical s.tables) (n : Nat) (c : CoreId) (q gen : Nat) (x : Cmd) : (s.tryAcquire n c q gen x).canonical := by
  unfold State.tryAcquire
  dsimp only
  split <;> simp [hc]

@[simp] theorem State.canonical_trySet {s : State} (hc : Canonical s.tables) (n : Nat) (c : CoreId) (q gen idx : Nat) (x : Cmd) : (s.trySet n c q gen idx x).canonical := by
  unfold State.trySet
  dsimp only
  split
  · split <;> simp [hc]
  · simp [hc]
  · split
    · exact hc
    · split
      · simp
      · rw [Attempt.canonical_done, State.tables_shaftOut]
        exact hc
  · split <;> simp [hc]

@[simp] theorem State.canonical_trySend {s : State} (hc : Canonical s.tables) (n : Nat) (c : CoreId) (gen idx : Nat) (x : Cmd) (bs : List Byte) : (s.trySend n c gen idx x bs).canonical := by
  unfold State.trySend
  dsimp only
  split
  · split <;> simp [hc]
  · split
    · exact hc
    · split
      · simp
      · split <;> simp [hc]
  · split
    · simp
    · split <;> simp [hc]

@[simp] theorem State.canonical_act {s : State} (hc : Canonical s.tables) (n : Nat) (c : CoreId) (x : QCmd) (e : Effect) : (s.act n c x e).canonical := by
  have applied := State.canonical_applyEffect hc n c x.gen e
  unfold State.act
  dsimp only
  split
  · simp [applied]
  · simp [applied]
  · exact State.canonical_trySend applied n c _ _ _ _
  · exact applied

/-- A command that has passed its checks acts, or goes on to wait. -/
theorem State.canonical_acts {t : State} (ht : Canonical t.tables) (a : Attempt) (n : Nat) (c : CoreId) (q : Nat) (x : QCmd) (e : Effect) :
    a.canonical → Canonical (match a with
      | .done t => t.begin n c q x e
      | .stall limit item need kind => t.stallHead c q limit item need kind
      | .hold => t.sendHold n c q x
      | .stop t => t : State).tables := by
  intro ha
  cases a with
  | done u => simp [(Attempt.canonical_done u).1 ha]
  | stop u => exact ha
  | stall limit item need kind => simp [ht]
  | hold => simp [ht]

@[simp] theorem State.canonical_startEngine {s : State} (hc : Canonical s.tables) (n : Nat) (c : CoreId) (q : Nat) (x : QCmd) (ecc : List EccAt) :
    Canonical (s.startEngine n c q x ecc).tables := by
  have checked : ∀ t : State, Canonical t.tables → Canonical (if (s.core c).owesReads x then t else t.checkCommand n c q x (s.effectOf c x)).tables :=
    fun t ht => by split <;> simp [ht]
  unfold State.startEngine
  dsimp only
  split
  · simp [hc]
  split
  · split <;> simp [hc]
  split
  · simp [hc]
  split
  · exact hc
  split
  · simp [hc]
  split
  · simp [hc]
  split
  · simp [hc]
  split
  · simp [hc]
  split
  · simp [hc]
  split
  · simp [hc]
  · simp [hc]
  split
  · simp [hc]
  have read : Canonical (s.readErrors n c q x.idx (s.effectOf c x).reads (decide (x.cmd.opcode ≠ 0x01)) ecc).tables := by simp [hc]
  generalize s.readErrors n c q x.idx (s.effectOf c x).reads (decide (x.cmd.opcode ≠ 0x01)) ecc = t at read
  split
  · exact read
  replace checked := checked t read
  generalize (if (s.core c).owesReads x then t else t.checkCommand n c q x (s.effectOf c x)) = u at checked
  split
  · exact checked
  · refine State.canonical_acts checked _ n c q x (s.effectOf c x) ?_
    split
    · exact checked
    · exact State.canonical_act checked n c x _

/-- The head of a queue that tries to act there goes on to wait, or retires. -/
theorem State.canonical_tries {s : State} (hc : Canonical s.tables) (a : Attempt) (n : Nat) (c : CoreId) (q : Nat) (x : QCmd) :
    a.canonical → Canonical (match a with
      | .done t => (t.updCore c fun k => (((k.endStall q t.now).endWait (5 + q) 7 t.now).endFull q).pop q).retire n c
      | .stall limit item need kind => s.stallHead c q limit item need kind
      | .hold => s.sendHold n c q x
      | .stop t => t : State).tables := by
  intro ha
  cases a with
  | done u => simp [(Attempt.canonical_done u).1 ha]
  | stop u => exact ha
  | stall limit item need kind => simp [hc]
  | hold => simp [hc]

@[simp] theorem State.canonical_flowHead {s : State} (hc : Canonical s.tables) (n : Nat) (c : CoreId) (q : Nat) (x : QCmd) (idle : Bool) : Canonical (s.flowHead n c q x idle).tables := by
  have joined : Canonical (if s.assayEn n then s.joinInto (threadKey c q) x.vc else s).tables := by split <;> simp [hc]
  unfold State.flowHead
  dsimp only
  generalize (if s.assayEn n then s.joinInto (threadKey c q) x.vc else s) = s₀ at joined
  refine State.canonical_tries hc _ n c q x ?_
  repeat' split
  all_goals simp [joined, canonical_tryWait, canonical_trySet, canonical_tryAcquire]

@[simp] theorem State.canonical_startHead {s : State} (hc : Canonical s.tables) (n : Nat) (c : CoreId) (q : Nat) (ecc : List EccAt) : Canonical (s.startHead n c q ecc).tables := by
  unfold State.startHead
  dsimp only
  repeat' split
  all_goals simp [hc]

/-! ### Arrivals and completions (04, R101-R107; 05, R128-R130) -/

@[simp] theorem State.canonical_deliverMesh {s : State} (hc : Canonical s.tables) (m : MeshMsg) : Canonical (s.deliverMesh m).tables := by
  unfold State.deliverMesh
  dsimp only
  repeat' split
  all_goals simp [hc]

@[simp] theorem State.canonical_land {s : State} (hc : Canonical s.tables) (n : Nat) (c : CoreId) (r : MemReq) (bs : List Byte) : Canonical (s.land n c r bs).tables := by
  unfold State.land
  dsimp only
  split
  · simp [hc]
  · have landed : Canonical (((s.writeStAt c ((r.stAddr.map fun (a : Nat) => (a : Int)).zip bs)).clearPoison c (r.stAddr.map fun (a : Nat) => (a : Int))).setTags n
        (dedup ((r.stAddr.map fun (a : Nat) => (a : Int)).filterMap (granuleKey c))) 0).tables := by simp [hc]
    rw [State.tables_arrive]
    split
    · exact State.canonical_assayLanding landed n c c _ _ _
    · exact State.canonical_assayLanding (State.canonical_assayHbm landed n c _ _ _ _) n c c _ _ _

@[simp] theorem State.canonical_storeDone {s : State} (hc : Canonical s.tables) (n : Nat) (c : CoreId) (r : MemReq) (ecc : List EccAt) : Canonical (s.storeDone n c r ecc).tables := by
  have hread := State.tables_readSectors s n (s.partSectors n r.mem) ecc
  unfold State.storeDone
  dsimp only
  split
  · split
    · rw [State.tables_arrive, foldl_emit]
      exact hc
    · simp [hc]
  · split <;> rename_i h <;> rw [h] at hread <;> dsimp only at hread ⊢
    · simp [hread, hc]
    · have written := State.canonical_foldl (fun s w hs => State.canonical_writeHbm hs n w.1 w.2) (r.mem.zip r.data) (hread ▸ hc)
      simp [written]

/-! ### The layer table (10, R229) -/

@[simp] theorem State.canonical_stampLayer {s : State} (hc : Canonical s.tables) (n i : Nat) : Canonical (s.stampLayer n i).tables := by simp [State.stampLayer, hc]

/-! ### Power, start-up, host links, headframe controllers -/

@[simp] theorem State.canonical_bootPorts {s : State} (hc : Canonical s.tables) : Canonical s.bootPorts.tables :=
  State.canonical_foldl (fun s p hs => by split <;> simp [hs]) _ hc

@[simp] theorem State.canonical_completeStep {s : State} (hc : Canonical s.tables) (geo : BitVec 3) : Canonical (s.completeStep geo).tables := by
  unfold State.completeStep
  dsimp only
  split
  case h_7 => exact State.canonical_bootPorts (s := { s with startup := { s.startup with stage := s.startup.stage + 1 } }) hc
  case h_8 =>
    rw [State.tables_platform]
    exact hc
  all_goals exact hc

/-! ### The timebase (01, R13-R16; 08, R199) -/

@[simp] theorem State.canonical_loadCount {s : State} (hc : Canonical s.tables) (c : Count) : Canonical (s.loadCount c).tables := by
  unfold State.loadCount
  dsimp only
  rw [State.tables_openWindows, State.tables_mk, State.tables_eta]
  simp [hc]

@[simp] theorem State.canonical_putSyncCfg {s : State} (hc : Canonical s.tables) (v : W32) : Canonical (s.putSyncCfg v).tables := by simp [State.putSyncCfg, hc]

@[simp] theorem State.canonical_putTbCfg {s : State} (hc : Canonical s.tables) (v : W32) : Canonical (s.putTbCfg v).tables := by
  unfold State.putTbCfg
  dsimp only
  split
  · rw [State.tables_setLocked, State.tables_openWindows]
    exact State.canonical_setCfg hc _ _ _ _
  · simp [hc]

@[simp] theorem State.canonical_takeMark {s : State} (hc : Canonical s.tables) (p tx16 arrival16 stratum : Nat) : Canonical (s.takeMark p tx16 arrival16 stratum).tables := by
  unfold State.takeMark
  dsimp only
  split
  · split
    · rw [State.tables_setLocked, State.tables_openWindows, State.tables_mk]
      exact hc
    · exact hc
  · split
    · rw [State.tables_setLocked, State.tables_mk]
      exact State.canonical_loadCount hc _
    · rw [State.tables_setLocked, State.tables_mk]
      exact hc

/-! ### The canvas image -/

@[simp] theorem State.canonical_putClaims {s : State} (hc : Canonical s.tables) (n gen : Nat) (cl : List Claim) (next : Bool) : Canonical (s.putClaims n gen cl next).tables :=
  State.canonical_foldl (fun t c ht => by dsimp only; split <;> simp [ht]) _ hc

@[simp] theorem State.canonical_clearClaims {s : State} (hc : Canonical s.tables) (cl : List Claim) (next : Bool) : Canonical (s.clearClaims cl next).tables :=
  State.canonical_foldl (fun t c ht => by split <;> simp [ht]) _ hc

@[simp] theorem State.canonical_clearPorts {s : State} (hc : Canonical s.tables) (n : Nat) : Canonical (s.clearPorts n).tables :=
  State.canonical_clearClaims (State.canonical_clearClaims (State.canonical_clearClaims hc _ _) _ _) _ _

/-! ### The steward's records (11, R243) -/

@[simp] theorem State.canonical_putSlot {s : State} (hc : Canonical s.tables) (n i : Nat) (z : SrvSlot) : Canonical (s.putSlot n i z).tables := by
  unfold State.putSlot
  dsimp only
  repeat' split
  all_goals
    repeat' refine State.canonical_ownWrite ?_ n _ _
    simp [hc]

@[simp] theorem State.canonical_endSlot {s : State} (hc : Canonical s.tables) (n i status : Nat) : Canonical (s.endSlot n i status).tables := by simp [State.endSlot, hc]

@[simp] theorem State.canonical_endGalleried {s : State} (hc : Canonical s.tables) (n : Nat) : Canonical (s.endGalleried n).tables := by
  refine State.canonical_foldl (fun s e hs => ?_) _ hc
  split
  · simp [hs]
  · split <;> simp [hs]

@[simp] theorem State.canonical_galleryGone {s : State} (hc : Canonical s.tables) (n : Nat) : Canonical (s.galleryGone n).tables := by
  unfold State.galleryGone
  split <;> simp [hc]

@[simp] theorem State.canonical_releaseRepaint {s : State} (hc : Canonical s.tables) (n : Nat) : Canonical (s.releaseRepaint n).tables := by
  unfold State.releaseRepaint
  dsimp only
  split
  · exact hc
  · rename_i r _
    generalize (if r.before = .confirmed then WtState.confirmed else if s.allVerified n then .loaded else r.before) = wt
    rw [State.tables_event]
    split
    · refine State.canonical_foldl (fun s e hs => ?_) _ (by simp [hc])
      split <;> simp [hs]
    · simp [hc]

/-! ### A canvas takes effect (04, R85, R86; 10, R235) -/

@[simp] theorem State.canonical_putBytes {s : State} (hc : Canonical s.tables) (n : Nat) (c : CoreId) (a : Nat) (bs : List Byte) : Canonical (s.putBytes n c a bs).tables := by simp [State.putBytes, hc]

@[simp] theorem State.canonical_copyEntry {s : State} (hc : Canonical s.tables) (n : Nat) (img : Img) (e : DirEnt) : Canonical (s.copyEntry n img e).tables := by
  unfold State.copyEntry
  exact State.canonical_foldl (fun s t hs => State.canonical_putBytes hs n e.id _ _) _ (State.canonical_putBytes hc n e.id _ _)

@[simp] theorem State.canonical_loadSteward {s : State} (hc : Canonical s.tables) (n : Nat) : Canonical (s.loadSteward n).tables := by
  unfold State.loadSteward
  split
  · simp [hc]
  · split
    · rename_i v _
      have resumed := State.canonical_foldl (fun s (e : Nat × SrvSlot) hs => State.canonical_putSlot hs n e.1 e.2.resume) v.slots hc
      dsimp only
      split <;> simp [resumed]
    · exact hc

@[simp] theorem State.canonical_install {s : State} (hc : Canonical s.tables) (n : Nat) (img : Img) (addr : Nat) (rearm : Bool) : Canonical (s.install n img addr rearm).tables := by
  have idle : Canonical ((dirOf img).foldl (fun s e => s.installEntry img rearm e) (((s.dropRunning n).idleCores n).dropTraffic n)).tables :=
    State.canonical_foldl (fun s e hs => by simp [hs]) _ (by simp [hc])
  unfold State.install
  dsimp only
  rw [State.tables_mk, State.tables_eta]
  refine State.canonical_foldl (fun s e hs => State.canonical_copyEntry hs n img e) _ ?_
  rw [State.tables_checkCables, State.tables_loadWeights]
  refine State.canonical_loadSteward ?_ n
  rw [State.tables_updPart]
  exact State.canonical_putClaims (State.canonical_clearPorts idle n) n _ _ _

@[simp] theorem State.canonical_stage {s : State} (hc : Canonical s.tables) (n : Nat) (img : Img) (addr : Nat) : Canonical (s.stage n img addr).tables := by
  unfold State.stage
  dsimp only
  repeat' split
  all_goals simp [hc]

/-! ### Weight bytes (10, R230-R238) -/

@[simp] theorem State.canonical_layerBytes {s : State} (hc : Canonical s.tables) (n i off : Nat) (bs : List Byte) : Canonical (s.layerBytes n i off bs).tables := by simp [State.layerBytes, hc]

@[simp] theorem State.canonical_layerPassed {s : State} (hc : Canonical s.tables) (n i : Nat) : Canonical (s.layerPassed n i).tables := by
  unfold State.layerPassed
  dsimp only
  repeat' split
  all_goals simp [hc]

@[simp] theorem State.canonical_judgeLayer {s : State} (hc : Canonical s.tables) (n i : Nat) (crc : BitVec 32) : Canonical (s.judgeLayer n i crc).1.tables := by
  unfold State.judgeLayer
  split <;> simp [hc]

@[simp] theorem State.canonical_appendLayer {s : State} (hc : Canonical s.tables) (n i : Nat) (bs : List Byte) : Canonical (s.appendLayer n i bs).1.tables := by
  unfold State.appendLayer
  dsimp only
  repeat' split
  all_goals simp [hc]

@[simp] theorem State.canonical_tapFlit {s : State} (hc : Canonical s.tables) (p : Nat) (payload : List Byte) : Canonical (s.tapFlit p payload).tables := by
  unfold State.tapFlit
  dsimp only
  repeat' split
  all_goals simp [hc]

/-! ### What arrives on a port (08, R192; 09, R215, R216) -/

@[simp] theorem State.canonical_landMessage {s : State} (hc : Canonical s.tables) (n : Nat) (c : CoreId) (tag : Nat) (d : LandDesc) (l : LandList) :
    Canonical (s.landMessage n c tag d l).tables := by
  unfold State.landMessage
  extract_lets u base filled again i
  have hf : Canonical filled.tables := State.canonical_ite (by simp [u, hc]) (by simp [u, hc])
  have ha : Canonical again.tables := by
    dsimp only [again]
    split <;> simp [hf]
  have landed : ∀ vc writes, Canonical (again.assayLanding n c c 0 vc writes).2.tables := State.canonical_assayLanding ha n c c 0
  dsimp only
  repeat' split
  all_goals simp [landed]

@[simp] theorem State.canonical_landFlit {s : State} (hc : Canonical s.tables) (w : W32) (x : RxFlit) : Canonical (s.landFlit w x).tables := by
  unfold State.landFlit
  dsimp only
  repeat' split
  all_goals simp [hc]

@[simp] theorem State.canonical_drain0 {s : State} (hc : Canonical s.tables) (p fuel : Nat) : Canonical (s.drain0 p fuel).tables := by
  induction fuel generalizing s with
  | zero => exact hc
  | succ fuel ih =>
    unfold State.drain0
    split
    · exact hc
    · split
      · split
        · exact hc
        · exact ih (State.canonical_landFlit (by simp [hc]) _ _)
      · exact ih (by simp [hc])

@[simp] theorem State.canonical_drain {s : State} (hc : Canonical s.tables) (p : Nat) : Canonical (s.drain p).tables := by simp [State.drain, hc]

@[simp] theorem State.canonical_queueFlit {s : State} (hc : Canonical s.tables) (p : Nat) (x : RxFlit) : Canonical (s.queueFlit p x).tables := by simp [State.queueFlit, hc]

@[simp] theorem State.canonical_releaseFlit {s : State} (hc : Canonical s.tables) (p : Nat) (x : RxFlit) : Canonical (s.releaseFlit p x).tables := by
  unfold State.releaseFlit
  dsimp only
  repeat' split
  all_goals simp [hc]

@[simp] theorem State.canonical_releaseRun {s : State} (hc : Canonical s.tables) (p fuel : Nat) : Canonical (s.releaseRun p fuel).tables := by
  induction fuel generalizing s with
  | zero => exact hc
  | succ fuel ih =>
    unfold State.releaseRun
    dsimp only
    split
    · exact hc
    · exact ih (State.canonical_releaseFlit (by simp [hc]) _ _)

@[simp] theorem State.canonical_acceptFlit {s : State} (hc : Canonical s.tables) (p : Nat) (f : Flit) (ce : Bool) : Canonical (s.acceptFlit p f ce).tables := by
  unfold State.acceptFlit
  dsimp only
  repeat' split
  all_goals simp [hc]

@[simp] theorem State.canonical_intactUnit {s : State} (hc : Canonical s.tables) (p : Nat) (control : Bool) (b : List Byte) (ce : Bool) : Canonical (s.intactUnit p control b ce).tables := by
  unfold State.intactUnit
  split <;> simp [hc]

/-! ### Descriptors (12, R271-R275) -/

@[simp] theorem State.canonical_descRow {s : State} (hc : Canonical s.tables) (pt : Pt) (tag : BitVec 16) (ok : Desc → Bool) {act : State → Nat → Desc → State}
    (h : ∀ s n d, Canonical s.tables → Canonical (act s n d).tables) : Canonical (s.descRow pt tag ok act).tables := by
  unfold State.descRow
  dsimp only
  split
  · exact hc
  · split
    · simp [hc]
    · split
      · exact h _ _ _ (by simp [hc])
      · simp [hc]

@[simp] theorem State.canonical_servedRow {s : State} (hc : Canonical s.tables) (pt : Pt) (tag : BitVec 16) (ok : Desc → Bool) {act : State → Nat → Desc → State}
    (h : ∀ s n d, Canonical s.tables → Canonical (act s n d).tables) : Canonical (s.servedRow pt tag ok act).tables := by
  unfold State.servedRow
  dsimp only
  split
  · split
    · simp [hc]
    · split
      · exact h _ _ _ hc
      · simp [hc]
  · exact State.canonical_descRow hc pt tag ok h

@[simp] theorem State.canonical_readFor {s : State} (hc : Canonical s.tables) (n : Nat) (d : Desc) (a len : Nat) (ecc : List EccAt) {act : State → State}
    (h : ∀ s, Canonical s.tables → Canonical (act s).tables) : Canonical (s.readFor n d a len ecc act).tables :=
  State.canonical_whenServed hc n a len _ (h _ (by simp [hc]))

@[simp] theorem State.canonical_finishIf {s : State} (hc : Canonical s.tables) (n : Nat) (d : Desc) (bad : Option Nat) {act : State → State} (h : Canonical (act s).tables) :
    Canonical (s.finishIf n d bad act).tables := by
  unfold State.finishIf
  split
  · simp [hc]
  · exact h

/-! ### The weight commands (10, R229-R240) -/

@[simp] theorem State.canonical_feed {s : State} (hc : Canonical s.tables) (n : Nat) (d : Desc) : Canonical (s.feed n d).tables := by
  unfold State.feed
  dsimp only
  repeat' split
  all_goals simp [hc]

@[simp] theorem State.canonical_verifyGallery {s : State} (hc : Canonical s.tables) (n : Nat) (d : Desc) (r : HostRead) : Canonical (s.verifyGallery n d r).tables := by
  unfold State.verifyGallery
  dsimp only
  repeat' split
  all_goals simp [hc]

/-! ### The steward (11, R241-R261) -/

@[simp] theorem State.canonical_post {s : State} (hc : Canonical s.tables) (n i : Nat) (d : Delivery) : Canonical (s.post n i d).tables := by
  unfold State.post
  dsimp only
  repeat' split
  all_goals simp [hc]

@[simp] theorem State.canonical_deliver {s : State} (hc : Canonical s.tables) (n i : Nat) (d : Delivery) : Canonical (s.deliver n i d).tables := by
  unfold State.deliver
  split <;> simp [hc]

@[simp] theorem State.canonical_postPending {s : State} (hc : Canonical s.tables) (n : Nat) : Canonical (s.postPending n).tables := by
  unfold State.postPending
  split
  · refine State.canonical_foldl (fun s e hs => ?_) _ hc
    split
    · split <;> simp [hs]
    · exact hs
  · exact hc

@[simp] theorem State.canonical_takeRows {s : State} (hc : Canonical s.tables) (n h : Nat) (cancelled : List Nat) (x : Selected) : Canonical (s.takeRows n h cancelled x).tables := by
  unfold State.takeRows
  dsimp only
  repeat' split
  all_goals simp [hc]

@[simp] theorem State.canonical_tryMove {s : State} (hc : Canonical s.tables) (n i : Nat) : Canonical (s.tryMove n i).tables := by
  unfold State.tryMove
  dsimp only
  repeat' split
  all_goals simp [hc]

@[simp] theorem State.canonical_startReturn {s : State} (hc : Canonical s.tables) (n i : Nat) : Canonical (s.startReturn n i).tables := by
  unfold State.startReturn
  dsimp only
  repeat' split
  all_goals simp [hc]

@[simp] theorem State.canonical_landPages {s : State} (hc : Canonical s.tables) (n : Nat) (ps : List Nat) (bs : List Byte) : Canonical (s.landPages n ps bs).tables :=
  State.canonical_foldl (fun _ ia hs => State.canonical_ownWrite hs n ia.2 _) _ hc

@[simp] theorem State.canonical_applyOp {s : State} (hc : Canonical s.tables) (n : Nat) (d : Desc) : Canonical (s.applyOp n d).tables := by
  unfold State.applyOp
  dsimp only
  repeat' split
  all_goals simp [hc]

@[simp] theorem State.canonical_srvOp {s : State} (hc : Canonical s.tables) (n : Nat) (d : Desc) : Canonical (s.srvOp n d).tables := by
  unfold State.srvOp
  repeat' split
  all_goals simp [hc]

@[simp] theorem State.canonical_holdOps {s : State} (hc : Canonical s.tables) (n : Nat) : Canonical (s.holdOps n).tables := by
  unfold State.holdOps
  split
  · exact hc
  · rename_i v _
    refine List.foldlRecOn (motive := fun (a : State × List (Option Nat)) => Canonical a.1.tables) v.ops _ hc fun a ha d _ => ?_
    dsimp only
    split
    · split <;> simp [ha]
    · simp [ha]

@[simp] theorem State.canonical_applyOps {s : State} (hc : Canonical s.tables) (n h : Nat) : Canonical (s.applyOps n h).tables := by
  unfold State.applyOps
  exact State.canonical_foldl (fun s d hs => State.canonical_applyOp hs n d) _ (by simp [hc])

@[simp] theorem State.canonical_pickSlot {s : State} (hc : Canonical s.tables) (n h : Nat) (acc : Picks) (i : Nat) : Canonical (s.pickSlot n h acc i).1.tables := by
  unfold State.pickSlot
  dsimp only
  repeat' split
  all_goals simp [hc]

@[simp] theorem State.canonical_select {s : State} (hc : Canonical s.tables) (n h : Nat) : Canonical (s.select n h).1.tables := by
  unfold State.select
  dsimp only
  split
  · exact hc
  · exact List.foldlRecOn (motive := fun (a : State × Picks) => Canonical a.1.tables) _ _ hc fun a ha e _ => State.canonical_pickSlot ha n h a.2 e.1

@[simp] theorem State.canonical_pauseRest {s : State} (hc : Canonical s.tables) (n h : Nat) (xs : List Selected) : Canonical (s.pauseRest n h xs).tables :=
  State.canonical_foldl (fun s e hs => by dsimp only; split <;> simp [hs]) _ hc

@[simp] theorem State.canonical_boundaryGallery {s : State} (hc : Canonical s.tables) (n h : Nat) : Canonical (s.boundaryGallery n h).tables := by
  have moved := State.canonical_foldl (fun s (e : Nat × SrvSlot) hs => State.canonical_tryMove hs n e.1) (s.srvSlots n) hc
  have returned : ∀ {t : State}, Canonical t.tables → Canonical ((t.srvSlots n).foldl (fun s e => if e.2.wantBack then s.startReturn n e.1 else s) t).tables :=
    fun ht => State.canonical_foldl (fun s e hs => by split <;> simp [hs]) _ ht
  unfold State.boundaryGallery
  dsimp only
  split
  · split
    · exact State.canonical_startReturn (returned moved) n _
    · exact returned moved
  · exact returned moved

@[simp] theorem State.canonical_writeTables {s : State} (hc : Canonical s.tables) (n h : Nat) (p : Picks) : Canonical (s.writeTables n h p).tables :=
  State.canonical_foldl (fun s m hs => by split <;> simp [hs]) _ hc

@[simp] theorem State.canonical_issueHalf {s : State} (hc : Canonical s.tables) (n h : Nat) : Canonical (s.issueHalf n h).tables := by
  have selected := State.canonical_select hc n h
  have written := State.canonical_writeTables (State.canonical_boundaryGallery (State.canonical_pauseRest selected n h (s.select n h).2.selected) n h) n h (s.select n h).2
  unfold State.issueHalf
  dsimp only
  split <;> simp [written]

@[simp] theorem State.canonical_boundaryRelease {s : State} (hc : Canonical s.tables) (n : Nat) : Canonical (s.boundaryRelease n).tables := by
  unfold State.boundaryRelease
  dsimp only
  repeat' split
  all_goals simp [hc]

/-! ### Beat edges, holds, starts, handovers (01, R17-R39) -/

@[simp] theorem State.canonical_reportCycles {s : State} (hc : Canonical s.tables) (n : Nat) : Canonical (s.reportCycles n).tables := by
  unfold State.reportCycles
  split
  · exact State.canonical_foldl (fun t b ht => State.canonical_report (by simp [ht]) n _) _ hc
  · exact hc

@[simp] theorem State.canonical_beatEdge {s : State} (hc : Canonical s.tables) (n : Nat) (t : Count) : Canonical (s.beatEdge n t).tables := by
  unfold State.beatEdge
  dsimp only
  split
  · exact State.canonical_foldl (fun s c hs => by split <;> simp [hs]) _ (State.canonical_reportCycles (State.canonical_foldl (fun s c hs => by simp [hs]) _ (by simp [hc])) n)
  · simp [hc]

@[simp] theorem State.canonical_handOver {s : State} (hc : Canonical s.tables) (n : Nat) (c : CoreId) (q : Cmd) : Canonical (s.handOver n c q).tables := by
  unfold State.handOver
  dsimp only
  repeat' split
  all_goals simp [hc]

@[simp] theorem State.canonical_handOverRead {s : State} (hc : Canonical s.tables) (n : Nat) (c : CoreId) (hbm : List EccAt) (q : Cmd) : Canonical (s.handOverRead n c hbm q).tables := by
  unfold State.handOverRead
  dsimp only
  repeat' split
  all_goals simp [hc]

@[simp] theorem State.canonical_beginHead {s : State} (hc : Canonical s.tables) (n : Nat) (c : CoreId) (x : Handover) : Canonical (s.beginHead n c x).tables := by
  unfold State.beginHead
  dsimp only
  repeat' split
  all_goals simp [hc]

/-! ### Clocks, monitors, crossings (07, R162, R173-R181) -/

@[simp] theorem State.canonical_edgeDieLost {s : State} (hc : Canonical s.tables) (first : Nat) (a b : Link) : Canonical (s.edgeDieLost first a b).tables := by
  have failed : Canonical ((upFrom first 8).foldl (fun s p => if (s.port p).st = .disabled then s else s.failPort p .failed) s).tables :=
    State.canonical_foldl (fun s p hs => by split <;> simp [hs]) _ hc
  unfold State.edgeDieLost
  simp [failed]

/-! ### Gallery objects (05, R138, R139) -/

@[simp] theorem State.canonical_closeObject {s : State} (hc : Canonical s.tables) (n ix reason : Nat) : Canonical (s.closeObject n ix reason).tables := by
  unfold State.closeObject
  split
  · refine State.canonical_foldl (fun s c hs => by split <;> simp [hs]) _ ?_
    split <;> simp [hc]
  · exact hc

/-! ### Rings (12, R270-R285) -/

@[simp] theorem State.canonical_putRing {s : State} (hc : Canonical s.tables) (r : Reg) (v : W32) : Canonical (s.putRing r v).tables := by
  unfold State.putRing
  dsimp only
  repeat' split
  all_goals simp [hc]

@[simp] theorem State.canonical_putCqHead {s : State} (hc : Canonical s.tables) (n q x : Nat) : Canonical (s.putCqHead n q x).tables := by
  unfold State.putCqHead
  dsimp only
  repeat' split
  all_goals simp [hc]

@[simp] theorem State.canonical_putDoorbell {s : State} (hc : Canonical s.tables) (f : Func) (q off x : Nat) : Canonical (s.putDoorbell f q off x).tables := by
  unfold State.putDoorbell
  repeat' split
  all_goals simp [hc]

@[simp] theorem State.canonical_writeDoorbell {s : State} (hc : Canonical s.tables) (f : Func) (q : Nat) (d : Doorbell) : Canonical (s.writeDoorbell f q d).tables := by
  unfold State.writeDoorbell
  repeat' split
  all_goals simp [hc]

/-! ### Staging, load and arming (12, R277) -/

@[simp] theorem State.canonical_loadOn {s : State} (hc : Canonical s.tables) (n : Nat) (d : Desc) {act : State → State} (h : ∀ s, Canonical s.tables → Canonical (act s).tables) :
    Canonical (s.loadOn n d act).tables := by
  unfold State.loadOn
  split
  · simp [hc]
  · exact h s hc

@[simp] theorem State.canonical_loadStep {s : State} (hc : Canonical s.tables) (n : Nat) (ph : LoadPhase) (r : HostRead)
    {act : State → Loading → Desc → GalObj → List Byte → State} (h : ∀ s l d o bs, Canonical s.tables → Canonical (act s l d o bs).tables) :
    Canonical (s.loadStep n ph r act).tables := by
  unfold State.loadStep
  split
  · simp [hc]
  · split
    · split
      · exact hc
      · split
        · simp [hc]
        · split
          · exact State.canonical_loadOn hc n _ fun s hs => h s _ _ _ _ hs
          · simp [hc]
    · exact hc

@[simp] theorem State.canonical_forStaging {s : State} (hc : Canonical s.tables) (n : Nat) : Canonical (s.forStaging n).tables := by
  unfold State.forStaging
  split <;> simp [hc]

@[simp] theorem State.canonical_forArming {s : State} (hc : Canonical s.tables) (n : Nat) : Canonical (s.forArming n).tables := by simp [State.forArming, hc]

@[simp] theorem State.canonical_arm {s : State} (hc : Canonical s.tables) (n addr : Nat) : Canonical (s.arm n addr).tables := by simp [State.arm, hc]

/-! ### What leaves a port (08, R189-R195) -/

@[simp] theorem State.canonical_writeStack {s : State} (hc : Canonical s.tables) (k a : Nat) (bs : List Byte) : Canonical (s.writeStack k a bs).tables :=
  ⟨hc.1, hc.2.1, wf_put hc.2.2.1 (List.foldlRecOn (motive := fun m => Memory.wf m = true) _ _ (hc.2.2.1 k) fun _ hm _ _ => Memory.wf_write hm _ _), hc.2.2.2⟩

@[simp] theorem State.canonical_spillOut {s : State} (hc : Canonical s.tables) (p : Nat) : Canonical (s.spillOut p).tables := by
  unfold State.spillOut
  dsimp only
  split
  · exact hc
  · exact State.canonical_foldl (fun s r hs => State.canonical_writeStack hs _ _ _) _ hc

@[simp] theorem State.canonical_pick {s : State} (hc : Canonical s.tables) (p : Nat) (f : Flit) : Canonical (s.pick p f).tables := by simp [State.pick, hc]

@[simp] theorem State.canonical_takeForward {s : State} (hc : Canonical s.tables) (p q entry : Nat) (x : RxFlit) : Canonical (s.takeForward p q entry x).tables := by simp [State.takeForward, hc]

@[simp] theorem State.canonical_takeLocal {s : State} (hc : Canonical s.tables) (p i entry : Nat) (x : ShaftFlit) : Canonical (s.takeLocal p i entry x).tables := by simp [State.takeLocal, hc]

theorem State.canonical_pickShaft {s t : State} (hc : Canonical s.tables) {p e : Nat} (h : s.pickShaft p e = some t) : Canonical t.tables := by
  unfold State.pickShaft at h
  dsimp only at h
  split at h
  · cases h
  · split at h
    · rw [← Option.some.inj h]
      simp [hc]
    · split at h
      · obtain ⟨x, -, ht⟩ := Option.map_eq_some_iff.1 h
        rw [← ht]
        simp [hc]
      · cases h

theorem State.canonical_pickLate {s t : State} (hc : Canonical s.tables) {p : Nat} (h : s.pickLate p = some t) : Canonical t.tables := by
  unfold State.pickLate at h
  split at h
  · rw [← Option.some.inj h]
    simp [hc]
  · dsimp only at h
    split at h
    · obtain ⟨x, -, ht⟩ := Option.map_eq_some_iff.1 h
      rw [← ht]
      simp [hc]
    · cases h

theorem State.canonical_pickLoose {s t : State} (hc : Canonical s.tables) {p v : Nat} (h : s.pickLoose p v = some t) : Canonical t.tables := by
  unfold State.pickLoose at h
  dsimp only at h
  split at h
  · cases h
  · split at h
    · cases h
      split <;> simp [hc]
    · cases h

theorem State.canonical_pickMgmt {s t : State} (hc : Canonical s.tables) {p : Nat} (h : s.pickMgmt p = some t) : Canonical t.tables := by
  unfold State.pickMgmt at h
  dsimp only at h
  split at h
  · cases h
  · split at h
    · cases h
      simp [hc]
    · cases h

/-- The first choice that there is, or none. -/
theorem orElse_keeps {P : State → Prop} {a b : Option State} (ha : ∀ t, a = some t → P t) (hb : ∀ t, b = some t → P t) : ∀ t, (a.orElse fun _ => b) = some t → P t := by
  cases a with
  | none => exact hb
  | some u => exact ha

@[simp] theorem State.canonical_pickNow {s : State} (hc : Canonical s.tables) (p : Nat) : Canonical (s.pickNow p).tables := by
  unfold State.pickNow
  split
  · exact hc
  · have picked := orElse_keeps (P := fun t => Canonical t.tables) (orElse_keeps (orElse_keeps (orElse_keeps (fun t => State.canonical_pickShaft hc (p := p) (e := s.entryNow p))
      (fun t => State.canonical_pickMgmt hc (p := p))) (fun t => State.canonical_pickLate hc (p := p))) (fun t => State.canonical_pickLoose hc (p := p) (v := 2)))
      (fun t => State.canonical_pickLoose hc (p := p) (v := 1))
    generalize Option.orElse _ _ = r at picked
    cases r with
    | none => exact hc
    | some t => exact picked t rfl

/-! ### The link layer (08, R196-R205) -/

@[simp] theorem State.canonical_putFrtCtl {s : State} (hc : Canonical s.tables) (p : Nat) (v : W32) : Canonical (s.putFrtCtl p v).tables := by simp [State.putFrtCtl, hc]

@[simp] theorem State.canonical_ethUnit {s : State} (hc : Canonical s.tables) (p : Nat) (ce : Bool) (u : RawUnit) : Canonical (s.ethUnit p ce u).tables := by
  unfold State.ethUnit
  split <;> simp [hc]

/-! ### The fabric (09) -/

@[simp] theorem State.canonical_takeHead {s : State} (hc : Canonical s.tables) (p : Nat) (k : LoosePkt) {act : State → State}
    (h : ∀ s, Canonical s.tables → Canonical (act s).tables) : Canonical (s.takeHead p k act).tables := by
  unfold State.takeHead
  simp [h, hc]

@[simp] theorem State.canonical_switchTransit {s : State} (hc : Canonical s.tables) (p : Nat) : Canonical (s.switchTransit p).tables := by
  unfold State.switchTransit
  dsimp only
  split
  · exact hc
  · refine State.canonical_foldl (fun s e hs => ?_) _ hc
    repeat' split
    all_goals simp [hs]

/-! ### Register writes (16) -/

@[simp] theorem State.canonical_putPair {s : State} (hc : Canonical s.tables) (lo hi : RegKind) (i : Nat) (v : W32) : Canonical (s.putPair lo hi i v).tables := by
  have low : Canonical (match Tab.find s.loStage (Reg.off ⟨lo, i, 0⟩) with | some w => setCfg s lo i 0 w | none => s).tables := by
    split <;> simp [hc]
  exact State.canonical_setCfg low hi i 0 v

@[simp] theorem State.canonical_putSelect {s : State} (hc : Canonical s.tables) (r : Reg) (c : Nat) (v : W32) : Canonical (s.putSelect r c v).tables :=
  State.canonical_setCfg hc r.kind r.i r.j v

@[simp] theorem State.canonical_putRings {s : State} (hc : Canonical s.tables) (n : Nat) (v : W32) : Canonical (s.putRings n v).tables := by
  unfold State.putRings
  dsimp only
  repeat' split
  all_goals simp [hc]

@[simp] theorem State.canonical_regPut {s : State} (hc : Canonical s.tables) (r : Reg) (v : W32) : Canonical (s.regPut r v).tables := by
  unfold State.regPut
  dsimp only
  repeat' split
  all_goals simp [hc]

@[simp] theorem State.canonical_writeReg {s : State} (hc : Canonical s.tables) (c : Caller) (off : Nat) (v : W32) : Canonical (s.writeReg c off v).tables := by
  unfold State.writeReg
  dsimp only
  repeat' split
  all_goals simp [hc]

@[simp] theorem State.canonical_writeAccess {s : State} (hc : Canonical s.tables) (c : Caller) (off n : Nat) (v : Word) : Canonical (s.writeAccess c off n v).tables := by
  unfold State.writeAccess
  repeat' split
  all_goals simp [hc]

@[simp] theorem State.canonical_writeNamed {s : State} (hc : Canonical s.tables) (c : Caller) (k : RegKind) (i j : Nat) (v : W32) : Canonical (s.writeNamed c k i j v).tables := by simp [State.writeNamed, hc]

/-! ### Firmware (14, R320-R329) -/

@[simp] theorem State.canonical_revertComps {s : State} (hc : Canonical s.tables) (cs : List Nat) : Canonical (s.revertComps cs).tables := by
  have reverted : Canonical (cs.foldl (fun s c => { s with flash := s.flash.revertComp c }.platform .reverted c) s).tables :=
    State.canonical_foldl (fun s c hs => by simp [hs]) _ hc
  unfold State.revertComps
  dsimp only
  repeat' split
  all_goals simp [reverted]

end Sys2Proof.Machine
end

section
/-! PROOF. Every command, and the tick of an empty queue, keep the memories and the register table in canonical form (05; 16; 04, R92). -/

namespace Sys2Proof.Machine

/-- Where a command leaves a state, its memories and its register table are in canonical form. -/
def LeavesCanonical : Res → Prop
  | .next t => Canonical t.tables
  | .fault _ | .refused _ => True

@[simp] theorem leavesCanonical_next (t : State) : LeavesCanonical (.next t) ↔ Canonical t.tables := Iff.rfl
@[simp] theorem leavesCanonical_fault (r : Fault) : LeavesCanonical (.fault r) := trivial
@[simp] theorem leavesCanonical_refused (r : Refusal) : LeavesCanonical (.refused r) := trivial

/-! ### The core sequencer (04, R87-R91, R105-R112) -/

@[simp] theorem canonical_execMpass {s : State} (hc : Canonical s.tables) (r : IssueRead) : LeavesCanonical (execMpass r s) := State.canonical_issueEngine hc _ _ _

@[simp] theorem canonical_execWload {s : State} (hc : Canonical s.tables) (r : IssueRead) : LeavesCanonical (execWload r s) := State.canonical_issueEngine hc _ _ _

@[simp] theorem canonical_execAdd {s : State} (hc : Canonical s.tables) (r : IssueRead) : LeavesCanonical (execAdd r s) := State.canonical_issueEngine hc _ _ _

@[simp] theorem canonical_execSub {s : State} (hc : Canonical s.tables) (r : IssueRead) : LeavesCanonical (execSub r s) := State.canonical_issueEngine hc _ _ _

@[simp] theorem canonical_execMul {s : State} (hc : Canonical s.tables) (r : IssueRead) : LeavesCanonical (execMul r s) := State.canonical_issueEngine hc _ _ _

@[simp] theorem canonical_execFma {s : State} (hc : Canonical s.tables) (r : IssueRead) : LeavesCanonical (execFma r s) := State.canonical_issueEngine hc _ _ _

@[simp] theorem canonical_execDiv {s : State} (hc : Canonical s.tables) (r : IssueRead) : LeavesCanonical (execDiv r s) := State.canonical_issueEngine hc _ _ _

@[simp] theorem canonical_execSqrt {s : State} (hc : Canonical s.tables) (r : IssueRead) : LeavesCanonical (execSqrt r s) := State.canonical_issueEngine hc _ _ _

@[simp] theorem canonical_execMin {s : State} (hc : Canonical s.tables) (r : IssueRead) : LeavesCanonical (execMin r s) := State.canonical_issueEngine hc _ _ _

@[simp] theorem canonical_execMax {s : State} (hc : Canonical s.tables) (r : IssueRead) : LeavesCanonical (execMax r s) := State.canonical_issueEngine hc _ _ _

@[simp] theorem canonical_execNeg {s : State} (hc : Canonical s.tables) (r : IssueRead) : LeavesCanonical (execNeg r s) := State.canonical_issueEngine hc _ _ _

@[simp] theorem canonical_execAbs {s : State} (hc : Canonical s.tables) (r : IssueRead) : LeavesCanonical (execAbs r s) := State.canonical_issueEngine hc _ _ _

@[simp] theorem canonical_execConv {s : State} (hc : Canonical s.tables) (r : IssueRead) : LeavesCanonical (execConv r s) := State.canonical_issueEngine hc _ _ _

@[simp] theorem canonical_execRsum {s : State} (hc : Canonical s.tables) (r : IssueRead) : LeavesCanonical (execRsum r s) := State.canonical_issueEngine hc _ _ _

@[simp] theorem canonical_execRmax {s : State} (hc : Canonical s.tables) (r : IssueRead) : LeavesCanonical (execRmax r s) := State.canonical_issueEngine hc _ _ _

@[simp] theorem canonical_execExp2 {s : State} (hc : Canonical s.tables) (r : IssueRead) : LeavesCanonical (execExp2 r s) := State.canonical_issueEngine hc _ _ _

@[simp] theorem canonical_execVcomb {s : State} (hc : Canonical s.tables) (r : IssueRead) : LeavesCanonical (execVcomb r s) := State.canonical_issueEngine hc _ _ _

@[simp] theorem canonical_execMove {s : State} (hc : Canonical s.tables) (r : IssueRead) : LeavesCanonical (execMove r s) := State.canonical_issueEngine hc _ _ _

@[simp] theorem canonical_execSplit {s : State} (hc : Canonical s.tables) (r : IssueRead) : LeavesCanonical (execSplit r s) := State.canonical_issueEngine hc _ _ _

@[simp] theorem canonical_execGather {s : State} (hc : Canonical s.tables) (r : IssueRead) : LeavesCanonical (execGather r s) := State.canonical_issueEngine hc _ _ _

@[simp] theorem canonical_execScatter {s : State} (hc : Canonical s.tables) (r : IssueRead) : LeavesCanonical (execScatter r s) := State.canonical_issueEngine hc _ _ _

@[simp] theorem canonical_execFetch {s : State} (hc : Canonical s.tables) (r : IssueRead) : LeavesCanonical (execFetch r s) := State.canonical_issueEngine hc _ _ _

@[simp] theorem canonical_execStore {s : State} (hc : Canonical s.tables) (r : IssueRead) : LeavesCanonical (execStore r s) := State.canonical_issueEngine hc _ _ _

@[simp] theorem canonical_execSend {s : State} (hc : Canonical s.tables) (r : IssueRead) : LeavesCanonical (execSend r s) :=
  State.canonical_issueRow hc _ _ _ fun s n q hs => State.canonical_ite (by simp [hs]) (by simp [hs])

@[simp] theorem canonical_execRecvAcquire {s : State} (hc : Canonical s.tables) (r : IssueRead) : LeavesCanonical (execRecvAcquire r s) :=
  State.canonical_issueFlow hc _ _ _ fun _ n q hs => State.canonical_tryAcquire hs n _ 4 _ q

@[simp] theorem canonical_execRecvRelease {s : State} (hc : Canonical s.tables) (r : IssueRead) : LeavesCanonical (execRecvRelease r s) :=
  State.canonical_issueFlow hc _ _ _ fun s n q hs => by simp [hs]

@[simp] theorem canonical_execSet {s : State} (hc : Canonical s.tables) (r : IssueRead) : LeavesCanonical (execSet r s) :=
  State.canonical_issueFlow hc _ _ _ fun _ n q hs => State.canonical_trySet hs n _ 4 _ _ q

@[simp] theorem canonical_execWait {s : State} (hc : Canonical s.tables) (r : IssueRead) : LeavesCanonical (execWait r s) :=
  State.canonical_issueFlow hc _ _ _ fun _ n q hs => State.canonical_tryWait hs n _ 4 q

@[simp] theorem canonical_execLoop {s : State} (hc : Canonical s.tables) (r : IssueRead) : LeavesCanonical (execLoop r s) := by simp [execLoop, hc]

@[simp] theorem canonical_execEndloop {s : State} (hc : Canonical s.tables) (r : IssueRead) : LeavesCanonical (execEndloop r s) := by simp [execEndloop, hc]

@[simp] theorem canonical_execPset {s : State} (hc : Canonical s.tables) (r : IssueRead) : LeavesCanonical (execPset r s) := by simp [execPset, hc]

@[simp] theorem canonical_execSset {s : State} (hc : Canonical s.tables) (r : IssueRead) : LeavesCanonical (execSset r s) := by simp [execSset, hc]

@[simp] theorem canonical_execPace {s : State} (hc : Canonical s.tables) (r : IssueRead) : LeavesCanonical (execPace r s) := by simp [execPace, hc]

@[simp] theorem canonical_execBeat {s : State} (hc : Canonical s.tables) (r : IssueRead) : LeavesCanonical (execBeat r s) := by simp [execBeat, hc]

/-! ### The engines of a core (02, R42-R62; 04, R87, R88) -/

@[simp] theorem canonical_execEngineCommandStart {s : State} (hc : Canonical s.tables) (c : CoreId) (q : Queue) (ecc : List EccAt) : LeavesCanonical (execEngineCommandStart c q ecc s) := by
  unfold execEngineCommandStart
  dsimp only
  repeat' split
  all_goals simp [hc]

@[simp] theorem canonical_execEngineCommandComplete {s : State} (hc : Canonical s.tables) (c : CoreId) (u : EngUnit) : LeavesCanonical (execEngineCommandComplete c u s) := by
  unfold execEngineCommandComplete
  dsimp only
  repeat' split
  all_goals simp [hc]

@[simp] theorem canonical_execWaitTimeout {s : State} (hc : Canonical s.tables) (c : CoreId) (q : Queue) : LeavesCanonical (execWaitTimeout c q s) := by
  unfold execWaitTimeout
  dsimp only
  repeat' split
  all_goals simp [hc]

/-! ### Arrivals and completions (04, R101-R107; 05, R128-R130) -/

@[simp] theorem canonical_execMeshMessage {s : State} (hc : Canonical s.tables) (a : MeshArrival) : LeavesCanonical (execMeshMessage a s) := by
  unfold execMeshMessage
  rw [leavesCanonical_next]
  split
  · exact State.canonical_catchUp (State.canonical_deliverMesh (by simp [hc]) _)
  · exact hc

@[simp] theorem canonical_execMeshSetDelivery {s : State} (hc : Canonical s.tables) (a : MeshArrival) : LeavesCanonical (execMeshSetDelivery a s) := by
  unfold execMeshSetDelivery
  split <;> simp [hc]

@[simp] theorem canonical_execSlotCreditReturn {s : State} (hc : Canonical s.tables) (a : MeshArrival) : LeavesCanonical (execSlotCreditReturn a s) := by
  unfold execSlotCreditReturn
  split <;> simp [hc]

@[simp] theorem canonical_execFetchLanded {s : State} (hc : Canonical s.tables) (c : CoreId) (a : MeshArrival) (hostBytes : List Byte) (ecc : List EccAt) :
    LeavesCanonical (execFetchLanded c a hostBytes ecc s) := by
  unfold execFetchLanded
  dsimp only
  rw [leavesCanonical_next]
  split
  · simp [hc]
  · rename_i r _
    have gone : Canonical ((s.catchUp.takeRequestOut c a.ix).travel (s.catchUp.ownerOf c) c a.way).tables := by simp [hc]
    generalize (s.catchUp.takeRequestOut c a.ix).travel (s.catchUp.ownerOf c) c a.way = t at gone
    split
    · exact State.canonical_catchUp (State.canonical_land gone _ _ _ _)
    · have hread := State.tables_readSectors t (s.catchUp.ownerOf c) r.mem ecc
      split <;> rename_i h <;> rw [h] at hread <;> dsimp only at hread
      · simp [hread, gone]
      · exact State.canonical_catchUp (State.canonical_land (hread ▸ gone) _ _ _ _)

@[simp] theorem canonical_execStoreWritten {s : State} (hc : Canonical s.tables) (c : CoreId) (w : RequestEnd) : LeavesCanonical (execStoreWritten c w s) := by
  unfold execStoreWritten
  split <;> simp [hc]

@[simp] theorem canonical_execGalleryHostError {s : State} (hc : Canonical s.tables) (c : CoreId) (i : Nat) : LeavesCanonical (execGalleryHostError c i s) := by
  unfold execGalleryHostError
  split <;> simp [hc]

@[simp] theorem canonical_execScrubRead {s : State} (hc : Canonical s.tables) (store : StoreId) (word : Nat) (ecc : Ecc) : LeavesCanonical (execScrubRead store word ecc s) := by
  unfold execScrubRead
  repeat' split
  all_goals simp [hc]

/-! ### The stacks (05, R131-R135) -/

@[simp] theorem canonical_execRefreshWindowOpen {s : State} (hc : Canonical s.tables) (k : Stk) (t : Count) (scrub : List EccAt) : LeavesCanonical (execRefreshWindowOpen k t scrub s) := by
  have read : ∀ (u : State) (l : List EccAt), (l.foldl (fun s e => s.scrubSector k.val e) u).tables = u.tables :=
    fun u l => State.tables_foldl (fun s e => State.tables_scrubSector s k.val e) l u
  unfold execRefreshWindowOpen
  dsimp only
  rw [leavesCanonical_next]
  repeat' split
  all_goals simp [read, hc]

@[simp] theorem canonical_execRefreshWindowClose {s : State} (hc : Canonical s.tables) (k : Stk) (t : Count) : LeavesCanonical (execRefreshWindowClose k t s) := by
  unfold execRefreshWindowClose
  dsimp only
  repeat' split
  all_goals simp [hc]

@[simp] theorem canonical_execEmergencyRefreshEnd {s : State} (hc : Canonical s.tables) (k : Stk) (t : Count) : LeavesCanonical (execEmergencyRefreshEnd k t s) := by
  unfold execEmergencyRefreshEnd
  dsimp only
  repeat' split
  all_goals simp [hc]

@[simp] theorem canonical_execStackThermalRead {s : State} (hc : Canonical s.tables) (k : Stk) (celsius : Nat) : LeavesCanonical (execStackThermalRead k celsius s) := by simp [execStackThermalRead, hc]

/-! ### Power, start-up, host links, headframe controllers -/

@[simp] theorem canonical_execColdReset (s : State) : LeavesCanonical (execColdReset s) := by simp [execColdReset]

@[simp] theorem canonical_execStandbyLoss (s : State) : LeavesCanonical (execStandbyLoss s) := by simp [execStandbyLoss]

@[simp] theorem canonical_execMainBusReturn {s : State} (hc : Canonical s.tables) (vbus : BitVec 10) : LeavesCanonical (execMainBusReturn vbus s) := by simp [execMainBusReturn, hc]

@[simp] theorem canonical_execMainBusLoss {s : State} (hc : Canonical s.tables) : LeavesCanonical (execMainBusLoss s) := by
  unfold execMainBusLoss
  split <;> simp [hc]

@[simp] theorem canonical_execConverterStop {s : State} (hc : Canonical s.tables) (e : InputEvent) (vbus : BitVec 10) : LeavesCanonical (execConverterStop e vbus s) := by
  unfold execConverterStop
  split <;> simp [hc]

@[simp] theorem canonical_execHvilOpen {s : State} (hc : Canonical s.tables) : LeavesCanonical (execHvilOpen s) := by simp [execHvilOpen, hc]

@[simp] theorem canonical_execHvilClose {s : State} (hc : Canonical s.tables) : LeavesCanonical (execHvilClose s) := by simp [execHvilClose, hc]

@[simp] theorem canonical_execPrechargeBypassClose {s : State} (hc : Canonical s.tables) (vbus : BitVec 10) : LeavesCanonical (execPrechargeBypassClose vbus s) := by simp [execPrechargeBypassClose, hc]

@[simp] theorem canonical_execDieTrip {s : State} (hc : Canonical s.tables) (r : DieReading) : LeavesCanonical (execDieTrip r s) := by
  have off : Canonical (({ s with dieTemps := Tab.put s.dieTemps r.die.val r.celsius } : State).converterOff 0 (canDie r.die.val)).tables :=
    State.canonical_converterOff (s := { s with dieTemps := Tab.put s.dieTemps r.die.val r.celsius }) hc 0 _
  unfold execDieTrip
  rw [leavesCanonical_next]
  split
  · exact State.canonical_ite off hc
  · exact hc

@[simp] theorem canonical_execStartupStepComplete {s : State} (hc : Canonical s.tables) (geo : BitVec 3) : LeavesCanonical (execStartupStepComplete geo s) := by
  unfold execStartupStepComplete
  repeat' split
  all_goals simp [hc]

@[simp] theorem canonical_execStartupStepLimit {s : State} (hc : Canonical s.tables) (part : BitVec 7) (selfTest : Bool) (e1 : E1Boot) : LeavesCanonical (execStartupStepLimit part selfTest e1 s) := by
  unfold execStartupStepLimit
  repeat' split
  all_goals simp [hc]

@[simp] theorem canonical_execModuleReset {s : State} (hc : Canonical s.tables) (seq : W32) : LeavesCanonical (execModuleReset seq s) := by simp [execModuleReset, hc]

@[simp] theorem canonical_execPerstAssert {s : State} (hc : Canonical s.tables) (l : Link) : LeavesCanonical (execPerstAssert l s) := by
  unfold execPerstAssert
  dsimp only
  repeat' split
  all_goals simp [hc]

@[simp] theorem canonical_execPerstRelease {s : State} (hc : Canonical s.tables) (l : Link) : LeavesCanonical (execPerstRelease l s) := by simp [execPerstRelease, hc]

@[simp] theorem canonical_execFlr {s : State} (hc : Canonical s.tables) (f : Func) : LeavesCanonical (execFlr f s) := by simp [execFlr, hc]

@[simp] theorem canonical_execVfEnableClear {s : State} (hc : Canonical s.tables) (f : Func) : LeavesCanonical (execVfEnableClear f s) := by simp [execVfEnableClear, hc]

@[simp] theorem canonical_execHostLinkDown {s : State} (hc : Canonical s.tables) (l : Link) : LeavesCanonical (execHostLinkDown l s) := by simp [execHostLinkDown, hc]

@[simp] theorem canonical_execHostLinkTrained {s : State} (hc : Canonical s.tables) (l : Link) (rate : Fin 6) (width : Fin 5) (cxl : Bool) (cfg : HostConfig) : LeavesCanonical (execHostLinkTrained l rate width cxl cfg s) := by simp [execHostLinkTrained, hc]

@[simp] theorem canonical_execHeadframeTakeover {s : State} (hc : Canonical s.tables) : LeavesCanonical (execHeadframeTakeover s) := by
  have aborted : Canonical s.abortUpdate.tables := by simp [hc]
  unfold execHeadframeTakeover
  dsimp only
  generalize (if s.hf.primaryE1 then s.hf.e0Up else s.hf.e1Up) = up
  cases up
  · exact aborted
  · rw [if_pos rfl, leavesCanonical_next, State.tables_platform, foldl_emit]
    exact aborted

@[simp] theorem canonical_execPlatformEventRepeat {s : State} (hc : Canonical s.tables) (acked : List Nat) : LeavesCanonical (execPlatformEventRepeat acked s) := by
  unfold execPlatformEventRepeat
  split
  · rw [leavesCanonical_next, foldl_emit]
    exact hc
  · exact hc

@[simp] theorem canonical_execAccumulatorSave {s : State} (hc : Canonical s.tables) : LeavesCanonical (execAccumulatorSave s) := by simp [execAccumulatorSave, hc]

/-! ### The timebase (01, R13-R16; 08, R199) -/

@[simp] theorem canonical_execTbRefLoss {s : State} (hc : Canonical s.tables) : LeavesCanonical (execTbRefLoss s) := by simp [execTbRefLoss, hc]

@[simp] theorem canonical_execTbRefReturn {s : State} (hc : Canonical s.tables) : LeavesCanonical (execTbRefReturn s) := by simp [execTbRefReturn, hc]

@[simp] theorem canonical_execTbSyncEdge {s : State} (hc : Canonical s.tables) (heldNs : Nat) : LeavesCanonical (execTbSyncEdge heldNs s) := by
  unfold execTbSyncEdge
  dsimp only
  repeat' split
  all_goals simp [hc]

@[simp] theorem canonical_execTbSyncPulse {s : State} (hc : Canonical s.tables) (t : Count) : LeavesCanonical (execTbSyncPulse t s) := by simp [execTbSyncPulse, hc]

@[simp] theorem canonical_execTimeMarkSend {s : State} (hc : Canonical s.tables) (t : Count) : LeavesCanonical (execTimeMarkSend t s) := by simp [execTimeMarkSend, hc]

@[simp] theorem canonical_execTimeMark {s : State} (hc : Canonical s.tables) (p : Port) (txTime16 : Nat) (arrival16 : BitVec 4) (locked : Bool) (stratum : BitVec 8) (master : BitVec 13) :
    LeavesCanonical (execTimeMark p txTime16 arrival16 locked stratum master s) := by
  unfold execTimeMark
  split
  · exact hc
  · dsimp only
    split
    · exact hc
    · split
      · exact hc
      · rw [leavesCanonical_next]
        refine State.canonical_takeMark ?_ _ _ _ _
        exact State.canonical_ite hc hc

@[simp] theorem canonical_execTimebaseUnlock {s : State} (hc : Canonical s.tables) : LeavesCanonical (execTimebaseUnlock s) := by simp [execTimebaseUnlock, hc]

@[simp] theorem canonical_execTimingPortFailover {s : State} (hc : Canonical s.tables) : LeavesCanonical (execTimingPortFailover s) := by simp [execTimingPortFailover, hc]

/-! ### What arrives on a port (08, R192; 09, R215, R216) -/

@[simp] theorem canonical_execUnitReceived {s : State} (hc : Canonical s.tables) (p : Port) (u : RawUnit) : LeavesCanonical (execUnitReceived p u s) := by
  unfold execUnitReceived
  dsimp only
  repeat' split
  all_goals simp [hc]

/-! ### The weight commands (10, R229-R240) -/

@[simp] theorem canonical_execWtTable {s : State} (hc : Canonical s.tables) (pt : Pt) (r : DescRead) : LeavesCanonical (execWtTable pt r s) :=
  State.canonical_servedRow hc pt _ _ fun s n d hs => State.canonical_readFor hs n d _ _ _ fun s hs => by
    rw [State.tables_finishIf n d _ (by simp)]
    exact hs

@[simp] theorem canonical_execWtLoad {s : State} (hc : Canonical s.tables) (pt : Pt) (tag : BitVec 16) : LeavesCanonical (execWtLoad pt tag s) :=
  State.canonical_descRow hc pt tag _ fun _ n d hs => State.canonical_finishIf hs n d _ (State.canonical_feed hs n d)

@[simp] theorem canonical_execWtLoadGallery {s : State} (hc : Canonical s.tables) (pt : Pt) (tag : BitVec 16) (r : HostRead) : LeavesCanonical (execWtLoadGallery pt tag r s) :=
  State.canonical_descRow hc pt tag _ fun _ n d hs => State.canonical_finishIf hs n d _ (State.canonical_verifyGallery hs n d r)

@[simp] theorem canonical_execWtDrift {s : State} (hc : Canonical s.tables) (pt : Pt) (tag : BitVec 16) : LeavesCanonical (execWtDrift pt tag s) :=
  State.canonical_descRow hc pt tag _ fun _ n d hs => State.canonical_finishIf hs n d _ (by simp [hs])

@[simp] theorem canonical_execWtDriftStart {s : State} (hc : Canonical s.tables) (pt : Pt) (tag : BitVec 16) : LeavesCanonical (execWtDriftStart pt tag s) :=
  State.canonical_descRow hc pt tag _ fun _ n d hs => State.canonical_finishIf hs n d _ (by
    dsimp only
    split <;> simp [hs])

@[simp] theorem canonical_execRepaint {s : State} (hc : Canonical s.tables) (pt : Pt) (tag : BitVec 16) : LeavesCanonical (execRepaint pt tag s) :=
  State.canonical_descRow hc pt tag _ fun _ n d hs => State.canonical_finishIf hs n d _ (State.canonical_foldl (fun s m hs => by simp [hs]) _ hs)

@[simp] theorem canonical_execRepaintBarrierClear {s : State} (hc : Canonical s.tables) (pt : Pt) : LeavesCanonical (execRepaintBarrierClear pt s) := by
  unfold execRepaintBarrierClear
  dsimp only
  repeat' split
  all_goals simp [hc]

@[simp] theorem canonical_execBarrierTimeout {s : State} (hc : Canonical s.tables) (pt : Pt) : LeavesCanonical (execBarrierTimeout pt s) := by
  unfold execBarrierTimeout
  dsimp only
  repeat' split
  all_goals simp [hc]

/-! ### The steward (11, R241-R261) -/

@[simp] theorem canonical_execPauseTtlExpiry {s : State} (hc : Canonical s.tables) (pt : Pt) (slot : Nat) : LeavesCanonical (execPauseTtlExpiry pt slot s) := by
  unfold execPauseTtlExpiry
  split <;> simp [hc]

@[simp] theorem canonical_execGalleryMoveDone {s : State} (hc : Canonical s.tables) (pt : Pt) (r : SlotRead) : LeavesCanonical (execGalleryMoveDone pt r s) := by
  unfold execGalleryMoveDone
  dsimp only
  repeat' split
  all_goals simp [hc]

@[simp] theorem canonical_execSlotGalExpiry {s : State} (hc : Canonical s.tables) (pt : Pt) (slot : Nat) : LeavesCanonical (execSlotGalExpiry pt slot s) := by
  unfold execSlotGalExpiry
  dsimp only
  repeat' split
  all_goals simp [hc]

@[simp] theorem canonical_execGalleryReturnDone {s : State} (hc : Canonical s.tables) (pt : Pt) (slot : Nat) (r : HostRead) : LeavesCanonical (execGalleryReturnDone pt slot r s) := by
  unfold execGalleryReturnDone
  dsimp only
  repeat' split
  all_goals simp [hc]

@[simp] theorem canonical_execHalfStepBoundary {s : State} (hc : Canonical s.tables) (pt : Pt) (r : HalfRead) : LeavesCanonical (execHalfStepBoundary pt r s) := by
  unfold execHalfStepBoundary
  rw [leavesCanonical_next]
  split
  · split
    · simp [hc]
    · extract_lets read cancelled taken done settled
      have hread : Canonical read.tables := by simp [read, hc]
      have htaken : Canonical taken.tables := State.canonical_foldl (fun _ y hs => State.canonical_takeRows hs pt.val _ cancelled y) _ hread
      have hdone : Canonical done.tables := by simp [done, htaken]
      have hsettled : Canonical settled.tables := State.canonical_boundaryRelease (State.canonical_applyOps (State.canonical_postPending hdone pt.val) pt.val _) pt.val
      exact State.canonical_ite (State.canonical_issueHalf hsettled pt.val _) hsettled
  · exact hc

@[simp] theorem canonical_execSrvAdmit {s : State} (hc : Canonical s.tables) (pt : Pt) (tag : BitVec 16) : LeavesCanonical (execSrvAdmit pt tag s) :=
  State.canonical_descRow hc pt tag _ fun _ n d hs => by
    dsimp only
    split
    · simp [hs]
    · exact State.canonical_finishIf hs n d _ (by simp [hs])

@[simp] theorem canonical_execSrvAppendPrompt {s : State} (hc : Canonical s.tables) (pt : Pt) (tag : BitVec 16) : LeavesCanonical (execSrvAppendPrompt pt tag s) :=
  State.canonical_descRow hc pt tag _ fun _ n d hs => by
    dsimp only
    split
    · simp [hs]
    · exact State.canonical_finishIf hs n d _ (by simp [hs])

@[simp] theorem canonical_execSrvAppendDraft {s : State} (hc : Canonical s.tables) (pt : Pt) (tag : BitVec 16) : LeavesCanonical (execSrvAppendDraft pt tag s) :=
  State.canonical_descRow hc pt tag _ fun _ n d hs => State.canonical_finishIf hs n d _ (State.canonical_srvOp hs n d)

@[simp] theorem canonical_execSrvDeadline {s : State} (hc : Canonical s.tables) (pt : Pt) (tag : BitVec 16) : LeavesCanonical (execSrvDeadline pt tag s) :=
  State.canonical_descRow hc pt tag _ fun _ n d hs => State.canonical_srvOp hs n d

@[simp] theorem canonical_execSrvPause {s : State} (hc : Canonical s.tables) (pt : Pt) (tag : BitVec 16) : LeavesCanonical (execSrvPause pt tag s) :=
  State.canonical_descRow hc pt tag _ fun _ n d hs => State.canonical_srvOp hs n d

@[simp] theorem canonical_execSrvResume {s : State} (hc : Canonical s.tables) (pt : Pt) (tag : BitVec 16) : LeavesCanonical (execSrvResume pt tag s) :=
  State.canonical_descRow hc pt tag _ fun _ n d hs => State.canonical_srvOp hs n d

@[simp] theorem canonical_execSrvCancel {s : State} (hc : Canonical s.tables) (pt : Pt) (tag : BitVec 16) : LeavesCanonical (execSrvCancel pt tag s) :=
  State.canonical_descRow hc pt tag _ fun _ n d hs => State.canonical_srvOp hs n d

@[simp] theorem canonical_execSrvQuery {s : State} (hc : Canonical s.tables) (pt : Pt) (tag : BitVec 16) : LeavesCanonical (execSrvQuery pt tag s) :=
  State.canonical_descRow hc pt tag _ fun _ n d hs => by
    dsimp only
    split
    · simp [hs]
    · exact State.canonical_finishIf hs n d _ (by simp [hs])

/-! ### Beat edges, holds, starts, handovers (01, R17-R39) -/

@[simp] theorem canonical_execBeatEdge {s : State} (hc : Canonical s.tables) (pt : Pt) (t : Count) : LeavesCanonical (execBeatEdge pt t s) := by
  unfold execBeatEdge
  dsimp only
  repeat' split
  all_goals simp [hc]

@[simp] theorem canonical_execLampAudit {s : State} (hc : Canonical s.tables) (a : AuditCount) : LeavesCanonical (execLampAudit a s) := by
  have now : Canonical (s.advance a.t).tables := by simp [hc]
  unfold execLampAudit
  dsimp only
  rw [leavesCanonical_next]
  split
  · rw [State.tables_foldl State.tables_ledgerHardware, State.tables_foldl State.tables_auditDie,
      State.tables_foldl fun s n => State.tables_foldl (fun s d => State.tables_auditPart s n d) _ s,
      State.tables_foldl fun s n => State.tables_foldl (fun s c => State.tables_auditCore s n c) _ s]
    exact now
  · exact now

@[simp] theorem canonical_execOpAnnounce {s : State} (hc : Canonical s.tables) (seq : W32) (target : BitVec 3) (count : Count) : LeavesCanonical (execOpAnnounce seq target count s) := by simp [execOpAnnounce, hc]

@[simp] theorem canonical_execRailRaiseStart {s : State} (hc : Canonical s.tables) (t : Count) : LeavesCanonical (execRailRaiseStart t s) := by
  unfold execRailRaiseStart
  dsimp only
  repeat' split
  all_goals simp [hc]

@[simp] theorem canonical_execOpChangeCount {s : State} (hc : Canonical s.tables) (t : Count) : LeavesCanonical (execOpChangeCount t s) := by
  unfold execOpChangeCount
  dsimp only
  repeat' split
  all_goals simp [hc]

@[simp] theorem canonical_execRailSlewDone {s : State} (hc : Canonical s.tables) (t : Count) : LeavesCanonical (execRailSlewDone t s) := by simp [execRailSlewDone, hc]

@[simp] theorem canonical_execHold {s : State} (hc : Canonical s.tables) (seq : W32) (pt : Pt) (count : Count) : LeavesCanonical (execHold seq pt count s) := by simp [execHold, hc]

@[simp] theorem canonical_execRelease {s : State} (hc : Canonical s.tables) (seq : W32) (pt : Pt) (count : Count) : LeavesCanonical (execRelease seq pt count s) := by simp [execRelease, hc]

@[simp] theorem canonical_execHoldEntry {s : State} (hc : Canonical s.tables) (pt : Pt) : LeavesCanonical (execHoldEntry pt s) := by
  unfold execHoldEntry
  dsimp only
  repeat' split
  all_goals simp [hc]

@[simp] theorem canonical_execReleaseCount {s : State} (hc : Canonical s.tables) (pt : Pt) (t : Count) : LeavesCanonical (execReleaseCount pt t s) := by
  unfold execReleaseCount
  dsimp only
  rw [leavesCanonical_next]
  split
  · rw [State.tables_event, State.tables_finishTag, State.tables_foldl fun s c => State.tables_resumeCore s _ c _ _]
    simp [hc]
  · simp [hc]

@[simp] theorem canonical_execGateOpen {s : State} (hc : Canonical s.tables) (seq : W32) (pt : Pt) (count : Count) : LeavesCanonical (execGateOpen seq pt count s) :=
  State.canonical_tree hc seq (by
    dsimp only
    split
    · exact hc
    · split <;> exact hc)

@[simp] theorem canonical_execStartCount {s : State} (hc : Canonical s.tables) (pt : Pt) (t : Count) : LeavesCanonical (execStartCount pt t s) := by
  unfold execStartCount
  dsimp only
  rw [leavesCanonical_next]
  split
  · rw [State.tables_event, State.tables_finishTag, State.tables_foldl fun s c => by rw [State.tables_startSegment, State.tables_updCore]]
    simp [hc]
  · simp [hc]

@[simp] theorem canonical_execStartAbort {s : State} (hc : Canonical s.tables) (seq : W32) (pt : Pt) : LeavesCanonical (execStartAbort seq pt s) :=
  State.canonical_tree hc seq (by split <;> simp [hc])

@[simp] theorem canonical_execGateTimeout {s : State} (hc : Canonical s.tables) (pt : Pt) (t : Count) : LeavesCanonical (execGateTimeout pt t s) := by
  unfold execGateTimeout
  dsimp only
  repeat' split
  all_goals simp [hc]

@[simp] theorem canonical_execHandover {s : State} (hc : Canonical s.tables) (r : IssueRead) : LeavesCanonical (execHandover r s) :=
  State.canonical_issueRow hc _ _ _ fun _ n q hs => State.canonical_handOverRead hs n _ _ q

@[simp] theorem canonical_execHeadStart {s : State} (hc : Canonical s.tables) (c : CoreId) : LeavesCanonical (execHeadStart c s) := by
  unfold execHeadStart
  dsimp only
  repeat' split
  all_goals simp [hc]

@[simp] theorem canonical_execPortTableSwitch {s : State} (hc : Canonical s.tables) (p : Port) (pt : Pt) : LeavesCanonical (execPortTableSwitch p pt s) := by
  unfold execPortTableSwitch
  dsimp only
  repeat' split
  all_goals simp [hc]

/-! ### Clocks, monitors, crossings (07, R162, R173-R181) -/

@[simp] theorem canonical_execClockLoss {s : State} (hc : Canonical s.tables) (d : Dom) (die : Fin 8) : LeavesCanonical (execClockLoss d die s) := by
  unfold execClockLoss
  repeat' split
  all_goals simp [hc]

@[simp] theorem canonical_execRegionUndervoltage {s : State} (hc : Canonical s.tables) (die : Die) (regionB : Bool) : LeavesCanonical (execRegionUndervoltage die regionB s) := by simp [execRegionUndervoltage, hc]

@[simp] theorem canonical_execJitterWindow {s : State} (hc : Canonical s.tables) (d : Dom) (periods : List (Fin 32 × Nat)) : LeavesCanonical (execJitterWindow d periods s) := by
  unfold execJitterWindow
  dsimp only
  repeat' split
  all_goals simp [hc]

@[simp] theorem canonical_execDutyWindow {s : State} (hc : Canonical s.tables) (d : Dom) (duty : BitVec 8) : LeavesCanonical (execDutyWindow d duty s) := by
  unfold execDutyWindow
  split <;> simp [hc]

@[simp] theorem canonical_execOscTrimWindow {s : State} (hc : Canonical s.tables) (die : Die) (regionB : Bool) (r : StretchReport) : LeavesCanonical (execOscTrimWindow die regionB r s) := by simp [execOscTrimWindow, hc]

@[simp] theorem canonical_execCrossingRecentre {s : State} (hc : Canonical s.tables) (x : Nat) : LeavesCanonical (execCrossingRecentre x s) := by simp [execCrossingRecentre, hc]

@[simp] theorem canonical_execClusterStart {s : State} (hc : Canonical s.tables) (k : Clu) : LeavesCanonical (execClusterStart k s) := by simp [execClusterStart, hc]

/-! ### Gallery objects (05, R138, R139) -/

@[simp] theorem canonical_execGalleryExpiry {s : State} (hc : Canonical s.tables) (pt : Pt) (ix : Fin 4096) (t : Count) : LeavesCanonical (execGalleryExpiry pt ix t s) := by
  unfold execGalleryExpiry
  dsimp only
  repeat' split
  all_goals simp [hc]

@[simp] theorem canonical_execGalleryReclaimNotice {s : State} (hc : Canonical s.tables) (pt : Pt) (ix : Fin 4096) : LeavesCanonical (execGalleryReclaimNotice pt ix s) := by
  unfold execGalleryReclaimNotice
  dsimp only
  repeat' split
  all_goals simp [hc]

@[simp] theorem canonical_execGalReg {s : State} (hc : Canonical s.tables) (pt : Pt) (tag : BitVec 16) : LeavesCanonical (execGalReg pt tag s) :=
  State.canonical_descRow hc pt tag _ fun _ n d hs => by
    dsimp only
    repeat' split
    all_goals simp [hs]

@[simp] theorem canonical_execGalRenew {s : State} (hc : Canonical s.tables) (pt : Pt) (tag : BitVec 16) : LeavesCanonical (execGalRenew pt tag s) :=
  State.canonical_descRow hc pt tag _ fun _ n d hs => by
    dsimp only
    repeat' split
    all_goals simp [hs]

@[simp] theorem canonical_execGalDereg {s : State} (hc : Canonical s.tables) (pt : Pt) (tag : BitVec 16) : LeavesCanonical (execGalDereg pt tag s) :=
  State.canonical_descRow hc pt tag _ fun _ n d hs => by
    dsimp only
    split <;> simp [hs]

/-! ### Rings (12, R270-R285) -/

@[simp] theorem canonical_execSqTail {s : State} (hc : Canonical s.tables) (f : Caller) (q : RingNo) (d : Doorbell) : LeavesCanonical (execSqTail f q d s) := by
  unfold execSqTail
  repeat' split
  all_goals simp [hc]

@[simp] theorem canonical_execCqHead {s : State} (hc : Canonical s.tables) (f : Caller) (q : RingNo) (d : Doorbell) : LeavesCanonical (execCqHead f q d s) := by
  unfold execCqHead
  repeat' split
  all_goals simp [hc]

@[simp] theorem canonical_execDescriptorFetch {s : State} (hc : Canonical s.tables) (pt : Pt) (r : HostRead) : LeavesCanonical (execDescriptorFetch pt r s) := by
  unfold execDescriptorFetch
  dsimp only
  repeat' split
  all_goals simp [hc]

@[simp] theorem canonical_execCompletionRecordWrite {s : State} (hc : Canonical s.tables) (q : RingNo) : LeavesCanonical (execCompletionRecordWrite q s) := by
  unfold execCompletionRecordWrite
  extract_lets x
  rw [leavesCanonical_next]
  split
  · exact hc
  · split
    · exact hc
    · refine State.canonical_ite ?_ hc
      extract_lets taken told noted written left reset checked
      have hnoted : Canonical noted.tables := State.canonical_ite hc hc
      have hwritten : written.tables = noted.tables := State.tables_foldl (fun s b => State.tables_writeEntry s _ x b) _ noted
      have hleft : Canonical left.tables := State.canonical_ite (hwritten ▸ hnoted) (hwritten ▸ hnoted)
      have hreset : Canonical reset.tables := State.canonical_ite (by simp [hleft]) hleft
      have hchecked : Canonical checked.tables := by simp [checked, hreset]
      exact State.canonical_ite (State.canonical_ite (by simp [hchecked]) hchecked) hchecked

@[simp] theorem canonical_execMsixInterrupt {s : State} (hc : Canonical s.tables) (q : RingNo) : LeavesCanonical (execMsixInterrupt q s) := by
  unfold execMsixInterrupt
  split <;> simp [hc]

@[simp] theorem canonical_execCxlMemWrite {s : State} (hc : Canonical s.tables) (l : Link) (pt : Pt) (addr : Nat) (w : SpanWrite) : LeavesCanonical (execCxlMemWrite l pt addr w s) := by
  unfold execCxlMemWrite
  dsimp only
  repeat' split
  all_goals simp [hc]

@[simp] theorem canonical_execCxlMemRead {s : State} (hc : Canonical s.tables) (l : Link) (pt : Pt) (addr : Nat) (span : SpanRead) : LeavesCanonical (execCxlMemRead l pt addr span s) := by
  unfold execCxlMemRead
  dsimp only
  repeat' split
  all_goals simp [hc]

/-! ### Staging, load and arming (12, R277) -/

@[simp] theorem canonical_execHbmWrite {s : State} (hc : Canonical s.tables) (pt : Pt) (r : DescRead) : LeavesCanonical (execHbmWrite pt r s) :=
  State.canonical_servedRow hc pt _ _ fun s n d hs => by
    dsimp only
    split
    · simp [hs]
    · exact State.canonical_whenServed hs n _ _ _ (by simp [hs])

@[simp] theorem canonical_execHbmRead {s : State} (hc : Canonical s.tables) (pt : Pt) (r : DescRead) : LeavesCanonical (execHbmRead pt r s) :=
  State.canonical_servedRow hc pt _ _ fun s n d hs => by
    dsimp only
    split
    · simp [hs]
    · exact State.canonical_whenServed hs n _ _ _ (by simp [hs])

@[simp] theorem canonical_execCanvasLoad {s : State} (hc : Canonical s.tables) (pt : Pt) (tag : BitVec 16) : LeavesCanonical (execCanvasLoad pt tag s) :=
  State.canonical_descRow hc pt tag _ fun _ n d hs => by
    dsimp only
    repeat' split
    all_goals simp [hs]

@[simp] theorem canonical_execCanvasHeaderReadDone {s : State} (hc : Canonical s.tables) (pt : Pt) (r : HostRead) : LeavesCanonical (execCanvasHeaderReadDone pt r s) :=
  State.canonical_loadStep hc pt.val .header r fun s l d o bs hs => by
    dsimp only
    split <;> simp [hs]

@[simp] theorem canonical_execPartitionZeroingDone {s : State} (hc : Canonical s.tables) (pt : Pt) : LeavesCanonical (execPartitionZeroingDone pt s) := by
  unfold execPartitionZeroingDone
  dsimp only
  rw [leavesCanonical_next]
  split
  · split
    · exact State.canonical_loadOn hc pt.val _ fun s hs => by simp [hs]
    · exact hc
  · exact hc

@[simp] theorem canonical_execCanvasImageReadDone {s : State} (hc : Canonical s.tables) (pt : Pt) (r : HostRead) : LeavesCanonical (execCanvasImageReadDone pt r s) :=
  State.canonical_loadStep hc pt.val .image r fun s l d o bs hs => by
    dsimp only
    split <;> simp [hs]

@[simp] theorem canonical_execCanvasStage {s : State} (hc : Canonical s.tables) (pt : Pt) (r : DescRead) : LeavesCanonical (execCanvasStage pt r s) :=
  State.canonical_servedRow hc pt _ _ fun s n d hs => by
    dsimp only
    split
    · simp [hs]
    · exact State.canonical_readFor hs n d _ _ _ fun s hs => by split <;> simp [hs]

@[simp] theorem canonical_execCanvasArm {s : State} (hc : Canonical s.tables) (pt : Pt) (r : DescRead) : LeavesCanonical (execCanvasArm pt r s) :=
  State.canonical_servedRow hc pt _ _ fun s n d hs => State.canonical_readFor hs n d _ _ _ fun s hs => by split <;> simp [hs]

@[simp] theorem canonical_execTreeCanvasArm {s : State} (hc : Canonical s.tables) (seq : W32) (pt : Pt) (addr : Nat) (jobModules : BitVec 16) (topo : TopoRead) :
    LeavesCanonical (execTreeCanvasArm seq pt addr jobModules topo s) :=
  State.canonical_tree hc seq (by
    dsimp only
    split
    · exact hc
    · split
      · exact hc
      · have read : Canonical ((s.readWait pt.val addr (s.imageLen pt.val addr)).hostRead pt.val addr (s.imageLen pt.val addr) topo.ecc).tables := by simp [hc]
        split
        · exact read
        · refine State.canonical_arm (State.canonical_setCfg ?_ _ _ _ _) pt.val addr
          split
          · exact State.canonical_setCfg read _ _ _ _
          · exact read)

@[simp] theorem canonical_execPartCtlStart {s : State} (hc : Canonical s.tables) (pt : Pt) (tag : BitVec 16) : LeavesCanonical (execPartCtlStart pt tag s) :=
  State.canonical_descRow hc pt tag _ fun _ n d hs => by
    dsimp only
    repeat' split
    all_goals simp [hs]

@[simp] theorem canonical_execPartCtlHold {s : State} (hc : Canonical s.tables) (pt : Pt) (tag : BitVec 16) : LeavesCanonical (execPartCtlHold pt tag s) :=
  State.canonical_descRow hc pt tag _ fun _ n d hs => by
    dsimp only
    split <;> simp [hs]

@[simp] theorem canonical_execPartCtlRelease {s : State} (hc : Canonical s.tables) (pt : Pt) (tag : BitVec 16) : LeavesCanonical (execPartCtlRelease pt tag s) :=
  State.canonical_descRow hc pt tag _ fun _ n d hs => by
    dsimp only
    split <;> simp [hs]

@[simp] theorem canonical_execPartCtlReset {s : State} (hc : Canonical s.tables) (pt : Pt) (tag : BitVec 16) : LeavesCanonical (execPartCtlReset pt tag s) :=
  State.canonical_descRow hc pt tag _ fun _ n d hs => by simp [hs]

@[simp] theorem canonical_execNop {s : State} (hc : Canonical s.tables) (pt : Pt) (tag : BitVec 16) : LeavesCanonical (execNop pt tag s) := by simp [execNop, hc]

/-! ### What leaves a port (08, R189-R195) -/

@[simp] theorem canonical_execUnitBoundary {s : State} (hc : Canonical s.tables) (p : Port) : LeavesCanonical (execUnitBoundary p s) := by
  unfold execUnitBoundary
  split <;> simp [hc]

/-! ### The link layer (08, R196-R205) -/

@[simp] theorem canonical_execAck {s : State} (hc : Canonical s.tables) (p : Port) (b : AckBody) : LeavesCanonical (execAck p b s) := by simp [execAck, hc]

@[simp] theorem canonical_execAckTimeout {s : State} (hc : Canonical s.tables) (p : Port) : LeavesCanonical (execAckTimeout p s) := by simp [execAckTimeout, hc]

@[simp] theorem canonical_execTailingsReadDone {s : State} (hc : Canonical s.tables) (p : Port) (ecc : Ecc) : LeavesCanonical (execTailingsReadDone p ecc s) := by
  unfold execTailingsReadDone
  repeat' split
  all_goals simp [hc]

@[simp] theorem canonical_execResetReq {s : State} (hc : Canonical s.tables) (p : Port) (from_ : OsSender) (b : ResetBody) : LeavesCanonical (execResetReq p from_ b s) := by simp [execResetReq, hc]

@[simp] theorem canonical_execResetAck {s : State} (hc : Canonical s.tables) (p : Port) (from_ : OsSender) (b : ResetBody) : LeavesCanonical (execResetAck p from_ b s) := by simp [execResetAck, hc]

@[simp] theorem canonical_execResetReqRepeat {s : State} (hc : Canonical s.tables) (p : Port) : LeavesCanonical (execResetReqRepeat p s) := by
  unfold execResetReqRepeat
  dsimp only
  repeat' split
  all_goals simp [hc]

@[simp] theorem canonical_execResetAckTimeout {s : State} (hc : Canonical s.tables) (p : Port) : LeavesCanonical (execResetAckTimeout p s) := by
  unfold execResetAckTimeout
  split <;> simp [hc]

@[simp] theorem canonical_execUnitLockLoss {s : State} (hc : Canonical s.tables) (p : Port) : LeavesCanonical (execUnitLockLoss p s) := by simp [execUnitLockLoss, hc]

@[simp] theorem canonical_execTrain {s : State} (hc : Canonical s.tables) (p : Port) (from_ : OsSender) (_phase : BitVec 3) : LeavesCanonical (execTrain p from_ _phase s) := by simp [execTrain, hc]

@[simp] theorem canonical_execDelayReq {s : State} (hc : Canonical s.tables) (p : Port) (t1 : Nat) (came : Count) (came16 : BitVec 4) : LeavesCanonical (execDelayReq p t1 came came16 s) := by simp [execDelayReq, hc]

@[simp] theorem canonical_execDelayRsp {s : State} (hc : Canonical s.tables) (p : Port) (t1 t2 t3 t4 : Nat) : LeavesCanonical (execDelayRsp p t1 t2 t3 t4 s) := by simp [execDelayRsp, hc]

@[simp] theorem canonical_execResetPhaseDone {s : State} (hc : Canonical s.tables) (p : Port) (r : PhaseReport) : LeavesCanonical (execResetPhaseDone p r s) := by
  unfold execResetPhaseDone
  dsimp only
  repeat' split
  all_goals simp [hc]

@[simp] theorem canonical_execResume {s : State} (hc : Canonical s.tables) (p : Port) (b : ResumeBody) : LeavesCanonical (execResume p b s) := by simp [execResume, hc]

@[simp] theorem canonical_execPortFailure {s : State} (hc : Canonical s.tables) (p : Port) : LeavesCanonical (execPortFailure p s) := by simp [execPortFailure, hc]

@[simp] theorem canonical_execAudit {s : State} (hc : Canonical s.tables) (p : Port) (b : AuditBody) : LeavesCanonical (execAudit p b s) := by
  unfold execAudit
  dsimp only
  repeat' split
  all_goals simp [hc]

@[simp] theorem canonical_execAuditSend {s : State} (hc : Canonical s.tables) (t : Count) : LeavesCanonical (execAuditSend t s) := by
  unfold execAuditSend
  dsimp only
  rw [leavesCanonical_next]
  split
  · rw [State.tables_foldl fun s p => by split <;> simp]
    simp [hc]
  · simp [hc]

@[simp] theorem canonical_execJobStop {s : State} (hc : Canonical s.tables) (p : Port) (b : JobStopBody) : LeavesCanonical (execJobStop p b s) := by simp [execJobStop, hc]

@[simp] theorem canonical_execEthDatagram {s : State} (hc : Canonical s.tables) (p : Port) (d : EthDatagram) : LeavesCanonical (execEthDatagram p d s) := by
  unfold execEthDatagram
  dsimp only
  rw [leavesCanonical_next]
  split
  · exact hc
  · split
    · exact hc
    · exact State.canonical_foldl (fun s u hs => State.canonical_ethUnit hs _ _ u) _ (by simp [hc])

@[simp] theorem canonical_execEthLinkLoss {s : State} (hc : Canonical s.tables) (p : Port) : LeavesCanonical (execEthLinkLoss p s) := by simp [execEthLinkLoss, hc]

/-! ### The fabric (09) -/

@[simp] theorem canonical_execLooseData {s : State} (hc : Canonical s.tables) (p : Port) (k : LoosePkt) : LeavesCanonical (execLooseData p k s) :=
  State.canonical_ite (State.canonical_takeHead (State.canonical_catchUp hc) _ _ fun _ ht => State.canonical_takeRequest ht _ _) hc

@[simp] theorem canonical_execLooseSet {s : State} (hc : Canonical s.tables) (p : Port) (k : LoosePkt) : LeavesCanonical (execLooseSet p k s) :=
  State.canonical_ite (State.canonical_takeHead (State.canonical_catchUp hc) _ _ fun _ ht => State.canonical_takeRequest ht _ _) hc

@[simp] theorem canonical_execDelivered {s : State} (hc : Canonical s.tables) (p : Port) (k : LoosePkt) : LeavesCanonical (execDelivered p k s) := by
  unfold execDelivered
  split <;> simp [hc]

@[simp] theorem canonical_execCredit {s : State} (hc : Canonical s.tables) (p : Port) (k : LoosePkt) : LeavesCanonical (execCredit p k s) := by
  unfold execCredit
  split <;> simp [hc]

@[simp] theorem canonical_execLooseTimeout {s : State} (hc : Canonical s.tables) (i : Nat) : LeavesCanonical (execLooseTimeout i s) := by
  unfold execLooseTimeout
  split <;> simp [hc]

@[simp] theorem canonical_execLimiterIntervalEdge {s : State} (hc : Canonical s.tables) (t : Count) : LeavesCanonical (execLimiterIntervalEdge t s) := by simp [execLimiterIntervalEdge, hc]

@[simp] theorem canonical_execLimiterTokenGain {s : State} (hc : Canonical s.tables) (t : Count) : LeavesCanonical (execLimiterTokenGain t s) := by
  have now : Canonical (s.advance t).tables := by simp [hc]
  unfold execLimiterTokenGain
  exact State.canonical_ite (State.canonical_injectWaiting (State.canonical_catchUp now)) now

@[simp] theorem canonical_execTransitSwitch {s : State} (hc : Canonical s.tables) (p : Port) : LeavesCanonical (execTransitSwitch p s) := by
  unfold execTransitSwitch
  dsimp only
  repeat' split
  all_goals simp [hc]

/-! ### Health (13) -/

@[simp] theorem canonical_execCanaryDecay {s : State} (hc : Canonical s.tables) (t : Count) : LeavesCanonical (execCanaryDecay t s) := by simp [execCanaryDecay, hc]

@[simp] theorem canonical_execCanaryScoreUpdate {s : State} (hc : Canonical s.tables) (t : Count) : LeavesCanonical (execCanaryScoreUpdate t s) := by
  unfold execCanaryScoreUpdate
  dsimp only
  rw [leavesCanonical_next]
  split
  · rw [State.tables_foldl State.tables_updateScore]
    simp [hc]
  · simp [hc]

@[simp] theorem canonical_execCanaryAck {s : State} (hc : Canonical s.tables) (seq : W32) (n : Fin 67) : LeavesCanonical (execCanaryAck seq n s) := by simp [execCanaryAck, hc]

@[simp] theorem canonical_execSnapshotCount {s : State} (hc : Canonical s.tables) (t : Count) : LeavesCanonical (execSnapshotCount t s) := by
  have now : Canonical (s.advance t).tables := by simp [hc]
  unfold execSnapshotCount
  exact State.canonical_ite (State.canonical_setCfg now .snapCtl 0 0 1) now

@[simp] theorem canonical_execSnapshot {s : State} (hc : Canonical s.tables) (seq : W32) (count : Count) : LeavesCanonical (execSnapshot seq count s) :=
  State.canonical_tree hc seq (by
    have written := State.canonical_setCfg (State.canonical_setCfg hc .snapLo 0 0 (w32 count)) .snapHi 0 0 (w32 (count / 2 ^ 32))
    dsimp only
    split
    · exact State.canonical_setCfg written _ _ _ _
    · exact written)

@[simp] theorem canonical_execJobStopCommand {s : State} (hc : Canonical s.tables) (seq : W32) (key : BitVec 20) (reason : BitVec 8) : LeavesCanonical (execJobStopCommand seq key reason s) := by simp [execJobStopCommand, hc]

@[simp] theorem canonical_execCatalogue {s : State} (hc : Canonical s.tables) (seq : W32) (first : BitVec 12) (n : Nat) : LeavesCanonical (execCatalogue seq first n s) := by
  unfold execCatalogue
  split <;> simp [hc]

/-! ### Register writes (16) -/

@[simp] theorem canonical_execRegisterWrite {s : State} (hc : Canonical s.tables) (f : Caller) (off bytes : Nat) (v : Word) : LeavesCanonical (execRegisterWrite f off bytes v s) := by simp [execRegisterWrite, hc]

@[simp] theorem canonical_execRegWrite {s : State} (hc : Canonical s.tables) (seq : W32) (off bytes : Nat) (v : Word) : LeavesCanonical (execRegWrite seq off bytes v s) := by simp [execRegWrite, hc]

@[simp] theorem canonical_execRegRead {s : State} (hc : Canonical s.tables) (seq : W32) (off bytes : Nat) : LeavesCanonical (execRegRead seq off bytes s) := by simp [execRegRead, hc]

@[simp] theorem canonical_execIdDevWrite {s : State} (hc : Canonical s.tables) (v : W32) : LeavesCanonical (execIdDevWrite v s) := by simp [execIdDevWrite, hc]

@[simp] theorem canonical_execPtSlackClr {s : State} (hc : Canonical s.tables) (f : Caller) (pt : Pt) : LeavesCanonical (execPtSlackClr f pt s) := by simp [execPtSlackClr, hc]

@[simp] theorem canonical_execSetupErrClr {s : State} (hc : Canonical s.tables) (f : Caller) (pt : Option Pt) : LeavesCanonical (execSetupErrClr f pt s) := by
  unfold execSetupErrClr
  split <;> simp [hc]

@[simp] theorem canonical_execLoStageWrite {s : State} (hc : Canonical s.tables) (off : Nat) (v : W32) : LeavesCanonical (execLoStageWrite off v s) := by
  unfold execLoStageWrite
  repeat' split
  all_goals simp [hc]

@[simp] theorem canonical_execEventSelectWrite {s : State} (hc : Canonical s.tables) (off : Nat) (v : W32) : LeavesCanonical (execEventSelectWrite off v s) := by
  unfold execEventSelectWrite
  repeat' split
  all_goals simp [hc]

@[simp] theorem canonical_execSnapArm {s : State} (hc : Canonical s.tables) (v : W32) : LeavesCanonical (execSnapArm v s) := by
  unfold execSnapArm
  split <;> simp [hc]

@[simp] theorem canonical_execFaultRecordClear {s : State} (hc : Canonical s.tables) (f : Caller) (pt : Pt) : LeavesCanonical (execFaultRecordClear f pt s) := by simp [execFaultRecordClear, hc]

@[simp] theorem canonical_execRingEnable {s : State} (hc : Canonical s.tables) (f : Caller) (q : RingNo) (submission : Bool) (v : W32) : LeavesCanonical (execRingEnable f q submission v s) := by
  unfold execRingEnable
  split <;> simp [hc]

@[simp] theorem canonical_execRingDisable {s : State} (hc : Canonical s.tables) (f : Caller) (q : RingNo) (submission : Bool) (v : W32) : LeavesCanonical (execRingDisable f q submission v s) := by
  unfold execRingDisable
  split <;> simp [hc]

@[simp] theorem canonical_execTbSyncArm {s : State} (hc : Canonical s.tables) (v : W32) : LeavesCanonical (execTbSyncArm v s) := by
  unfold execTbSyncArm
  split <;> simp [hc]

@[simp] theorem canonical_execTbMasterSet {s : State} (hc : Canonical s.tables) (v : W32) : LeavesCanonical (execTbMasterSet v s) := by
  unfold execTbMasterSet
  split <;> simp [hc]

@[simp] theorem canonical_execPortEnable {s : State} (hc : Canonical s.tables) (p : Port) (v : W32) : LeavesCanonical (execPortEnable p v s) := by
  unfold execPortEnable
  split <;> simp [hc]

@[simp] theorem canonical_execPortDisable {s : State} (hc : Canonical s.tables) (p : Port) (v : W32) : LeavesCanonical (execPortDisable p v s) := by
  unfold execPortDisable
  split <;> simp [hc]

@[simp] theorem canonical_execResetGo {s : State} (hc : Canonical s.tables) (p : Port) (v : W32) : LeavesCanonical (execResetGo p v s) := by
  unfold execResetGo
  split <;> simp [hc]

@[simp] theorem canonical_execHistClr {s : State} (hc : Canonical s.tables) (d : Dom) (v : W32) : LeavesCanonical (execHistClr d v s) := by
  unfold execHistClr
  split <;> simp [hc]

/-! ### Firmware (14, R320-R329) -/

@[simp] theorem canonical_execQueryDeviceIdentifiers {s : State} (hc : Canonical s.tables) (m : MgmtPath) : LeavesCanonical (execQueryDeviceIdentifiers m s) := by simp [execQueryDeviceIdentifiers, hc]

@[simp] theorem canonical_execGetFirmwareParameters {s : State} (hc : Canonical s.tables) (m : MgmtPath) : LeavesCanonical (execGetFirmwareParameters m s) := by simp [execGetFirmwareParameters, hc]

@[simp] theorem canonical_execRequestUpdate {s : State} (hc : Canonical s.tables) (m : MgmtPath) (maxTransfer : Nat) : LeavesCanonical (execRequestUpdate m maxTransfer s) := by
  unfold execRequestUpdate
  rw [leavesCanonical_next, State.tables_pldm m _ (by split <;> rfl)]
  exact hc

@[simp] theorem canonical_execPassComponentTable {s : State} (hc : Canonical s.tables) (m : MgmtPath) (comps : List Nat) : LeavesCanonical (execPassComponentTable m comps s) := by
  unfold execPassComponentTable
  rw [leavesCanonical_next, State.tables_pldm m _ (by repeat' split
                                                      all_goals rfl)]
  exact hc

@[simp] theorem canonical_execUpdateComponent {s : State} (hc : Canonical s.tables) (m : MgmtPath) (comp imageSize : Nat) : LeavesCanonical (execUpdateComponent m comp imageSize s) := by
  have answered : (s.pldm m 0x14 fun s => match s.update with
      | none => (s, [ccNotInUpdate], [])
      | some u =>
        if !u.tabled ∨ u.component.isSome then (s, [ccInvalidState], [])
        else ({ s with update := some { u with component := some comp, imageSize := imageSize, next := 0, retries := 0, header := [], out := [] } }, [ccSuccess], [])).tables =
      s.tables := State.tables_pldm m _ (by repeat' split
                                            all_goals rfl)
  unfold execUpdateComponent
  extract_lets asked t
  have ht : Canonical t.tables := answered ▸ hc
  rw [leavesCanonical_next]
  split
  · exact State.canonical_ite (by simp [ht]) ht
  · exact ht

@[simp] theorem canonical_execFirmwareHeaderBlock {s : State} (hc : Canonical s.tables) (bytes : List Byte) : LeavesCanonical (execFirmwareHeaderBlock bytes s) := by
  unfold execFirmwareHeaderBlock
  repeat' split
  all_goals simp [hc]

@[simp] theorem canonical_execFirmwareBlock {s : State} (hc : Canonical s.tables) (bytes : List Byte) : LeavesCanonical (execFirmwareBlock bytes s) := by
  unfold execFirmwareBlock
  repeat' split
  all_goals simp [hc]

@[simp] theorem canonical_execGetStatus {s : State} (hc : Canonical s.tables) (m : MgmtPath) : LeavesCanonical (execGetStatus m s) := by
  unfold execGetStatus
  rw [leavesCanonical_next, State.tables_pldm m _ (by repeat' split
                                                      all_goals rfl)]
  exact hc

@[simp] theorem canonical_execCancelUpdateComponent {s : State} (hc : Canonical s.tables) (m : MgmtPath) : LeavesCanonical (execCancelUpdateComponent m s) := by
  unfold execCancelUpdateComponent
  rw [leavesCanonical_next, State.tables_pldm m _ (by repeat' split
                                                      all_goals rfl)]
  exact hc

@[simp] theorem canonical_execCancelUpdate {s : State} (hc : Canonical s.tables) (m : MgmtPath) : LeavesCanonical (execCancelUpdate m s) := by
  unfold execCancelUpdate
  rw [leavesCanonical_next, State.tables_pldm m _ (by split <;> simp)]
  exact hc

@[simp] theorem canonical_execActivateFirmware {s : State} (hc : Canonical s.tables) (m : MgmtPath) : LeavesCanonical (execActivateFirmware m s) := by
  unfold execActivateFirmware
  rw [leavesCanonical_next, State.tables_pldm m _ (by repeat' split
                                                      all_goals simp)]
  exact hc

@[simp] theorem canonical_execFwConfirm {s : State} (hc : Canonical s.tables) (m : MgmtPath) (mask : BitVec 5) : LeavesCanonical (execFwConfirm m mask s) := by
  unfold execFwConfirm
  rw [leavesCanonical_next, State.tables_pldm m _ rfl]
  exact hc

@[simp] theorem canonical_execFwRevert {s : State} (hc : Canonical s.tables) (m : MgmtPath) (mask : BitVec 5) : LeavesCanonical (execFwRevert m mask s) := by
  unfold execFwRevert
  repeat' split
  all_goals simp [hc]

@[simp] theorem canonical_execBootGoodMiss {s : State} (hc : Canonical s.tables) (comp : Nat) : LeavesCanonical (execBootGoodMiss comp s) := by
  unfold execBootGoodMiss
  dsimp only
  repeat' split
  all_goals simp [hc]

@[simp] theorem canonical_execGetVersion {s : State} (hc : Canonical s.tables) (m : MgmtPath) : LeavesCanonical (execGetVersion m s) := by simp [execGetVersion, hc]

@[simp] theorem canonical_execGetCapabilities {s : State} (hc : Canonical s.tables) (m : MgmtPath) : LeavesCanonical (execGetCapabilities m s) := by simp [execGetCapabilities, hc]

@[simp] theorem canonical_execNegotiateAlgorithms {s : State} (hc : Canonical s.tables) (m : MgmtPath) : LeavesCanonical (execNegotiateAlgorithms m s) := by simp [execNegotiateAlgorithms, hc]

@[simp] theorem canonical_execGetDigests {s : State} (hc : Canonical s.tables) (m : MgmtPath) : LeavesCanonical (execGetDigests m s) := by simp [execGetDigests, hc]

@[simp] theorem canonical_execGetCertificate {s : State} (hc : Canonical s.tables) (m : MgmtPath) (offset length : Nat) : LeavesCanonical (execGetCertificate m offset length s) := by simp [execGetCertificate, hc]

@[simp] theorem canonical_execChallenge {s : State} (hc : Canonical s.tables) (m : MgmtPath) (nonce : List Byte) : LeavesCanonical (execChallenge m nonce s) := by simp [execChallenge, hc]

@[simp] theorem canonical_execGetMeasurements {s : State} (hc : Canonical s.tables) (m : MgmtPath) (index : Nat) (nonce : List Byte) : LeavesCanonical (execGetMeasurements m index nonce s) := by
  unfold execGetMeasurements
  repeat' split
  all_goals simp [hc]

/-! ### The step -/

theorem exec_canonical {s : State} (hc : Canonical s.tables) (i : Instr) : LeavesCanonical (exec i s) := by
  cases i <;> simp [exec, hc]

theorem step_canonical {s : State} (hc : Canonical s.tables) : LeavesCanonical (step s) := by
  unfold step
  split
  · simp [hc]
  · rename_i c rest _
    exact exec_canonical (s := { s with pending := rest }) hc c

/-- Settles O5: what the canonical form speaks of is one value of the state, which each operation leaves as it is or keeps in that form. -/
theorem stepKeepsCanonical : Obligations.StepKeepsCanonical := by
  intro s t hm hr ht
  have kept := step_canonical (s.canonical_iff.2 ⟨hm, hr⟩)
  rw [ht] at kept
  exact t.canonical_iff.1 kept

end Sys2Proof.Machine
end

section
/-! PROOF. A fault-stop leaves the cores of the module as they are, but for the memory requests that it discards (04, R102; 13, R289). -/

namespace Sys2Proof.Machine

/-- Every core is as it was, but for the memory requests it holds. -/
def State.coresShed (s t : State) : Prop := ∀ d, ∃ m, t.core d = { s.core d with memq := m }

theorem State.coresShed_of_cores {s t : State} (h : t.cores = s.cores) : s.coresShed t := fun d => ⟨(s.core d).memq, by simp [State.core, h]⟩

theorem State.coresShed_trans {s t u : State} (h : s.coresShed t) (k : t.coresShed u) : s.coresShed u := by
  intro d
  obtain ⟨m, hm⟩ := h d
  obtain ⟨l, hl⟩ := k d
  exact ⟨l, by rw [hl, hm]⟩

theorem State.coresShed_foldl {α : Type} {f : State → α → State} (h : ∀ (s : State) a, s.coresShed (f s a)) (l : List α) (s : State) : s.coresShed (l.foldl f s) :=
  List.foldlRecOn (motive := fun t => s.coresShed t) l f (State.coresShed_of_cores rfl) fun t ht a _ => State.coresShed_trans ht (h t a)

/-- What every change of a run leaves of the cores, the run leaves. -/
theorem State.cores_foldl {α : Type} {f : State → α → State} (h : ∀ s a, (f s a).cores = s.cores) (l : List α) (s : State) : (l.foldl f s).cores = s.cores :=
  List.foldlRecOn (motive := fun t => t.cores = s.cores) l f rfl fun t ht a _ => (h t a).trans ht

/-! ### The steps of a stop that do not look at cores -/

@[simp] theorem State.event_cores (s : State) (n ev : Nat) (w : Word) : (s.event n ev w).cores = s.cores := by
  unfold State.event State.unsolicited
  dsimp only
  repeat' split
  all_goals rfl

@[simp] theorem State.abortFlight_cores (s : State) (n : Nat) : (s.abortFlight n).cores = s.cores :=
  State.cores_foldl (f := fun s d => s.finish n d stABORTED) (fun _ _ => rfl) _ s

@[simp] theorem State.repaintLeft_cores (s : State) (r : Option Repaint) : (s.repaintLeft r).cores = s.cores := by
  unfold State.repaintLeft State.repaintReached
  repeat' split
  all_goals rfl

@[simp] theorem State.amend_cores (s : State) (n : Nat) (old new : FaultRec) : (s.amend n old new).cores = s.cores := by
  unfold State.amend
  dsimp only
  split <;> rfl

@[simp] theorem State.amendReason_cores (s : State) (key old new : Nat) : (s.amendReason key old new).cores = s.cores :=
  State.cores_foldl (fun s e => by repeat' split
                                   all_goals simp) _ _

/-! ### The stop -/

theorem State.discardUnissued_sheds (s : State) (n : Nat) : s.coresShed (s.discardUnissued n) := by
  refine State.coresShed_foldl (fun s c => ?_) _ s
  dsimp only
  split
  · exact State.coresShed_of_cores rfl
  · intro d
    by_cases hd : d.ix = c.ix
    · exact ⟨issuedOf (s.core c).memq, by rw [coreIx_inj hd]; exact State.core_setCore_same s c _⟩
    · exact ⟨(s.core d).memq, State.core_setCore_other _ _ hd⟩

theorem State.stopOne_sheds (s : State) (n : Nat) (c : Cause) : s.coresShed (s.stopOne n c) := by
  unfold State.stopOne
  dsimp only
  split
  · have shed : ∀ p, s.coresShed ((s.setPart n p).discardUnissued n) := fun p => State.coresShed_trans (State.coresShed_of_cores rfl) (State.discardUnissued_sheds (s.setPart n p) n)
    intro d
    simp only [State.core, State.count_cores, State.event_cores, State.platform_cores, State.repaintLeft_cores, State.abortFlight_cores]
    exact shed _ d
  · refine State.coresShed_of_cores ?_
    repeat' split
    all_goals simp

theorem State.floodKeys_sheds (s : State) (code : Nat) (keys : List Nat) : s.coresShed (s.floodKeys code keys) :=
  State.coresShed_foldl (fun s key => State.coresShed_trans (t := s.flood (s.ownStop key code) false) (State.coresShed_of_cores (by rw [State.flood_frame]))
    (State.coresShed_foldl (fun s m => State.stopOne_sheds s m _) _ _)) _ s

theorem State.faultStop_stops {s : State} {n : Nat} {c : Cause} (h : (s.part n).stopsFor c.code = true) : ((s.faultStop n c).part n).st = .faultStop := by
  obtain ⟨-, -, hst, -⟩ := State.faultStop_states s n c
  exact hst h

theorem State.faultStop_sheds (s : State) (n : Nat) (c : Cause) : s.coresShed (s.faultStop n c) := by
  unfold State.faultStop State.faultStopAll
  dsimp only
  split
  · exact State.stopOne_sheds s n c
  · exact State.coresShed_trans (State.stopOne_sheds s n c) (State.floodKeys_sheds _ _ _)

end Sys2Proof.Machine
end

section
/-! PROOF. What a row that issues does with the command at issue, once it is read (04, R87, R90, R110; 05, R117). -/

namespace Sys2Proof.Machine

/-- What becomes of a command once it is read: nothing where its partition detects no more, a stop where a check fails, and else what its predicate says. `k` is the core before the reading. -/
def State.judged (s : State) (k : Core) (n : Nat) (c : CoreId) (q : Cmd) (act : State → Nat → Cmd → State) : State :=
  if !s.detects n c 4 then s
  else match q.check k c.core.val (s.ownsClu n) with
    | some sub => s.refuse n c q sub
    | none =>
      if (s.part n).st ≠ .run then (if k.predicate q ∧ q.queue = 4 then s.lateSet n c 4 k.gen q else s)
      else if k.predicate q then act s n q
      else (s.setCore c k.next).count .skipped (.core c) (some n)

theorem State.judged_undetected {s : State} {k : Core} {n : Nat} {c : CoreId} {q : Cmd} {act : State → Nat → Cmd → State} (h : s.detects n c 4 = false) :
    s.judged k n c q act = s := by simp [State.judged, h]

theorem State.judged_refused {s : State} {k : Core} {n : Nat} {c : CoreId} {q : Cmd} {act : State → Nat → Cmd → State} {sub : Nat} (h : s.detects n c 4 = true)
    (hk : q.check k c.core.val (s.ownsClu n) = some sub) : s.judged k n c q act = s.refuse n c q sub := by simp [State.judged, h, hk]

theorem State.judged_skipped {s : State} {k : Core} {n : Nat} {c : CoreId} {q : Cmd} {act : State → Nat → Cmd → State} (h : s.detects n c 4 = true)
    (hk : q.check k c.core.val (s.ownsClu n) = none) (hrun : (s.part n).st = .run) (hp : k.predicate q = false) :
    s.judged k n c q act = (s.setCore c k.next).count .skipped (.core c) (some n) := by simp [State.judged, h, hk, hrun, hp]

theorem State.detects_of_canIssue {s : State} {n : Nat} {c : CoreId} (h : s.canIssue n c = true) : s.detects n c 4 = true := by
  simp only [State.canIssue, Bool.and_eq_true] at h
  obtain ⟨⟨⟨⟨hd, -⟩, -⟩, -⟩, -⟩ := h
  exact hd

section
variable {s : State} {c : CoreId} {n : Nat} {q : Cmd} {row : Cmd → Bool} (hp : s.partOf c = some n) (hc : s.canIssue n c = true)
include hp hc

/-- A poisoned word of the command stops the partition. -/
theorem State.issueRow_poisoned {a : Int} (ha : s.poisonedAt c (s.cmdBytes c) = some a) (ecc : List EccAt) (act : State → Nat → Cmd → State) :
    s.issueRow c ecc row act = s.faultStop n { code := cUNCORRECTED, core := some c, queue := 4, cmd := (s.core c).pc, addr := (a / 16 * 16).toNat } := by
  unfold State.cmdBytes at ha
  unfold State.issueRow
  simp only [hp, hc, if_true]
  rw [ha]

variable (hpo : s.poisonedAt c (s.cmdBytes c) = none) (hn : s.nextCmd c = q) (hr : row q = true) (ht : (s.core c).segCyc + q.notBefore ≤ s.cycles c)
include hpo hn hr ht

/-- A command whose offset has come, of whose words none is poisoned, is read and judged. -/
theorem State.issueRow_reads (ecc : List EccAt) (act : State → Nat → Cmd → State) :
    s.issueRow c ecc row act = (s.readErrors n c 4 (s.core c).pc (s.cmdBytes c) true ecc).judged (s.core c) n c q act := by
  have hi : q.isFor row = true := by simp [Cmd.isFor, hr]
  unfold State.cmdBytes at *
  unfold State.issueRow
  simp only [hp, hc, if_true]
  rw [hpo]
  simp only [hn, hi, Bool.not_true, Nat.not_lt.mpr ht, or_self, Bool.false_eq_true, if_false]
  rfl

/-- Where the command fails a check, its row stops the partition. -/
theorem State.issueRow_refuses {ecc : List EccAt} (he : cleanReads ecc) (act : State → Nat → Cmd → State) {sub : Nat} (hk : q.check (s.core c) c.core.val (s.ownsClu n) = some sub) :
    s.issueRow c ecc row act = s.faultStop n { code := cREFUSED, sub := sub, core := some c, queue := q.queue, cmd := (s.core c).pc } := by
  rw [State.issueRow_reads hp hc hpo hn hr ht, State.readErrors_clean _ _ _ _ _ _ _ he, State.judged_refused (State.detects_of_canIssue hc) hk]
  rfl

end

end Sys2Proof.Machine
end

section
/-! PROOF. LOOP, ENDLOOP, PSET, SSET and PACE (04, R109-R111; 13, R293). -/

namespace Sys2Proof.Machine

/-! ### The rows -/

theorem exec_loop_issues {s : State} {c : CoreId} {ecc : List EccAt} (hbm : List EccAt) {n : Nat} {q : Cmd} (h : s.issues c ecc n q) (ho : q.opcode = 0x40) :
    exec (.loop ⟨c, ecc, hbm⟩) s = .next (s.loop c q) := congrArg Host.Outcome.next (State.issueRow_issues h _ _ (by simp [ho]))

theorem exec_endloop_issues {s : State} {c : CoreId} {ecc : List EccAt} (hbm : List EccAt) {n : Nat} {q : Cmd} (h : s.issues c ecc n q) (ho : q.opcode = 0x41) :
    exec (.endloop ⟨c, ecc, hbm⟩) s = .next (s.endloop c) := congrArg Host.Outcome.next (State.issueRow_issues h _ _ (by simp [ho]))

theorem exec_pset_issues {s : State} {c : CoreId} {ecc : List EccAt} (hbm : List EccAt) {n : Nat} {q : Cmd} (h : s.issues c ecc n q) (ho : q.opcode = 0x48) :
    exec (.pset ⟨c, ecc, hbm⟩) s = .next (s.pset c q) := congrArg Host.Outcome.next (State.issueRow_issues h _ _ (by simp [ho]))

theorem exec_sset_issues {s : State} {c : CoreId} {ecc : List EccAt} (hbm : List EccAt) {n : Nat} {q : Cmd} (h : s.issues c ecc n q) (ho : q.opcode = 0x49) :
    exec (.sset ⟨c, ecc, hbm⟩) s = .next (s.sset c q) := congrArg Host.Outcome.next (State.issueRow_issues h _ _ (by simp [ho]))

theorem exec_pace_issues {s : State} {c : CoreId} {ecc : List EccAt} (hbm : List EccAt) {n : Nat} {q : Cmd} (h : s.issues c ecc n q) (ho : q.opcode = 0x51) :
    exec (.pace ⟨c, ecc, hbm⟩) s = .next (s.pace c q) := congrArg Host.Outcome.next (State.issueRow_issues h _ _ (by simp [ho]))

/-! ### LOOP and ENDLOOP (04, R109) -/

/-- The search for the ENDLOOP of a loop that is not run moves past where it starts. -/
theorem State.le_afterEndloop (s : State) (c : CoreId) (left i depth : Nat) : i ≤ s.afterEndloop c left i depth := by
  induction left generalizing i depth with
  | zero => exact Nat.le_refl i
  | succ left ih =>
    unfold State.afterEndloop
    dsimp only
    split
    · split
      · exact Nat.le_succ i
      · exact Nat.le_of_succ_le (ih (i + 1) (depth - 1))
    · exact Nat.le_of_succ_le (ih (i + 1) _)

theorem State.endloop_runs {s : State} {c : CoreId} {f : LoopFrame} {fs : List LoopFrame} (h : (s.core c).loops = f :: fs) :
    s.endloop c = s.setCore c (if 1 < f.left then Core.goTo { s.core c with loops := { f with left := f.left - 1 } :: fs } f.body
      else Core.goTo { s.core c with loops := fs } ((s.core c).pc + 1)) := by
  unfold State.endloop
  dsimp only
  rw [h]
  dsimp only
  split <;> rfl

/-! ### PSET and SSET (04, R110, R111) -/

/-- The value that a PSET gives its predicate, by its set source. -/
def State.psetBit (s : State) (c : CoreId) (q : Cmd) : Bool :=
  match wf q.w0 18 16 with
  | 0 => bit (wf q.w1 63 32) 0
  | 1 => compare (wf q.w0 2 0) ((s.core c).scalar (wf q.w0 15 12)).toNat (wf q.w1 63 32)
  | 2 => compare (wf q.w0 2 0) ((s.core c).flag (wf q.w0 11 6)) (wf q.w1 63 32)
  | 3 => compare (wf q.w0 2 0) (s.depth c (wf q.w0 5 3)) (wf q.w1 63 32)
  | _ => (s.core c).fpstat.getLsbD (wf q.w0 15 12)

/-- The value that an SSET gives its scalar register, by its set source. -/
def State.ssetWord (s : State) (c : CoreId) (q : Cmd) : W32 :=
  match wf q.w0 18 16 with
  | 0 => BitVec.ofNat 32 (wf q.w1 63 32)
  | 1 => (s.core c).scalar (wf q.w0 15 12) + BitVec.ofNat 32 (wf q.w1 63 32)
  | 2 => BitVec.ofNat 32 ((s.core c).flag (wf q.w0 11 6))
  | 3 => BitVec.ofNat 32 (s.depth c (wf q.w0 5 3))
  | 4 => (s.core c).scalar (wf q.w0 15 12)
  | _ => (s.core c).scalar (wf q.w0 22 19) + (s.core c).scalar (wf q.w0 15 12)

/-- A word of predicates with one of them set to a value. -/
def predsPut (p : BitVec 16) (d : Nat) (b : Bool) : BitVec 16 :=
  let mask : BitVec 16 := 1 <<< d
  if b then p ||| mask else p &&& ~~~mask

theorem wf_lt (w : Word) (hi lo : Nat) : wf w hi lo < 2 ^ (hi + 1 - lo) := Nat.mod_lt _ (Nat.two_pow_pos _)

theorem bit_upper_zero (w : Word) : bit (wf w 63 32) 0 = wb w 32 := by
  simp [bit, wf, fld, wb, BitVec.getLsbD]

theorem predsPut_getLsbD (p : BitVec 16) {d : Nat} (hd : d < 16) (b : Bool) (i : Nat) : (predsPut p d b).getLsbD i = if i = d then b else p.getLsbD i := by
  have hlt : 2 ^ d % 65536 = 2 ^ d := Nat.mod_eq_of_lt (Nat.pow_lt_pow_right (by decide) hd)
  have hm : (BitVec.ofNat 16 (1 <<< d)).getLsbD i = decide (d = i) := by
    rw [← Nat.testBit_two_pow]
    simp [BitVec.getLsbD, Nat.shiftLeft_eq, hlt]
  unfold predsPut
  by_cases he : i = d
  · subst he
    cases b <;> simp [hm, hd]
  · have hne : ¬d = i := fun h => he h.symm
    cases b <;> simp [hm, he, hne]
    exact fun h => BitVec.lt_of_getLsbD h

/-- PSET gives its predicate its value, and issue moves on. -/
theorem State.pset_eq (s : State) (c : CoreId) (q : Cmd) : ∃ f, s.pset c q =
    { s.setCore c { (s.core c).next with preds := predsPut (s.core c).preds (wf q.w0 22 19) (s.psetBit c q) } with fresh := f } := by
  unfold State.pset State.freshIf
  dsimp only
  split
  · exact ⟨_, rfl⟩
  · exact ⟨_, rfl⟩

/-- SSET gives its scalar register its value, and issue moves on. -/
theorem State.sset_eq (s : State) (c : CoreId) (q : Cmd) : ∃ f, s.sset c q =
    { s.setCore c { (s.core c).next with sc := Tab.put (s.core c).sc (wf q.w0 22 19) (s.ssetWord c q) } with fresh := f } := by
  unfold State.sset State.freshIf
  dsimp only
  split
  · exact ⟨_, rfl⟩
  · exact ⟨_, rfl⟩

theorem State.psetBit_fpstat {s : State} {c : CoreId} {q : Cmd} (h : 4 ≤ wf q.w0 18 16) : s.psetBit c q = (s.core c).fpstat.getLsbD (wf q.w0 15 12) := by
  unfold State.psetBit
  split
  case h_5 => rfl
  all_goals omega

theorem State.depth_queue (s : State) (c : CoreId) {r : Nat} (h : r < 4) : s.depth c r = ((s.core c).queue r).length := by simp [State.depth, h]

/-! ### PACE (04, R111) -/

/-- Where the queue is short enough, PACE goes on. -/
theorem State.pace_on {s : State} {c : CoreId} {q : Cmd} (h : ((s.core c).queue (wf q.w0 22 20)).length ≤ wf q.w0 19 12) :
    ∃ t, s.pace c q = t ∧ t = s.setCore c (t.core c) ∧ t.core c = (s.core c).after (t.core c) := by
  obtain ⟨l, m, e⟩ := Core.endWait_frame (s.core c) 4 7 s.now
  refine ⟨_, rfl, ?_⟩
  unfold State.pace
  dsimp only
  rw [if_pos h, e, State.core_setCore_same]
  exact ⟨rfl, rfl⟩

/-- Where the queue is too long, PACE waits. -/
theorem State.pace_waits {s : State} {c : CoreId} {q : Cmd} (h : wf q.w0 19 12 < ((s.core c).queue (wf q.w0 22 20)).length) :
    ∃ w, s.pace c q = s.setCore c { s.core c with lampWait := w } := by
  unfold State.pace Core.beginWait
  dsimp only
  rw [if_neg (Nat.not_le.2 h)]
  split
  · exact ⟨_, rfl⟩
  · exact ⟨_, rfl⟩

/-- A wait of a core is no part of what its next command is read from. -/
theorem State.nextCmd_waiting (s : State) (c : CoreId) (w : Tab Count) : (s.setCore c { s.core c with lampWait := w }).nextCmd c = s.nextCmd c := by
  have byte : ∀ a, (s.setCore c { s.core c with lampWait := w }).readSt c a = s.readSt c a := by
    intro a
    unfold State.readSt
    rw [State.core_setCore_same]
    rfl
  simp only [State.nextCmd, State.streamCmd, State.core_setCore_same, byte]

/-- A threshold of PACE that no queue has is out of its range. -/
theorem Cmd.check_pace {q : Cmd} (k : Core) {core : Nat} (owns : Nat → Bool) (ho : q.opcode = 0x51) (hb : q.reservedBits = false) (hv : q.reservedValue core = false)
    (ht : 128 ≤ wf q.w0 19 12) : q.check k core owns = some 2 := by
  have hr : q.outOfRange k owns = true := by
    unfold Cmd.outOfRange
    simp only [ho]
    exact decide_eq_true ht
  simp [Cmd.check, hb, hv, hr]

/-! ### The statements -/

/-- Settles O23: each row issues its command, and LOOP, ENDLOOP, PSET, SSET and PACE change the fields of their core that their equations name. -/
theorem loopsAndScalars : Obligations.LoopsAndScalars := by
  intro s c ecc hbm n q h
  refine ⟨fun ho count hcount => ⟨fun hne => ?_, fun hz i hi => ?_⟩, fun ho f fs hl => ?_, fun ho => ?_, fun ho => ?_, fun ho hq => ?_⟩
  · rw [exec_loop_issues hbm h ho]
    subst hcount
    simp [State.loop, hne, Core.next, Core.goTo]
  · rw [exec_loop_issues hbm h ho]
    subst hcount hi
    refine ⟨?_, State.le_afterEndloop _ _ _ _ _⟩
    simp [State.loop, hz, Core.goTo]
  · rw [exec_endloop_issues hbm h ho, State.endloop_runs hl]
    refine ⟨_, rfl, ?_⟩
    rw [State.core_setCore_same]
    split
    · exact ⟨rfl, fun _ => ⟨rfl, rfl⟩, fun hle => absurd hle (by omega), rfl⟩
    · exact ⟨rfl, fun hlt => absurd hlt (by assumption), fun _ => ⟨rfl, rfl⟩, rfl⟩
  · obtain ⟨fr, e⟩ := State.pset_eq s c q
    have hcore : (s.pset c q).core c = { (s.core c).next with preds := predsPut (s.core c).preds (wf q.w0 22 19) (s.psetBit c q) } := by
      rw [e]
      exact State.core_setCore_same s c _
    have hat : ((s.pset c q).core c).preds.getLsbD (wf q.w0 22 19) = s.psetBit c q := by
      rw [hcore]
      simp [predsPut_getLsbD _ (wf_lt q.w0 22 19)]
    refine ⟨_, exec_pset_issues hbm h ho, ?_, ?_, fun i hi => ?_, fun hs => ?_, fun hs => ?_, fun hs => ?_, fun hs hq => ?_, fun hs => ?_⟩
    · rw [hcore, e]
    · rw [hcore]
    · rw [hcore]
      simp [predsPut_getLsbD _ (wf_lt q.w0 22 19), hi]
    · simp only [hat, State.psetBit, hs, bit_upper_zero]
    · simp only [hat, State.psetBit, hs]
    · simp only [hat, State.psetBit, hs]
    · simp only [hat, State.psetBit, hs, State.depth_queue s c hq]
    · exact hat.trans (State.psetBit_fpstat hs)
  · obtain ⟨fr, e⟩ := State.sset_eq s c q
    have hcore : (s.sset c q).core c = { (s.core c).next with sc := Tab.put (s.core c).sc (wf q.w0 22 19) (s.ssetWord c q) } := by
      rw [e]
      exact State.core_setCore_same s c _
    have hat : ((s.sset c q).core c).scalar (wf q.w0 22 19) = s.ssetWord c q := by
      rw [hcore]
      exact Tab.get_put_same _ _ _ _
    refine ⟨_, exec_sset_issues hbm h ho, ?_, ?_, fun i hi => ?_, fun hs => ?_, fun hs => ?_, fun hs => ?_, fun hs hq => ?_, fun hs => ?_, fun hs => ?_⟩
    · rw [hcore, e]
    · rw [hcore]
    · rw [hcore]
      exact Tab.get_put_other _ _ _ hi
    · simp only [hat, State.ssetWord, hs]
    · simp only [hat, State.ssetWord, hs]
    · simp only [hat, State.ssetWord, hs]
    · simp only [hat, State.ssetWord, hs, State.depth_queue s c hq]
    · simp only [hat, State.ssetWord, hs]
    · simp only [hat, State.ssetWord, hs]
  · rw [exec_pace_issues hbm h ho]
    obtain ⟨t, e, he⟩ := State.pace_on hq
    exact ⟨t, by rw [e], he⟩

/-- Settles O24: a check refuses a threshold from 128, a lower one is compared with the length of its queue, and a stop leaves where the core stands in its stream. -/
theorem paceHolds : Obligations.PaceHolds := by
  intro s c ecc hbm n q ho
  refine ⟨fun h hd => ⟨fun hlt => ?_, fun hle => ?_⟩, fun hp hc hn hpo he ht hb hv hth hrun => ?_⟩
  · rw [exec_pace_issues hbm h ho]
    obtain ⟨w, e⟩ := State.pace_waits hlt
    obtain ⟨-, -, -, hn, -⟩ := h
    refine ⟨_, rfl, ?_⟩
    rw [e, State.nextCmd_waiting, State.core_setCore_same]
    exact ⟨rfl, rfl, hn⟩
  · rw [exec_pace_issues hbm h ho]
    obtain ⟨t, e, he⟩ := State.pace_on (q := q) (hle.elim id fun hdepth => hd.trans hdepth)
    exact ⟨t, by rw [e], he⟩
  · refine ⟨_, congrArg Host.Outcome.next (State.issueRow_refuses hp hc hpo hn (by simp [ho]) ht he _ (Cmd.check_pace _ _ ho hb hv hth)), rfl, ?_, ?_⟩
    · exact State.faultStop_stops (Part.stopsFor_run (.inl hrun) _)
    · obtain ⟨m, e⟩ := State.faultStop_sheds s n { code := cREFUSED, sub := 2, core := some c, queue := q.queue, cmd := (s.core c).pc } c
      rw [e]

end Sys2Proof.Machine
end

section
/-! PROOF. A stop notes where its cause was found (13, R291), and what stops or skips the command at issue (04, R90, R110; 05, R117). -/

namespace Sys2Proof.Machine

/-! ### What a stopped partition has noted -/

/-- The state of a partition, and where the causes of its stop were found. -/
def Part.mark (p : Part) : PtState × List (Nat × Nat) := (p.st, p.raised)

theorem State.updPart_mark {s : State} {f : Part → Part} (h : ∀ p, (f p).mark = p.mark) (n m : Nat) : ((s.updPart n f).part m).mark = (s.part m).mark := by
  unfold State.updPart State.setPart State.part
  rw [Tab.get_put]
  split
  · rename_i e
    rw [h, e]
  · rfl

theorem State.mark_foldl {α : Type} {f : State → α → State} (m : Nat) (h : ∀ s a, ((f s a).part m).mark = (s.part m).mark) (l : List α) (s : State) :
    ((l.foldl f s).part m).mark = (s.part m).mark :=
  List.foldlRecOn (motive := fun t => (t.part m).mark = (s.part m).mark) l f rfl fun t ht a _ => (h t a).trans ht

theorem State.finish_mark (s : State) (n : Nat) (d : Desc) (st m : Nat) : ((s.finish n d st).part m).mark = (s.part m).mark := by
  refine State.updPart_mark (f := fun p => { p with flight := _ }) ?_ n m
  exact fun _ => rfl

@[simp] theorem State.event_mark (s : State) (n ev : Nat) (w : Word) (m : Nat) : ((s.event n ev w).part m).mark = (s.part m).mark := by
  unfold State.event State.unsolicited
  dsimp only
  split
  · refine State.updPart_mark ?_ n m
    exact fun _ => rfl
  · split
    · rfl
    · refine State.updPart_mark ?_ n m
      exact fun _ => rfl

@[simp] theorem State.abortFlight_mark (s : State) (n m : Nat) : ((s.abortFlight n).part m).mark = (s.part m).mark :=
  State.mark_foldl m (fun s d => State.finish_mark s n d stABORTED m) _ s

@[simp] theorem State.repaintLeft_mark (s : State) (r : Option Repaint) (m : Nat) : ((s.repaintLeft r).part m).mark = (s.part m).mark := by
  unfold State.repaintLeft State.repaintReached
  split
  · split
    · rfl
    · split
      · exact State.finish_mark s _ _ _ m
      · rfl
  · rfl

@[simp] theorem State.discardUnissued_mark (s : State) (n m : Nat) : ((s.discardUnissued n).part m).mark = (s.part m).mark :=
  State.mark_foldl m (fun s c => by dsimp only; split <;> rfl) _ s

@[simp] theorem State.amend_mark (s : State) (n : Nat) (old new : FaultRec) (m : Nat) : ((s.amend n old new).part m).mark = (s.part m).mark := by
  have h := State.updPart_mark (s := s) (f := fun p => { p with frec := some new, evq := replaceLast (fun (r : Rec) => r.tells n old.w0) (fun r => { r with detail := new.w0 }) p.evq })
    (fun _ => rfl) n m
  unfold State.amend
  dsimp only
  split <;> exact h

@[simp] theorem State.amendReason_mark (s : State) (key old new m : Nat) : ((s.amendReason key old new).part m).mark = (s.part m).mark := by
  refine State.mark_foldl m (fun s e => ?_) _ _
  split
  · split
    · exact State.amend_mark s _ _ _ m
    · rfl
  · rfl

@[simp] theorem State.flood_mark (s : State) (b : JobStopBody) (k : Bool) (m : Nat) : ((s.flood b k).part m).mark = (s.part m).mark := by
  rw [State.flood_frame]
  rfl

/-- The partition has stopped, and has noted that a cause was found at a place. -/
def State.noted (s : State) (n : Nat) (x : Nat × Nat) : Prop := (s.part n).st = .faultStop ∧ x ∈ (s.part n).raised

theorem State.noted_of_mark {s t : State} {n : Nat} {x : Nat × Nat} (e : (t.part n).mark = (s.part n).mark) (h : s.noted n x) : t.noted n x := by
  obtain ⟨est, eraised⟩ := Prod.mk.injEq .. ▸ e
  exact ⟨est.trans h.1, eraised.symm ▸ h.2⟩

theorem State.noted_ite {p : Prop} {i : Decidable p} {s t : State} {n : Nat} {x : Nat × Nat} (hs : s.noted n x) (ht : t.noted n x) : (if p then s else t).noted n x := by
  split
  · exact hs
  · exact ht

/-- What follows once a partition stands in Fault-stop changes neither its state nor what it has noted. -/
theorem stop_end_mark (t : State) (ps : Tab FPort) (n k : Nat) (r : Option Repaint) (w : Word) (m : Nat) :
    ((((((State.abortFlight { t.discardUnissued n with ports := ps } n).repaintLeft r).platform .faultStop k).event n 1 w).count .faultStop (.die 6) (some n)).part m).mark =
      (t.part m).mark := by
  rw [State.count_part, State.event_mark, State.platform_part, State.repaintLeft_mark, State.abortFlight_mark]
  exact State.discardUnissued_mark t n m

/-- A stop of a partition that a cause takes out of its state notes the place of that cause. -/
theorem State.stopOne_notes {s : State} {n : Nat} {c : Cause} (h : (s.part n).stopsFor c.code = true) {x : Nat × Nat} (hx : x ∈ c.source) : (s.stopOne n c).noted n x := by
  unfold State.stopOne
  dsimp only
  rw [if_pos h]
  refine State.noted_of_mark (stop_end_mark (s.setPart n _) _ _ _ _ _ n) ?_
  unfold State.noted
  rw [State.part_setPart_same]
  exact ⟨rfl, hx⟩

/-- A further place noted for a partition leaves what was noted. -/
theorem State.noted_raised {s : State} {n : Nat} {x : Nat × Nat} (h : s.noted n x) {m : Nat} {l : List (Nat × Nat)} {p : Part} (hst : p.st = (s.part m).st)
    (hr : p.raised = l ++ (s.part m).raised) : (s.setPart m p).noted n x := by
  unfold State.noted
  by_cases hm : n = m
  · subst hm
    rw [State.part_setPart_same, hst, hr]
    exact ⟨h.1, List.mem_append_right _ h.2⟩
  · rw [State.part_setPart_other _ _ hm]
    exact h

/-- What is noted stays noted. -/
theorem State.stopOne_keeps {s : State} {n : Nat} {x : Nat × Nat} (h : s.noted n x) (m : Nat) (c : Cause) : (s.stopOne m c).noted n x := by
  have hst : (s.part n).st = .faultStop := h.1
  unfold State.stopOne
  dsimp only
  split
  · rename_i hm
    have hne : n ≠ m := by
      rintro rfl
      simp [Part.stopsFor, hst] at hm
    refine State.noted_of_mark (stop_end_mark (s.setPart m _) _ _ _ _ _ n) ?_
    unfold State.noted
    rw [State.part_setPart_other _ _ hne]
    exact h
  · split
    · split
      · split
        · exact State.noted_of_mark (State.amend_mark s m _ _ n) h
        · have raised : (s.updPart m fun p => { p with raised := c.source ++ p.raised }).noted n x := State.noted_raised h rfl rfl
          generalize (s.updPart m fun p => { p with raised := c.source ++ p.raised }) = u at *
          have amended : ∀ (p : Prop) (i : Decidable p) old new, ((@ite State p i u (u.count .secondaryCause (.die 6) (some m))).amend m old new).noted n x :=
            fun p i old new => State.noted_of_mark (State.amend_mark _ m old new n) (State.noted_ite raised raised)
          exact State.noted_ite (State.noted_of_mark (State.amendReason_mark _ _ _ _ n) (amended _ _ _ _)) (amended _ _ _ _)
      · exact State.noted_raised h rfl rfl
    · exact h

theorem State.stopOnes_keep {s : State} {n : Nat} {x : Nat × Nat} (h : s.noted n x) (l : List Nat) (c : State → Cause) : (l.foldl (fun s m => s.stopOne m (c s)) s).noted n x :=
  List.foldlRecOn (motive := fun (t : State) => t.noted n x) l _ h fun _ ht m _ => State.stopOne_keeps ht m _

theorem State.floodKeys_keeps {s : State} {n : Nat} {x : Nat × Nat} (h : s.noted n x) (code : Nat) (keys : List Nat) : (s.floodKeys code keys).noted n x :=
  List.foldlRecOn (motive := fun (t : State) => t.noted n x) keys _ h fun t ht key _ =>
    State.stopOnes_keep (State.noted_of_mark (State.flood_mark t (t.ownStop key code) false n) ht) _ fun s => jobStopCause code s.domainNo s.devid

/-- A partition that a cause stops has noted the place of the cause. -/
theorem State.faultStop_notes {s : State} {n : Nat} {c : Cause} (h : (s.part n).stopsFor c.code = true) {x : Nat × Nat} (hx : x ∈ c.source) : (s.faultStop n c).noted n x := by
  unfold State.faultStop State.faultStopAll
  dsimp only
  split
  · exact State.stopOne_notes h hx
  · exact State.floodKeys_keeps (State.stopOne_notes h hx) _ _

/-- Where a stop has noted a queue of a core, nothing more is detected there. -/
theorem State.detects_of_noted {s : State} {n : Nat} {c : CoreId} {q : Nat} (h : s.noted n (c.ix, q)) : s.detects n c q = false := by
  obtain ⟨hst, hx⟩ := h
  simp [State.detects, hst, hx]

/-! ### Rows that issue -/

/-- Each row that issues a command of the engines or of SEND, RECV, SET and WAIT: the row, its commands, and what an issued command does (04, R88, R107). -/
def issueRows (c : CoreId) : List ((IssueRead → Instr) × (Cmd → Bool) × (State → Nat → Cmd → State)) :=
  let enters (s : State) (n : Nat) (q : Cmd) : State := s.enqueue n c q.queue q
  let acts (here : State → Nat → Cmd → Attempt) (s : State) (n : Nat) (q : Cmd) : State := if q.queue < 4 then s.enqueue n c q.queue q else s.actHere n c q (here s n q)
  [(.mpass, fun q => q.opcode = 0x01, enters), (.wload, fun q => q.opcode = 0x02, enters), (.add, isVop 0x01, enters), (.sub, isVop 0x02, enters), (.mul, isVop 0x03, enters),
   (.fma, isVop 0x04, enters), (.div, isVop 0x05, enters), (.sqrt, isVop 0x06, enters), (.min, isVop 0x07, enters), (.max, isVop 0x08, enters), (.neg, isVop 0x09, enters),
   (.abs, isVop 0x0A, enters), (.conv, isVop 0x0B, enters), (.rsum, isVop 0x0C, enters), (.rmax, isVop 0x0D, enters), (.exp2, isVop 0x0E, enters),
   (.vcomb, fun q => q.opcode = 0x12, enters), (.move, fun q => q.opcode = 0x20, enters), (.split, fun q => q.opcode = 0x21, enters), (.gather, fun q => q.opcode = 0x22, enters),
   (.scatter, fun q => q.opcode = 0x23, enters), (.fetch, fun q => q.opcode = 0x28, enters), (.store, fun q => q.opcode = 0x29, enters),
   (.send, fun q => q.opcode = 0x30, fun s n q =>
      if q.sendRoute = 1 && (match (s.core c).sends[q.shaftIx]? with | some (p, shaft) => !s.calendarHas n p shaft (s.core c).gen | none => false) then
        s.setCore c ((s.core c).beginWait 4 s.now)
      else s.enqueue n c 3 q),
   (.recvAcquire, fun q => q.opcode = 0x31 && !q.recvRelease, acts fun s n q => s.tryAcquire n c 4 (s.core c).gen q),
   (.recvRelease, fun q => q.opcode = 0x31 && q.recvRelease, acts fun s n q => .done (s.catchUp.release n c 4 (s.core c).gen q.recvSlot)),
   (.set, fun q => q.opcode = 0x38, acts fun s n q => s.trySet n c 4 (s.core c).gen (s.core c).pc q), (.wait, fun q => q.opcode = 0x39, acts fun s n q => s.tryWait n c 4 q)]

theorem rows_eq (c : CoreId) (ecc hbm : List EccAt) : engineRows c ecc hbm ++ flowRows c ecc hbm = (issueRows c).map fun r => (r.1 ⟨c, ecc, hbm⟩, r.2.1) := rfl

theorem exec_issueRows (c : CoreId) : ∀ r ∈ issueRows c, ∀ ecc hbm s, exec (r.1 ⟨c, ecc, hbm⟩) s = .next (s.issueRow c ecc r.2.1 r.2.2) := by
  simp only [issueRows, List.forall_mem_cons]
  repeat' refine And.intro (fun _ _ _ => rfl) ?_
  exact fun _ h => absurd h List.not_mem_nil

/-- A row that issues is one of them, and what it does is written there. -/
theorem exec_row {c : CoreId} {ecc hbm : List EccAt} {e : Instr × (Cmd → Bool)} (h : e ∈ engineRows c ecc hbm ∨ e ∈ flowRows c ecc hbm) :
    ∃ act, ∀ s, exec e.1 s = .next (s.issueRow c ecc e.2 act) := by
  obtain ⟨r, hr, rfl⟩ := List.mem_map.1 (rows_eq c ecc hbm ▸ List.mem_append.2 h)
  exact ⟨r.2.2, fun s => exec_issueRows c r hr ecc hbm s⟩

/-- Two rows at the same place do the same, whatever is read. -/
theorem exec_rows {c : CoreId} {ecc ecc' hbm : List EccAt} {i : Nat} {e e' : Instr × (Cmd → Bool)} (h : (engineRows c ecc hbm ++ flowRows c ecc hbm)[i]? = some e)
    (h' : (engineRows c ecc' hbm ++ flowRows c ecc' hbm)[i]? = some e') :
    ∃ act, (∀ s, exec e.1 s = .next (s.issueRow c ecc e.2 act)) ∧ ∀ s, exec e'.1 s = .next (s.issueRow c ecc' e.2 act) := by
  rw [rows_eq, List.getElem?_map, Option.map_eq_some_iff] at h h'
  obtain ⟨r, hr, rfl⟩ := h
  obtain ⟨r', hr', rfl⟩ := h'
  obtain rfl : r = r' := Option.some.inj (hr.symm.trans hr')
  have hm := List.mem_of_getElem? hr
  exact ⟨_, exec_issueRows c r hm ecc hbm, exec_issueRows c r hm ecc' hbm⟩

/-! ### The reading of a command (05, R117) -/

@[simp] theorem State.readError_part (s : State) (n : Nat) (c : CoreId) (e : EccAt) (m : Nat) : (s.readError n c e).part m = s.part m := by
  unfold State.readError
  repeat' split
  all_goals rfl

/-- A read that is not uncorrectable is counted, and changes nothing else. -/
theorem State.readError_counted (s : State) (n : Nat) (c : CoreId) {e : EccAt} (h : e.ecc ≠ .uncorrectable) :
    ∃ ev ct acc, s.readError n c e = { s with events := ev, counts := ct, canAcc := acc } := by
  unfold State.readError
  split
  · exact ⟨_, _, _, rfl⟩
  · exact ⟨_, _, _, rfl⟩
  · contradiction

/-- Reads without an uncorrectable error are counted, and change nothing else. -/
theorem State.readErrors_counted (s : State) (n : Nat) (c : CoreId) (q cmd : Nat) (as : List Int) (stop : Bool) {es : List EccAt} (h : ∀ x ∈ es, x.ecc ≠ .uncorrectable) :
    ∃ ev ct acc, s.readErrors n c q cmd as stop es = { s with events := ev, counts := ct, canAcc := acc } := by
  have mine : ∀ e ∈ es.filter fun e => as.contains (e.addr : Int), e.ecc ≠ .uncorrectable := fun e he => h e (List.mem_filter.1 he).1
  have counted := List.foldlRecOn (motive := fun (t : State) => ∃ ev ct acc, t = { s with events := ev, counts := ct, canAcc := acc })
    (es.filter fun e => as.contains (e.addr : Int)) (fun s e => s.readError n c e) ⟨s.events, s.counts, s.canAcc, rfl⟩ fun t ⟨_, _, _, ht⟩ e he => by
      obtain ⟨ev, ct, acc, hr⟩ := t.readError_counted n c (mine e he)
      exact ⟨ev, ct, acc, by rw [hr, ht]⟩
  unfold State.readErrors
  dsimp only
  rw [List.find?_eq_none.2 fun e he => by simp [mine e he]]
  exact counted

/-- Settles O21: a row reads its command, and then stops, skips or acts, as the checks and the predicate say. -/
theorem issueStopsAndSkips : Obligations.IssueStopsAndSkips := by
  intro s c ecc hbm n q e he hp hc hn hr ht
  obtain ⟨act, hact⟩ := exec_row he
  refine ⟨fun a ha => ?_, fun hpo hrun x hx hu hin => ?_, fun hpo hnu i e' hi hi' => ?_, fun hpo hclean sub hk => ?_, fun hpo hclean hk hrun hpr => ?_⟩
  · rw [hact, State.issueRow_poisoned hp hc ha]
  · have hread : s.readErrors n c 4 (s.core c).pc (s.cmdBytes c) true ecc =
        (s.readError n c x).faultStop n { code := cUNCORRECTED, core := some c, queue := 4, cmd := (s.core c).pc, addr := x.addr / 16 * 16 } := by
      simp [State.readErrors, hx, hu, hin]
    have hstops : ((s.readError n c x).part n).stopsFor cUNCORRECTED = true := by
      rw [State.readError_part]
      exact Part.stopsFor_run (.inl hrun) _
    rw [hact, State.issueRow_reads hp hc hpo hn hr ht, hread, State.judged_undetected (State.detects_of_noted (State.faultStop_notes hstops (List.mem_singleton.2 rfl)))]
  · obtain ⟨act, hrow, hrow'⟩ := exec_rows hi hi'
    rw [hrow, hrow']
    obtain ⟨ev, ct, acc, hread⟩ := s.readErrors_counted n c 4 (s.core c).pc (s.cmdBytes c) true hnu
    rw [State.issueRow_reads hp hc hpo hn hr ht, hread, State.issueRow_reads (s := { s with events := ev, counts := ct, canAcc := acc }) hp hc hpo hn hr ht,
      State.readErrors_clean _ _ _ _ _ _ _ (fun _ h => absurd h List.not_mem_nil)]
    rfl
  · rw [hact, State.issueRow_refuses hp hc hpo hn hr ht hclean act hk]
  · rw [hact, State.issueRow_reads hp hc hpo hn hr ht, State.readErrors_clean _ _ _ _ _ _ _ hclean, State.judged_skipped (State.detects_of_canIssue hc) hk hrun hpr]

end Sys2Proof.Machine
end

section
/-! PROOF. WAIT, SET and RECV in the sequencer (04, R105-R108; 08, R194). -/

namespace Sys2Proof.Machine

/-! ### What acts in the sequencer -/

theorem State.part_setCore (s : State) (c : CoreId) (k : Core) (n : Nat) : (s.setCore c k).part n = s.part n := by rfl
theorem State.port_setCore (s : State) (c : CoreId) (k : Core) (p : Nat) : (s.setCore c k).port p = s.port p := by rfl

/-- A command of the sequencer itself acts there once it issues. -/
theorem State.issueFlow_here {s : State} {c : CoreId} {ecc : List EccAt} {n : Nat} {q : Cmd} (h : s.issues c ecc n q) (hq : q.queue = 4) {row : Cmd → Bool} (hr : row q = true)
    (here : State → Nat → Cmd → Attempt) : s.issueFlow c ecc row here = s.actHere n c q (here s n q) := by
  unfold State.issueFlow
  rw [State.issueRow_issues h row _ hr]
  exact if_neg (by omega)

/-- Issue has moved on from `k` to `l` by one command, and the waits that ended have been timed. -/
def Core.movesOn (k l : Core) : Prop :=
  l = { k with pc := k.pc + 1, ended := decide (k.streamLen ≤ k.pc + 1), ahead := l.ahead, lampWait := l.lampWait, stalls := l.stalls, lost := l.lost }

theorem Core.movesOn.after {k l : Core} (h : k.movesOn l) : l = k.after l := h.trans (by rw [Core.after, h])

/-- An attempt that has acted lets issue move on. -/
theorem State.actHere_done (s t : State) (n : Nat) (c : CoreId) (q : Cmd) : ∃ k, s.actHere n c q (.done t) = t.setCore c k ∧ (t.core c).movesOn k := by
  obtain ⟨l, m, e⟩ := ((t.core c).endFull 4).endWait_frame 4 7 t.now
  obtain ⟨l', m', e'⟩ := (((t.core c).endFull 4).endWait 4 7 t.now).endStall_frame 4 t.now
  refine ⟨_, rfl, ?_⟩
  rw [e', e]
  rfl

/-- An attempt that has acted on its own core only leaves that core alone changed, with issue moved on. -/
theorem State.actHere_own (s : State) (n : Nat) (c : CoreId) (q : Cmd) (k : Core) :
    ∃ t, s.actHere n c q (.done (s.setCore c k)) = t ∧ t = s.setCore c (t.core c) ∧ k.movesOn (t.core c) := by
  obtain ⟨l, e, hm⟩ := s.actHere_done (s.setCore c k) n c q
  refine ⟨_, rfl, ?_⟩
  rw [e, State.setCore_setCore, State.core_setCore_same]
  exact ⟨rfl, by rwa [State.core_setCore_same] at hm⟩

theorem Core.beginStall_new {k : Core} {q : Nat} (x : Stall) (h : Tab.find k.stalls q = none) : k.beginStall q x = { k with stalls := Tab.put k.stalls q x } := by
  unfold Core.beginStall
  rw [h]

/-- An attempt that stalls leaves its core waiting on its item, from now on where it did not stall before. -/
theorem State.actHere_stall (s : State) (n : Nat) (c : CoreId) (q : Cmd) (limit item need kind : Nat) :
    ∃ t x, s.actHere n c q (.stall limit item need kind) = t ∧ t = s.setCore c (t.core c) ∧ Tab.find (t.core c).stalls 4 = some x ∧ x.item = item ∧
      (Tab.find (s.core c).stalls 4 = none → x.since = s.now ∧ x.edges = 0 ∧ x.limit = limit) ∧
      t.core c = { s.core c with stalls := (t.core c).stalls, lost := (t.core c).lost } := by
  obtain ⟨y, hy⟩ : ∃ y : Stall, y = { since := s.now, edges := 0, limit := limit, item := item, need := need, kind := kind } := ⟨_, rfl⟩
  have hacts : s.actHere n c q (.stall limit item need kind) = s.setCore c ((s.core c).beginStall 4 y) := by rw [hy]; rfl
  obtain ⟨x, hx, hitem⟩ := (s.core c).beginStall_item 4 y
  obtain ⟨st, lo, e⟩ := (s.core c).beginStall_frame 4 y
  refine ⟨_, x, hacts, ?_⟩
  rw [State.core_setCore_same]
  refine ⟨rfl, hx, by rw [hitem, hy], fun hnone => ?_, by rw [e]⟩
  rw [Core.beginStall_new y hnone, Tab.find_put_same] at hx
  cases hx
  subst hy
  exact ⟨rfl, rfl, rfl⟩

/-! ### WAIT and ACQUIRE (04, R105, R107) -/

theorem State.tryWait_stalls {s : State} {n : Nat} {c : CoreId} {q : Nat} {x : Cmd} (h : (s.core c).flag x.waitFlag < x.waitN) :
    s.tryWait n c q x = .stall (s.limit n (wf x.w0 13 2)) x.waitFlag x.waitN 0 := if_neg fun hk => absurd hk.1 (by omega)

theorem State.tryAcquire_full {s : State} {n : Nat} {c : CoreId} {q gen : Nat} {x : Cmd} (ha : s.assayEn n = false) (h : ((s.core c).slot (slotIx gen x.recvSlot)).full = true) :
    ∃ st lo ri rf, s.tryAcquire n c q gen x = .done (s.setCore c { s.core c with stalls := st, lost := lo, retryItems := ri, refreshItems := rf }) := by
  obtain ⟨l, m, e⟩ := (s.core c).endStall_frame q s.now
  unfold State.tryAcquire
  dsimp only
  rw [if_pos h, e]
  exact ⟨l, m, Tab.erase (s.core c).retryItems (slotItem x.recvSlot), Tab.erase (s.core c).refreshItems (slotItem x.recvSlot),
    congrArg Attempt.done (State.takeClock_off (s := s.setCore c _) ha c q _)⟩

theorem State.tryAcquire_empty {s : State} {n : Nat} {c : CoreId} {q gen : Nat} {x : Cmd} (h : ((s.core c).slot (slotIx gen x.recvSlot)).full = false) :
    ∃ limit, s.tryAcquire n c q gen x = .stall limit (slotItem x.recvSlot) 0 1 := ⟨_, if_neg (by simp [h])⟩

/-! ### SET (04, R106, R107) -/

section
variable {s : State} {n : Nat} {c : CoreId} {q gen idx : Nat} {x : Cmd}

theorem State.trySet_own (ha : s.assayEn n = false) (hr : x.setRoute = 0) (hf : (s.core c).flagOk (roleTag gen x.role) x.setFlag = true) :
    s.trySet n c q gen idx x = .done (s.incFlag n c x.setFlag []) := by simp [State.trySet, hr, hf, State.handOn_off ha]

theorem State.trySet_stray (hr : x.setRoute = 0) (hf : (s.core c).flagOk (roleTag gen x.role) x.setFlag = false) :
    s.trySet n c q gen idx x = .done (s.count .stray (.core c) (some n)) := by simp [State.trySet, hr, hf]

theorem State.trySet_mesh (ha : s.assayEn n = false) (hr : x.setRoute = 1) :
    s.trySet n c q gen idx x = .done (State.updPart { s with meshSets := s.meshSets ++ [{ pt := n, src := c, dst := x.dest, flag := x.setFlag, tag := roleTag gen x.role, vc := [] }] } n
      fun p => { p with meshSent := p.meshSent + 1 }) := by simp [State.trySet, hr, State.handOn_off ha]

theorem State.trySet_shaft {p shaft : Nat} (hr : x.setRoute = 2) (hs : ((s.core c).sendsOf gen)[x.shaftIx]? = some (p, shaft)) (ho : (s.port p).outstanding < 16384) :
    s.trySet n c q gen idx x = .done (s.shaftOut n (some c) p shaft gen x.role [List.replicate 240 0]) := by simp [State.trySet, hr, hs, Nat.not_le.2 ho]

/-- An increment of a full flag of a running partition stops it (04, R106). -/
theorem State.incFlag_full {f : Nat} (vc : Tab Nat) (hrun : (s.part n).st = .run) (hf : 65535 ≤ (s.core c).flag f) :
    ((s.incFlag n c f vc).part n).st = .faultStop ∧ s.coresShed (s.incFlag n c f vc) := by
  have hv : s.addFlag n c f = (s.count .ledger (.die 6) none).faultStop n { overflowCause c f ((s.core c).flag f + 1) with code := cLEDGER } := by
    unfold State.addFlag State.overflowing
    rw [if_neg (by omega), if_neg (by simp [hrun])]
    rfl
  have hst : ((s.addFlag n c f).part n).st = .faultStop := by
    rw [hv]
    exact State.faultStop_stops (Part.stopsFor_run (.inl hrun) _)
  have hshed : s.coresShed (s.addFlag n c f) := by
    rw [hv]
    exact State.coresShed_trans (State.coresShed_of_cores rfl) (State.faultStop_sheds _ n _)
  unfold State.incFlag
  dsimp only
  split
  · exact ⟨hst, hshed⟩
  · exact ⟨hst, hshed⟩

end

/-! ### RELEASE (04, R105) -/

theorem State.halve_cores (s : State) (domain devid : Nat) : (s.halve domain devid).cores = s.cores := by
  unfold State.halve
  dsimp only
  split <;> rfl

theorem State.takeDelivered_cores (s : State) (k : LoosePkt) : (s.takeDelivered k).cores = s.cores := by
  unfold State.takeDelivered
  split
  · dsimp only
    split
    · rw [State.halve_cores]
    · rfl
  · rfl

/-- A credit that comes back changes nothing else of its core. -/
theorem Core.creditBack_remote {k l : Core} {domain devid : Nat} {dst : CoreId} {slot : Nat} (h : k.creditBack domain devid dst slot = some l) : ∃ r, l = { k with remote := r } := by
  unfold Core.creditBack at h
  dsimp only at h
  split at h
  · exact ⟨_, (Option.some.inj h).symm⟩
  · split at h
    · exact ⟨_, (Option.some.inj h).symm⟩
    · cases h

/-- A response leaves every core as it is, but for the slots elsewhere whose credits it holds. -/
theorem State.respond_core (s : State) (k : LoosePkt) (d : CoreId) : ∃ r, (s.respond k).core d = { s.core d with remote := r } := by
  have kept : ∀ t : State, t.cores = s.cores → ∃ r, t.core d = { s.core d with remote := r } := fun t h => ⟨(s.core d).remote, by simp [State.core, h]⟩
  unfold State.respond State.takeResponse
  split
  · split
    · exact kept _ rfl
    · split
      · exact kept _ rfl
      · split
        · exact kept _ (State.takeDelivered_cores s k)
        · unfold State.takeCredit
          split
          · rename_i x hx
            by_cases hd : d.ix = k.dst.ix
            · rw [coreIx_inj hd, State.core_setCore_same]
              exact Core.creditBack_remote hx
            · rw [State.core_setCore_other _ _ hd]
              exact ⟨_, rfl⟩
          · exact kept _ rfl
        · exact kept _ rfl
  · split
    · exact kept _ rfl
    · exact kept _ rfl

/-- What a RELEASE leaves of its core: the slot empty, and what was kept for its item no more. -/
def Core.released (k : Core) (i item : Nat) : Core := (k.setSlot i { k.slot i with full := false }).consumed item

theorem Core.movesOn.of_released {k l : Core} {i item : Nat} (h : (k.released i item).movesOn l) : l = { k.after l with slotSt := l.slotSt } :=
  h.trans (by rw [Core.after, h]; rfl)

theorem State.core_withCredits (s : State) (l : List CreditMsg) (c : CoreId) : ({ s with credits := l } : State).core c = s.core c := rfl
theorem State.setCore_withCredits (s : State) (l : List CreditMsg) (c : CoreId) (k : Core) : ({ s with credits := l } : State).setCore c k = { s.setCore c k with credits := l } := rfl

section
variable {u : State} {n : Nat} (ha : u.assayEn n = false) (c : CoreId) (q gen slot : Nat)
include ha

theorem State.release_none (h : ((u.core c).slot (slotIx gen slot)).src = none) :
    u.release n c q gen slot = u.setCore c ((u.core c).released (slotIx gen slot) (slotItem slot)) := by
  have hoff : ∀ k, (u.setCore c k).assayEn n = false := fun k => (State.assayEn_congr (State.setCore_regs ..) n).trans ha
  simp [State.release, State.handOn_off ha, h, hoff, Core.released, State.updCore]

theorem State.release_mesh {src : CoreId} (h : ((u.core c).slot (slotIx gen slot)).src = some (.mesh src)) :
    u.release n c q gen slot = { u.setCore c ((u.core c).released (slotIx gen slot) (slotItem slot)) with
      credits := u.credits ++ [{ pt := n, src := src, dst := c, slot := slotIx gen slot, vc := [] }] } := by
  have hoff : ∀ k, (u.setCore c k).assayEn n = false := fun k => (State.assayEn_congr (State.setCore_regs ..) n).trans ha
  simp [State.release, State.handOn_off ha, h, hoff, Core.released, State.updCore]

/-- To whomever the credit goes back, the core has released the slot. -/
theorem State.release_core : ∃ r, (u.release n c q gen slot).core c = { (u.core c).released (slotIx gen slot) (slotItem slot) with remote := r } := by
  have hoff : ∀ k, (u.setCore c k).assayEn n = false := fun k => (State.assayEn_congr (State.setCore_regs ..) n).trans ha
  cases h : ((u.core c).slot (slotIx gen slot)).src with
  | none =>
    rw [State.release_none ha c q gen slot h, State.core_setCore_same]
    exact ⟨_, rfl⟩
  | some from_ =>
    cases from_ with
    | mesh src =>
      rw [State.release_mesh ha c q gen slot h]
      exact ⟨_, State.core_setCore_same u c _⟩
    | remote domain devid src b =>
      have he : u.release n c q gen slot = (u.setCore c ((u.core c).released (slotIx gen slot) (slotItem slot))).creditPacket n c gen slot domain devid src := by
        simp [State.release, State.handOn_off ha, h, hoff, Core.released, State.updCore]
      obtain ⟨r, hr⟩ := State.respond_core (u.setCore c ((u.core c).released (slotIx gen slot) (slotItem slot))) _ c
      rw [State.core_setCore_same] at hr
      exact ⟨r, he ▸ hr⟩

end

/-- Settles O22: each command acts in the sequencer, and what it leaves is read off the equation of its attempt. -/
theorem flowInSequencer : Obligations.FlowInSequencer := by
  intro s c ecc hbm n q h hq ha
  have hrun : (s.part n).st = .run := by
    obtain ⟨-, -, hrun, -⟩ := h
    exact hrun
  refine ⟨fun ho => ⟨fun hN hturn => ?_, fun hN => ?_⟩, fun ho hr => ⟨fun hok hf => ?_, fun hok hf => ?_, fun hno => ?_⟩, fun ho hr => ?_, fun ho hr p shaft hs hout => ?_,
    fun ho hr => ⟨fun hfull => ?_, fun hempty => ?_⟩, fun ho hr u i hu hi hst => ?_⟩
  · obtain ⟨st, lo, ri, rf, htake⟩ := State.tryWait_takes (q := 4) ha hN hturn
    obtain ⟨t, e, ht, hm⟩ := s.actHere_own n c q { s.core c with
      flags := Tab.put (s.core c).flags q.waitFlag ((s.core c).flag q.waitFlag - q.waitN), stalls := st, lost := lo, retryItems := ri, refreshItems := rf }
    refine ⟨t, ?_, ht, ?_, fun f hf => ?_, ?_⟩
    · rw [← e, ← htake]
      exact congrArg Host.Outcome.next (State.issueFlow_here h hq (by simp [ho]) _)
    · rw [hm]
      exact Tab.get_put_same _ _ _ _
    · rw [hm]
      exact Tab.get_put_other _ _ _ hf
    · rw [Core.after, hm]
  · obtain ⟨t, x, e, ht, hx, hitem, hnew, hcore⟩ := s.actHere_stall n c q (s.limit n (wf q.w0 13 2)) q.waitFlag q.waitN 0
    refine ⟨t, x, ?_, ht, hx, hitem, hnew, hcore⟩
    rw [← e, ← State.tryWait_stalls hN]
    exact congrArg Host.Outcome.next (State.issueFlow_here h hq (by simp [ho]) _)
  · obtain ⟨t, e, ht, hm⟩ := s.actHere_own n c q { s.core c with flags := Tab.put (s.core c).flags q.setFlag ((s.core c).flag q.setFlag + 1) }
    have hact : s.trySet n c 4 (s.core c).gen (s.core c).pc q = _ := (State.trySet_own ha hr hok).trans (congrArg Attempt.done (State.incFlag_rises [] ha hf))
    refine ⟨t, ?_, ht, ?_, fun f hf => ?_, ?_⟩
    · rw [← e]
      exact congrArg Host.Outcome.next ((State.issueFlow_here h hq (by simp [ho]) _).trans (congrArg (s.actHere n c q) hact))
    · rw [hm]
      exact Tab.get_put_same _ _ _ _
    · rw [hm]
      exact Tab.get_put_other _ _ _ hf
    · rw [Core.after, hm]
  · have hact := State.trySet_own (q := 4) (gen := (s.core c).gen) (idx := (s.core c).pc) ha hr hok
    obtain ⟨hst, hshed⟩ := State.incFlag_full (s := s) (n := n) (c := c) [] hrun hf
    obtain ⟨k, e, hm⟩ := s.actHere_done (s.incFlag n c q.setFlag []) n c q
    refine ⟨_, congrArg Host.Outcome.next ((State.issueFlow_here h hq (by simp [ho]) _).trans ((congrArg (s.actHere n c q) hact).trans e)), hst, fun f => ?_⟩
    obtain ⟨m, hcore⟩ := hshed c
    rw [State.core_setCore_same, hm, hcore]
    rfl
  · have hact := State.trySet_stray (n := n) (q := 4) (gen := (s.core c).gen) (idx := (s.core c).pc) hr hno
    obtain ⟨k, e, hm⟩ := s.actHere_done (s.count .stray (.core c) (some n)) n c q
    refine ⟨_, congrArg Host.Outcome.next ((State.issueFlow_here h hq (by simp [ho]) _).trans ((congrArg (s.actHere n c q) hact).trans e)), ?_⟩
    rw [State.core_setCore_same]
    exact ⟨rfl, hm.after⟩
  · have hact := State.trySet_mesh (c := c) (q := 4) (gen := (s.core c).gen) (idx := (s.core c).pc) ha hr
    obtain ⟨k, e, hm⟩ := s.actHere_done _ n c q
    refine ⟨_, congrArg Host.Outcome.next ((State.issueFlow_here h hq (by simp [ho]) _).trans ((congrArg (s.actHere n c q) hact).trans e)), ?_⟩
    rw [State.core_setCore_same]
    refine ⟨rfl, rfl, ?_, fun m hm => ?_, hm.after⟩
    · rw [State.part_setCore, State.part_updPart_same]
      rfl
    · rw [State.part_setCore, State.part_updPart_other _ _ hm]
      rfl
  · have hact := State.trySet_shaft (n := n) (q := 4) (idx := (s.core c).pc) (gen := (s.core c).gen) hr (by rw [Core.sendsOf, if_pos rfl, hs]) hout
    obtain ⟨k, e, hm⟩ := s.actHere_done _ n c q
    refine ⟨_, congrArg Host.Outcome.next ((State.issueFlow_here h hq (by simp [ho]) _).trans ((congrArg (s.actHere n c q) hact).trans e)), ?_⟩
    rw [State.core_setCore_same]
    refine ⟨rfl, ?_, fun m hm => ?_, hm.after⟩
    · rw [State.port_setCore, State.shaftOut, State.port_updPort_same]
      rfl
    · rw [State.port_setCore, State.shaftOut, State.port_updPort_other _ _ hm]
  · obtain ⟨st, lo, ri, rf, hact⟩ := State.tryAcquire_full (n := n) (q := 4) ha hfull
    obtain ⟨t, e, ht, hm⟩ := s.actHere_own n c q { s.core c with stalls := st, lost := lo, retryItems := ri, refreshItems := rf }
    refine ⟨t, ?_, ht, ?_⟩
    · rw [← e]
      exact congrArg Host.Outcome.next ((State.issueFlow_here h hq (by simp [ho, hr]) _).trans (congrArg (s.actHere n c q) hact))
    · rw [Core.after, hm]
  · obtain ⟨limit, hact⟩ := State.tryAcquire_empty (s := s) (n := n) (q := 4) hempty
    obtain ⟨t, x, e, ht, hx, hitem, -, hcore⟩ := s.actHere_stall n c q limit (slotItem q.recvSlot) 0 1
    refine ⟨t, x, ?_, ht, hx, hitem, hcore⟩
    rw [← e]
    exact congrArg Host.Outcome.next ((State.issueFlow_here h hq (by simp [ho, hr]) _).trans (congrArg (s.actHere n c q) hact))
  · have hau : u.assayEn n = false := by rw [hu, State.assayEn_congr s.catchUp_regs, ha]
    have hact : exec (.recvRelease ⟨c, ecc, hbm⟩) s = .next (s.actHere n c q (.done (u.release n c 4 (s.core c).gen q.recvSlot))) := by
      rw [hu]
      exact congrArg Host.Outcome.next (State.issueFlow_here h hq (by simp [ho, hr]) _)
    obtain ⟨k, e, hm⟩ := s.actHere_done (u.release n c 4 (s.core c).gen q.recvSlot) n c q
    obtain ⟨r, hcore⟩ := State.release_core hau c 4 (s.core c).gen q.recvSlot
    have hmoved := hm
    rw [hcore] at hm
    rw [hact, e]
    refine ⟨_, rfl, ?_⟩
    rw [State.core_setCore_same]
    subst hi
    refine ⟨?_, ?_, fun j hj => ?_, fun src hsrc => ?_, fun hsrc => ?_⟩
    · rw [hm]
      exact congrArg SlotSt.full (Tab.get_put_same _ _ _ _)
    · rw [hm]
      rfl
    · rw [hm]
      exact Tab.get_put_other _ _ _ hj
    · rw [State.release_mesh hau c 4 _ _ hsrc] at hmoved ⊢
      rw [State.core_withCredits, State.core_setCore_same] at hmoved
      exact ⟨by rw [State.setCore_withCredits, State.setCore_setCore], hmoved.of_released⟩
    · rw [State.release_none hau c 4 _ _ hsrc] at hmoved ⊢
      rw [State.core_setCore_same] at hmoved
      exact ⟨State.setCore_setCore u c _ _, hmoved.of_released⟩

end Sys2Proof.Machine
end

section
/-! PROOF. What the zeroing of a partition leaves in the stores and in the stacks (00, R10; 05, R121, R123, R136). -/

namespace Sys2Proof.Machine

/-! ### The stores -/

theorem CoreId.ix_div (c : CoreId) : c.ix / 8 = c.cluIx := by
  unfold CoreId.ix CoreId.cluIx
  omega

theorem Tab.get_filter {α : Type} (d : α) (m : Tab α) (p : Nat → Bool) (a : Nat) : Tab.get d (m.filter fun e => p e.1) a = if p a = true then Tab.get d m a else d := by
  unfold Tab.get
  rw [Tab.find_filter]
  split <;> rfl

theorem Mem.read_clear (m : Tab Byte) (p : Nat → Bool) (a : Nat) : Mem.read (Tab.clear m p) a = if p a = true then 0 else Mem.read m a := by
  unfold Mem.read Tab.clear
  rw [Tab.get_filter memDefault m fun a => !p a]
  cases p a <;> rfl

/-- The stores of the clusters that only this partition names become 0, and every other store byte keeps its value. -/
theorem State.readSt_zeroStores (s : State) (n : Nat) (c : CoreId) {a : Int} (h : storeOk a = true) :
    (s.zeroStores n).readSt c a = if s.soleClu n c.cluIx = true then 0 else s.readSt c a := by
  unfold storeOk at h
  unfold State.readSt State.zeroStores
  split at h
  · rename_i o ho
    simp only [ho, Tab.get_filter [] s.coreMem (fun k => !s.soleClu n (k / 8)), CoreId.ix_div]
    cases s.soleClu n c.cluIx <;> rfl
  · rename_i o ho
    simp only [ho, Tab.get_filter [] s.cluMem (fun k => !s.soleClu n k)]
    cases s.soleClu n c.cluIx <;> rfl
  · cases h

/-! ### The stacks -/

/-- The zeroing of one extent. -/
def State.zeroExtent (s : State) (n : Nat) (e : Nat × Nat × Nat) : State :=
  let lo := granule * e.2.1
  let hi := lo + granule * e.2.2
  if e.2.2 = 0 || (s.stack e.1).tripped || s.extentBad n e then s
  else { s with hbm := Tab.put s.hbm e.1 (Tab.clear (Tab.get [] s.hbm e.1) fun a => decide (lo ≤ a) && decide (a < hi)),
                hbmPoison := s.hbmPoison.filter fun w => !(decide (w.1 = e.1) && decide (lo ≤ w.2 * 32) && decide (w.2 * 32 < hi)) }

theorem State.zeroExtents_eq (s : State) (n : Nat) : s.zeroExtents n = (s.extents n).foldl (fun s e => s.zeroExtent n e) s := rfl

theorem State.zeroExtent_frame (s : State) (n : Nat) (e : Nat × Nat × Nat) :
    s.zeroExtent n e = { s with hbm := (s.zeroExtent n e).hbm, hbmPoison := (s.zeroExtent n e).hbmPoison } := by
  unfold State.zeroExtent
  dsimp only
  split <;> rfl

/-- A place lies in an extent. -/
def inExtent (p : Nat × Nat) (e : Nat × Nat × Nat) : Prop := e.1 = p.1 ∧ granule * e.2.1 ≤ p.2 ∧ p.2 < granule * e.2.1 + granule * e.2.2

/-- The zeroing of an extent makes the places in it 0 where it may be zeroed, and leaves every other place. -/
theorem State.hbmAt_zeroExtent (s : State) (n : Nat) (e : Nat × Nat × Nat) (p : Nat × Nat) :
    ((s.zeroExtent n e).hbmAt p = s.hbmAt p ∨ (s.zeroExtent n e).hbmAt p = 0) ∧
    (¬inExtent p e → (s.zeroExtent n e).hbmAt p = s.hbmAt p) ∧
    (inExtent p e → (s.stack e.1).tripped = false → s.extentBad n e = false → (s.zeroExtent n e).hbmAt p = 0) := by
  unfold State.zeroExtent
  dsimp only
  split
  · rename_i hskip
    refine ⟨.inl rfl, fun _ => rfl, fun ⟨_, hlo, hhi⟩ ht hb => ?_⟩
    have hsize : e.2.2 ≠ 0 := fun h0 => by
      rw [h0] at hhi
      omega
    simp [ht, hb, hsize] at hskip
  · unfold State.hbmAt
    dsimp only
    by_cases hk : p.1 = e.1
    · rw [hk, Tab.get_put_same, Mem.read_clear]
      split
      · rename_i hin
        simp only [Bool.and_eq_true, decide_eq_true_eq] at hin
        exact ⟨.inr rfl, fun hout => absurd ⟨hk.symm, hin⟩ hout, fun _ _ _ => rfl⟩
      · rename_i hout
        refine ⟨.inl rfl, fun _ => rfl, fun ⟨_, hin⟩ => absurd hin ?_⟩
        simpa using hout
    · rw [Tab.get_put_other _ _ _ hk]
      exact ⟨.inl rfl, fun _ => rfl, fun ⟨he, _⟩ => absurd he.symm hk⟩

theorem State.hbmAt_zeroExtents_other {s : State} {n : Nat} {l : List (Nat × Nat × Nat)} {p : Nat × Nat} (h : ∀ e ∈ l, ¬inExtent p e) :
    (l.foldl (fun s e => s.zeroExtent n e) s).hbmAt p = s.hbmAt p :=
  List.foldlRecOn (motive := fun (t : State) => t.hbmAt p = s.hbmAt p) l _ rfl fun t ht e he => by
    obtain ⟨-, other, -⟩ := t.hbmAt_zeroExtent n e p
    exact (other (h e he)).trans ht

theorem State.hbmAt_zeroExtents_zero {s : State} {n : Nat} {l : List (Nat × Nat × Nat)} {p : Nat × Nat} {e : Nat × Nat × Nat} (he : e ∈ l) (hin : inExtent p e)
    (ht : (s.stack e.1).tripped = false) (hb : s.extentBad n e = false) : (l.foldl (fun s e => s.zeroExtent n e) s).hbmAt p = 0 := by
  have zero : ∀ (l : List (Nat × Nat × Nat)) (s : State), s.hbmAt p = 0 → (l.foldl (fun s e => s.zeroExtent n e) s).hbmAt p = 0 := fun l s h0 =>
    List.foldlRecOn (motive := fun (t : State) => t.hbmAt p = 0) l _ h0 fun t ht e _ => by
      obtain ⟨kept | zeroed, -⟩ := t.hbmAt_zeroExtent n e p
      · exact kept.trans ht
      · exact zeroed
  induction l generalizing s with
  | nil => cases he
  | cons f l ih =>
    rw [List.foldl_cons]
    rcases List.mem_cons.1 he with rfl | he
    · obtain ⟨-, -, zeroed⟩ := s.hbmAt_zeroExtent n e p
      exact zero l _ (zeroed hin ht hb)
    · refine ih he ?_ ?_ <;> rw [State.zeroExtent_frame]
      · exact ht
      · exact hb

/-- A place of a region lies in one of its extents. -/
theorem mem_of_locate {es : List (Nat × Nat × Nat)} {a : Nat} {p : Nat × Nat} (h : locate es a = some p) : ∃ e ∈ es, inExtent p e := by
  induction es generalizing a with
  | nil => cases h
  | cons e es ih =>
    obtain ⟨k, base, size⟩ := e
    unfold locate at h
    split at h
    · cases h
      exact ⟨(k, base, size), List.mem_cons_self, rfl, Nat.le_add_right _ _, by dsimp only; omega⟩
    · obtain ⟨e, he, hp⟩ := ih h
      exact ⟨e, List.mem_cons_of_mem _ he, hp⟩

theorem State.zeroExtents_frame (s : State) (n : Nat) : s.zeroExtents n = { s with hbm := (s.zeroExtents n).hbm, hbmPoison := (s.zeroExtents n).hbmPoison } := by
  rw [State.zeroExtents_eq]
  exact List.foldlRecOn (motive := fun (t : State) => t = { s with hbm := t.hbm, hbmPoison := t.hbmPoison }) (s.extents n) (fun s e => s.zeroExtent n e) rfl fun t ht e _ => by
    rw [State.zeroExtent_frame, ht]

end Sys2Proof.Machine
end

section
/-! PROOF. A canvas that takes effect: what it leaves of the module beside its own partition's cores and stores (04, R85, R86; 10, R235; 12, R364). -/

namespace Sys2Proof.Machine

/-! ### What is looked at -/

/-- What a canvas sets in its partition: the state, the canvas, the generation, and the load under way. -/
def Part.head (p : Part) : PtState × Option Canvas × Nat × Option Loading := (p.st, p.canvas, p.gen, p.loading)

/-- What the install of a canvas is looked at for: every other partition, the head of its own, and the flash, the timebase, the host links and the poisoned words. -/
def State.view (n : Nat) (s : State) :=
  ((fun m => if m = n then none else some (s.part m) : Nat → Option Part), (s.part n).head, s.flash, s.tb, s.links, s.hbmPoison, s.poison)

theorem State.view_foldl {n : Nat} {α : Type} {f : State → α → State} (h : ∀ s a, (f s a).view n = s.view n) (l : List α) (s : State) : (l.foldl f s).view n = s.view n :=
  List.foldlRecOn (motive := fun (t : State) => t.view n = s.view n) l f rfl fun t ht a _ => (h t a).trans ht

/-- No word of the module is poisoned. -/
def State.clean (s : State) : Prop := s.hbmPoison = [] ∧ s.poison = []

theorem State.view_eq {n : Nat} {s t : State} (h : t.view n = s.view n) :
    s.otherParts t n ∧ (t.part n).head = (s.part n).head ∧ t.flash = s.flash ∧ t.tb = s.tb ∧ t.links = s.links ∧ (s.clean → t.clean) := by
  simp only [State.view, Prod.mk.injEq] at h
  obtain ⟨hother, hhead, hflash, htb, hlinks, hhbm, hpoison⟩ := h
  refine ⟨fun m hm => ?_, hhead, hflash, htb, hlinks, fun ⟨ch, cp⟩ => ⟨hhbm.trans ch, hpoison.trans cp⟩⟩
  have := congrFun hother m
  simpa [hm] using this

theorem State.view_clean {n : Nat} {s t : State} (h : t.view n = s.view n) (hc : s.clean) : t.clean := by
  obtain ⟨-, -, -, -, -, keeps⟩ := State.view_eq h
  exact keeps hc

/-- In a module without poison, what every change of a run leaves to view, the run leaves to view. -/
theorem State.view_foldl_clean {n : Nat} {α : Type} {f : State → α → State} (h : ∀ s a, s.clean → (f s a).view n = s.view n) (l : List α) {s : State} (hc : s.clean) :
    (l.foldl f s).view n = s.view n :=
  List.foldlRecOn (motive := fun (t : State) => t.view n = s.view n) l f rfl fun t ht a _ => (h t a (State.view_clean ht hc)).trans ht

/-! ### What the steps of an install leave to view -/

theorem State.view_setPart {s : State} {n : Nat} {p : Part} (h : p.head = (s.part n).head) : (s.setPart n p).view n = s.view n := by
  unfold State.view
  rw [State.part_setPart_same, h]
  congr 1
  funext m
  split
  · rfl
  · rename_i hm
    rw [State.part_setPart_other _ _ hm]

/-- The same for a change of the partition that its head does not see. -/
theorem State.view_updPart {s z : State} {n : Nat} {f : Part → Part} (h : s.view n = z.view n) (hf : (f (s.part n)).head = (s.part n).head) : (s.updPart n f).view n = z.view n :=
  (State.view_setPart hf).trans h

theorem State.view_platform (s : State) (n : Nat) (k : EventKind) (a : Nat) : (s.platform k a).view n = s.view n := by
  unfold State.platform
  split <;> rfl

theorem State.view_unsolicited (s : State) (n : Nat) (r : Rec) : (s.unsolicited n r).view n = s.view n := by
  unfold State.unsolicited
  split
  · rfl
  · exact State.view_setPart rfl

theorem State.view_event (s : State) (n ev : Nat) (w : Word) : (s.event n ev w).view n = s.view n := by
  unfold State.event
  dsimp only
  split
  · exact State.view_setPart rfl
  · exact State.view_unsolicited s n _

theorem State.view_writeHbmN (s : State) (n m a : Nat) (bs : List Byte) : (s.writeHbmN m a bs).view n = s.view n := by
  induction bs generalizing s a with
  | nil => rfl
  | cons b bs ih =>
    refine (ih (s.writeHbm m a b) (a + 1)).trans ?_
    rw [State.writeHbm_frame]
    rfl

theorem State.view_writeStN (s : State) (n : Nat) (c : CoreId) (a : Int) (bs : List Byte) : (s.writeStN c a bs).view n = s.view n := by
  induction bs generalizing s a with
  | nil => rfl
  | cons b bs ih =>
    refine (ih (s.writeSt c a b) (a + 1)).trans ?_
    rw [State.writeSt_frame]
    rfl

/-! ### Regions and stores without poison -/

theorem State.view_ownWrite {s : State} (hc : s.clean) (n a : Nat) (bs : List Byte) : (s.ownWrite n a bs).view n = s.view n := by
  have waits : ∀ ks name, (s.noteWait ks name).view n = s.view n := fun ks name => State.view_foldl (fun s k => by split <;> rfl) ks s
  unfold State.ownWrite
  split
  · rfl
  · split
    · exact waits _ _
    · unfold State.putRegion
      rw [State.readSectors_clean hc.1 n _ fun _ h => absurd h List.not_mem_nil]
      dsimp only
      have hw := s.view_writeHbmN n n a bs
      rw [State.clearHbmPoison_clean (State.view_clean hw hc).1, hw]

theorem State.view_landBytes {s : State} (hc : s.clean) (n : Nat) (c : CoreId) (a : Int) (bs : List Byte) : (s.landBytes n c a bs).view n = s.view n := by
  have hw := s.view_writeStN n c a bs
  have hnone : ∀ as, s.partialPoison c as = none := fun as => by simp [State.partialPoison, hc.2]
  unfold State.landBytes
  dsimp only
  rw [hnone]
  dsimp only
  rw [State.clearPoison_clean (State.view_clean hw hc).2]
  unfold State.setTags
  split
  · exact hw
  · exact hw

/-! ### The steward's table (11, R243) -/

theorem State.view_putSlot {s : State} (hc : s.clean) (n i : Nat) (z : SrvSlot) : (s.putSlot n i z).view n = s.view n := by
  have own : ∀ (t : State) a bs, t.view n = s.view n → (t.ownWrite n a bs).view n = s.view n := fun t a bs ht => (State.view_ownWrite (State.view_clean ht hc) n a bs).trans ht
  have hslots : ∀ f, (s.updSrv n f).view n = s.view n := fun f => State.view_setPart rfl
  unfold State.putSlot
  dsimp only
  repeat' split
  all_goals
    repeat' refine own _ _ _ ?_
    exact hslots _

theorem State.view_endSlot {s : State} (hc : s.clean) (n i status : Nat) : (s.endSlot n i status).view n = s.view n :=
  (State.view_unsolicited _ n _).trans (State.view_putSlot hc n i _)

theorem State.view_endGalleried {s : State} (hc : s.clean) (n : Nat) : (s.endGalleried n).view n = s.view n := by
  refine State.view_foldl_clean (fun s e hs => ?_) _ hc
  split
  · exact State.view_endSlot hs n _ _
  · split
    · exact State.view_putSlot hs n _ _
    · rfl

theorem State.view_loadSteward {s : State} (hc : s.clean) (n : Nat) : (s.loadSteward n).view n = s.view n := by
  unfold State.loadSteward
  split
  · exact State.view_setPart rfl
  · split
    · rename_i v _
      have hslots : (v.slots.foldl (fun s (e : Nat × SrvSlot) => s.putSlot n e.1 e.2.resume) s).view n = s.view n :=
        State.view_foldl_clean (fun s e hs => State.view_putSlot hs n e.1 e.2.resume) v.slots hc
      dsimp only
      refine State.view_updPart ?_ rfl
      split
      · exact (State.view_endGalleried (State.view_clean hslots hc) n).trans hslots
      · exact hslots
    · exact State.view_setPart rfl

/-! ### The other steps -/

theorem State.view_confirm (s : State) (n wgen lastLayer : Nat) : (s.confirm n wgen lastLayer).view n = s.view n := by
  have hset : (s.updPart n fun p => { p with wt := .confirmed, confirmedAt := some s.now }).view n = s.view n := State.view_updPart rfl rfl
  unfold State.confirm
  dsimp only
  refine (State.view_event _ n 4 0).trans ?_
  split
  · exact (State.view_platform _ n _ _).trans hset
  · exact hset

theorem State.view_loadWeights (s : State) (n : Nat) (w : Bool) : (s.loadWeights n w).view n = s.view n := by
  have hloaded : (s.updPart n fun p => { p with wt := .loaded }).view n = s.view n := State.view_updPart rfl rfl
  unfold State.loadWeights
  dsimp only
  split
  · split
    · exact (State.view_confirm _ n 0 0xFFFF).trans hloaded
    · exact hloaded
  · rfl

theorem State.view_checkCables (s : State) (n : Nat) (assumed ports : List Nat) : (s.checkCables n assumed ports).view n = s.view n := by
  refine State.view_foldl (fun s p => ?_) ports s
  dsimp only
  split
  · rfl
  · refine State.view_updPart ?_ rfl
    split
    · rfl
    · exact State.view_platform _ n _ _

theorem State.view_clearClaims (s : State) (n : Nat) (cl : List Claim) (next : Bool) : (s.clearClaims cl next).view n = s.view n :=
  State.view_foldl (fun s c => by split <;> rfl) cl s

theorem State.view_clearPorts (s : State) (n : Nat) : (s.clearPorts n).view n = s.view n :=
  (State.view_clearClaims _ n _ _).trans ((State.view_clearClaims _ n _ _).trans (State.view_clearClaims s n _ _))

theorem State.view_putClaims (s : State) (n gen : Nat) (cl : List Claim) (next : Bool) : (s.putClaims n gen cl next).view n = s.view n :=
  State.view_foldl (fun s c => by dsimp only; split <;> rfl) cl s

theorem State.view_copyEntry {s : State} (hc : s.clean) (n : Nat) (img : Img) (e : DirEnt) : (s.copyEntry n img e).view n = s.view n := by
  have hstream := State.view_landBytes hc n e.id (e.base : Int) (imgBytes img e.off (32 * e.len))
  exact (State.view_foldl_clean (fun s t hs => State.view_landBytes hs n e.id (t.addr : Int) _) (e.templates img) (State.view_clean hstream hc)).trans hstream

theorem State.view_dropRunning (s : State) (n : Nat) : (s.dropRunning n).view n = s.view n := State.view_updPart rfl rfl
theorem State.view_idleCores (s : State) (n m : Nat) : (s.idleCores m).view n = s.view n := by rfl
theorem State.view_dropTraffic (s : State) (n m : Nat) : (s.dropTraffic m).view n = s.view n := by rfl
theorem State.view_installEntry (s : State) (n : Nat) (img : Img) (rearm : Bool) (e : DirEnt) : (s.installEntry img rearm e).view n = s.view n := by rfl

theorem State.view_ports (s : State) (n : Nat) (l : Tab FPort) : ({ s with ports := l } : State).view n = s.view n := by rfl

/-- The first steps of an install: what ran is dropped, the cores of the directory are set up, and the port entries are written (04, R85, R86). -/
def State.installBegun (s : State) (n : Nat) (img : Img) (cv : Canvas) (rearm : Bool) : State :=
  ((((dirOf img).foldl (fun s e => s.installEntry img rearm e) (((s.dropRunning n).idleCores n).dropTraffic n)).clearPorts n).putClaims n cv.gen (s.claimsOf n img) false)

/-- The partition that takes the canvas. -/
def Part.armedWith (p : Part) (cv : Canvas) (claims : List Claim) : Part :=
  { p with st := .armed, gen := cv.gen, genNew := cv.gen, overlap := false, canvas := some cv, nextCanvas := none, claims := claims, nextClaims := [],
           switchAt := none, startAt := none, startTag := none, holdAt := none, releaseAt := none, confirmedAt := none, lampTurn := [], timingAlarm := false,
           meshSent := 0, meshApplied := 0 }

/-- The last steps of an install: the steward, the weights and the cables, and the bytes of the image (10, R235; 11). -/
def State.installEnded (s : State) (n : Nat) (img : Img) (cv : Canvas) : State :=
  let s := (dirOf img).foldl (fun s e => s.copyEntry n img e) (((s.loadSteward n).loadWeights n cv.weightless).checkCables n cv.cable (upFrom 0 16))
  { s with ports := s.ports.map fun (e : Nat × FPort) => (e.1, { e.2 with switched := e.2.switched.filter fun w => w.1 ≠ n }) }

theorem State.install_eq (s : State) (n : Nat) (img : Img) (addr : Nat) (rearm : Bool) : s.install n img addr rearm =
    (((s.installBegun n img (headCanvas img addr) rearm).updPart n fun p => p.armedWith (headCanvas img addr) (s.claimsOf n img)).installEnded n img (headCanvas img addr)) := rfl

theorem State.view_installBegun (s : State) (n : Nat) (img : Img) (cv : Canvas) (rearm : Bool) : (s.installBegun n img cv rearm).view n = s.view n := by
  have dropped := (State.view_dropTraffic _ n n).trans ((State.view_idleCores _ n n).trans (State.view_dropRunning s n))
  have entries := (State.view_foldl (fun s e => State.view_installEntry s n img rearm e) (dirOf img) _).trans dropped
  exact (State.view_putClaims _ n _ _ _).trans ((State.view_clearPorts _ n).trans entries)

theorem State.view_installEnded {s : State} (hc : s.clean) (n : Nat) (img : Img) (cv : Canvas) : (s.installEnded n img cv).view n = s.view n := by
  have checked : (((s.loadSteward n).loadWeights n cv.weightless).checkCables n cv.cable (upFrom 0 16)).view n = s.view n :=
    (State.view_checkCables _ n _ _).trans ((State.view_loadWeights _ n _).trans (State.view_loadSteward hc n))
  have copied : ∀ u : State, u.clean → ((dirOf img).foldl (fun s e => s.copyEntry n img e) u).view n = u.view n :=
    fun u hu => State.view_foldl_clean (fun s e hs => State.view_copyEntry hs n img e) (dirOf img) hu
  exact (State.view_ports _ n _).trans ((copied _ (State.view_clean checked hc)).trans checked)

/-- What an install leaves: its partition armed with the canvas, and what is looked at beside it as it was. -/
theorem State.install_leaves {s : State} (hc : s.clean) (n : Nat) (img : Img) (addr : Nat) (rearm : Bool) {t : State} (ht : s.install n img addr rearm = t) :
    (t.part n).head = (.armed, some (headCanvas img addr), (headCanvas img addr).gen, (s.part n).loading) ∧ s.otherParts t n ∧ t.flash = s.flash ∧ t.tb = s.tb ∧ t.links = s.links := by
  have hbegun := s.view_installBegun n img (headCanvas img addr) rearm
  rw [State.install_eq] at ht
  generalize s.installBegun n img (headCanvas img addr) rearm = u at hbegun ht
  obtain ⟨others₁, head₁, flash₁, tb₁, links₁, clean₁⟩ := State.view_eq hbegun
  have hloading : (u.part n).loading = (s.part n).loading := congrArg (fun x => x.2.2.2) head₁
  have hended := State.view_installEnded (s := u.updPart n fun p => p.armedWith (headCanvas img addr) (s.claimsOf n img)) (clean₁ hc) n img (headCanvas img addr)
  rw [ht] at hended
  obtain ⟨others₂, head₂, flash₂, tb₂, links₂, -⟩ := State.view_eq hended
  refine ⟨?_, fun m hm => ?_, flash₂.trans flash₁, tb₂.trans tb₁, links₂.trans links₁⟩
  · rw [head₂, State.part_updPart_same, ← hloading]
    rfl
  · rw [others₂ m hm, State.part_updPart_other _ _ hm, others₁ m hm]

end Sys2Proof.Machine
end

section
/-! PROOF. The steps of a CANVAS_LOAD: its start, the reads of the host, and how a load ends (07, R162; 12, R271, R277, R364; 14, R316). -/

namespace Sys2Proof.Machine

/-! ### How a load ends -/

/-- A descriptor that starts and ends at once leaves its record, and nothing else. -/
theorem State.started_finish_posts (s : State) (n : Nat) (d : Desc) (st : Nat) : s.onlyPosts ((s.started n d).finish n d st) n d (d.record n st) := by
  have hflight : markReady d ((s.started n d).part n).flight = markReady d (s.part n).flight := by
    unfold State.started markReady
    rw [State.part_updPart_same]
    dsimp only
    rw [List.map_map]
    refine List.map_congr_left fun e _ => ?_
    dsimp only [Function.comp]
    by_cases h : e.tag = d.tag ∧ e.sq = d.sq ∧ e.progress = .waiting
    · obtain ⟨htag, hsq, hwait⟩ := h
      simp [htag, hsq, hwait]
    · simp only [if_neg h]
  obtain ⟨⟨hring, hrings, hf⟩, hpart, hothers, hframe⟩ := (s.started n d).finish_posts n d st
  refine ⟨⟨hring, hrings, hf.trans hflight⟩, ?_, fun m hm => (hothers m hm).trans ?_, hframe⟩
  · rw [hpart, hflight, State.started_part, if_pos rfl]
  · rw [State.started_part, if_neg hm]

theorem State.refuseLoad_part (s : State) (n m : Nat) : (s.refuseLoad n).part m = (s.updPart n fun p => { p with loading := none }).part m := by rfl

/-- A load that is refused leaves its partition loading no more, its record, the memories, and every other partition. -/
theorem State.refuseLoad_complete (s : State) (n : Nat) (d : Desc) (r : Rec) {t : State} (h : (s.refuseLoad n).complete n d r = t) :
    (t.part n).loading = none ∧ (t.part n).st = (s.part n).st ∧ s.otherParts t n ∧ r ∈ (t.ring d.cq).ready ∧ t.coreMem = s.coreMem ∧ t.cluMem = s.cluMem ∧ t.hbm = s.hbm := by
  obtain ⟨⟨hring, -⟩, hpart, hothers, hframe⟩ := (s.refuseLoad n).complete_posts n d r
  have hown : (s.refuseLoad n).part n = { s.part n with loading := none } := by
    rw [State.refuseLoad_part, State.part_updPart_same]
  have hother : s.otherParts (s.refuseLoad n) n := fun m hm => by
    rw [State.refuseLoad_part, State.part_updPart_other _ _ hm]
  rw [h] at hring hpart hothers hframe
  refine ⟨by rw [hpart, hown], by rw [hpart, hown], fun m hm => (hothers m hm).trans (hother m hm), by rw [hring]; simp, ?_, ?_, ?_⟩ <;> rw [hframe] <;> rfl

/-! ### The reads of the host -/

section
variable {s : State} {n : Nat} {l : Loading} {d : Desc} {ph : LoadPhase} (horphan : (s.part n).hasOrphan 0 = false) (hl : (s.part n).loading = some l)
  (hd : (s.part n).loadDesc = some d) (hph : l.phase = ph)
include horphan hl hd hph

theorem State.loadStep_error (act : State → Loading → Desc → GalObj → List Byte → State) :
    s.loadStep n ph .error act = (s.refuseLoad n).complete n d (d.record n stHOSTERR) := by
  simp [State.loadStep, horphan, hl, hd, hph]
  rfl

theorem State.loadStep_data {o : GalObj} (ho : s.loadObject n d = some o) (bs : List Byte) (act : State → Loading → Desc → GalObj → List Byte → State) :
    s.loadStep n ph (.data bs) act = s.loadOn n d fun s => act s l d o bs := by
  simp [State.loadStep, horphan, hl, hd, hph, ho]

end

theorem State.loadOn_tripped {s : State} {n k : Nat} (h : s.trippedUnder n = some k) (d : Desc) (act : State → State) :
    s.loadOn n d act = (s.refuseLoad n).complete n d { d.record n stACCESS with detail := BitVec.ofNat 64 k } := by simp [State.loadOn, h]

theorem State.loadOn_on {s : State} {n : Nat} (h : s.trippedUnder n = none) (d : Desc) (act : State → State) : s.loadOn n d act = act s := by simp [State.loadOn, h]

/-- A load that has installed its canvas: its partition armed, its record, and the rest beside it as it was. -/
theorem State.installed_leaves {s : State} {n : Nat} {d : Desc} (hc : s.clean) (img : Img) {t : State}
    (ht : ((s.updPart n fun p => { p with loading := none }).install n img 0 false).finish n d stOK = t) :
    (t.part n).head = (.armed, some (headCanvas img 0), (headCanvas img 0).gen, none) ∧ s.otherParts t n ∧ d.record n stOK ∈ (t.ring d.cq).ready ∧ t.flash = s.flash ∧
      t.tb = s.tb ∧ t.links = s.links := by
  obtain ⟨u, hu⟩ : ∃ u, (s.updPart n fun p => { p with loading := none }).install n img 0 false = u := ⟨_, rfl⟩
  have hclean : (s.updPart n fun p => { p with loading := none }).clean := hc
  obtain ⟨hhead, hothers, hflash, htb, hlinks⟩ := State.install_leaves hclean n img 0 false hu
  obtain ⟨⟨hring, -⟩, hpart, hrest, hframe⟩ := u.finish_posts n d stOK
  rw [hu] at ht
  rw [ht] at hring hpart hrest hframe
  rw [State.part_updPart_same] at hhead
  refine ⟨?_, fun m hm => ?_, by rw [hring]; simp, ?_, ?_, ?_⟩
  · rw [hpart]
    exact hhead
  · rw [hrest m hm, hothers m hm, State.part_updPart_other _ _ hm]
  · rw [hframe]
    exact hflash
  · rw [hframe]
    exact htb
  · rw [hframe]
    exact hlinks

theorem Part.loadDesc_op {p : Part} {d : Desc} (h : p.loadDesc = some d) : d.op = 0x08 := by
  unfold Part.loadDesc at h
  split at h
  · have hfound := List.find?_some h
    simp only [Bool.and_eq_true, decide_eq_true_eq] at hfound
    obtain ⟨⟨hop, -⟩, -⟩ := hfound
    exact hop
  · cases h

/-! ### The start of a load (07, R162; 12, R277) -/

/-- Every cluster of the partition that does not run is among those that are to start. -/
theorem State.startClusters_mem {s : State} {n k : Nat} (hk : k < 66) (ho : s.ownsClu n k = true) (hn : Tab.find s.clusters k = none) : k ∈ (s.startClusters n).cluStart := by
  unfold State.startClusters
  by_cases h : k ∈ s.cluStart
  · exact List.mem_append_left _ h
  · refine List.mem_append_right _ (List.mem_filter.2 ⟨mem_upFrom.2 ⟨Nat.zero_le k, by omega⟩, ?_⟩)
    simp [ho, hn, h]

theorem State.startClusters_part (s : State) (n m : Nat) : (s.startClusters n).part m = s.part m := by rfl

/-- The status with which a CANVAS_LOAD ends at once, if it does: the count has to run, and the object and the place in it have to serve. -/
def State.loadRefusal (s : State) (n : Nat) (d : Desc) : Option Nat :=
  if !s.tb.running then some stSTATE
  else match (s.started n d).loadObject n d with
    | none => some stEXTENT
    | some o => if d.w2.toNat % 64 ≠ 0 ∨ o.room d.w2.toNat < 256 then some stEXTENT else none

section
variable {s : State} {pt : Pt} {tag : BitVec 16} {d : Desc} (hs : s.descStarts pt tag d) (ho : d.op = 0x08)
include hs ho

theorem exec_canvasLoad_ends {st : Nat} (h : s.loadRefusal pt.val d = some st) : exec (.canvasLoad pt tag) s = .next ((s.started pt.val d).finish pt.val d st) := by
  refine congrArg Host.Outcome.next ((State.descRow_starts hs _ _ (by simp [ho])).trans ?_)
  have htb : (s.started pt.val d).tb = s.tb := rfl
  cases hrun : s.tb.running with
  | false =>
    simp only [State.loadRefusal, hrun, Bool.not_false, if_true, Option.some.injEq] at h
    simp [htb, hrun, h]
  | true =>
    cases hobj : (s.started pt.val d).loadObject pt.val d with
    | none =>
      simp only [State.loadRefusal, hrun, hobj, Bool.not_true, Bool.false_eq_true, if_false, Option.some.injEq] at h
      simp [htb, hrun, h]
    | some o =>
      by_cases hbad : d.w2.toNat % 64 ≠ 0 ∨ o.room d.w2.toNat < 256
      · simp only [State.loadRefusal, hrun, hobj, Bool.not_true, Bool.false_eq_true, if_false, if_pos hbad, Option.some.injEq] at h
        simp only [htb, hrun, Bool.not_true, Bool.false_eq_true, if_false, if_pos hbad, h]
      · simp [State.loadRefusal, hrun, hobj, if_neg hbad] at h

theorem exec_canvasLoad_starts {o : GalObj} (hobj : (s.started pt.val d).loadObject pt.val d = some o) (hrun : s.tb.running = true) (halign : d.w2.toNat % 64 = 0)
    (hroom : 256 ≤ o.room d.w2.toNat) : exec (.canvasLoad pt tag) s =
      .next (((s.started pt.val d).updPart pt.val fun p => { p with loading := some { tag := d.tag, phase := .header, header := [] } }).startClusters pt.val) := by
  refine congrArg Host.Outcome.next ((State.descRow_starts hs _ _ (by simp [ho])).trans ?_)
  have htb : (s.started pt.val d).tb = s.tb := rfl
  simp [htb, hobj, hrun, halign, Nat.not_lt.2 hroom]

end

/-! ### The end of the zeroing (05, R121, R136) -/

theorem exec_partitionZeroingDone {s : State} {pt : Pt} {l : Loading} {d : Desc} (hl : (s.part pt.val).loading = some l) (hd : (s.part pt.val).loadDesc = some d)
    (hz : l.phase = .zeroing) (hw : s.clustersWait pt.val = false) : exec (.partitionZeroingDone pt) s = .next (s.loadOn pt.val d fun s =>
      ((s.zeroStores pt.val).zeroExtents pt.val).updPart pt.val fun p => { p with loading := some { l with phase := .image } }) := by
  refine congrArg Host.Outcome.next ?_
  simp [hl, hd, hz, hw]

/-- The region bytes of a partition after its zeroing. -/
theorem State.hbmAt_zeroed (s : State) (n : Nat) (p : Nat × Nat) :
    ((∀ e ∈ s.extents n, ¬inExtent p e) → ((s.zeroStores n).zeroExtents n).hbmAt p = s.hbmAt p) ∧
    ∀ e ∈ s.extents n, inExtent p e → (s.stack e.1).tripped = false → s.extentBad n e = false → ((s.zeroStores n).zeroExtents n).hbmAt p = 0 :=
  ⟨fun h => State.hbmAt_zeroExtents_other (s := s.zeroStores n) h, fun _ he hin ht hb => State.hbmAt_zeroExtents_zero (s := s.zeroStores n) he hin ht hb⟩

/-! ### The statement -/

/-- Settles O37: a load starts, reads, zeroes and installs as its rows' equations say, and where it ends before, only its record and its partition's load are left. -/
theorem canvasLoadSteps : Obligations.CanvasLoadSteps := by
  intro s pt
  refine ⟨fun tag d hs ho => ?_, fun l d hl hd horphan => ?_, fun l d hl hd hz => ?_⟩
  · have ends : ∀ st, s.onlyPosts ((s.started pt.val d).finish pt.val d st) pt.val d (d.record pt.val st) := State.started_finish_posts s pt.val d
    refine ⟨fun o hobj hrun halign hroom => ?_, fun hrun hobj => ?_, fun hrun => ?_, fun o hobj hrun hbad => ?_⟩
    · refine ⟨_, exec_canvasLoad_starts hs ho hobj hrun halign hroom, ?_, ?_, fun m hm => ?_, rfl, fun k hk hown hnone => State.startClusters_mem hk hown hnone⟩
      · rw [State.startClusters_part, State.part_updPart_same]
      · rw [State.startClusters_part, State.part_updPart_same, State.started_part, if_pos rfl]
      · rw [State.startClusters_part, State.part_updPart_other _ _ hm, State.started_part, if_neg hm]
    · exact ⟨_, exec_canvasLoad_ends hs ho (by simp [State.loadRefusal, hrun, hobj]), ends _⟩
    · exact ⟨_, exec_canvasLoad_ends hs ho (by simp [State.loadRefusal, hrun]), ends _⟩
    · exact ⟨_, exec_canvasLoad_ends hs ho (by simp [State.loadRefusal, hrun, hobj, hbad]), ends _⟩
  · refine ⟨fun o bs k hobj htrip => ⟨fun hph => ?_, fun hph => ?_⟩, fun o bs hph htrip hobj => ⟨fun hck => ?_, fun b hck => ?_⟩, fun hph => ?_,
      fun o bs hph htrip hobj => ⟨fun hclean hpoison hck => ?_, fun b hck => ?_⟩, fun hph => ?_⟩
    · obtain ⟨hload, -, hothers, hrec, -⟩ := State.refuseLoad_complete s pt.val d { d.record pt.val stACCESS with detail := BitVec.ofNat 64 k } rfl
      exact ⟨_, congrArg Host.Outcome.next ((State.loadStep_data horphan hl hd hph hobj bs _).trans (State.loadOn_tripped htrip d _)), hload, hothers, _, hrec, rfl, rfl, rfl⟩
    · obtain ⟨hload, -, hothers, hrec, -⟩ := State.refuseLoad_complete s pt.val d { d.record pt.val stACCESS with detail := BitVec.ofNat 64 k } rfl
      exact ⟨_, congrArg Host.Outcome.next ((State.loadStep_data horphan hl hd hph hobj bs _).trans (State.loadOn_tripped htrip d _)), hload, hothers, _, hrec, rfl, rfl, rfl⟩
    · refine congrArg Host.Outcome.next ((State.loadStep_data horphan hl hd hph hobj bs _).trans ((State.loadOn_on htrip d _).trans ?_))
      dsimp only
      rw [hck]
    · obtain ⟨hload, -, hothers, hrec, -⟩ := State.refuseLoad_complete s pt.val d { d.record pt.val b.status with detail := b.detail } rfl
      refine ⟨_, congrArg Host.Outcome.next ((State.loadStep_data horphan hl hd hph hobj bs _).trans ((State.loadOn_on htrip d _).trans ?_)), hload, hothers, _, hrec, rfl, rfl, rfl⟩
      dsimp only
      rw [hck]
      rfl
    · obtain ⟨hload, -, hothers, hrec, -⟩ := State.refuseLoad_complete s pt.val d (d.record pt.val stHOSTERR) rfl
      exact ⟨_, congrArg Host.Outcome.next (State.loadStep_error horphan hl hd hph _), hload, hothers, _, hrec, rfl, rfl⟩
    · obtain ⟨hhead, hothers, hrec, hflash, htb, hlinks⟩ := State.installed_leaves (s := s) (n := pt.val) (d := d) ⟨hclean, hpoison⟩ (imgOf (l.header ++ bs)) rfl
      simp only [Part.head, Prod.mk.injEq] at hhead
      obtain ⟨hst, hcanvas, hgen, hload⟩ := hhead
      refine ⟨_, congrArg Host.Outcome.next ((State.loadStep_data horphan hl hd hph hobj bs _).trans ((State.loadOn_on htrip d _).trans ?_)), hst, hload, hcanvas, hgen,
        ⟨_, hrec, rfl, rfl, Part.loadDesc_op hd⟩, hothers, hflash, htb, hlinks⟩
      dsimp only
      rw [hck]
    · obtain ⟨hload, hst, hothers, hrec, -⟩ := State.refuseLoad_complete s pt.val d { d.record pt.val b.status with detail := b.detail } rfl
      refine ⟨_, congrArg Host.Outcome.next ((State.loadStep_data horphan hl hd hph hobj bs _).trans ((State.loadOn_on htrip d _).trans ?_)), hload, hst, hothers, _, hrec, rfl, rfl, rfl⟩
      dsimp only
      rw [hck]
      rfl
    · obtain ⟨hload, -, hothers, hrec, -⟩ := State.refuseLoad_complete s pt.val d (d.record pt.val stHOSTERR) rfl
      exact ⟨_, congrArg Host.Outcome.next (State.loadStep_error horphan hl hd hph _), hload, hothers, _, hrec, rfl, rfl⟩
  · refine ⟨fun k hw htrip => ?_, fun hw htrip => ?_, fun hw => ?_⟩
    · obtain ⟨hload, -, hothers, hrec, hcore, hclu, hhbm⟩ := State.refuseLoad_complete s pt.val d { d.record pt.val stACCESS with detail := BitVec.ofNat 64 k } rfl
      exact ⟨_, (exec_partitionZeroingDone hl hd hz hw).trans (congrArg _ (State.loadOn_tripped htrip d _)), hload, hothers, hcore, hclu, hhbm, _, hrec, rfl, rfl, rfl⟩
    · have hzeroed := (s.zeroStores pt.val).zeroExtents_frame pt.val
      have hextents : ∀ m, ((s.zeroStores pt.val).zeroExtents pt.val).extents m = s.extents m := State.extents_congr (by rw [hzeroed]; rfl)
      have hread : ∀ f c a, (((s.zeroStores pt.val).zeroExtents pt.val).updPart pt.val f).readSt c a = (s.zeroStores pt.val).readSt c a := fun f c a => by
        rw [State.updPart, State.setPart, hzeroed]
        rfl
      have hregion : ∀ f m a, (((s.zeroStores pt.val).zeroExtents pt.val).updPart pt.val f).readHbm m a = ((s.zeroStores pt.val).zeroExtents pt.val).readHbm m a := fun _ _ _ => rfl
      refine ⟨_, (exec_partitionZeroingDone hl hd hz hw).trans (congrArg _ (State.loadOn_on htrip d _)), ?_, fun m hm => ?_, fun c a hsole hok => ?_, fun c a hsole hok => ?_,
        fun a k x hat htrip hgood => ?_, fun m a k x hat hout => ?_, ?_⟩
      · rw [State.part_updPart_same, hzeroed]
        rfl
      · rw [State.part_updPart_other _ _ hm, hzeroed]
        rfl
      · rw [hread, s.readSt_zeroStores pt.val c hok, if_pos hsole]
      · rw [hread, s.readSt_zeroStores pt.val c hok, if_neg (by simp [hsole])]
      · rw [hregion, State.readHbm_of_locate (s := (s.zeroStores pt.val).zeroExtents pt.val) (hextents pt.val ▸ hat)]
        obtain ⟨e, he, hin⟩ := mem_of_locate hat
        obtain ⟨-, zeroed⟩ := s.hbmAt_zeroed pt.val (k, x)
        exact zeroed e he hin (hin.1 ▸ htrip) (hgood e he hin.1)
      · rw [hregion, State.readHbm_of_locate (s := (s.zeroStores pt.val).zeroExtents pt.val) (hextents m ▸ hat), State.readHbm_of_locate hat]
        obtain ⟨kept, -⟩ := s.hbmAt_zeroed pt.val (k, x)
        refine kept fun e he ⟨hk, hlo, hhi⟩ => ?_
        rcases hout e he hk with h | h
        · exact absurd hlo (by dsimp only; omega)
        · exact absurd hhi (by dsimp only; omega)
      · rw [State.updPart, State.setPart, hzeroed]
        rfl
    · refine congrArg Host.Outcome.next ?_
      simp [hl, hd, hw]

end Sys2Proof.Machine
end

section
/-! PROOF. The stores' scrubber: a word that it reads is counted, or counted and poisoned, and nothing else changes (05, R118). -/

namespace Sys2Proof.Machine

/-- A platform event changes what the headframe keeps and what goes out. -/
theorem State.platform_frame (s : State) (k : EventKind) (a : Nat) : s.platform k a = { s with hf := (s.platform k a).hf, outbox := (s.platform k a).outbox } := by
  unfold State.platform
  split <;> rfl

/-- A counted event is counted under its number. -/
theorem State.count_total (s : State) (e : Ev) (w : Where) (p : Option Nat) : Tab.get 0 (s.count e w p).events e.num = Tab.get 0 s.events e.num + 1 := Tab.get_put_same ..

section
variable {s : State} {st : StoreId} (w : Nat)

theorem exec_scrubRead_still (h : (Tab.find s.clusters (storeClu st)).isSome = false) (e : Ecc) : exec (.scrubRead st w e) s = .next s :=
  congrArg Host.Outcome.next (if_pos (by simpa using h))

variable (h : (Tab.find s.clusters (storeClu st)).isSome = true)
include h

theorem cluster_not_isNone : ¬ (Tab.find s.clusters (storeClu st)).isNone = true := by simpa [Option.isSome_iff_ne_none] using h

theorem exec_scrubRead_clean : exec (.scrubRead st w .clean) s = .next s :=
  congrArg Host.Outcome.next (if_neg (cluster_not_isNone h))

theorem exec_scrubRead_corrected : exec (.scrubRead st w .corrected) s =
    .next ((s.count .storeCorrected (.die (storeClu st / 11)) (s.partOfClu (storeClu st))).canInput (canDie (storeClu st / 11)) 0 1) :=
  congrArg Host.Outcome.next (if_neg (cluster_not_isNone h))

theorem exec_scrubRead_poisoned (hp : s.poison.contains (st, w) = true) : exec (.scrubRead st w .uncorrectable) s = .next s :=
  congrArg Host.Outcome.next ((if_neg (cluster_not_isNone h)).trans (if_pos hp))

theorem exec_scrubRead_uncorrectable (hp : s.poison.contains (st, w) = false) : exec (.scrubRead st w .uncorrectable) s =
    .next (((State.count { s with poison := (st, w) :: s.poison } .storePoisoned (.die (storeClu st / 11)) (s.partOfClu (storeClu st))).canInput
      (canDie (storeClu st / 11)) 2 1).platform .scrubError w) :=
  congrArg Host.Outcome.next ((if_neg (cluster_not_isNone h)).trans (if_neg (Bool.eq_false_iff.1 hp)))

end

/-- Settles O31: the row is read off in its four cases, by the cluster's clocks and by what the code finds. -/
theorem storeScrub : Obligations.StoreScrub := by
  intro s st w
  refine ⟨fun h => exec_scrubRead_still w h, fun h => ⟨exec_scrubRead_clean w h, ⟨_, exec_scrubRead_corrected w h, rfl, ?_⟩, exec_scrubRead_poisoned w h, fun hp => ?_⟩⟩
  · exact State.count_total s .storeCorrected (.die (storeClu st / 11)) (s.partOfClu (storeClu st))
  · refine ⟨_, exec_scrubRead_uncorrectable w h hp, ?_, ?_⟩
    · rw [State.platform_poison]
      rfl
    · rw [State.platform_frame]
      rfl

end Sys2Proof.Machine
end

section
/-! PROOF. CHECK_FAIL of a layer while STATE is Repainting (10, R230, R240; 12, R285): a partition whose STATE is Repainting stops there, and the statement's premises leave room for one that
is Armed in that STATE and in no repaint. -/

namespace Sys2Proof.Machine

/-- What a command leaves of a partition, where it goes on. -/
def partAfter (i : Instr) (s : State) (n : Nat) : Option Part :=
  match exec i s with
  | .next t => some (t.part n)
  | _ => none

theorem partAfter_of_next {i : Instr} {s t : State} (h : exec i s = .next t) (n : Nat) : partAfter i s n = some (t.part n) := by
  unfold partAfter
  rw [h]

/-- A WT_LOAD of one byte, 0, at the start of layer 0. -/
def oneByteFeed : Desc :=
  { sq := 0, cq := 0, tag := 5, op := 0x11, fence := false, w1 := 0, w2 := 0, w3 := 1, payload := [0], progress := .waiting, func := ⟨.h0a, 0⟩ }

/-- Partition 0, Armed, has one granule of stack 0. Its table, at the start of its region, has one layer: one byte at 256, with CHECK 0. STATE is Repainting, and no repaint names it. -/
def repaintingAlone : State :=
  { setCfg State.reset .ptHbmExt 0 0 0x00010000 with
    parts := [(0, { Part.reset with st := .armed, wt := .repainting, tableLoaded := true, flight := [oneByteFeed] })]
    hbm := [(0, [(12, 1), (19, 1)])] }

theorem repaintingAlone_memoryWf : repaintingAlone.memoryWf := ⟨fun _ => rfl, fun _ => rfl, wf_put (m := []) (k := 0) (fun _ => rfl) (by decide)⟩

theorem repaintingAlone_starts : repaintingAlone.descStarts 0 5 oneByteFeed := by
  unfold State.descStarts
  decide +kernel

theorem repaintingAlone_stops : (partAfter (.wtLoad 0 5) repaintingAlone 0).map (·.st) = some .faultStop := by decide +kernel

/-- Refutes O47: the byte ends a layer whose CHECK it does not meet, and the partition, whose STATE is Repainting, stops where the statement has it Armed still. -/
theorem not_weightDescriptors : ¬ Obligations.WeightDescriptors := by
  intro h
  obtain ⟨-, -, -, feeds, -⟩ := h repaintingAlone 0 5 oneByteFeed repaintingAlone_memoryWf repaintingAlone_starts (by decide)
  obtain ⟨-, -, ends⟩ := feeds (.wtLoad 0 5) [0] (.inl rfl) (by decide) (by decide +kernel) rfl (fun _ => rfl) (by decide +kernel) (by decide +kernel) rfl (by decide)
  obtain ⟨-, fails⟩ := ends (by decide +kernel) (by decide)
  obtain ⟨t, ht, -, -, harmed, -⟩ := fails (by decide +kernel)
  have hstops := repaintingAlone_stops
  rw [partAfter_of_next ht] at hstops
  exact absurd (harmed.symm.trans (Option.some.inj hstops)) (by decide)

end Sys2Proof.Machine
end

section
/-! PROOF. A gallery object that expires while requests are held on it (05, R139; 13, R289, R291): the record of the stop names BOUNDS where each partition is listed once, and the statement
asks nothing of the table of partitions. -/

namespace Sys2Proof.Machine

/-- A request through object 3 that writes its byte 0: a second one like it waits behind the first. -/
def objectStore : MemReq :=
  { gen := 0, store := true, gallery := true, handle := 3, flag := 64, stAddr := [], memAddr := [some 0], data := [0], issuedAt := 0, refreshNs := 0, cmd := 0, vc := [] }

/-- A fault record with nothing in it but its cause and what the cause tells. -/
def bareRecord (cause sub : Nat) : FaultRec :=
  { cause := cause, sub := sub, ledger := 0, die := 0, cluster := 0, core := 0, queue := 0, cmd := 0, item := 0, time := 0, recorded := 0, counted := 0, addr := 0, port := 0, stack := 0,
    genOld := 0, genNew := 0, key := 0, beatOld := none, beatNew := none, secondary := 0 }

/-- An object that expires at once. -/
def expiring : GalObj := { base := 0, pages := 1, rd := true, wr := true, expiry := 0, closed := false, reason := 0, notice := true }

/-- Partition 0, in Run, with the object, and core 0 whose second request is held. The table of partitions lists partitions 0 and 1 twice each: what counts is the first, and what a
walk over the table meets are both. -/
def listedTwice : State :=
  { setCfg State.reset .ptClu 0 0 1 with
    tb := { State.reset.tb with running := true, count := 0 }
    parts := [(0, { Part.reset with st := .run, gal := [(3, expiring)] }), (0, { Part.reset with st := .faultStop, frec := some (bareRecord cJOBSTOP 15) }),
              (1, { Part.reset with st := .faultStop, frec := some (bareRecord 15 0) }), (1, { Part.reset with st := .run })]
    cores := [(0, { Core.reset with hasEntry := true, memq := [objectStore, objectStore] })] }

theorem listedTwice_records : (partAfter (.galleryExpiry 0 3 0) listedTwice 0).map (fun p => p.frec.map (·.cause)) = some (some cJOBSTOP) := by decide +kernel

/-- Refutes O35: the stop of partition 0 reaches the second entry of partition 1, and what follows there puts the JOB_STOP of the second entry of partition 0 in place of its record. -/
theorem not_gallery : ¬ Obligations.Gallery := by
  intro h
  obtain ⟨-, objects⟩ := h
  obtain ⟨expires, -⟩ := objects listedTwice 0 3 expiring rfl
  obtain ⟨-, held⟩ := expires 0 rfl (by decide) (by decide) (by decide) rfl (by decide +kernel)
  obtain ⟨u, hu, -, r, hr, hcause⟩ := held ⟨0, 0, 0⟩ (by decide +kernel) (by decide +kernel) rfl rfl
  have hrecords := listedTwice_records
  rw [partAfter_of_next hu] at hrecords
  have hfrec : (u.part 0).frec.map (·.cause) = some cJOBSTOP := Option.some.inj hrecords
  rw [show (u.part 0).frec = some r from hr] at hfrec
  exact absurd (hcause.symm.trans (Option.some.inj hfrec)) (by decide)

end Sys2Proof.Machine
end

section
/-! PROOF. Bytes of a region: where they lie, and what a write puts there and a host reads where their stacks serve and no sector is poisoned (05, R124-R126, R129, R130, R132). -/

namespace Sys2Proof.Machine

/-! ### Where region bytes lie (05, R124-R126) -/

/-- An address below the sum of the extents has a place. -/
theorem locate_isSome {es : List (Nat × Nat × Nat)} {a : Nat} (h : a < (es.map fun e => granule * e.2.2).sum) : (locate es a).isSome := by
  induction es generalizing a with
  | nil => exact absurd h (Nat.not_lt_zero a)
  | cons e es ih =>
    obtain ⟨k, base, size⟩ := e
    rw [List.map_cons, List.sum_cons] at h
    dsimp only at h
    unfold locate
    split
    · rfl
    · exact ih (by omega)

theorem locate_key {es : List (Nat × Nat × Nat)} {a : Nat} {p : Nat × Nat} (h : locate es a = some p) : p.1 ∈ es.map (·.1) := by
  obtain ⟨e, he, hk, -⟩ := mem_of_locate h
  exact List.mem_map.2 ⟨e, he, hk⟩

/-- Where no stack has two extents, a place belongs to one address. -/
theorem locate_inj {es : List (Nat × Nat × Nat)} (hn : (es.map (·.1)).Nodup) {a b : Nat} {p : Nat × Nat} (ha : locate es a = some p) (hb : locate es b = some p) : a = b := by
  induction es generalizing a b with
  | nil => cases ha
  | cons e es ih =>
    obtain ⟨k, base, size⟩ := e
    obtain ⟨hk, hes⟩ := List.nodup_cons.1 hn
    unfold locate at ha hb
    split at ha <;> split at hb
    · cases ha
      obtain hx : granule * base + b = granule * base + a := congrArg Prod.snd (Option.some.inj hb)
      omega
    · cases ha
      exact absurd (locate_key hb) hk
    · cases hb
      exact absurd (locate_key ha) hk
    · have := ih hes ha hb
      omega

theorem State.extents_nodup (s : State) (n : Nat) : ((s.extents n).map (·.1)).Nodup := by
  have hkeys : (s.extents n).map (·.1) = upFrom 0 12 := by
    unfold State.extents
    rw [List.map_map]
    exact List.map_id _
  rw [hkeys]
  decide

/-- Every address of a region has a place. -/
theorem State.locate_of_lt {s : State} {n a : Nat} (h : a < s.regionSize n) : ∃ p, locate (s.extents n) a = some p :=
  Option.isSome_iff_exists.1 (locate_isSome (by rwa [State.regionSize, ← List.sum_eq_foldl] at h))

/-- The range of a stack holds the addresses that have their places there. -/
theorem mem_stackRanges {es : List (Nat × Nat × Nat)} {a : Nat} {p : Nat × Nat} (h : locate es a = some p) (o : Nat) :
    ∃ r ∈ stackRanges o es, r.1 = p.1 ∧ r.2.1 ≤ o + a ∧ o + a < r.2.1 + r.2.2 := by
  induction es generalizing a o with
  | nil => cases h
  | cons e es ih =>
    obtain ⟨k, base, size⟩ := e
    unfold locate at h
    split at h
    · cases h
      exact ⟨(k, o, granule * size), List.mem_cons_self, rfl, Nat.le_add_right o a, by dsimp only; omega⟩
    · obtain ⟨r, hr, hk, hlo, hhi⟩ := ih h (o + granule * size)
      exact ⟨r, List.mem_cons_of_mem _ hr, hk, by omega, by omega⟩

/-- The stack of a byte is among those that a range around it reaches. -/
theorem State.mem_stacksIn {s : State} {n a len b : Nat} {p : Nat × Nat} (h : locate (s.extents n) b = some p) (ha : a ≤ b) (hb : b < a + len) : p.1 ∈ s.stacksIn n a len := by
  obtain ⟨r, hr, hk, hlo, hhi⟩ := mem_stackRanges h 0
  refine List.mem_map.2 ⟨r, List.mem_filter.2 ⟨hr, ?_⟩, hk⟩
  simp only [meets, Bool.and_eq_true, decide_eq_true_eq]
  omega

/-! ### Stacks that serve (05, R132-R134) -/

theorem State.tripped_of_open {s : State} {k : Nat} (h : s.stackShut k = false) : (s.stack k).tripped = false := by
  simp only [State.stackShut, Bool.or_eq_false_iff] at h
  exact h.1.1

theorem State.stacksServe.trippedIn {s : State} {n a len : Nat} (h : s.stacksServe n a len) : s.trippedIn n a len = none :=
  List.find?_eq_none.2 fun k hk => by simp [State.tripped_of_open (h k hk)]

theorem State.stacksServe.any_shut {s : State} {n a len : Nat} (h : s.stacksServe n a len) : ¬ (s.stacksIn n a len).any s.stackShut = true := by
  simpa [State.stacksServe] using h

theorem State.any_shut_of_not_serve {s : State} {n a len : Nat} (h : ¬ s.stacksServe n a len) : (s.stacksIn n a len).any s.stackShut = true := by
  simpa [State.stacksServe] using h

theorem State.whenServed_serves {s : State} {n a len : Nat} (h : s.stacksServe n a len) (name : Nat × Nat) (act : State → State) : s.whenServed n a len name act = act s :=
  if_neg h.any_shut

theorem State.whenServed_waits {s : State} {n a len : Nat} (h : ¬ s.stacksServe n a len) (name : Nat × Nat) (act : State → State) :
    s.whenServed n a len name act = s.noteWait (s.stacksIn n a len) name :=
  if_pos (State.any_shut_of_not_serve h)

/-- A wait is noted at stacks. -/
theorem State.noteWait_frame (s : State) (ks : List Nat) (name : Nat × Nat) : s.noteWait ks name = { s with hbmStk := (s.noteWait ks name).hbmStk } := by
  refine List.foldlRecOn (motive := fun (t : State) => t = { s with hbmStk := t.hbmStk }) ks _ rfl fun t ht k _ => ?_
  split
  · rw [ht]
    rfl
  · exact ht

/-! ### Writes and reads from outside the cores (05, R129, R130) -/

/-- Where no sector is poisoned and the code finds nothing, the bytes are written, and nothing else happens. -/
theorem State.putRegion_clean {s : State} (h : s.hbmPoison = []) (n a : Nat) (bs : List Byte) {ecc : List EccAt} (hc : cleanReads ecc) :
    s.putRegion n a bs ecc = s.writeHbmN n a bs := by
  unfold State.putRegion
  rw [State.readSectors_clean h _ _ hc]
  exact State.clearHbmPoison_clean (by rw [State.writeHbmN_frame]; exact h) _ _

theorem State.writeHbmN_eq (s : State) (n a : Nat) (bs : List Byte) : s.writeHbmN n a bs = s.writeHbmAt n ((upFrom a bs.length).zip bs) := by
  induction bs generalizing s a with
  | nil => rfl
  | cons b bs ih => exact ih (s.writeHbm n a b) (a + 1)

/-- Bytes within a region, on stacks none of which has tripped, are written there and nowhere else. -/
theorem State.writeHbmN_takes {s : State} (hm : s.memoryWf) {n a : Nat} {bs : List Byte} (hfit : a + bs.length ≤ s.regionSize n)
    (hon : ∀ k ∈ s.stacksIn n a bs.length, (s.stack k).tripped = false) : s.regionTakes (s.writeHbmN n a bs) n a bs := by
  rw [State.writeHbmN_eq]
  refine ⟨fun j hj => ?_, fun m b hout => State.readHbm_writeHbmAt_other s fun hmem => ?_⟩
  · obtain ⟨p, hp⟩ := State.locate_of_lt (s := s) (n := n) (a := a + j) (by omega)
    have hnodup : ((upFrom a bs.length).filterMap (locate (s.extents n))).Nodup :=
      List.Nodup.filterMap (fun x y q hx hy => locate_inj (s.extents_nodup n) hx hy) (by rw [upFrom_eq_range']; exact List.nodup_range')
    have hext : (s.writeHbmAt n ((upFrom a bs.length).zip bs)).extents n = s.extents n := State.extents_congr (by rw [State.writeHbmAt_frame]) n
    rw [State.readHbm_of_locate (hext ▸ hp), State.hbmAt_writeHbmAt_zip hm hnodup (getElem?_upFrom hj) (List.getElem?_eq_getElem hj) hp,
      hon p.1 (State.mem_stacksIn hp (Nat.le_add_right a j) (by omega))]
    rfl
  · obtain ⟨w, hw, hloc⟩ := List.mem_map.1 hmem
    obtain ⟨hlo, hhi⟩ := mem_upFrom.1 (List.of_mem_zip hw).1
    refine hout (w.1 - a) (by omega) ?_
    rw [Nat.add_sub_cancel' hlo]
    exact hloc.symm

/-- What a region takes is said of its registers and of the stacks. -/
theorem State.regionTakes.congr {s t v w : State} {n a : Nat} {bs : List Byte} (h : v.regionTakes w n a bs) (hr : v.regs = s.regs) (hh : v.hbm = s.hbm) (tr : t.regs = w.regs)
    (th : t.hbm = w.hbm) : s.regionTakes t n a bs := by
  obtain ⟨written, kept⟩ := h
  have hext (m : Nat) : v.extents m = s.extents m := State.extents_congr hr m
  refine ⟨fun j hj => (State.readHbm_congr tr th n _).trans (written j hj), fun m b hout => ?_⟩
  rw [State.readHbm_congr tr th, kept m b (by simpa only [hext] using hout), State.readHbm_congr hr hh]

theorem State.hostRead_clean (s : State) (n a len : Nat) {ecc : List EccAt} (hc : cleanReads ecc) : s.hostRead n a len ecc = s :=
  List.foldlRecOn (motive := fun (t : State) => t = s) ecc _ rfl fun t ht e he => by
    rw [hc e he]
    dsimp only
    rw [ite_self, ht]

/-- A host reads the bytes that stand there. -/
theorem State.hostView_eq {s : State} (h : s.hbmPoison = []) {n a len : Nat} (hs : s.stacksServe n a len) : s.hostView n a len = s.readHbmN n a len := by
  refine List.map_congr_left fun b hb => ?_
  obtain ⟨hlo, hhi⟩ := mem_upFrom.1 hb
  unfold State.viewByte State.readHbm
  cases hp : locate (s.extents n) b with
  | none => rfl
  | some p => simp [h, State.tripped_of_open (hs p.1 (State.mem_stacksIn hp hlo hhi))]

end Sys2Proof.Machine
end

section
/-! PROOF. NOP, HBM_WRITE, HBM_READ and the CXL.mem window: what they do where their stacks serve, how they wait, and what is refused (05, R132, R134; 12, R265, R276, R287). -/

namespace Sys2Proof.Machine

/-! ### Rows of descriptors (12, R271, R274) -/

/-- `v` is `s` where descriptor `d` has started, now or before: its progress may differ, and nothing else. -/
structure State.Begun (s v : State) (n : Nat) (d : Desc) : Prop where
  frame : v = { s with parts := v.parts }
  own : v.part n = { s.part n with flight := (v.part n).flight }
  others : s.otherParts v n
  ready : markReady d (v.part n).flight = markReady d (s.part n).flight

theorem State.begun_refl (s : State) (n : Nat) (d : Desc) : s.Begun s n d := ⟨rfl, rfl, fun _ _ => rfl, rfl⟩

theorem State.begun_started (s : State) (n : Nat) (d : Desc) : s.Begun (s.started n d) n d := by
  obtain ⟨⟨-, -, hready⟩, -⟩ := s.started_finish_posts n d stOK
  obtain ⟨⟨-, -, hlater⟩, -⟩ := (s.started n d).finish_posts n d stOK
  refine ⟨rfl, ?_, fun m hm => ?_, hlater.symm.trans hready⟩
  · rw [State.started_part, if_pos rfl]
  · rw [State.started_part, if_neg hm]

/-- A record becomes ready where the rings, and the descriptor's flight but for its progress, are as they were. -/
theorem State.complete_posts_of {s x : State} {n : Nat} {d : Desc} {r : Rec} (hr : x.rings = s.rings) (hf : markReady d (x.part n).flight = markReady d (s.part n).flight) :
    s.posts (x.complete n d r) n d r := by
  obtain ⟨⟨hring, hrings, hflight⟩, -⟩ := x.complete_posts n d r
  have hsame (q : Nat) : x.ring q = s.ring q := by unfold State.ring; rw [hr]
  exact ⟨by rw [hring, hsame], fun q hq => (hrings q hq).trans (hsame q), hflight.trans hf⟩

/-- A descriptor that has begun and ends with a record leaves that, and nothing else. -/
theorem State.Begun.completes {s v : State} {n : Nat} {d : Desc} (h : s.Begun v n d) (r : Rec) : s.onlyPosts (v.complete n d r) n d r := by
  obtain ⟨-, hpart, hothers, hframe⟩ := v.complete_posts n d r
  refine ⟨State.complete_posts_of (by rw [h.frame]) h.ready, ?_, fun m hm => (hothers m hm).trans (h.others m hm), ?_⟩
  · rw [hpart, h.own, h.ready]
  · rw [hframe, h.frame]

theorem State.Begun.serves {s v : State} {n : Nat} {d : Desc} (h : s.Begun v n d) (m a len : Nat) : v.stacksServe m a len ↔ s.stacksServe m a len := by
  rw [h.frame]
  rfl

/-- A row whose descriptor may start, or may go on after a wait, does what its type says. -/
theorem State.servedRow_begins {s : State} {pt : Pt} {tag : BitVec 16} {op : Nat} {d : Desc} (hop : d.op = op) (h : s.descStarts pt tag d ∨ s.descServed pt tag op d) :
    ∃ v, s.Begun v pt.val d ∧ ∀ act, s.servedRow pt tag (fun d => d.op = op) act = act v pt.val d := by
  rcases h with h | ⟨hwait, haccess, hstate⟩
  · refine ⟨_, s.begun_started pt.val d, fun act => ?_⟩
    have hnone : (s.part pt.val).flight.find? (fun d => d.tag = tag.toNat && d.progress = .started && decide (d.op = op)) = none :=
      List.find?_eq_none.2 fun e he hsome => by
        simp only [Bool.and_eq_true, decide_eq_true_eq] at hsome
        obtain ⟨⟨htag, hstarted⟩, -⟩ := hsome
        rw [h.2.1 e he htag] at hstarted
        cases hstarted
    rw [← State.descRow_starts h (fun d => d.op = op) act (decide_eq_true hop)]
    unfold State.servedRow
    dsimp only
    rw [hnone]
  · refine ⟨s, s.begun_refl pt.val d, fun act => ?_⟩
    unfold State.servedRow
    dsimp only
    rw [hwait]
    dsimp only
    rw [haccess]
    exact if_pos hstate

/-- A row whose descriptor waits at a stack, and whose access is no longer allowed, completes with ACCESS (12, R287). -/
theorem State.servedRow_access {s : State} {pt : Pt} {tag : BitVec 16} {op k : Nat} {d : Desc} (h : s.descWaits pt tag op d) (hk : s.accessBad pt.val d = some k)
    (act : State → Nat → Desc → State) :
    s.servedRow pt tag (fun d => d.op = op) act = s.complete pt.val d { d.record pt.val stACCESS with detail := BitVec.ofNat 64 k } := by
  unfold State.servedRow
  dsimp only
  rw [h]
  dsimp only
  rw [hk]

/-! ### HBM_WRITE and HBM_READ (12, R276) -/

theorem length_slice (bs : List Byte) (off n : Nat) : (slice bs off n).length = n := by
  simp only [slice, List.length_append, List.length_take, List.length_drop, List.length_replicate]
  omega

/-- A descriptor over `len` bytes of the region from its ADDR on: EXTENT where they are none, more than `max`, or do not lie in it; else what it does once their stacks serve. -/
def State.overSpan (s : State) (n : Nat) (d : Desc) (len max : Nat) (act : State → State) : State :=
  if len = 0 ∨ max < len ∨ s.regionSize n < d.addr + len then s.finish n d stEXTENT else s.whenServed n d.addr len (n, d.tag) act

/-- A host's bytes go into the region, and staged images that they meet are dropped. -/
def State.hostWrites (s : State) (n : Nat) (d : Desc) (len : Nat) (ecc : List EccAt) : State :=
  ((s.putRegion n d.addr (slice d.payload 0 len) ecc).updPart n fun p => { p with staged := p.staged.filter fun c => !meets (d.addr, len) (c.addr, c.total) }).finish n d stOK

/-- A host is answered with the region's bytes. -/
def State.hostReads (s : State) (n : Nat) (d : Desc) (len : Nat) (ecc : List EccAt) : State :=
  let s := s.hostRead n d.addr len ecc
  s.complete n d { d.record n stOK with payload := s.hostView n d.addr len }

theorem exec_hbmWrite (pt : Pt) (tag : BitVec 16) (ecc : List EccAt) (s : State) : exec (.hbmWrite pt ⟨tag, ecc⟩) s =
    .next (s.servedRow pt tag (fun d => d.op = 0x01) fun s n d => s.overSpan n d (wf d.w2 15 0) 65472 fun s => s.hostWrites n d (wf d.w2 15 0) ecc) := rfl

theorem exec_hbmRead (pt : Pt) (tag : BitVec 16) (ecc : List EccAt) (s : State) : exec (.hbmRead pt ⟨tag, ecc⟩) s =
    .next (s.servedRow pt tag (fun d => d.op = 0x02) fun s n d => s.overSpan n d (wf d.w2 13 0) 16065 fun s => s.hostReads n d (wf d.w2 13 0) ecc) := rfl

section
variable {s v : State} {n : Nat} {d : Desc} (hb : s.Begun v n d)
include hb

theorem State.Begun.regionSize : v.regionSize n = s.regionSize n := by
  rw [hb.frame]
  rfl

/-- What waits at a stack leaves its partition and what has begun. -/
theorem State.Begun.noted (ks : List Nat) (name : Nat × Nat) {t : State} (ht : v.noteWait ks name = t) :
    t = { s with parts := t.parts, hbmStk := t.hbmStk } ∧ s.otherParts t n ∧ t.part n = { s.part n with flight := (t.part n).flight } := by
  have hnote := v.noteWait_frame ks name
  rw [ht] at hnote
  have hpart (m : Nat) : t.part m = v.part m := by rw [hnote]; rfl
  refine ⟨?_, fun m hm => (hpart m).trans (hb.others m hm), by rw [hpart, ← hb.own]⟩
  rw [hnote, hb.frame]

theorem State.Begun.overSpan_extent {len max : Nat} (h : len = 0 ∨ max < len ∨ s.regionSize n < d.addr + len) (act : State → State) :
    v.overSpan n d len max act = v.finish n d stEXTENT := if_pos (by rwa [hb.regionSize])

section
variable {len max : Nat} (hpos : 1 ≤ len) (hmax : len ≤ max) (hfit : d.addr + len ≤ s.regionSize n)
include hpos hmax hfit

theorem State.Begun.overSpan_fits (act : State → State) : v.overSpan n d len max act = v.whenServed n d.addr len (n, d.tag) act :=
  if_neg (by rw [hb.regionSize]; omega)

theorem State.Begun.overSpan_serves (hs : s.stacksServe n d.addr len) (act : State → State) : v.overSpan n d len max act = act v :=
  (hb.overSpan_fits hpos hmax hfit act).trans (State.whenServed_serves ((hb.serves ..).2 hs) _ _)

theorem State.Begun.overSpan_waits (hw : ¬ s.stacksServe n d.addr len) (act : State → State) :
    v.overSpan n d len max act = v.noteWait (v.stacksIn n d.addr len) (n, d.tag) :=
  (hb.overSpan_fits hpos hmax hfit act).trans (State.whenServed_waits (by rwa [hb.serves]) _ _)

end

section
variable {len : Nat} {ecc : List EccAt} (hp : s.hbmPoison = []) (hc : cleanReads ecc) (hs : s.stacksServe n d.addr len)
include hp hc hs

theorem State.Begun.hostReads_eq : v.hostReads n d len ecc = v.complete n d { d.record n stOK with payload := s.readHbmN n d.addr len } := by
  have hread : v.readHbmN n d.addr len = s.readHbmN n d.addr len :=
    List.map_congr_left fun a _ => State.readHbm_congr (by rw [hb.frame]) (by rw [hb.frame]) n a
  unfold State.hostReads
  dsimp only
  rw [State.hostRead_clean v _ _ _ hc, State.hostView_eq (by rw [hb.frame]; exact hp) ((hb.serves ..).2 hs), hread]

/-- A write that is served puts its bytes into the region, and drops the staged images that they meet. -/
theorem State.Begun.hostWrites_puts (hm : s.memoryWf) (hfit : d.addr + len ≤ s.regionSize n) {t : State} (ht : v.hostWrites n d len ecc = t) :
    s.posts t n d (d.record n stOK) ∧ s.regionTakes t n d.addr (slice d.payload 0 len) ∧
      t.part n = { s.part n with flight := (t.part n).flight, staged := (s.part n).staged.filter fun c => !meets (d.addr, len) (c.addr, c.total) } ∧
      s.otherParts t n ∧ t = { s with parts := t.parts, rings := t.rings, hbm := t.hbm } := by
  have hvs := (hb.serves n d.addr len).2 hs
  unfold State.hostWrites at ht
  generalize hbs : slice d.payload 0 len = bs at ht ⊢
  have hlen : bs.length = len := by rw [← hbs, length_slice]
  rw [State.putRegion_clean (by rw [hb.frame]; exact hp) _ _ _ hc] at ht
  have htakes : v.regionTakes (v.writeHbmN n d.addr bs) n d.addr bs :=
    State.writeHbmN_takes (by rw [hb.frame]; exact hm) (by rw [hb.regionSize, hlen]; exact hfit) fun k hk => State.tripped_of_open (hvs k (hlen ▸ hk))
  have hwrites := v.writeHbmN_frame n d.addr bs
  generalize v.writeHbmN n d.addr bs = w at ht htakes hwrites
  have hpart (m : Nat) : w.part m = v.part m := by rw [hwrites]; rfl
  generalize hx : (w.updPart n fun p => { p with staged := p.staged.filter fun c => !meets (d.addr, len) (c.addr, c.total) }) = x at ht
  have hxn : x.part n = { s.part n with flight := (v.part n).flight, staged := (s.part n).staged.filter fun c => !meets (d.addr, len) (c.addr, c.total) } := by
    rw [← hx, State.part_updPart_same, hpart, hb.own]
  have hxframe : x = { s with parts := x.parts, hbm := w.hbm } := by
    rw [← hx, hwrites, hb.frame]
    rfl
  obtain ⟨-, hown, hothers, hframe⟩ := x.finish_posts n d stOK
  have hposts : s.posts (x.finish n d stOK) n d (d.record n stOK) := State.complete_posts_of (by rw [hxframe]) (by rw [hxn]; exact hb.ready)
  rw [ht] at hown hothers hframe hposts
  refine ⟨hposts, ?_, ?_, fun m hm => ?_, ?_⟩
  · exact htakes.congr (by rw [hb.frame]) (by rw [hb.frame]) (by rw [hframe, ← hx]; rfl) (by rw [hframe, ← hx]; rfl)
  · rw [hown, hxn]
  · rw [hothers m hm, ← hx, State.part_updPart_other _ _ hm, hpart, hb.others m hm]
  · rw [hframe, hxframe]

end

end

/-! ### The CXL.mem window (12, R265) -/

section
variable {s : State} {l : Link} {pt : Pt} {a : Nat}

/-- A write that is discarded is counted. -/
def State.cxlDropped (s : State) (n : Nat) : State :=
  (s.updPart n fun p => { p with cxlDrop := Nat.min (2 ^ 32 - 1) (p.cxlDrop + 1) }).count .cxlDrop (.die (s.linkDie n)) (some n)

theorem exec_cxlMemWrite_outside {bs : List Byte} (h : s.cxlRange l pt.val a bs.length = false) (ecc : List EccAt) : exec (.cxlMemWrite l pt a ⟨bs, ecc⟩) s = .next s :=
  congrArg Host.Outcome.next (if_pos (by simp [h]))

theorem exec_cxlMemRead_outside {len : Nat} (h : s.cxlRange l pt.val a len = false) (ecc : List EccAt) : exec (.cxlMemRead l pt a ⟨len, ecc⟩) s = .next s :=
  congrArg Host.Outcome.next (if_neg (by simp [h]))

theorem exec_cxlMemRead_tripped {len : Nat} (h : (s.trippedIn pt.val a len).isSome = true) (ecc : List EccAt) : exec (.cxlMemRead l pt a ⟨len, ecc⟩) s = .next s :=
  congrArg Host.Outcome.next (if_neg fun ⟨_, hn⟩ => by simp [Option.isNone_iff_eq_none.1 hn] at h)

theorem exec_cxlMemRead_on {len : Nat} (h : s.cxlRange l pt.val a len = true) (ht : s.trippedIn pt.val a len = none) (ecc : List EccAt) :
    exec (.cxlMemRead l pt a ⟨len, ecc⟩) s = .next (s.whenServed pt.val a len (64 + pt.val, a) fun s =>
      let s := s.hostRead pt.val a len ecc
      s.emit (.readData (s.hostView pt.val a len))) :=
  congrArg Host.Outcome.next (if_pos ⟨h, by simp [ht]⟩)

section
variable {bs : List Byte} (h : s.cxlRange l pt.val a bs.length = true) (ecc : List EccAt)
include h

theorem exec_cxlMemWrite_dropped (hd : (s.part pt.val).st = .run ∨ s.guarded pt.val a bs.length = true) :
    exec (.cxlMemWrite l pt a ⟨bs, ecc⟩) s = .next (s.cxlDropped pt.val) :=
  congrArg Host.Outcome.next ((if_neg (by simp [h])).trans (if_pos hd))

variable (hrun : (s.part pt.val).st ≠ .run) (hguard : s.guarded pt.val a bs.length = false)
include hrun hguard

theorem exec_cxlMemWrite_tripped (ht : (s.trippedIn pt.val a bs.length).isSome = true) : exec (.cxlMemWrite l pt a ⟨bs, ecc⟩) s = .next s :=
  congrArg Host.Outcome.next ((if_neg (by simp [h])).trans ((if_neg (by simp [hrun, hguard])).trans (if_pos ht)))

theorem exec_cxlMemWrite_on (ht : s.trippedIn pt.val a bs.length = none) :
    exec (.cxlMemWrite l pt a ⟨bs, ecc⟩) s = .next (s.whenServed pt.val a bs.length (64 + pt.val, a) fun s => s.putRegion pt.val a bs ecc) :=
  congrArg Host.Outcome.next ((if_neg (by simp [h])).trans ((if_neg (by simp [hrun, hguard])).trans (if_neg (by simp [ht]))))

/-- A write at a stack that does not serve changes what is noted there at most. -/
theorem exec_cxlMemWrite_waits (hw : ¬ s.stacksServe pt.val a bs.length) : ∃ t, exec (.cxlMemWrite l pt a ⟨bs, ecc⟩) s = .next t ∧ t = { s with hbmStk := t.hbmStk } := by
  cases ht : s.trippedIn pt.val a bs.length with
  | some k => exact ⟨s, exec_cxlMemWrite_tripped h ecc hrun hguard (by simp [ht]), rfl⟩
  | none =>
    rw [exec_cxlMemWrite_on h ecc hrun hguard ht, State.whenServed_waits hw]
    exact ⟨_, rfl, s.noteWait_frame _ _⟩

end

/-- So does a read. -/
theorem exec_cxlMemRead_waits {len : Nat} (h : s.cxlRange l pt.val a len = true) (ecc : List EccAt) (hw : ¬ s.stacksServe pt.val a len) :
    ∃ t, exec (.cxlMemRead l pt a ⟨len, ecc⟩) s = .next t ∧ t = { s with hbmStk := t.hbmStk } := by
  cases ht : s.trippedIn pt.val a len with
  | some k => exact ⟨s, exec_cxlMemRead_tripped (by simp [ht]) ecc, rfl⟩
  | none =>
    rw [exec_cxlMemRead_on h ht, State.whenServed_waits hw]
    exact ⟨_, rfl, s.noteWait_frame _ _⟩

/-- What lies in the range of a link lies in the region. -/
theorem State.cxlRange_fits {n len : Nat} (h : s.cxlRange l n a len = true) : a + len ≤ s.regionSize n := by
  simp only [State.cxlRange, Bool.and_eq_true, decide_eq_true_eq] at h
  exact h.2

theorem State.cxlDropped_counts (s : State) (n : Nat) {t : State} (h : s.cxlDropped n = t) :
    (t.part n).cxlDrop = Nat.min (2 ^ 32 - 1) ((s.part n).cxlDrop + 1) ∧ t.part n = { s.part n with cxlDrop := (t.part n).cxlDrop } ∧ s.otherParts t n ∧
      t = { s with parts := t.parts, events := t.events, counts := t.counts } := by
  subst h
  have hown : (s.cxlDropped n).part n = { s.part n with cxlDrop := Nat.min (2 ^ 32 - 1) ((s.part n).cxlDrop + 1) } := by
    rw [State.cxlDropped, State.count_part, State.part_updPart_same]
  exact ⟨by rw [hown], by rw [hown], fun m hm => by rw [State.cxlDropped, State.count_part, State.part_updPart_other _ _ hm], rfl⟩

end

/-! ### The statement -/

/-- Settles O36: a row that has begun writes, reads or waits as the stacks of its bytes serve, and the window of CXL.mem does the same without a descriptor. -/
theorem hostMemory : Obligations.HostMemory := by
  refine ⟨fun s pt tag d hm hp => ⟨fun hop hd => ?_, fun hop hd len ecc hlen hc => ?_, fun hop hd len ecc hlen hc => ?_,
    fun ecc k hk => ⟨fun hw => ?_, fun hw => ?_⟩⟩,
    fun s l pt a hm hp => ⟨fun bs ecc hr hc => ⟨fun hrun hguard hs => ?_, fun hd => ?_, exec_cxlMemWrite_tripped hr ecc⟩, fun len ecc hr hc hs => ?_,
      fun bs len ecc hw hr => ⟨exec_cxlMemWrite_waits hw ecc, fun ht => exec_cxlMemRead_tripped ht ecc, exec_cxlMemRead_waits hr ecc⟩,
      fun bs ecc h => exec_cxlMemWrite_outside h ecc, fun len ecc h => exec_cxlMemRead_outside h ecc⟩⟩
  · exact ⟨_, congrArg Host.Outcome.next (State.descRow_starts hd _ _ (decide_eq_true hop)), (s.begun_started pt.val d).completes _⟩
  · obtain ⟨v, hb, hrow⟩ := State.servedRow_begins hop hd
    subst hlen
    rw [exec_hbmWrite, hrow]
    refine ⟨fun hpos hmax hfit hs => ⟨_, rfl, ?_⟩, fun hpos hmax hfit hw => ⟨_, rfl, ?_⟩, fun hbad => ⟨_, rfl, ?_⟩⟩
    · rw [hb.overSpan_serves hpos hmax hfit hs]
      exact hb.hostWrites_puts hp hc hs hm hfit rfl
    · rw [hb.overSpan_waits hpos hmax hfit hw]
      exact hb.noted _ _ rfl
    · rw [hb.overSpan_extent hbad]
      exact hb.completes _
  · obtain ⟨v, hb, hrow⟩ := State.servedRow_begins hop hd
    subst hlen
    rw [exec_hbmRead, hrow]
    refine ⟨fun hpos hmax hfit hs => ⟨_, rfl, ?_⟩, fun hpos hmax hfit hw => ⟨_, rfl, ?_⟩, fun hbad => ⟨_, rfl, ?_⟩⟩
    · rw [hb.overSpan_serves hpos hmax hfit hs, hb.hostReads_eq hp hc hs]
      exact hb.completes _
    · rw [hb.overSpan_waits hpos hmax hfit hw]
      exact hb.noted _ _ rfl
    · rw [hb.overSpan_extent hbad]
      exact hb.completes _
  · rw [exec_hbmWrite, State.servedRow_access hw hk]
    exact ⟨_, rfl, s.complete_posts _ _ _⟩
  · rw [exec_hbmRead, State.servedRow_access hw hk]
    exact ⟨_, rfl, s.complete_posts _ _ _⟩
  · rw [exec_cxlMemWrite_on hr ecc hrun hguard hs.trippedIn, State.whenServed_serves hs, State.putRegion_clean hp _ _ _ hc]
    exact ⟨_, rfl, State.writeHbmN_takes hm (State.cxlRange_fits hr) fun k hk => State.tripped_of_open (hs k hk), s.writeHbmN_frame _ _ _⟩
  · rw [exec_cxlMemWrite_dropped hr ecc hd]
    exact ⟨_, rfl, s.cxlDropped_counts pt.val rfl⟩
  · rw [exec_cxlMemRead_on hr hs.trippedIn, State.whenServed_serves hs]
    dsimp only
    rw [State.hostRead_clean s _ _ _ hc, State.hostView_eq hp hs]

end Sys2Proof.Machine
end

section
/-! PROOF. The refresh windows of a stack and what its scrubber reads, emergency refreshes, heat and trip, and the module's own writes that wait (05, R131-R135). -/

namespace Sys2Proof.Machine

/-! ### Time and the calendar (05, R131) -/

@[simp] theorem State.advance_period (s : State) (t : Count) (k : Nat) : (s.advance t).period k = s.period k := by
  unfold State.period cf
  rw [State.advance_cfg]

@[simp] theorem State.advance_windowLen (s : State) (t : Count) (k : Nat) : (s.advance t).windowLen k = s.windowLen k := by
  unfold State.windowLen cf
  rw [State.advance_cfg]

@[simp] theorem State.advance_inWindow (s : State) (t : Count) (k : Nat) (x : Count) : (s.advance t).inWindow k x = s.inWindow k x := by
  have hoff : (s.advance t).windowOffset k = s.windowOffset k := by
    unfold State.windowOffset cf
    rw [State.advance_cfg]
  unfold State.inWindow
  rw [hoff, State.advance_period, State.advance_windowLen]

@[simp] theorem State.advance_keepsCalendar (s : State) (t : Count) (k : Nat) : (s.advance t).keepsCalendar k = s.keepsCalendar k := by
  unfold State.keepsCalendar cf cfg
  rw [State.advance_parts, State.advance_regs]

/-! ### What the scrubber reads (05, R130, R135) -/

/-- The scrubber reads sectors of a stack, one after the other. -/
def State.scrubs (s : State) (k : Nat) (l : List EccAt) : State := l.foldl (fun s e => s.scrubSector k e) s

/-- A sector read is counted at its stack, and poisoned where it is beyond correction. -/
theorem State.scrubSector_frame (s : State) (k : Nat) (e : EccAt) :
    s.scrubSector k e = { s.updStack k fun x => { x with scrubbed := x.scrubbed + 1 } with
      hbmPoison := (s.scrubSector k e).hbmPoison, events := (s.scrubSector k e).events, counts := (s.scrubSector k e).counts, canAcc := (s.scrubSector k e).canAcc } := by
  unfold State.scrubSector State.poisonSector
  dsimp only
  split
  · rfl
  · rfl
  · split <;> rfl

/-- What is read is counted at its stack; other stacks, and what lies beside poison and counts, are as they were. -/
theorem State.scrubs_reads (s : State) (k : Nat) (l : List EccAt) {u : State} (h : s.scrubs k l = u) :
    u.stack k = { s.stack k with scrubbed := (s.stack k).scrubbed + l.length } ∧ s.otherStacks u k ∧
      u = { s with hbmStk := u.hbmStk, hbmPoison := u.hbmPoison, events := u.events, counts := u.counts, canAcc := u.canAcc } := by
  induction l generalizing s with
  | nil =>
    subst h
    exact ⟨rfl, fun _ _ => rfl, rfl⟩
  | cons e l ih =>
    have hone := s.scrubSector_frame k e
    have hstk (m : Nat) : (s.scrubSector k e).stack m = (s.updStack k fun x => { x with scrubbed := x.scrubbed + 1 }).stack m := by rw [hone]; rfl
    obtain ⟨hown, hothers, hframe⟩ := ih (s.scrubSector k e) h
    refine ⟨?_, fun m hm => ?_, ?_⟩
    · rw [hown, hstk, State.stack_updStack_same, List.length_cons, Nat.add_assoc, Nat.add_comm 1]
    · rw [hothers m hm, hstk, State.stack_updStack_other _ _ hm]
    · rw [hframe, hone]
      rfl

/-! ### A window opens (05, R131) -/

section
variable {s : State} {k : Stk} {t : Count} (hr : s.tb.running = true) (hl : s.tb.count ≤ t) (h64 : t < 2 ^ 64) (scrub : List EccAt)
include hr hl h64

theorem exec_refreshWindowOpen_opens (hw : (s.stack k.val).windowOpen = false) (hin : s.inWindow k.val t = true) :
    exec (.refreshWindowOpen k t scrub) s = .next (((s.advance t).openWindow k.val).scrubs k.val (if s.keepsCalendar k.val then onePerChannel scrub else scrub)) := by
  show execRefreshWindowOpen k t scrub s = _
  unfold execRefreshWindowOpen
  simp [State.advance_atCount s t hr hl h64, hw, hin]
  rfl

variable (hno : (s.stack k.val).windowOpen = true ∨ s.inWindow k.val t = false)
include hno

theorem exec_refreshWindowOpen_kept (hk : s.keepsCalendar k.val = true) : exec (.refreshWindowOpen k t scrub) s = .next (s.advance t) := by
  have hshut : ¬ ((s.stack k.val).windowOpen = false ∧ s.inWindow k.val t = true) := by rintro ⟨h1, h2⟩; simp [h1, h2] at hno
  show execRefreshWindowOpen k t scrub s = _
  unfold execRefreshWindowOpen
  simp [State.advance_atCount s t hr hl h64, hshut, hk]

theorem exec_refreshWindowOpen_free (hk : s.keepsCalendar k.val = false) : exec (.refreshWindowOpen k t scrub) s = .next ((s.advance t).scrubs k.val scrub) := by
  have hshut : ¬ ((s.stack k.val).windowOpen = false ∧ s.inWindow k.val t = true) := by rintro ⟨h1, h2⟩; simp [h1, h2] at hno
  show execRefreshWindowOpen k t scrub s = _
  unfold execRefreshWindowOpen
  simp [State.advance_atCount s t hr hl h64, hshut, hk]
  rfl

end

/-! ### Emergency refreshes (05, R133) -/

/-- What an emergency refresh that begins leaves of its stack, and beside it. -/
theorem State.startEmergency_starts (s : State) (k : Nat) (t held : Count) {u : State} (h : s.startEmergency k t held = u) :
    u.stack k = { s.stack k with emergency := some (t + 480), heldFrom := held, emergencies := (s.stack k).emergencies + 1 } ∧ s.otherStacks u k ∧
      u = { s with hbmStk := u.hbmStk, events := u.events, counts := u.counts, canAcc := u.canAcc } := by
  subst h
  have hstk (m : Nat) : (s.startEmergency k t held).stack m =
      (s.updStack k fun x => { x with emergency := some (t + 480), heldFrom := held, emergencies := x.emergencies + 1 }).stack m := rfl
  exact ⟨by rw [hstk, State.stack_updStack_same], fun m hm => by rw [hstk, State.stack_updStack_other _ _ hm], rfl⟩

/-- A hot stack that owes 480 ns and does not refresh starts to. -/
def Stack.pays (y : Stack) (t held : Count) : Stack :=
  if y.hot = true ∧ 480 ≤ y.deficit ∧ y.emergency = none then
    { y with deficit := y.deficit - 480, emergency := some (t + 480), heldFrom := held, emergencies := y.emergencies + 1 }
  else y

section
variable (y : Stack) (t held : Count)

@[simp] theorem Stack.pays_windowOpen : (y.pays t held).windowOpen = y.windowOpen := by unfold Stack.pays; split <;> rfl
@[simp] theorem Stack.pays_tripped : (y.pays t held).tripped = y.tripped := by unfold Stack.pays; split <;> rfl
@[simp] theorem Stack.pays_windowWaits : (y.pays t held).windowWaits = y.windowWaits := by unfold Stack.pays; split <;> rfl

theorem Stack.pays_nothing {y : Stack} (h : y.hot = false ∨ y.deficit < 480) (t held : Count) : y.pays t held = y :=
  if_neg fun ⟨hot, owes, _⟩ => by rcases h with h | h <;> simp_all; omega

/-- Of a hot stack: what it owes, and until when it refreshes. -/
theorem Stack.pays_hot {y : Stack} (hot : y.hot = true) (t held : Count) :
    if y.emergency = none ∧ 480 ≤ y.deficit then (y.pays t held).deficit = y.deficit - 480 ∧ (y.pays t held).emergency = some (t + 480)
    else (y.pays t held).deficit = y.deficit ∧ (y.pays t held).emergency = y.emergency := by
  unfold Stack.pays
  split
  · rename_i h
    rw [if_pos ⟨hot, h.2, h.1⟩]
    exact ⟨rfl, rfl⟩
  · rename_i h
    rw [if_neg fun ⟨_, owes, idle⟩ => h ⟨idle, owes⟩]
    exact ⟨rfl, rfl⟩

end

/-- What is paid is paid at its stack; other stacks are as they were. -/
theorem State.payDeficit_pays (s : State) (k : Nat) (t held : Count) {u : State} (h : s.payDeficit k t held = u) :
    u.stack k = (s.stack k).pays t held ∧ s.otherStacks u k ∧ u = { s with hbmStk := u.hbmStk, events := u.events, counts := u.counts, canAcc := u.canAcc } := by
  unfold State.payDeficit at h
  unfold Stack.pays
  dsimp only at h
  simp only [Option.isNone_iff_eq_none] at h
  split at h
  · rename_i hpays
    obtain ⟨hown, hothers, hframe⟩ := State.startEmergency_starts _ k t held h
    refine ⟨by rw [hown, if_pos hpays, State.stack_updStack_same], fun m hm => by rw [hothers m hm, State.stack_updStack_other _ _ hm], ?_⟩
    rw [hframe]
    rfl
  · rename_i hkeeps
    subst h
    exact ⟨by rw [if_neg hkeeps], fun _ _ => rfl, rfl⟩

/-! ### The module's own writes (05, R132) -/

theorem State.drainOwn_nil {s : State} (h : s.ownq = []) : s.drainOwn = s := by
  unfold State.drainOwn
  rw [h, List.foldl_nil, ← h]

/-- The state with no write of the module's own waiting. -/
def State.emptied (s : State) : State := { s with ownq := [] }

/-- A write that waits alone is tried anew. -/
theorem State.drainOwn_singleton {s : State} {w : OwnWrite} (h : s.ownq = [w]) : s.drainOwn = s.emptied.ownWrite w.pt w.addr w.bytes := by
  unfold State.drainOwn
  rw [h]
  rfl

theorem State.ownWrite_waits {s : State} {n a : Nat} {bs : List Byte} (hb : bs ≠ []) (h : s.ownWaits n a bs.length = true) :
    s.ownWrite n a bs = { s.noteWait (s.stacksIn n a bs.length) (128 + n, a) with ownq := s.ownq ++ [{ pt := n, addr := a, bytes := bs }] } :=
  (if_neg (by simpa using hb)).trans (if_pos h)

theorem State.ownWrite_made {s : State} {n a : Nat} {bs : List Byte} (hp : s.hbmPoison = []) (hb : bs ≠ []) (h : s.ownWaits n a bs.length = false) :
    s.ownWrite n a bs = s.writeHbmN n a bs :=
  (if_neg (by simpa using hb)).trans ((if_neg (Bool.eq_false_iff.1 h)).trans (State.putRegion_clean hp n a bs fun _ he => absurd he List.not_mem_nil))

/-- A write with none before it waits where a stack that it reaches is shut and has not tripped. -/
theorem State.ownWaits_alone {s : State} (h : s.ownq = []) (n a len : Nat) : s.ownWaits n a len = (s.stacksIn n a len).any fun k => s.stackShut k && !(s.stack k).tripped := by
  unfold State.ownWaits
  rw [h]
  rfl

/-- A write that waited alone is made where its stacks serve. -/
theorem State.drainOwn_made {s : State} {w : OwnWrite} (h : s.ownq = [w]) (hm : s.memoryWf) (hp : s.hbmPoison = []) (hb : w.bytes ≠ [])
    (hfit : w.addr + w.bytes.length ≤ s.regionSize w.pt) (hs : s.stacksServe w.pt w.addr w.bytes.length) :
    s.regionTakes s.drainOwn w.pt w.addr w.bytes ∧ s.drainOwn = { s with ownq := [], hbm := s.drainOwn.hbm } := by
  have hserve : s.emptied.stacksServe w.pt w.addr w.bytes.length := hs
  have hopen : s.emptied.ownWaits w.pt w.addr w.bytes.length = false := by
    rw [State.ownWaits_alone rfl]
    exact List.any_eq_false.2 fun k hk => by simp [hserve k hk]
  rw [State.drainOwn_singleton h, State.ownWrite_made (s := s.emptied) hp hb hopen]
  exact ⟨State.writeHbmN_takes (s := s.emptied) hm hfit fun k hk => State.tripped_of_open (hserve k hk), s.emptied.writeHbmN_frame _ _ _⟩

/-- It waits on where one of them does not. -/
theorem State.drainOwn_waits {s : State} {w : OwnWrite} (h : s.ownq = [w]) (hb : w.bytes ≠ []) {k : Nat} (hk : k ∈ s.stacksIn w.pt w.addr w.bytes.length)
    (hshut : s.stackShut k = true) (hon : (s.stack k).tripped = false) : s.drainOwn = { s with hbmStk := s.drainOwn.hbmStk } := by
  have hshut' : s.emptied.stackShut k = true := hshut
  have hon' : (s.emptied.stack k).tripped = false := hon
  have hwait : s.emptied.ownWaits w.pt w.addr w.bytes.length = true := by
    rw [State.ownWaits_alone rfl]
    exact List.any_eq_true.2 ⟨k, hk, by simp [hshut', hon']⟩
  rw [State.drainOwn_singleton h, State.ownWrite_waits hb hwait]
  have hnote := s.emptied.noteWait_frame (s.emptied.stacksIn w.pt w.addr w.bytes.length) (128 + w.pt, w.addr)
  generalize s.emptied.noteWait _ _ = x at hnote
  rw [hnote]
  show { s with hbmStk := x.hbmStk, ownq := [w] } = { s with hbmStk := x.hbmStk }
  rw [← h]

/-! ### A window closes (05, R132, R133) -/

/-- A stack whose window has closed: what waited is counted, and a window hot throughout leaves what it falls short by. -/
def Stack.shut (y : Stack) (waits need : Nat) : Stack :=
  { y with windowOpen := false, waiters := [], windowWaits := y.windowWaits + waits, deficit := if y.openedHot && y.hot then y.deficit + need else y.deficit }

theorem Stack.shut_deficit {y : Stack} (hot : y.hot = true) (waits need : Nat) : (y.shut waits need).deficit = y.deficit + (if y.openedHot then need else 0) := by
  simp only [Stack.shut, hot, Bool.and_true]
  split <;> rfl

/-- Requests that waited for the end of the open window. -/
def State.windowWaiters (s : State) (k : Nat) : Nat := s.waitingAt k (s.windowStart k) + (s.stack k).waiters.length

/-- Waits are counted, where there were any. -/
def State.countWaits (s : State) (k waits : Nat) : State := if waits = 0 then s else s.countN .windowWait (.die (k / 2)) none waits

theorem State.countWaits_frame (s : State) (k waits : Nat) :
    s.countWaits k waits = { s with events := (s.countWaits k waits).events, counts := (s.countWaits k waits).counts } := by
  unfold State.countWaits
  split <;> rfl

/-- The close of a window, but for the module's own writes that follow it. -/
def State.shutWindow (s : State) (k : Nat) : State :=
  ((s.updStack k fun y => y.shut (s.windowWaiters k) (s.period k / 8 - s.windowLen k)).countWaits k (s.windowWaiters k)).payDeficit k s.now (s.windowStart k)

theorem State.closeWindow_eq (s : State) (k : Nat) : s.closeWindow k = (s.shutWindow k).drainOwn := by
  unfold State.closeWindow State.shutWindow State.windowWaiters State.countWaits
  dsimp only
  split <;> rfl

theorem State.shutWindow_shuts (s : State) (k : Nat) {u : State} (h : s.shutWindow k = u) :
    u.stack k = ((s.stack k).shut (s.windowWaiters k) (s.period k / 8 - s.windowLen k)).pays s.now (s.windowStart k) ∧ s.otherStacks u k ∧
      u = { s with hbmStk := u.hbmStk, events := u.events, counts := u.counts, canAcc := u.canAcc } := by
  obtain ⟨hown, hothers, hframe⟩ := State.payDeficit_pays _ k s.now (s.windowStart k) h
  have hcount := State.countWaits_frame (s.updStack k fun y => y.shut (s.windowWaiters k) (s.period k / 8 - s.windowLen k)) k (s.windowWaiters k)
  have hstk (m : Nat) : ((s.updStack k fun y => y.shut (s.windowWaiters k) (s.period k / 8 - s.windowLen k)).countWaits k (s.windowWaiters k)).stack m =
      (s.updStack k fun y => y.shut (s.windowWaiters k) (s.period k / 8 - s.windowLen k)).stack m := by rw [hcount]; rfl
  refine ⟨by rw [hown, hstk, State.stack_updStack_same], fun m hm => by rw [hothers m hm, hstk, State.stack_updStack_other _ _ hm], ?_⟩
  rw [hframe, hcount]
  rfl

theorem exec_refreshWindowClose_stays {s : State} {k : Stk} {t : Count} (hno : (s.stack k.val).windowOpen = false ∨ s.inWindow k.val t = true) :
    exec (.refreshWindowClose k t) s = .next (s.advance t) :=
  congrArg Host.Outcome.next (if_neg fun ⟨_, hw, hout⟩ => by
    rw [State.advance_stack] at hw
    rw [State.advance_inWindow] at hout
    simp [hw] at hno
    simp [hno] at hout)

section
variable {s : State} {k : Stk} {t : Count} (hr : s.tb.running = true) (hl : s.tb.count ≤ t) (h64 : t < 2 ^ 64)
include hr hl h64

theorem exec_refreshWindowClose_closes (hw : (s.stack k.val).windowOpen = true) (hout : s.inWindow k.val t = false) :
    exec (.refreshWindowClose k t) s = .next ((s.advance t).shutWindow k.val).drainOwn := by
  rw [← State.closeWindow_eq]
  exact congrArg Host.Outcome.next (if_pos ⟨s.advance_atCount t hr hl h64, by simpa using hw, by simpa using hout⟩)

/-! ### The end of an emergency refresh (05, R133) -/

/-- The end of an emergency refresh at the count `e`, but for the module's own writes that follow it. -/
def State.endEmergency (s : State) (k : Nat) (e : Count) : State :=
  ((s.delayRequests k (e - 480) e).updStack k fun y => { y with emergency := none }).payDeficit k e (s.stack k).heldFrom

theorem exec_emergencyRefreshEnd_ends {e : Count} (he : (s.stack k.val).emergency = some e) (hle : e ≤ t) :
    exec (.emergencyRefreshEnd k t) s = .next ((s.advance t).endEmergency k.val e).drainOwn := by
  show execEmergencyRefreshEnd k t s = _
  unfold execEmergencyRefreshEnd
  dsimp only
  rw [State.advance_stack, he]
  exact congrArg Host.Outcome.next (if_pos ⟨s.advance_atCount t hr hl h64, hle⟩)

end

theorem exec_emergencyRefreshEnd_runs {s : State} {k : Stk} {t : Count} (h : ∀ e, (s.stack k.val).emergency = some e → t < e) :
    exec (.emergencyRefreshEnd k t) s = .next (s.advance t) := by
  show execEmergencyRefreshEnd k t s = _
  unfold execEmergencyRefreshEnd
  dsimp only
  rw [State.advance_stack]
  split
  · rename_i e he
    exact congrArg Host.Outcome.next (if_neg fun ⟨_, hle⟩ => absurd (h e he) (Nat.not_lt.2 hle))
  · rfl

theorem State.endEmergency_ends (s : State) (k : Nat) (e : Count) {u : State} (h : s.endEmergency k e = u) :
    u.stack k = Stack.pays { s.stack k with emergency := none } e (s.stack k).heldFrom ∧ s.otherStacks u k ∧ u.ownq = s.ownq ∧ u.parts = s.parts ∧ u.hbm = s.hbm := by
  obtain ⟨hown, hothers, hframe⟩ := State.payDeficit_pays _ k e (s.stack k).heldFrom h
  refine ⟨by rw [hown, State.stack_updStack_same]; rfl, fun m hm => by rw [hothers m hm, State.stack_updStack_other _ _ hm]; rfl, ?_, ?_, ?_⟩ <;> rw [hframe] <;> rfl

/-! ### Heat and trip (05, R133, R134) -/

/-- A stack becomes hot, and refreshes. -/
def State.turnsHot (s : State) (k : Nat) : State :=
  let v := s.updStack k fun y => { y with hot := true }
  ((v.count .hot (.die (k / 2)) none).canInput (canStack k) 2 1).startEmergency k v.now (v.holdsFrom k)

/-- A reading's heat, but for the trip. -/
def State.warms (s : State) (k celsius : Nat) : State :=
  let v := s.updStack k fun y => { y with tempC := celsius }
  if !(s.stack k).hot ∧ s.refTemp k < celsius then v.turnsHot k
  else if (s.stack k).hot ∧ celsius + 3 ≤ s.refTemp k then v.updStack k fun y => { y with hot := false, deficit := 0 }
  else v

/-- A stack trips: its partitions stop. -/
def State.trips (s : State) (k : Nat) : State :=
  let v := (s.updStack k fun y => { y with tripped := true, trippedAt := s.now }).platform .stackTrip k
  v.faultStopAll (v.partsOnStack k) { code := cSTACKTRIP, stack := k }

section
variable {s : State} {k : Stk} {x : Nat}

theorem exec_stackThermalRead_off (h : s.power.convOn = false) : exec (.stackThermalRead k x) s = .next s := congrArg Host.Outcome.next (if_pos (by simp [h]))

theorem exec_stackThermalRead_warms (h : s.power.convOn = true) (hx : x < 105 ∨ (s.stack k.val).tripped = true) : exec (.stackThermalRead k x) s = .next (s.warms k.val x) :=
  congrArg Host.Outcome.next ((if_neg (by simp [h])).trans (if_neg fun ⟨hge, ht⟩ => by
    rcases hx with hx | hx
    · omega
    · simp [hx] at ht))

theorem exec_stackThermalRead_trips (h : s.power.convOn = true) (hx : 105 ≤ x) (ht : (s.stack k.val).tripped = false) :
    exec (.stackThermalRead k x) s = .next ((s.warms k.val x).trips k.val) :=
  congrArg Host.Outcome.next ((if_neg (by simp [h])).trans (if_pos ⟨hx, by simp [ht]⟩))

end

theorem State.holdsFrom_updStack (s : State) (k : Nat) {f : Stack → Stack} (h : (f (s.stack k)).windowOpen = (s.stack k).windowOpen) : (s.updStack k f).holdsFrom k = s.holdsFrom k := by
  unfold State.holdsFrom
  rw [State.stack_updStack_same, h]
  rfl

theorem State.turnsHot_hot (s : State) (k : Nat) {u : State} (h : s.turnsHot k = u) :
    u.stack k = { s.stack k with hot := true, emergency := some (s.now + 480), heldFrom := s.holdsFrom k, emergencies := (s.stack k).emergencies + 1 } ∧
      s.otherStacks u k ∧ u = { s with hbmStk := u.hbmStk, events := u.events, counts := u.counts, canAcc := u.canAcc } := by
  obtain ⟨hown, hothers, hframe⟩ := State.startEmergency_starts _ k _ _ h
  have hstk (m : Nat) : (((s.updStack k fun y => { y with hot := true }).count .hot (.die (k / 2)) none).canInput (canStack k) 2 1).stack m =
      (s.updStack k fun y => { y with hot := true }).stack m := rfl
  refine ⟨?_, fun m hm => by rw [hothers m hm, hstk, State.stack_updStack_other _ _ hm], ?_⟩
  · rw [hown, hstk, State.stack_updStack_same, State.holdsFrom_updStack s k rfl]
    rfl
  · rw [hframe]
    rfl

section
variable {s : State} {k x : Nat} {u : State} (hu : s.warms k x = u)
include hu

/-- Above its limit a stack becomes hot, and refreshes. -/
theorem State.warms_hot (hot : (s.stack k).hot = false) (hx : s.refTemp k < x) :
    u.stack k = { s.stack k with tempC := x, hot := true, emergency := some (s.now + 480), heldFrom := s.holdsFrom k, emergencies := (s.stack k).emergencies + 1 } ∧
      s.otherStacks u k ∧ u = { s with hbmStk := u.hbmStk, events := u.events, counts := u.counts, canAcc := u.canAcc } := by
  have hbranch : (s.updStack k fun y => { y with tempC := x }).turnsHot k = u := (if_pos ⟨by simp [hot], hx⟩).symm.trans hu
  obtain ⟨hown, hothers, hframe⟩ := State.turnsHot_hot _ k hbranch
  refine ⟨?_, fun m hm => by rw [hothers m hm, State.stack_updStack_other _ _ hm], ?_⟩
  · rw [hown, State.stack_updStack_same, State.holdsFrom_updStack s k rfl]
    rfl
  · rw [hframe]
    rfl

/-- Three degrees below its limit it is hot no longer. -/
theorem State.warms_cool (hot : (s.stack k).hot = true) (hx : x + 3 ≤ s.refTemp k) :
    u.stack k = { s.stack k with tempC := x, hot := false, deficit := 0 } ∧ s.otherStacks u k ∧ u = { s with hbmStk := u.hbmStk } := by
  have hbranch := ((if_neg (by simp [hot])).trans (if_pos ⟨hot, hx⟩)).symm.trans hu
  subst hbranch
  exact ⟨by rw [State.stack_updStack_same, State.stack_updStack_same], fun m hm => by rw [State.stack_updStack_other _ _ hm, State.stack_updStack_other _ _ hm], rfl⟩

/-- Between, the reading alone is new. -/
theorem State.warms_same (hx : ((s.stack k).hot = false ∧ x ≤ s.refTemp k) ∨ ((s.stack k).hot = true ∧ s.refTemp k < x + 3)) :
    u = s.updStack k fun y => { y with tempC := x } := by
  rw [← hu]
  rcases hx with ⟨hot, hx⟩ | ⟨hot, hx⟩
  · exact (if_neg fun ⟨_, h⟩ => by omega).trans (if_neg (by simp [hot]))
  · exact (if_neg (by simp [hot])).trans (if_neg fun ⟨_, h⟩ => by omega)

/-- Whatever the reading, it is kept, and beside the stack nothing but counts changes. -/
theorem State.warms_reads : (u.stack k).tempC = x ∧ s.otherStacks u k ∧ u = { s with hbmStk := u.hbmStk, events := u.events, counts := u.counts, canAcc := u.canAcc } := by
  cases hot : (s.stack k).hot with
  | false =>
    by_cases hx : s.refTemp k < x
    · obtain ⟨hown, hothers, hframe⟩ := State.warms_hot hu hot hx
      exact ⟨by rw [hown], hothers, hframe⟩
    · rw [State.warms_same hu (.inl ⟨hot, by omega⟩)]
      exact ⟨by rw [State.stack_updStack_same], fun m hm => State.stack_updStack_other _ _ hm, rfl⟩
  | true =>
    by_cases hx : x + 3 ≤ s.refTemp k
    · obtain ⟨hown, hothers, hframe⟩ := State.warms_cool hu hot hx
      refine ⟨by rw [hown], hothers, ?_⟩
      rw [hframe]
    · rw [State.warms_same hu (.inr ⟨hot, by omega⟩)]
      exact ⟨by rw [State.stack_updStack_same], fun m hm => State.stack_updStack_other _ _ hm, rfl⟩

end

/-- A trip stops every partition that has an extent there, and touches no other stack and no byte. -/
theorem State.trips_stops (s : State) (k : Nat) {u : State} (h : s.trips k = u) :
    u.stack k = { s.stack k with tripped := true, trippedAt := s.now } ∧ s.otherStacks u k ∧ u.hbm = s.hbm ∧
      ∀ n ∈ s.partsOnStack k, (s.part n).st = .run ∨ (s.part n).st = .hold ∨ (s.part n).st = .armed → (u.part n).st = .faultStop := by
  unfold State.trips at h
  generalize hv : (s.updStack k fun y => { y with tripped := true, trippedAt := s.now }).platform .stackTrip k = v at h
  obtain ⟨htouch, -, hstops, -⟩ := v.faultStopAll_states (v.partsOnStack k) { code := cSTACKTRIP, stack := k }
  rw [h] at htouch hstops
  have hstk (m : Nat) : u.stack m = (s.updStack k fun y => { y with tripped := true, trippedAt := s.now }).stack m := by
    rw [htouch, ← hv, State.platform_frame]
    rfl
  have hparts : v.partsOnStack k = s.partsOnStack k := by
    rw [← hv, State.platform_frame]
    rfl
  have hpart (n : Nat) : v.part n = s.part n := by rw [← hv, State.platform_part]; rfl
  refine ⟨by rw [hstk, State.stack_updStack_same], fun m hm => by rw [hstk, State.stack_updStack_other _ _ hm], ?_, fun n hn hst => hstops n (hparts ▸ hn) ?_⟩
  · rw [htouch, ← hv, State.platform_frame]
    rfl
  · rw [hpart]
    rcases hst with hst | hst | hst <;> simp [Part.stopsFor, hst, cSTACKTRIP, cJOBSTOP]

/-! ### The statement -/

/-- Settles O34: the rows are read off case by case, what they do to a stack is one operation on its row, and the module's own writes come after it. -/
theorem refreshAndHeat : Obligations.RefreshAndHeat := by
  refine ⟨fun s k t hr hl h64 => ⟨fun scrub hw hin => ?_, fun scrub hno => ⟨exec_refreshWindowOpen_kept hr hl h64 scrub hno, fun hk => ?_⟩, fun hw hout => ?_,
      exec_refreshWindowClose_stays⟩,
    fun s k => ⟨fun x hon hx hot hlim => ?_, fun x hon hx hot hlim => ?_, fun x hon hx hsame => ?_, fun x => exec_stackThermalRead_off, fun x hon hx ht => ?_,
      fun t hr hl h64 => ⟨fun e he hle => ?_, exec_emergencyRefreshEnd_runs⟩⟩,
    fun s w hq hm hp hb => ⟨State.drainOwn_made hq hm hp hb, fun ⟨k, hk, hshut, hon⟩ => State.drainOwn_waits hq hb hk hshut hon⟩⟩
  · obtain ⟨hown, hothers, hframe⟩ := State.scrubs_reads ((s.advance t).openWindow k.val) k.val (if s.keepsCalendar k.val then onePerChannel scrub else scrub) rfl
    refine ⟨_, exec_refreshWindowOpen_opens hr hl h64 scrub hw hin, ?_, fun m hm => ?_, ?_⟩
    · rw [hown, State.openWindow, State.stack_updStack_same, State.advance_stack]
    · rw [hothers m hm, State.openWindow, State.stack_updStack_other _ _ hm, State.advance_stack]
    · rw [hframe]
      rfl
  · obtain ⟨hown, hothers, hframe⟩ := State.scrubs_reads (s.advance t) k.val scrub rfl
    refine ⟨_, exec_refreshWindowOpen_free hr hl h64 scrub hno hk, ?_, ?_, fun m hm => ?_, hframe⟩
    · rw [hown, State.advance_stack]
    · rw [hown, State.advance_stack]
    · rw [hothers m hm, State.advance_stack]
  · obtain ⟨hown, hothers, hframe⟩ := (s.advance t).shutWindow_shuts k.val rfl
    rw [State.advance_stack, State.advance_period, State.advance_windowLen] at hown
    have hnow : (s.advance t).now = t := (s.advance_count t hr hl h64).1
    rw [hnow] at hown
    refine ⟨_, exec_refreshWindowClose_closes hr hl h64 hw hout, fun hq => State.drainOwn_nil ?_, ?_, ?_, ?_, fun hcold => ?_, fun due hot hdue => ?_, fun m hm => ?_, hframe⟩
    · rw [hframe]
      exact (s.advance_ownq t).trans hq
    · rw [hown, Stack.pays_windowOpen]
      rfl
    · rw [hown, Stack.pays_tripped]
      rfl
    · rw [hown, Stack.pays_windowWaits]
      show (s.stack k.val).windowWaits + (s.advance t).windowWaiters k.val = _
      unfold State.windowWaiters
      rw [State.advance_stack]
    · rw [hown, Stack.pays_nothing (y := (s.stack k.val).shut _ _) (.inl hcold)]
      simp [Stack.shut, hcold]
    · have hpays := Stack.pays_hot (y := (s.stack k.val).shut ((s.advance t).windowWaiters k.val) (s.period k.val / 8 - s.windowLen k.val)) hot t ((s.advance t).windowStart k.val)
      rw [← hown, Stack.shut_deficit hot, ← hdue] at hpays
      exact hpays
    · rw [hothers m hm, State.advance_stack]
  · exact ⟨_, exec_stackThermalRead_warms hon hx, State.warms_hot rfl hot hlim⟩
  · exact ⟨_, exec_stackThermalRead_warms hon hx, State.warms_cool rfl hot hlim⟩
  · rw [exec_stackThermalRead_warms hon hx, State.warms_same rfl hsame]
  · obtain ⟨htemp, hothers, hframe⟩ := State.warms_reads (s := s) (k := k.val) (x := x) rfl
    obtain ⟨hown, hothers', hhbm, hstops⟩ := (s.warms k.val x).trips_stops k.val rfl
    refine ⟨_, exec_stackThermalRead_trips hon hx ht, by rw [hown], by rw [hown]; exact htemp, ?_, fun m hm => (hothers' m hm).trans (hothers m hm), ?_, fun n hn hst => hstops n ?_ ?_⟩
    · rw [hown, hframe]
      rfl
    · rw [hhbm, hframe]
    · rw [hframe]
      exact hn
    · rw [hframe]
      exact hst
  · obtain ⟨hown, hothers, hq, hparts, hhbm⟩ := (s.advance t).endEmergency_ends k.val e rfl
    rw [State.advance_stack] at hown
    refine ⟨_, exec_emergencyRefreshEnd_ends hr hl h64 he hle, by rw [hq, State.advance_ownq], fun m hm => by rw [hothers m hm, State.advance_stack],
      by rw [hparts, State.advance_parts], by rw [hhbm, State.advance_hbm], fun hno => ?_, fun hot howes => ?_⟩
    · rw [hown, Stack.pays_nothing (y := { s.stack k.val with emergency := none }) hno]
      exact ⟨rfl, rfl⟩
    · have hpays := Stack.pays_hot (y := { s.stack k.val with emergency := none }) hot e (s.stack k.val).heldFrom
      rw [← hown, if_pos ⟨rfl, howes⟩] at hpays
      exact hpays.symm

end Sys2Proof.Machine
end

section
/-! PROOF. PT_JOB_CFG and PT_JOB_TOPO through the setup window (06, R148; 16, R353, R358): what a word written to a register of S fields does where they are open, and a host's write of a
register that is the tree's. -/

namespace Sys2Proof.Machine

/-! ### A word written to a register (16, R356, R358) -/

/-- A write of 32 bits at an aligned offset is a write of the register there; the tree's needs a headframe controller. -/
theorem exec_registerWrite_word {s : State} {c : Caller} {off : Nat} (v : W32) (hoff : off % 4 = 0) (hc : c = .tree → s.managed = true) :
    exec (.registerWrite c off 4 (v.setWidth 64)) s = .next (s.writeReg c off v) := by
  have hup : ¬(c = .tree ∧ (!s.managed) = true) := fun ⟨ht, hm⟩ => by rw [hc ht] at hm; cases hm
  show execRegisterWrite c off 4 (v.setWidth 64) s = _
  unfold execRegisterWrite State.writeAccess
  rw [if_neg hup, if_pos ⟨rfl, hoff⟩, BitVec.setWidth_setWidth_of_le v (by decide), BitVec.setWidth_eq]

/-- Where a partition's S fields are open, the tree's word for a register of its block takes effect if the register's own rule allows it, and is recorded with reason 3 if not (00, R7). -/
theorem exec_registerWrite_open {s : State} {r : Reg} {off : Nat} (v : W32) (hoff : r.off = off) (hat : Reg.at off = some r) (hblock : 0x100000 ≤ off ∧ off < 0x120000 ∧ off % 4 = 0)
    (hm : s.managed = true) (hopen : (s.part r.i).sOpen = true) (hfields : r.shut true = false) (hk : r.kind ≠ .ptFrec) :
    exec (.registerWrite .tree off 4 (v.setWidth 64)) s =
      .next (if s.regOk r (r.merge true (s.regValue r) v) = true then s.regPut r (r.merge true (s.regValue r) v) else s.setupFault .tree 3 off) := by
  obtain ⟨hlo, hhi, h4⟩ := hblock
  have hin : s.sOpenFor r = true := (if_pos (by simp [Reg.inPart, hoff, hlo, hhi])).trans hopen
  have hlow : off < 0x122000 := by omega
  rw [exec_registerWrite_word v h4 fun _ => hm]
  unfold State.writeReg State.sees State.writeWord Reg.writeFields Reg.blocked
  cases hok : s.regOk r (r.merge true (s.regValue r) v) <;> simp [hat, hlow, hin, hfields, hk, mayWrite, hok]

/-- A host's write of a register that is the tree's is recorded with reason 4, where the host sees it. -/
theorem exec_registerWrite_treeOnly {s : State} {f : Func} {off : Nat} {r : Reg} (v : W32) (hat : Reg.at off = some r) (htree : r.kind.treeOnly = true) (hoff : off % 4 = 0)
    (hsees : s.sees (.host f) off = true) : exec (.registerWrite (.host f) off 4 (v.setWidth 64)) s = .next (s.setupFault (.host f) 4 off) := by
  rw [exec_registerWrite_word (c := .host f) v hoff nofun]
  unfold State.writeReg
  simp [hat, hsees, mayWrite, htree]

/-- The record of a write that was not applied leaves the stored registers. -/
@[simp] theorem cfg_setupFault_tree (s : State) (reason off : Nat) (k : RegKind) (i j : Nat) : cfg (s.setupFault .tree reason off) k i j = cfg s k i j := rfl

theorem setCfg_frame (s : State) (k : RegKind) (i j : Nat) (v : W32) : setCfg s k i j v = { s with regs := (setCfg s k i j v).regs } := rfl

/-! ### The two registers (06, R148) -/

theorem off_ptJobCfg (n : Nat) : (⟨.ptJobCfg, n, 0⟩ : Reg).off = 0x100010 + 0x1000 * n := by simp only [Reg.off]; omega
theorem off_ptJobTopo (n : Nat) : (⟨.ptJobTopo, n, 0⟩ : Reg).off = 0x100014 + 0x1000 * n := by simp only [Reg.off]; omega
theorem regAt_ptJobCfg (n : Pt) : Reg.at (0x100010 + 0x1000 * n.val) = some ⟨.ptJobCfg, n.val, 0⟩ := by revert n; decide
theorem regAt_ptJobTopo (n : Pt) : Reg.at (0x100014 + 0x1000 * n.val) = some ⟨.ptJobTopo, n.val, 0⟩ := by revert n; decide

theorem testBit_highHalf (i : Nat) : (0xFFFF0000 : W32).toNat.testBit i = (decide (16 ≤ i) && decide (i - 16 < 16)) := by
  rw [show (0xFFFF0000 : W32).toNat = (2 ^ 16 - 1) <<< 16 by decide, Nat.testBit_shiftLeft, Nat.testBit_two_pow_sub_one]

/-- PT_JOB_CFG holds JOB_MODULES alone: the lower half of the word is reserved. -/
theorem merge_ptJobCfg (n : Nat) (old v : W32) : (⟨.ptJobCfg, n, 0⟩ : Reg).merge true old v = v &&& 0xFFFF0000 := by
  have hword : ((⟨.ptJobCfg, n, 0⟩ : Reg).merge true old v).toNat = ((v.toNat >>> 16 % 2 ^ 16) % 2 ^ 16) <<< 16 % 2 ^ 32 :=
    congrArg (· % 2 ^ 32) (Nat.zero_add _)
  refine BitVec.eq_of_toNat_eq (Nat.eq_of_testBit_eq fun i => ?_)
  rw [hword, BitVec.toNat_and, Nat.testBit_and, testBit_highHalf]
  simp only [Nat.testBit_mod_two_pow, Nat.testBit_shiftLeft, Nat.testBit_shiftRight]
  by_cases hi : 16 ≤ i
  · have hhalf : i < 32 ↔ i - 16 < 16 := by omega
    simp [hi, hhalf, Bool.and_comm]
  · simp [hi]

/-- JOB_MODULES lies in the half that is kept. -/
theorem rf_and_highHalf (v : W32) : rf (v &&& 0xFFFF0000) 31 16 = rf v 31 16 := by
  refine Nat.eq_of_testBit_eq fun i => ?_
  unfold rf fld
  rw [BitVec.toNat_and, Nat.testBit_mod_two_pow, Nat.testBit_mod_two_pow, Nat.testBit_shiftRight, Nat.testBit_shiftRight, Nat.testBit_and, testBit_highHalf]
  by_cases hi : i < 16 <;> simp [hi]

theorem merge_ptJobTopo (n : Nat) (old v : W32) : (⟨.ptJobTopo, n, 0⟩ : Reg).merge true old v = v := by
  show w32 (0 + ((v.toNat >>> 0 % 2 ^ 32) % 2 ^ 32) <<< 0) = v
  simp [w32, Nat.mod_eq_of_lt v.isLt]

section
variable {s : State} {n : Pt} (v : W32)

/-- What the tree's write of PT_JOB_CFG does where the partition's S fields are open: JOB_MODULES above 32,768 is refused. -/
theorem exec_registerWrite_ptJobCfg (hm : s.managed = true) (hopen : (s.part n.val).sOpen = true) :
    exec (.registerWrite .tree (0x100010 + 0x1000 * n.val) 4 (v.setWidth 64)) s =
      .next (if rf v 31 16 ≤ 32768 then setCfg s .ptJobCfg n.val 0 (v &&& 0xFFFF0000) else s.setupFault .tree 3 (0x100010 + 0x1000 * n.val)) := by
  have hn := n.isLt
  rw [exec_registerWrite_open v (off_ptJobCfg n) (regAt_ptJobCfg n) (by omega) hm hopen rfl nofun, merge_ptJobCfg]
  simp only [State.regOk, State.regPut, decide_eq_true_eq, rf_and_highHalf]

/-- What its write of PT_JOB_TOPO does there: every word is allowed. -/
theorem exec_registerWrite_ptJobTopo (hm : s.managed = true) (hopen : (s.part n.val).sOpen = true) :
    exec (.registerWrite .tree (0x100014 + 0x1000 * n.val) 4 (v.setWidth 64)) s = .next (setCfg s .ptJobTopo n.val 0 v) := by
  have hn := n.isLt
  rw [exec_registerWrite_open v (off_ptJobTopo n) (regAt_ptJobTopo n) (by omega) hm hopen rfl nofun, merge_ptJobTopo]
  rfl

/-- A function sees the block of a partition that it owns (12, R266). -/
theorem State.sees_ownBlock {f : Func} {off : Nat} (hf : s.owner n.val = some f) (hlo : 0x100000 + 0x1000 * n.val ≤ off) (hhi : off < 0x101000 + 0x1000 * n.val) :
    s.sees (.host f) off = true := by
  have hn := n.isLt
  have hblock : 0x100000 ≤ off ∧ off < 0x120000 := by omega
  have hpart : (off - 0x100000) / 0x1000 = n.val := by omega
  unfold State.sees State.seenBy State.mine State.ownedBy
  simp [hblock, hpart, hf]

end

/-- Settles O60: where S fields are open the tree's word is stored if JOB_MODULES allows it, and a host that sees the registers may not write them. -/
theorem jobRegisters : Obligations.JobRegisters := by
  intro s n v hm hopen hregs
  have hcfg := exec_registerWrite_ptJobCfg v hm hopen
  refine ⟨fun hover => ?_, fun hallowed => ?_, ?_, fun f hf => ⟨?_, ?_⟩⟩
  · rw [if_neg (Nat.not_le.2 hover)] at hcfg
    exact ⟨hcfg, fun m => cfg_setupFault_tree s _ _ _ m 0⟩
  · rw [if_pos hallowed] at hcfg
    exact ⟨_, hcfg, cfg_setCfg_same s _ _ _ _ hregs, fun k i j hk => cfg_setCfg_other s _ (by rwa [off_ptJobCfg]), setCfg_frame s _ _ _ _⟩
  · exact ⟨_, exec_registerWrite_ptJobTopo v hm hopen, cfg_setCfg_same s _ _ _ _ hregs, fun k i j hk => cfg_setCfg_other s _ (by rwa [off_ptJobTopo]), setCfg_frame s _ _ _ _⟩
  · exact exec_registerWrite_treeOnly v (regAt_ptJobCfg n) rfl (by omega) (State.sees_ownBlock hf (by omega) (by omega))
  · exact exec_registerWrite_treeOnly v (regAt_ptJobTopo n) rfl (by omega) (State.sees_ownBlock hf (by omega) (by omega))

end Sys2Proof.Machine
end

section
/-! PROOF. A FETCH into the shadow area of a partition in assay mode (06, R154; 13, R288-R291): the statement has the record of its stop name BOUNDS and asks nothing of the table of partitions,
and where that lists partitions twice the record names another cause. -/

namespace Sys2Proof.Machine

/-- FETCH of shape 0, without a flag, from the start of the region to 0x4000. -/
def shadowRead : QCmd :=
  { idx := 0, gen := 0, cmd := { w0 := 0x2800000000001F80, w1 := 0, w2 := 0, w3 := 0 }, a := 0, b := 0x4000, seq := 0, cyc := 0, vc := [] }

/-- Partitions 0 and 1 listed twice each, as in `listedTwice`. Partition 0 has one granule of stack 0, and is in assay mode with its shadow area from the start of its region; the FETCH of one byte
stands at the head of queue X of its core 0. -/
def shadowReader : State :=
  { setCfg (setCfg listedTwice .ptHbmExt 0 0 0x00010000) .ptAssayCtl 0 0 1 with
    cores := [(0, { Core.reset with hasEntry := true, grant := 1, queues := [(3, [shadowRead])]
                                    shapes := [{ ext0 := 1, ext1 := 1, ext2 := 1, ext3 := 1, stride1 := 0, stride2 := 0, stride3 := 0 }] })] }

theorem shadowReader_catchUp : shadowReader = shadowReader.catchUp := (State.catchUp_idle (by decide)).symm

/-- Nothing but the shadow area keeps the FETCH from starting. -/
theorem shadowReader_head : shadowReader.grantCause ⟨0, 0, 0⟩ Queue.x.code shadowRead = none ∧ (shadowReader.core ⟨0, 0, 0⟩).emptySlot shadowRead.gen shadowRead.stencilAddrs = none ∧
    shadowReader.storeFault ⟨0, 0, 0⟩ shadowRead (shadowReader.effectOf ⟨0, 0, 0⟩ shadowRead) = none := by decide +kernel

/-- Its byte lies there. -/
theorem shadowReader_reaches : ((0x4000 : Int), some (0 : Int)) ∈ shadowReader.memSides ⟨0, 0, 0⟩ shadowRead ∧ (shadowReader.shadow 0).1 ≤ (0 : Int).toNat ∧
    (0 : Int).toNat < (shadowReader.shadow 0).1 + (shadowReader.shadow 0).2 := by decide +kernel

theorem shadowReader_records : (partAfter (.engineCommandStart ⟨0, 0, 0⟩ .x []) shadowReader 0).map (fun p => p.frec.map (·.cause)) = some (some cJOBSTOP) := by decide +kernel

/-- Refutes O33: the FETCH stops partition 0 with BOUNDS, its flood reaches the second entry of partition 1, and what follows there puts the JOB_STOP of the second entry of partition 0 in place
of the record. -/
theorem not_assayMode : ¬ Obligations.AssayMode := by
  intro h
  obtain ⟨-, -, -, shadow, -⟩ := h
  obtain ⟨hgrant, hslot, hstore⟩ := shadowReader_head
  obtain ⟨hside, hlo, hhi⟩ := shadowReader_reaches
  obtain ⟨t, r, ht, -, hr, hcause, -⟩ := shadow shadowReader shadowReader ⟨0, 0, 0⟩ 0 .x shadowRead [] [] _ 0 shadowReader_catchUp (by decide +kernel) rfl (by decide) rfl (.inl (by decide))
    (by decide) rfl hgrant hslot hstore (by decide +kernel) rfl hside rfl le_rfl hlo hhi
  have hrecords := shadowReader_records
  rw [partAfter_of_next ht] at hrecords
  have hfrec : (t.part 0).frec.map (·.cause) = some cJOBSTOP := Option.some.inj hrecords
  rw [hr] at hfrec
  exact absurd (hcause.symm.trans (Option.some.inj hfrec)) (by decide)

end Sys2Proof.Machine
end

section
/-! PROOF. What a fault-stop, the failure of a port and a host-link reset leave of the clock domains and of the ports' states (07, R181; 08, R204; 12, R268; 13, R289-R291): the domains stand
as they were, and so does every port's state, but for that of a port that fails. -/

namespace Sys2Proof.Machine

/-- The clock domains, and the state in which each port stands. -/
def State.domainsAndPorts (s : State) : Tab Domain × (Nat → PortState) := (s.domains, fun p => (s.port p).st)

theorem State.domain_of_domainsAndPorts {s t : State} (h : t.domainsAndPorts = s.domainsAndPorts) : t.domains = s.domains := congrArg Prod.fst h

theorem State.portSt_of_domainsAndPorts {s t : State} (h : t.domainsAndPorts = s.domainsAndPorts) (p : Nat) : (t.port p).st = (s.port p).st :=
  congrFun (congrArg Prod.snd h) p

theorem State.domainsAndPorts_foldl {α : Type} {f : State → α → State} (h : ∀ s a, (f s a).domainsAndPorts = s.domainsAndPorts) (l : List α) (s : State) :
    (l.foldl f s).domainsAndPorts = s.domainsAndPorts :=
  List.foldlRecOn (motive := fun t => t.domainsAndPorts = s.domainsAndPorts) l f rfl fun t ht a _ => (h t a).trans ht

theorem State.domainsAndPorts_ite (p : Prop) [Decidable p] (s t : State) : (if p then s else t).domainsAndPorts = if p then s.domainsAndPorts else t.domainsAndPorts :=
  apply_ite _ _ _ _

theorem State.domainsAndPorts_setPort (s : State) (p : Nat) (f : FPort) :
    (s.setPort p f).domainsAndPorts = (s.domains, Function.update s.domainsAndPorts.2 p f.st) := by
  refine Prod.ext rfl (funext fun q => ?_)
  by_cases hq : q = p
  · subst hq
    simp [State.domainsAndPorts]
  · simp [State.domainsAndPorts, State.port_setPort_other _ _ hq, hq]

/-- A change of a port that keeps its state. -/
theorem State.domainsAndPorts_updPort (s : State) (p : Nat) {f : FPort → FPort} (h : (f (s.port p)).st = (s.port p).st) : (s.updPort p f).domainsAndPorts = s.domainsAndPorts := by
  rw [State.updPort, State.domainsAndPorts_setPort, h]
  exact Prod.ext rfl (Function.update_eq_self p _)

/-- A table whose entries keep their keys and the states of their ports. -/
theorem Tab.get_map_st {F : Nat × FPort → Nat × FPort} (h : ∀ e, (F e).1 = e.1 ∧ (F e).2.st = e.2.st) (m : Tab FPort) (p : Nat) :
    (Tab.get FPort.reset (m.map F) p).st = (Tab.get FPort.reset m p).st := by
  induction m with
  | nil => rfl
  | cons e m ih =>
    obtain ⟨hkey, hst⟩ := h e
    simp only [Tab.get, List.map_cons, Tab.find, hkey] at ih ⊢
    split
    · exact hst
    · exact ih

/-- A change of the listed ports that keeps their states. -/
theorem State.domainsAndPorts_mapPorts {s t : State} {F : Nat × FPort → Nat × FPort} (hd : t.domains = s.domains) (hp : t.ports = s.ports.map F)
    (h : ∀ e, (F e).1 = e.1 ∧ (F e).2.st = e.2.st) : t.domainsAndPorts = s.domainsAndPorts := by
  refine Prod.ext hd (funext fun p => ?_)
  show (Tab.get FPort.reset t.ports p).st = (Tab.get FPort.reset s.ports p).st
  rw [hp]
  exact Tab.get_map_st h s.ports p

/-! ### The steps of a stop (13, R289-R291) -/

@[simp] theorem State.domainsAndPorts_count (s : State) (e : Ev) (w : Where) (p : Option Nat) : (s.count e w p).domainsAndPorts = s.domainsAndPorts := rfl
@[simp] theorem State.domainsAndPorts_countN (s : State) (e : Ev) (w : Where) (p : Option Nat) (n : Nat) : (s.countN e w p n).domainsAndPorts = s.domainsAndPorts := rfl
@[simp] theorem State.domainsAndPorts_setPart (s : State) (n : Nat) (p : Part) : (s.setPart n p).domainsAndPorts = s.domainsAndPorts := rfl
@[simp] theorem State.domainsAndPorts_updPart (s : State) (n : Nat) (f : Part → Part) : (s.updPart n f).domainsAndPorts = s.domainsAndPorts := rfl
@[simp] theorem State.domainsAndPorts_setCore (s : State) (c : CoreId) (k : Core) : (s.setCore c k).domainsAndPorts = s.domainsAndPorts := rfl
@[simp] theorem State.domainsAndPorts_finish (s : State) (n : Nat) (d : Desc) (st : Nat) : (s.finish n d st).domainsAndPorts = s.domainsAndPorts := rfl

@[simp] theorem State.domainsAndPorts_platform (s : State) (k : EventKind) (a : Nat) : (s.platform k a).domainsAndPorts = s.domainsAndPorts := by
  rw [State.platform_frame]
  rfl

@[simp] theorem State.domainsAndPorts_event (s : State) (n ev : Nat) (w : Word) : (s.event n ev w).domainsAndPorts = s.domainsAndPorts := by
  unfold State.event State.unsolicited
  dsimp only
  repeat' split
  all_goals rfl

@[simp] theorem State.domainsAndPorts_abortFlight (s : State) (n : Nat) : (s.abortFlight n).domainsAndPorts = s.domainsAndPorts :=
  State.domainsAndPorts_foldl (f := fun s d => s.finish n d stABORTED) (fun _ _ => rfl) _ s

@[simp] theorem State.domainsAndPorts_repaintLeft (s : State) (r : Option Repaint) : (s.repaintLeft r).domainsAndPorts = s.domainsAndPorts := by
  unfold State.repaintLeft State.repaintReached
  repeat' split
  all_goals rfl

@[simp] theorem State.domainsAndPorts_discardUnissued (s : State) (n : Nat) : (s.discardUnissued n).domainsAndPorts = s.domainsAndPorts :=
  State.domainsAndPorts_foldl (fun s c => by
    dsimp only
    split <;> rfl) _ s

@[simp] theorem State.domainsAndPorts_amend (s : State) (n : Nat) (old new : FaultRec) : (s.amend n old new).domainsAndPorts = s.domainsAndPorts := by
  unfold State.amend
  dsimp only
  split <;> rfl

@[simp] theorem State.domainsAndPorts_amendReason (s : State) (key old new : Nat) : (s.amendReason key old new).domainsAndPorts = s.domainsAndPorts := by
  unfold State.amendReason
  refine (State.domainsAndPorts_foldl (fun s e => ?_) _ _).trans (State.domainsAndPorts_mapPorts (s := s) rfl rfl fun _ => ⟨rfl, rfl⟩)
  repeat' split
  all_goals simp

@[simp] theorem State.domainsAndPorts_stopOne (s : State) (n : Nat) (c : Cause) : (s.stopOne n c).domainsAndPorts = s.domainsAndPorts := by
  unfold State.stopOne
  dsimp only
  split
  · simp only [State.domainsAndPorts_count, State.domainsAndPorts_event, State.domainsAndPorts_platform, State.domainsAndPorts_repaintLeft, State.domainsAndPorts_abortFlight]
    refine Eq.trans (State.domainsAndPorts_mapPorts (s := (s.setPart n _).discardUnissued n) rfl rfl fun _ => ⟨rfl, rfl⟩) ?_
    rw [State.domainsAndPorts_discardUnissued, State.domainsAndPorts_setPart]
  · repeat' split
    all_goals simp

@[simp] theorem State.domainsAndPorts_flood (s : State) (b : JobStopBody) (k : Bool) : (s.flood b k).domainsAndPorts = s.domainsAndPorts := by
  have queued (t : State) : ((upFrom 0 16).foldl (fun s p => if s.jobStopPort p ∧ s.portHasKey p b.key.toNat then s.queueJobStop p b else s) t).domainsAndPorts = t.domainsAndPorts :=
    State.domainsAndPorts_foldl (fun s p => by
      split
      · exact State.domainsAndPorts_updPort s p rfl
      · rfl) _ t
  unfold State.flood
  simp only [State.domainsAndPorts_ite, queued]
  repeat' split
  all_goals rfl

@[simp] theorem State.domainsAndPorts_faultStopAll (s : State) (ns : List Nat) (c : Cause) : (s.faultStopAll ns c).domainsAndPorts = s.domainsAndPorts := by
  have stopped (s : State) (l : List Nat) (j : State → Cause) : (l.foldl (fun s n => s.stopOne n (j s)) s).domainsAndPorts = s.domainsAndPorts :=
    State.domainsAndPorts_foldl (fun s n => State.domainsAndPorts_stopOne s n _) l s
  unfold State.faultStopAll
  dsimp only
  split
  · exact stopped s ns fun _ => c
  · refine (State.domainsAndPorts_foldl (fun s key => ?_) _ _).trans (stopped s ns fun _ => c)
    exact (stopped _ _ fun t => jobStopCause c.code t.domainNo t.devid).trans (State.domainsAndPorts_flood _ _ _)

@[simp] theorem State.domainsAndPorts_faultStop (s : State) (n : Nat) (c : Cause) : (s.faultStop n c).domainsAndPorts = s.domainsAndPorts := State.domainsAndPorts_faultStopAll s [n] c

/-! ### The failure of a port (08, R204; 09, R228) -/

@[simp] theorem State.domainsAndPorts_linkLost (s : State) (t : Tracked) (e : Ev) : (s.linkLost t e).domainsAndPorts = s.domainsAndPorts := by
  unfold State.linkLost
  dsimp only
  repeat' split
  all_goals rfl

theorem State.domainsAndPorts_queueLoose (s : State) (p v : Nat) (x : LooseFlit) : (s.queueLoose p v x).domainsAndPorts = s.domainsAndPorts :=
  State.domainsAndPorts_updPort s p (by split <;> rfl)

theorem State.domainsAndPorts_dropFlit (s : State) (p v : Nat) (e : Ev) : (s.dropFlit p v e).domainsAndPorts = s.domainsAndPorts :=
  State.domainsAndPorts_updPort s p (f := fun f => f.retire v) rfl

@[simp] theorem State.domainsAndPorts_routeLoose (s : State) (v : Nat) (x : LooseFlit) : (s.routeLoose v x).domainsAndPorts = s.domainsAndPorts := by
  unfold State.routeLoose
  dsimp only
  repeat' split
  all_goals simp [State.domainsAndPorts_queueLoose, State.domainsAndPorts_dropFlit]

@[simp] theorem State.domainsAndPorts_stopTransit (s : State) (p key : Nat) : (s.stopTransit p key).domainsAndPorts = s.domainsAndPorts := by
  unfold State.stopTransit
  split <;> simp

@[simp] theorem State.domainsAndPorts_forgetFrom (s : State) (p : Nat) : (s.forgetFrom p).domainsAndPorts = s.domainsAndPorts := State.domainsAndPorts_mapPorts rfl rfl fun _ => ⟨rfl, rfl⟩

/-- The failed port takes its new state, and no other port changes its own. -/
theorem State.domainsAndPorts_failPort (s : State) (p : Nat) (st : PortState) :
    (s.failPort p st).domainsAndPorts = (s.domains, Function.update s.domainsAndPorts.2 p st) := by
  unfold State.failPort
  dsimp only
  rw [State.domainsAndPorts_foldl fun s x => State.domainsAndPorts_routeLoose s 2 x, State.domainsAndPorts_foldl fun s x => State.domainsAndPorts_routeLoose s 1 x,
    State.domainsAndPorts_foldl fun s t => State.domainsAndPorts_linkLost s t _, State.domainsAndPorts_foldl fun s k => State.domainsAndPorts_stopTransit s p k,
    State.domainsAndPorts_faultStopAll, State.domainsAndPorts_forgetFrom, State.domainsAndPorts_setPort]

/-! ### A host-link reset (12, R268) -/

@[simp] theorem State.domainsAndPorts_repaintAborted (s : State) (n : Nat) : (s.repaintAborted n).domainsAndPorts = s.domainsAndPorts := by
  unfold State.repaintAborted
  repeat' split
  all_goals rfl

@[simp] theorem State.domainsAndPorts_zeroExtents (s : State) (n : Nat) : (s.zeroExtents n).domainsAndPorts = s.domainsAndPorts :=
  State.domainsAndPorts_foldl (fun s e => by
    dsimp only
    split <;> rfl) _ s

@[simp] theorem State.domainsAndPorts_dropClaims (s : State) (cl : List Claim) : (s.dropClaims cl).domainsAndPorts = s.domainsAndPorts :=
  State.domainsAndPorts_foldl (fun s c => by split <;> rfl) _ s

@[simp] theorem State.domainsAndPorts_resetPart (s : State) (n : Nat) (hostReset : Bool) : (s.resetPart n hostReset).domainsAndPorts = s.domainsAndPorts := by
  have zeroed : (((((s.repaintAborted n).dropRunning n).gate n).zeroStores n).zeroExtents n).domainsAndPorts = s.domainsAndPorts :=
    (State.domainsAndPorts_zeroExtents _ n).trans (State.domainsAndPorts_repaintAborted s n)
  unfold State.resetPart
  exact Eq.trans (State.domainsAndPorts_mapPorts (s := State.dropClaims _ _) rfl rfl fun _ => ⟨rfl, rfl⟩) ((State.domainsAndPorts_dropClaims _ _).trans zeroed)

@[simp] theorem State.domainsAndPorts_disableRings (s : State) (n : Nat) : (s.disableRings n).domainsAndPorts = s.domainsAndPorts :=
  State.domainsAndPorts_foldl (fun s q => by
    dsimp only
    repeat' split
    all_goals rfl) _ s

@[simp] theorem State.domainsAndPorts_hostResetPart (s : State) (n : Nat) (l : Link) : (s.hostResetPart n l).domainsAndPorts = s.domainsAndPorts := by
  unfold State.hostResetPart
  dsimp only
  split <;> simp

@[simp] theorem State.domainsAndPorts_hostReset (s : State) (fs : Func → Bool) : (s.hostReset fs).domainsAndPorts = s.domainsAndPorts :=
  State.domainsAndPorts_foldl (fun s n => by repeat' split
                                             all_goals simp) _ s

end Sys2Proof.Machine
end

section
/-! PROOF. The rows of the clock domains, the oscillators, the crossings and the cluster clocks (07, R162, R173-R181): what each of them does, as the state that follows. -/

namespace Sys2Proof.Machine

/-! ### Tables read after writes -/

theorem Tab.get_write_other {α : Type} [DecidableEq α] (d : α) (m : Tab α) {a b : Nat} (x : α) (h : b ≠ a) : Tab.get d (Tab.write d m a x) b = Tab.get d m b := by
  unfold Tab.write Tab.get
  split
  · rw [Tab.find_erase_other m h]
  · rw [Tab.find_put_other m x h]

theorem Tab.get_write_same {α : Type} [DecidableEq α] (d : α) {m : Tab α} (h : Tab.rising none m = true) (a : Nat) (x : α) : Tab.get d (Tab.write d m a x) a = x := by
  unfold Tab.write Tab.get
  split
  next hx => rw [Tab.find_erase_same a h, hx]; rfl
  next => rw [Tab.find_put_same]; rfl

theorem State.region_updRegion_other (s : State) {n m : Nat} (f : Region → Region) (h : m ≠ n) : (s.updRegion n f).region m = s.region m :=
  Tab.get_put_other _ _ _ h

theorem State.crossing_updCrossing_other (s : State) {n m : Nat} (f : Crossing → Crossing) (h : m ≠ n) : (s.updCrossing n f).crossing m = s.crossing m :=
  Tab.get_put_other _ _ _ h

/-! ### Partitions stopped by what they name (07, R175, R181) -/

/-- A partition whose state is not Absent is listed. -/
theorem Tab.exists_mem_of_not_absent {m : Tab Part} {n : Nat} (h : (Tab.get Part.reset m n).st ≠ .absent) : ∃ e ∈ m, e.1 = n ∧ e.2.notAbsent = true := by
  induction m with
  | nil => exact absurd rfl h
  | cons e m ih =>
    by_cases he : n = e.1
    · rw [Tab.get, Tab.find, if_pos he] at h
      exact ⟨e, by simp, he.symm, by simpa [Part.notAbsent] using .inl h⟩
    · rw [Tab.get, Tab.find, if_neg he] at h
      obtain ⟨x, hx, hkey⟩ := ih h
      exact ⟨x, List.mem_cons_of_mem _ hx, hkey⟩

theorem State.mem_partsWith {s : State} {n : Nat} {f : Nat → Bool} (hst : (s.part n).st = .run ∨ (s.part n).st = .hold) (hf : f n = true) : n ∈ s.partsWith f := by
  have hpresent : (s.part n).st ≠ .absent := by rcases hst with h | h <;> simp [h]
  obtain ⟨e, he, rfl, hlisted⟩ := Tab.exists_mem_of_not_absent hpresent
  exact List.mem_map.2 ⟨e, List.mem_filter.2 ⟨he, by simp [hlisted, hf]⟩, rfl⟩

theorem State.faultStopAll_stops {s : State} {n : Nat} {ns : List Nat} (hn : n ∈ ns) (hst : (s.part n).st = .run ∨ (s.part n).st = .hold) (c : Cause) :
    ((s.faultStopAll ns c).part n).st = .faultStop := by
  obtain ⟨-, -, stops, -⟩ := State.faultStopAll_states s ns c
  exact stops n hn (Part.stopsFor_run hst c.code)

theorem State.faultStopAll_touch (s : State) (ns : List Nat) (c : Cause) : s.stopTouch (s.faultStopAll ns c) := by
  obtain ⟨htouch, -⟩ := State.faultStopAll_states s ns c
  exact htouch

/-! ### A lost clock (07, R181) -/

/-- The domain has lost its clock, and LOSS is set. -/
def State.losesClock (s : State) (d : Nat) : State := s.updDomain d fun x => { x with lost := true, lossBit := true }

/-- The domains are as they were, but for one that has lost its clock. -/
def State.clockLost (s t : State) (d : Nat) : Prop := (t.domain d).lost = true ∧ (t.domain d).lossBit = true ∧ ∀ e, e ≠ d → t.domain e = s.domain e

theorem State.clockLost_of_domains {s t : State} {d : Nat} (h : t.domains = (s.losesClock d).domains) : s.clockLost t d := by
  have hdom (e : Nat) : t.domain e = (s.losesClock d).domain e := by rw [State.domain, h, State.domain]
  have hlost : t.domain d = { s.domain d with lost := true, lossBit := true } := (hdom d).trans (State.domain_updDomain_same s d _)
  exact ⟨by rw [hlost], by rw [hlost], fun e he => (hdom e).trans (State.domain_updDomain_other s _ he)⟩

/-- Both headframe controllers stop, and an update ends. -/
def State.headframeStops (s : State) : State := { s with hf := { s.hf with e0Up := false, e1Up := false }, update := none }

section
variable (s : State) {d : Dom} (die : Fin 8)

theorem exec_clockLoss_trunk (h : d.val = 0) : exec (.clockLoss d die) s =
    .next ((s.losesClock d.val).faultStopAll (s.partsWith fun n => decide (die.val < 6) && s.onDie n die.val) { code := cCLOCKLOSS, item := d.val, die := die.val }) := by
  show execClockLoss d die s = _
  simp only [execClockLoss, if_pos h]
  rfl

theorem exec_clockLoss_headframe (h : d.val = 1) : exec (.clockLoss d die) s = .next ((s.losesClock d.val).headframeStops.alarmEdge s.alarm) :=
  congrArg Host.Outcome.next ((if_neg (by omega)).trans (if_pos h))

theorem exec_clockLoss_region (h2 : 2 ≤ d.val) (h14 : d.val < 14) : exec (.clockLoss d die) s =
    .next ((s.losesClock d.val).faultStopAll (s.partsWith fun n => s.inRegion n (d.val - 2)) { code := cCLOCKLOSS, item := d.val, die := (d.val - 2) / 2 }) := by
  have h0 : ¬ d.val = 0 := by omega
  have h1 : ¬ d.val = 1 := by omega
  show execClockLoss d die s = _
  simp only [execClockLoss, if_neg h0, if_neg h1, if_pos h14]
  rfl

theorem exec_clockLoss_edge (h : 14 ≤ d.val) : exec (.clockLoss d die) s =
    .next (if d.val < 16 then (s.losesClock d.val).edgeDieLost 0 .h0a .h0b else (s.losesClock d.val).edgeDieLost 8 .h1a .h1b) :=
  congrArg Host.Outcome.next (((if_neg (by omega)).trans (if_neg (by omega))).trans (if_neg (by omega)))

end

/-! ### An edge die without clock (08, R204; 12, R268) -/

/-- The ports of an edge die fail. -/
def State.portsFail (s : State) (l : List Nat) : State := l.foldl (fun s p => if (s.port p).st = .disabled then s else s.failPort p .failed) s

theorem State.portsFail_domains (s : State) (l : List Nat) : (s.portsFail l).domains = s.domains :=
  List.foldlRecOn (motive := fun (t : State) => t.domains = s.domains) l _ rfl fun t ht p _ => by
    split
    · exact ht
    · exact (congrArg Prod.fst (State.domainsAndPorts_failPort t p .failed)).trans ht

theorem State.failPort_portSt (s : State) (p : Nat) (st : PortState) (q : Nat) : ((s.failPort p st).port q).st = if q = p then st else (s.port q).st :=
  (congrFun (congrArg Prod.snd (State.domainsAndPorts_failPort s p st)) q).trans (Function.update_apply ..)

/-- A port that was not disabled has failed if it is one of them, or had failed before. -/
theorem State.portsFail_fails {l : List Nat} {q : Nat} {s : State} (hup : (s.port q).st ≠ .disabled) (h : q ∈ l ∨ (s.port q).st = .failed) : ((s.portsFail l).port q).st = .failed := by
  induction l generalizing s with
  | nil => exact h.resolve_left (by simp)
  | cons p l ih =>
    show ((State.portsFail (if (s.port p).st = .disabled then s else s.failPort p .failed) l).port q).st = .failed
    by_cases hq : q = p
    · subst hq
      rw [if_neg hup]
      have hfailed := (State.failPort_portSt s q .failed q).trans (if_pos rfl)
      exact ih (by rw [hfailed]; decide) (.inr hfailed)
    · have hrest : q ∈ l ∨ (s.port q).st = .failed := h.imp_left fun hm => (List.mem_cons.1 hm).resolve_left hq
      split
      · exact ih hup hrest
      · have hsame := (State.failPort_portSt s p .failed q).trans (if_neg hq)
        exact ih (by rwa [hsame]) (by rwa [hsame])

theorem Link.ix_inj {a l : Link} (h : l.ix = a.ix) : l = a := by cases l <;> cases a <;> simp [Link.ix] at h ⊢

theorem State.link_linkDown (s : State) (a l : Link) (h : l = a ∨ (s.link l).trained = false) : ((s.linkDown a).link l).trained = false := by
  by_cases hl : l = a
  · subst hl
    rw [State.linkDown, State.link_updLink_same]
    rfl
  · rw [State.linkDown, State.link_updLink_other _ _ fun hix => hl (Link.ix_inj hix)]
    exact h.resolve_left hl

theorem State.domainsAndPorts_linkDown (s : State) (l : Link) : (s.linkDown l).domainsAndPorts = s.domainsAndPorts := rfl

theorem State.edgeDieLost_eq (s : State) (first : Nat) (a b : Link) : s.edgeDieLost first a b =
    (((s.portsFail (upFrom first 8)).hostReset fun f => f.link = a || f.link = b).linkDown a).linkDown b := rfl

theorem State.domainsAndPorts_edgeDieLost (s : State) (first : Nat) (a b : Link) : (s.edgeDieLost first a b).domainsAndPorts = (s.portsFail (upFrom first 8)).domainsAndPorts := by
  rw [State.edgeDieLost_eq, State.domainsAndPorts_linkDown, State.domainsAndPorts_linkDown, State.domainsAndPorts_hostReset]

/-- An edge die without clock: its eight ports fail, but for the disabled ones, and its two host links go down. -/
theorem State.edgeDieLost_fails (s : State) (first : Nat) (a b : Link) :
    (s.edgeDieLost first a b).domains = s.domains ∧
    (∀ p, first ≤ p → p < first + 8 → (s.port p).st ≠ .disabled → ((s.edgeDieLost first a b).port p).st = .failed) ∧
    ∀ l, l = a ∨ l = b → ((s.edgeDieLost first a b).link l).trained = false := by
  have hkeeps := State.domainsAndPorts_edgeDieLost s first a b
  refine ⟨?_, fun p hlo hhi hup => ?_, fun l hl => ?_⟩
  · exact (State.domain_of_domainsAndPorts hkeeps).trans (State.portsFail_domains s _)
  · exact (State.portSt_of_domainsAndPorts hkeeps p).trans (State.portsFail_fails hup (.inl (mem_upFrom.2 ⟨hlo, hhi⟩)))
  · rw [State.edgeDieLost_eq]
    exact State.link_linkDown _ b l (hl.symm.imp_right fun ha => State.link_linkDown _ a l (.inl ha))

/-! ### Monitors (07, R180, R181) -/

/-- The jitter alarm of a domain is latched, reported, counted, and an input of its canary. -/
def State.alarmsJitter (s : State) (d : Nat) : State :=
  (((s.updDomain d fun x => { x with jitAlm := true }).platform .clockAlarm d).count .jitAlarm (.die 6) none).canInput (canDomain d) 2 1

/-- So is the duty alarm. -/
def State.alarmsDuty (s : State) (d : Nat) : State :=
  (((s.updDomain d fun x => { x with dutyAlm := true }).platform .clockAlarm (256 + d)).count .dutyAlarm (.die 6) none).canInput (canDomain d) 3 1

/-- Periods of a window outside the bins that CLK_MON_CFG accepts. -/
def State.periodsOutside (s : State) (d : Dom) (ps : List (Fin 32 × Nat)) : Nat := outsideBins (rf (cfg s .clkMonCfg d.val 0) 10 6) (rf (cfg s .clkMonCfg d.val 0) 15 11) ps

/-- How many of them it tolerates. -/
def State.jitterLimit (s : State) (d : Dom) : Nat := rf (cfg s .clkMonCfg d.val 0) 31 16

/-- The duty lies outside the domain's bounds. -/
def State.dutyOutside (s : State) (d : Dom) (x : BitVec 8) : Prop := x.toNat < rf (cfg s .clkDutyCfg d.val 0) 7 0 ∨ rf (cfg s .clkDutyCfg d.val 0) 15 8 < x.toNat

/-- The periods of a window, by bin, are added to a histogram whose bins saturate. -/
def addPeriods (h : Tab Nat) (ps : List (Fin 32 × Nat)) : Tab Nat :=
  ps.foldl (fun h bp => Tab.write 0 h bp.1.val (Nat.min (2 ^ 32 - 1) (Tab.get 0 h bp.1.val + bp.2))) h

section
variable {s : State} {d : Dom}

theorem exec_jitterWindow_lost (h : (s.domain d.val).lost = true) (ps : List (Fin 32 × Nat)) : exec (.jitterWindow d ps) s = .next s := if_pos h

theorem exec_dutyWindow_lost (h : (s.domain d.val).lost = true) (x : BitVec 8) : exec (.dutyWindow d x) s = .next s := if_pos h

variable (h : (s.domain d.val).lost = false)
include h

theorem exec_jitterWindow_within {ps : List (Fin 32 × Nat)} (hin : s.periodsOutside d ps ≤ s.jitterLimit d) :
    exec (.jitterWindow d ps) s = .next (s.updDomain d.val fun x => { x with hist := addPeriods (s.domain d.val).hist ps }) :=
  (if_neg (by simp [h])).trans (congrArg Host.Outcome.next (if_neg (Nat.not_lt.2 hin)))

theorem exec_jitterWindow_beyond {ps : List (Fin 32 × Nat)} (hout : s.jitterLimit d < s.periodsOutside d ps) :
    exec (.jitterWindow d ps) s = .next ((s.updDomain d.val fun x => { x with hist := addPeriods (s.domain d.val).hist ps }).alarmsJitter d.val) :=
  (if_neg (by simp [h])).trans (congrArg Host.Outcome.next (if_pos hout))

theorem exec_dutyWindow_within {x : BitVec 8} (hin : ¬ s.dutyOutside d x) :
    exec (.dutyWindow d x) s = .next (s.updDomain d.val fun y => { y with duty := x.toNat }) :=
  (if_neg (by simp [h])).trans (congrArg Host.Outcome.next (if_neg hin))

theorem exec_dutyWindow_beyond {x : BitVec 8} (hout : s.dutyOutside d x) :
    exec (.dutyWindow d x) s = .next ((s.updDomain d.val fun y => { y with duty := x.toNat }).alarmsDuty d.val) :=
  (if_neg (by simp [h])).trans (congrArg Host.Outcome.next (if_pos hout))

end

theorem State.alarmsJitter_domains (s : State) (d : Nat) : (s.alarmsJitter d).domains = (s.updDomain d fun x => { x with jitAlm := true }).domains := State.platform_domains _ _ _
theorem State.alarmsDuty_domains (s : State) (d : Nat) : (s.alarmsDuty d).domains = (s.updDomain d fun x => { x with dutyAlm := true }).domains := State.platform_domains _ _ _
theorem State.alarmsJitter_parts (s : State) (d : Nat) : (s.alarmsJitter d).parts = s.parts := State.platform_parts _ _ _
theorem State.alarmsDuty_parts (s : State) (d : Nat) : (s.alarmsDuty d).parts = s.parts := State.platform_parts _ _ _
theorem State.alarmsJitter_regs (s : State) (d : Nat) : (s.alarmsJitter d).regs = s.regs := State.platform_regs _ _ _
theorem State.alarmsDuty_regs (s : State) (d : Nat) : (s.alarmsDuty d).regs = s.regs := State.platform_regs _ _ _

theorem State.domain_alarmsJitter_same (s : State) (d : Nat) : (s.alarmsJitter d).domain d = { s.domain d with jitAlm := true } := by
  rw [State.domain, State.alarmsJitter_domains]
  exact s.domain_updDomain_same d _

theorem State.domain_alarmsJitter_other (s : State) {d e : Nat} (h : e ≠ d) : (s.alarmsJitter d).domain e = s.domain e := by
  rw [State.domain, State.alarmsJitter_domains]
  exact s.domain_updDomain_other _ h

theorem State.domain_alarmsDuty_same (s : State) (d : Nat) : (s.alarmsDuty d).domain d = { s.domain d with dutyAlm := true } := by
  rw [State.domain, State.alarmsDuty_domains]
  exact s.domain_updDomain_same d _

theorem State.domain_alarmsDuty_other (s : State) {d e : Nat} (h : e ≠ d) : (s.alarmsDuty d).domain e = s.domain e := by
  rw [State.domain, State.alarmsDuty_domains]
  exact s.domain_updDomain_other _ h

/-- Of one bin's periods, all or none lie outside the accepted bins. -/
theorem outsideBins_singleton (lo hi : Nat) (b : Fin 32) (k : Nat) : outsideBins lo hi [(b, k)] = if b.val < lo ∨ hi < b.val then k else 0 := by
  by_cases hb : b.val < lo ∨ hi < b.val <;> simp [outsideBins, hb]

/-! ### Oscillators, crossings and cluster clocks (07, R162, R173-R178) -/

theorem coreOfIx_ix (c : CoreId) : coreOfIx c.ix = c := by
  have hd := c.die.isLt
  have hk := c.clu.isLt
  have hc := c.core.isLt
  refine coreIx_inj ?_
  simp only [CoreId.ix, coreOfIx]
  omega

/-- The segment in progress of a listed core of the region loses the time, and no other core is touched. -/
theorem State.find_stretchCores (s : State) (r ps : Nat) (c : CoreId) :
    Tab.find (s.stretchCores r ps).cores c.ix = (Tab.find s.cores c.ix).map fun k => if regionOf c = r ∧ k.segOpen then k.addLost 1 ps else k := by
  have hvalues : (s.stretchCores r ps).cores = s.cores.map fun e => (e.1, if regionOf (coreOfIx e.1) = r ∧ e.2.segOpen then e.2.addLost 1 ps else e.2) :=
    List.map_congr_left fun e _ => by split <;> rfl
  rw [hvalues, Tab.find_map s.cores fun i k => if regionOf (coreOfIx i) = r ∧ k.segOpen then k.addLost 1 ps else k, coreOfIx_ix]

theorem State.core_stretchCores_listed {s : State} {r : Nat} (ps : Nat) {c : CoreId} {k : Core} (hc : regionOf c = r) (hk : Tab.find s.cores c.ix = some k) :
    (s.stretchCores r ps).core c = if k.segOpen then k.addLost 1 ps else k := by
  simp [State.core, Tab.get, State.find_stretchCores, hc, hk]

theorem State.core_stretchCores_other (s : State) {r : Nat} (ps : Nat) {c : CoreId} (hc : regionOf c ≠ r) : (s.stretchCores r ps).core c = s.core c := by
  simp [State.core, Tab.get, State.find_stretchCores, hc]

/-- What a region counts of the cycles that stretched (07, R175). -/
def Region.adds (x : Region) (r : StretchReport) : Region :=
  { x with lostMilli := x.lostMilli + r.extraMilli, stretched := x.stretched + r.stretched, extraPs := x.extraPs + r.extraPs, code4 := x.code4 + r.code4 }

def State.stretches (s : State) (n : Nat) (r : StretchReport) : State := s.updRegion n fun x => x.adds r

/-- The region counts, its cores lose the time, and otherwise the counters and the accumulators alone change. -/
theorem exec_oscTrimWindow (s : State) (die : Die) (b : Bool) (r : StretchReport) : ∃ ev cs ca, exec (.oscTrimWindow die b r) s =
    .next (State.stretchCores { s.stretches (2 * die.val + b2n b) r with events := ev, counts := cs, canAcc := ca } (2 * die.val + b2n b) r.extraPs) :=
  ⟨_, _, _, rfl⟩

theorem exec_crossingRecentre_none {x : Nat} (h : 26 ≤ x) (s : State) : exec (.crossingRecentre x) s = .next s := congrArg Host.Outcome.next (if_neg (Nat.not_lt.2 h))

/-- The crossing goes back to distance 8, and what counts it changes the counters and the accumulators alone. -/
theorem exec_crossingRecentre_centres {x : Nat} (h : x < 26) (s : State) : ∃ t, exec (.crossingRecentre x) s = .next t ∧
    t = { s.updCrossing x fun y => { y with distance := 8000, recentres := y.recentres + 1 } with events := t.events, counts := t.counts, canAcc := t.canAcc } := by
  refine ⟨_, congrArg Host.Outcome.next (if_pos h), ?_⟩
  dsimp only
  split <;> rfl

/-- The cluster that starts now, with its base charge. -/
def State.clusterStarts (s : State) (k : Nat) : State :=
  { s with clusters := Tab.put s.clusters k (), cluStart := s.cluStart.filter fun j => j ≠ k, lastCluStart := some s.now, lampRoom := Tab.put s.lampRoom (k / 11) (s.drawn (k / 11) + 8) }

theorem exec_clusterStart_starts {s : State} {k : Clu} (hwaits : k.val ∈ s.cluStart) (hready : ∀ t, s.lastCluStart = some t → t + 100 ≤ s.now) :
    exec (.clusterStart k) s = .next (s.clusterStarts k.val) := by
  refine congrArg Host.Outcome.next (if_pos ⟨by simpa using hwaits, ?_⟩)
  split
  next t ht => exact decide_eq_true (hready t ht)
  next => rfl

/-! ### CLOCK_LOSS by what runs on the domain -/

/-- The loss of HF asserts ALARM#: it goes out where it was not asserted before. -/
theorem State.headframeStops_alarm (s : State) {d : Nat} (h : d = 1) : (s.losesClock d).headframeStops.alarm = true := by
  subst h
  obtain ⟨hlost, -, -⟩ := State.clockLost_of_domains (s := s) (t := (s.losesClock 1).headframeStops) rfl
  simp [State.alarm, hlost]

theorem State.alarmEdge_alarm (s : State) (b : Bool) : (s.alarmEdge b).alarm = s.alarm := by
  unfold State.alarmEdge
  split <;> rfl

theorem State.alarmEdge_asserts {s : State} (h : s.alarm = true) : (s.alarmEdge false).outbox = s.outbox ++ [.alarm true] := by
  simp [State.alarmEdge, h]

theorem clockLoss_headframe (s : State) {d : Dom} (die : Fin 8) (h : d.val = 1) : ∃ t, exec (.clockLoss d die) s = .next t ∧ s.clockLost t d.val ∧
    t.hf.e0Up = false ∧ t.hf.e1Up = false ∧ t.parts = s.parts ∧ t.alarm = true ∧ (s.alarm = false → t.outbox = s.outbox ++ [.alarm true]) := by
  have halarm := s.headframeStops_alarm h
  refine ⟨_, exec_clockLoss_headframe s die h, State.clockLost_of_domains (State.alarmEdge_domains _ _), ?_, ?_, State.alarmEdge_parts _ _, (State.alarmEdge_alarm _ _).trans halarm, fun hs => ?_⟩
  · rw [State.alarmEdge_hf]
    rfl
  · rw [State.alarmEdge_hf]
    rfl
  · rw [hs]
    exact State.alarmEdge_asserts halarm

/-- The partitions that run on a domain stop with it. -/
theorem State.clockLost_stops (s : State) (d : Nat) (f : Nat → Bool) (c : Cause) : s.clockLost ((s.losesClock d).faultStopAll (s.partsWith f) c) d ∧
    ∀ n, (s.part n).st = .run ∨ (s.part n).st = .hold → f n = true → (((s.losesClock d).faultStopAll (s.partsWith f) c).part n).st = .faultStop :=
  ⟨State.clockLost_of_domains (State.domain_of_domainsAndPorts (State.domainsAndPorts_faultStopAll _ _ _)), fun _ hst hf => State.faultStopAll_stops (s := s.losesClock d) (State.mem_partsWith hst hf) hst c⟩

theorem clockLoss_edge (s : State) {d : Dom} (die : Fin 8) (h : 14 ≤ d.val) : ∃ t, exec (.clockLoss d die) s = .next t ∧ s.clockLost t d.val ∧
    (∀ p, p / 8 = (d.val - 14) / 2 → (s.port p).st ≠ .disabled → (t.port p).st = .failed) ∧ ∀ l : Link, l.ix / 2 = (d.val - 14) / 2 → (t.link l).trained = false := by
  have hd := d.isLt
  by_cases h16 : d.val < 16
  · obtain ⟨hdom, hports, hlinks⟩ := (s.losesClock d.val).edgeDieLost_fails 0 .h0a .h0b
    refine ⟨_, (exec_clockLoss_edge s die h).trans (by rw [if_pos h16]), State.clockLost_of_domains hdom, fun p hp => hports p (by omega) (by omega), fun l hl => hlinks l ?_⟩
    cases l <;> simp [Link.ix] at hl ⊢ <;> omega
  · obtain ⟨hdom, hports, hlinks⟩ := (s.losesClock d.val).edgeDieLost_fails 8 .h1a .h1b
    refine ⟨_, (exec_clockLoss_edge s die h).trans (by rw [if_neg h16]), State.clockLost_of_domains hdom, fun p hp => hports p (by omega) (by omega), fun l hl => hlinks l ?_⟩
    cases l <;> simp [Link.ix] at hl ⊢ <;> omega

/-- What a lost clock does, by the domain: KT, HF, a region, or an edge die's. -/
theorem clockLoss_effect (s : State) (d : Dom) (die : Fin 8) : ∃ t, exec (.clockLoss d die) s = .next t ∧ s.clockLost t d.val ∧
    (d.val = 0 → die.val < 6 → ∀ n, (s.part n).st = .run ∨ (s.part n).st = .hold → s.onDie n die.val = true → (t.part n).st = .faultStop) ∧
    (d.val = 1 → t.hf.e0Up = false ∧ t.hf.e1Up = false ∧ t.parts = s.parts ∧ t.alarm = true ∧ (s.alarm = false → t.outbox = s.outbox ++ [.alarm true])) ∧
    (2 ≤ d.val → d.val < 14 → ∀ n, (s.part n).st = .run ∨ (s.part n).st = .hold → s.inRegion n (d.val - 2) = true → (t.part n).st = .faultStop) ∧
    (14 ≤ d.val → (∀ p, p / 8 = (d.val - 14) / 2 → (s.port p).st ≠ .disabled → (t.port p).st = .failed) ∧ ∀ l : Link, l.ix / 2 = (d.val - 14) / 2 → (t.link l).trained = false) := by
  obtain h0 | h1 | ⟨h2, h14⟩ | h14 : d.val = 0 ∨ d.val = 1 ∨ (2 ≤ d.val ∧ d.val < 14) ∨ 14 ≤ d.val := by omega
  · obtain ⟨hlost, hstops⟩ := s.clockLost_stops d.val (fun n => decide (die.val < 6) && s.onDie n die.val) { code := cCLOCKLOSS, item := d.val, die := die.val }
    exact ⟨_, exec_clockLoss_trunk s die h0, hlost, fun _ h6 n hst hon => hstops n hst (by simp [h6, hon]), by omega, by omega, by omega⟩
  · obtain ⟨t, ht, hlost, hstops⟩ := clockLoss_headframe s die h1
    exact ⟨t, ht, hlost, by omega, fun _ => hstops, by omega, by omega⟩
  · obtain ⟨hlost, hstops⟩ := s.clockLost_stops d.val (fun n => s.inRegion n (d.val - 2)) { code := cCLOCKLOSS, item := d.val, die := (d.val - 2) / 2 }
    exact ⟨_, exec_clockLoss_region s die h2 h14, hlost, by omega, by omega, fun _ _ => hstops, by omega⟩
  · obtain ⟨t, ht, hlost, hfails⟩ := clockLoss_edge s die h14
    exact ⟨t, ht, hlost, by omega, by omega, by omega, fun _ => hfails⟩

/-! ### The other rows -/

theorem exec_regionUndervoltage (s : State) (die : Die) (b : Bool) : exec (.regionUndervoltage die b) s =
    .next ((s.platform .undervoltage (2 * die.val + b2n b)).faultStopAll (s.partsWith fun n => s.inRegion n (2 * die.val + b2n b)) { code := cUNDERVOLT, die := die.val, item := b2n b }) := by
  have hnamed (k : EventKind) (r : Nat) : ((s.platform k r).partsWith fun n => (s.platform k r).inRegion n r) = s.partsWith fun n => s.inRegion n r := by
    rw [State.platform_frame]
    rfl
  exact congrArg (fun ns => Host.Outcome.next (State.faultStopAll _ ns _)) (hnamed _ _)

/-- A sag that lasts stops the partitions of its region. -/
theorem regionUndervoltage_stops {s : State} {die : Die} {b : Bool} {n : Nat} (hst : (s.part n).st = .run ∨ (s.part n).st = .hold) (hin : s.inRegion n (2 * die.val + b2n b) = true) :
    ∃ t, exec (.regionUndervoltage die b) s = .next t ∧ (t.part n).st = .faultStop ∧ t.hbm = s.hbm ∧ t.flash = s.flash ∧ t.regs = s.regs := by
  obtain ⟨hregs, hhbm, -, -, hflash, -⟩ := State.stopTouch_keeps ((s.platform .undervoltage (2 * die.val + b2n b)).faultStopAll_touch
    (s.partsWith fun n => s.inRegion n (2 * die.val + b2n b)) { code := cUNDERVOLT, die := die.val, item := b2n b })
  exact ⟨_, exec_regionUndervoltage s die b, State.faultStopAll_stops (State.mem_partsWith hst hin) (by rwa [State.platform_part]) _, hhbm.trans (State.platform_hbm s _ _),
    hflash.trans (State.platform_flash s _ _), hregs.trans (State.platform_regs s _ _)⟩

section
variable {s : State} {d : Dom} (h : (s.domain d.val).lost = false)
include h

/-- A window of periods: its histogram, and the alarm where too many lie outside the accepted bins. -/
theorem jitterWindow_effect (ps : List (Fin 32 × Nat)) : ∃ t, exec (.jitterWindow d ps) s = .next t ∧ (t.domain d.val).hist = addPeriods (s.domain d.val).hist ps ∧
    (t.domain d.val).lost = false ∧ (∀ e, e ≠ d.val → t.domain e = s.domain e) ∧ t.parts = s.parts ∧ t.regs = s.regs ∧
    (s.periodsOutside d ps ≤ s.jitterLimit d → t = { s with domains := t.domains }) ∧
    (s.jitterLimit d < s.periodsOutside d ps → (t.domain d.val).jitAlm = true) := by
  rcases Nat.lt_or_ge (s.jitterLimit d) (s.periodsOutside d ps) with hout | hin
  · refine ⟨_, exec_jitterWindow_beyond h hout, ?_, ?_, fun e he => ?_, State.alarmsJitter_parts _ _, State.alarmsJitter_regs _ _, fun hin => absurd hout (Nat.not_lt.2 hin), fun _ => ?_⟩
    · rw [State.domain_alarmsJitter_same, State.domain_updDomain_same]
    · rw [State.domain_alarmsJitter_same, State.domain_updDomain_same]
      exact h
    · rw [State.domain_alarmsJitter_other _ he, State.domain_updDomain_other _ _ he]
    · rw [State.domain_alarmsJitter_same]
  · refine ⟨_, exec_jitterWindow_within h hin, ?_, ?_, fun e he => State.domain_updDomain_other _ _ he, rfl, rfl, fun _ => rfl, fun hout => absurd hout (Nat.not_lt.2 hin)⟩
    · rw [State.domain_updDomain_same]
    · rw [State.domain_updDomain_same]
      exact h

/-- A window with a measured duty, and the alarm where it lies outside its bounds. -/
theorem dutyWindow_effect (x : BitVec 8) : ∃ t, exec (.dutyWindow d x) s = .next t ∧ (t.domain d.val).duty = x.toNat ∧ (∀ e, e ≠ d.val → t.domain e = s.domain e) ∧
    (¬ s.dutyOutside d x → t = { s with domains := t.domains } ∧ (t.domain d.val).dutyAlm = (s.domain d.val).dutyAlm) ∧
    (s.dutyOutside d x → (t.domain d.val).dutyAlm = true) ∧ t.parts = s.parts ∧ t.regs = s.regs := by
  by_cases hout : s.dutyOutside d x
  · refine ⟨_, exec_dutyWindow_beyond h hout, ?_, fun e he => ?_, absurd hout, fun _ => ?_, State.alarmsDuty_parts _ _, State.alarmsDuty_regs _ _⟩
    · rw [State.domain_alarmsDuty_same, State.domain_updDomain_same]
    · rw [State.domain_alarmsDuty_other _ he, State.domain_updDomain_other _ _ he]
    · rw [State.domain_alarmsDuty_same]
  · refine ⟨_, exec_dutyWindow_within h hout, ?_, fun e he => State.domain_updDomain_other _ _ he, fun _ => ⟨rfl, ?_⟩, fun hout' => absurd hout' hout, rfl, rfl⟩
    all_goals rw [State.domain_updDomain_same]

/-- One bin's periods are added to its bin. -/
theorem jitterWindow_bin (hwf : Tab.rising none (s.domain d.val).hist = true) (bin : Fin 32) (k : Nat) :
    ∃ t, exec (.jitterWindow d [(bin, k)]) s = .next t ∧ Tab.get 0 (t.domain d.val).hist bin.val = Nat.min (2 ^ 32 - 1) (Tab.get 0 (s.domain d.val).hist bin.val + k) ∧
      (∀ j, j ≠ bin.val → Tab.get 0 (t.domain d.val).hist j = Tab.get 0 (s.domain d.val).hist j) ∧ (∀ e, e ≠ d.val → t.domain e = s.domain e) ∧
      ((rf (cfg s .clkMonCfg d.val 0) 10 6 ≤ bin.val ∧ bin.val ≤ rf (cfg s .clkMonCfg d.val 0) 15 11) ∨ k ≤ rf (cfg s .clkMonCfg d.val 0) 31 16 → t = { s with domains := t.domains }) ∧
      ((bin.val < rf (cfg s .clkMonCfg d.val 0) 10 6 ∨ rf (cfg s .clkMonCfg d.val 0) 15 11 < bin.val) → rf (cfg s .clkMonCfg d.val 0) 31 16 < k → (t.domain d.val).jitAlm = true) ∧
      t.parts = s.parts ∧ t.regs = s.regs := by
  obtain ⟨t, ht, hhist, -, hother, hparts, hregs, hwithin, hbeyond⟩ := jitterWindow_effect h [(bin, k)]
  rw [State.periodsOutside, State.jitterLimit, outsideBins_singleton] at hwithin hbeyond
  refine ⟨t, ht, ?_, fun j hj => ?_, hother, fun hin => hwithin ?_, fun hout hk => hbeyond (by rwa [if_pos hout]), hparts, hregs⟩
  · rw [hhist]
    exact Tab.get_write_same 0 hwf _ _
  · rw [hhist]
    exact Tab.get_write_other 0 _ _ hj
  · split
    · omega
    · exact Nat.zero_le _

end

/-- The region counts what it stretched, and the segments in progress on its listed cores lose the time. -/
theorem oscTrimWindow_effect (s : State) (die : Die) (b : Bool) (r : StretchReport) {n : Nat} (hn : n = 2 * die.val + b2n b) : ∃ t, exec (.oscTrimWindow die b r) s = .next t ∧
    (t.region n).stretched = (s.region n).stretched + r.stretched ∧
    (t.region n).extraPs = (s.region n).extraPs + r.extraPs ∧ (t.region n).code4 = (s.region n).code4 + r.code4 ∧ (t.region n).lostMilli = (s.region n).lostMilli + r.extraMilli ∧
    (∀ (c : CoreId) k, regionOf c = n → Tab.find s.cores c.ix = some k → t.core c = if k.segOpen then k.addLost 1 r.extraPs else k) ∧
    (∀ m, m ≠ n → t.region m = s.region m) ∧ (∀ c : CoreId, regionOf c ≠ n → t.core c = s.core c) ∧
    t = { s with regions := t.regions, cores := t.cores, events := t.events, counts := t.counts, canAcc := t.canAcc } := by
  subst hn
  obtain ⟨ev, cs, ca, hexec⟩ := exec_oscTrimWindow s die b r
  have hsame : (s.stretches (2 * die.val + b2n b) r).region (2 * die.val + b2n b) = (s.region (2 * die.val + b2n b)).adds r := s.region_updRegion_same _ _
  refine ⟨_, hexec, congrArg Region.stretched hsame, congrArg Region.extraPs hsame, congrArg Region.code4 hsame, congrArg Region.lostMilli hsame,
    fun c k hc hk => State.core_stretchCores_listed r.extraPs hc hk, fun m hm => s.region_updRegion_other (fun x => x.adds r) hm, fun c hc => State.core_stretchCores_other _ r.extraPs hc, rfl⟩

/-- Settles O57: each row by what follows it, a lost clock by what runs on its domain. -/
theorem clockDomains : Obligations.ClockDomains := by
  refine ⟨fun s => ⟨fun d die => ?_, fun die b n => regionUndervoltage_stops, fun d bin k hlost hwf => jitterWindow_bin hlost hwf bin k, fun d ps hlost => ?_,
    fun d ps x hlost => ⟨exec_jitterWindow_lost hlost ps, exec_dutyWindow_lost hlost x⟩, fun d x hlost => ?_⟩,
    fun s => ⟨fun die b r n => oscTrimWindow_effect s die b r, fun x hx => ?_, fun x hx => exec_crossingRecentre_none hx s, fun k hwaits hready => ?_⟩⟩
  · obtain ⟨t, ht, ⟨hlost, hbit, hother⟩, hstops⟩ := clockLoss_effect s d die
    exact ⟨t, ht, hlost, hbit, hother, hstops⟩
  · obtain ⟨t, ht, -, hkept, hother, -, -, hwithin, hbeyond⟩ := jitterWindow_effect hlost ps
    exact ⟨t, ht, hother, hkept, hwithin, hbeyond⟩
  · obtain ⟨t, ht, hduty, hother, hwithin, hbeyond, hkept⟩ := dutyWindow_effect hlost x
    exact ⟨t, ht, hduty, hother, fun hlo hhi => hwithin fun hout => hout.elim (Nat.not_lt.2 hlo) (Nat.not_lt.2 hhi), hbeyond, hkept⟩
  · obtain ⟨t, ht, heq⟩ := exec_crossingRecentre_centres hx s
    have hat (y : Nat) : t.crossing y = (s.updCrossing x fun y => { y with distance := 8000, recentres := y.recentres + 1 }).crossing y := by rw [heq]; rfl
    exact ⟨t, ht, (hat x).trans (s.crossing_updCrossing_same x _), fun y hy => (hat y).trans (s.crossing_updCrossing_other _ hy), by rw [heq]; rfl⟩
  · exact ⟨_, exec_clusterStart_starts hwaits hready, Tab.find_put_same .., rfl, rfl, Tab.get_put_same .., fun d hd => Tab.get_put_other _ _ _ hd, rfl⟩

end Sys2Proof.Machine
end
